-- ==== Sys2Proof/Word.lean ====
section
/-! DEFINITION. Word.lean: the word types of the module and the identifier types of Table 00-5 (R20, R21). -/
namespace Sys2Proof

/-- One byte of memory or of a structure (R11). -/
abbrev Byte := BitVec 8
/-- One 32-bit register word (R14). -/
abbrev Word := BitVec 32

/-- Compute die CD0 to CD3 (R20). -/
abbrev Die := Fin 4
/-- Physical array A00 to A17 of a die (R20). -/
abbrev ArrayIx := Fin 18
/-- Array role 0 to 15 of a die (R24). -/
abbrev Role := Fin 16
/-- Partition PT0 to PT15 (R20). -/
abbrev Pt := Fin 16
/-- Ethernet port P00 to P23 (R20). -/
abbrev Port := Fin 24
/-- Submission or completion queue number of a queue window (R341). -/
abbrev QueueIx := Fin 8
/-- Sluice engine of a die (R23). -/
abbrev Engine := Fin 2
/-- Lockstep pair of the Fountainer (R460). -/
abbrev Pair := Fin 2

end Sys2Proof
end

