-- ==== Sys2Proof/Syntax.lean ====
section
/-! DEFINITION. Syntax.lean: the commands of the block, one constructor of Instr per row of spec/opcode_table.json, and the
data a command carries in from outside (host messages, packets, sensor readings, physical outcomes). -/
namespace Sys2Proof

/-- Cause of a refused register access (Table 01-17). -/
inductive AccCause where
  | roWrite | locked | noPresence | unmapped | badKey | resetting | noPartition | notReady
deriving DecidableEq, Repr

/-- Which residue comparison reports a mismatch (Table 02-13, Table 13-6 CHECK). -/
inductive Check where
  | main | side | mult
deriving DecidableEq, Repr

/-- A silent error that a drain's residue comparison reports at one row of the draining column (R77, R79). -/
structure PeHit where
  row : Fin 256
  check : Check
deriving DecidableEq, Repr

/-- A QWT packet as it stands on the wire (R305, R306), its IPv6 and UDP facts beside the eight header words' fields. -/
structure Packet where
  srcAddr : BitVec 128
  dstAddr : BitVec 128
  hopLimit : Nat
  flowLabel : BitVec 20
  dscp : Nat
  ce : Bool
  checksumOk : Bool
  ver : Nat
  typ : Nat
  prov : Bool
  ece : Bool
  first : Bool
  last : Bool
  isOpen : Bool
  retx : Bool
  tag : Word
  flowId : Word
  psn : Word
  word4 : Word
  word5 : Word
  word6 : Word
  cls : Nat
  nackCode : Nat
  payload : List Byte
deriving DecidableEq, Repr

/-- A frame that arrives on a port (R286, R299): its EtherType behind the number of 802.1Q tags, and the fields of the IPv6 packet in it, whose
payload is everything behind the 40 bytes of its header. -/
structure IpPacket where
  etherType : Nat
  vlans : Nat
  trafficClass : Nat
  flowLabel : BitVec 20
  nextHeader : Nat
  hopLimit : Nat
  srcAddr : BitVec 128
  dstAddr : BitVec 128
  payload : List Byte
deriving DecidableEq, Repr

/-- How a port training stage ends (R290, R291): it passes with the bitmaps read so far, or it times out. -/
inductive StageEnd where
  | pass (ownGood partnerGood : BitVec 10) (partnerFrames : Bool) (partnerSplit : Bool)
  | timeout
deriving DecidableEq, Repr

/-- How a Rill training stage ends (R321, R322): good lanes at both ends, or failure. -/
inductive RillStageEnd where
  | pass (good : BitVec 8)
  | fail
deriving DecidableEq, Repr

/-- A received Rill flit (Table 12-2), less its payload, whose messages are commands of their own. -/
structure Flit where
  fseq : BitVec 12
  ackseq : BitVec 12
  nak : Bool
  crcOk : Bool
  credReq : BitVec 16
  credCpl : BitVec 16
deriving DecidableEq, Repr

/-- A received Rill message header (Table 12-3). -/
structure MsgHeader where
  mt : BitVec 4
  status : BitVec 4
  dlen : Nat
  tag : BitVec 16
  count : Nat
  addr : BitVec 64
deriving DecidableEq, Repr

/-- A block whose energy the estimator attributes (Table 17-9): the array, Basin words and Jet unit of an array; a pool; an HBM channel; a
half of a port; a Sluice engine (2 × die + engine); a Cascade sequencer; the reduction slots; host DMA; the leakage of a die; the rest. -/
inductive EnergyBlock where
  | array (die : Die) (arr : ArrayIx)
  | pool (die : Die) (pool : Fin 64)
  | hbm (channel : Fin 384)
  | port (port : Port) (half : Bool)
  | engine (n : Fin 8)
  | sequencer (n : Fin 8)
  | slots
  | hostDma
  | leakage (die : Die)
  | rest
deriving DecidableEq, Repr

/-- A ring of a queue window or of a block: SQ n, CQ n or EQ of a partition, the MEQ, the error ring (R331, R363). -/
inductive RingId where
  | sq (pt : Pt) (n : QueueIx)
  | cq (pt : Pt) (n : QueueIx)
  | eq (pt : Pt)
  | meq
  | faultRing
deriving DecidableEq, Repr

/-- One word or sector that a read found in error (R343, R344): its index, and whether it was corrected (with the bit or
symbol), uncorrectable, or an address error with the decoded sector. -/
inductive MemError where
  | corrected (index : Nat) (position : Nat)
  | uncorrectable (index : Nat)
  | address (index decoded : Nat)
deriving DecidableEq, Repr

/-- How a memory test row or array test turned out during bring-up (R419 to R421). -/
structure BringupFindings where
  /-- B3: the journal can be mounted, and the pages (by PAGE_SEQ) both of whose copies are uncorrectable. -/
  journalOk : Bool
  journalLost : List Nat
  /-- B4: the copy of the candidate under trial is intact (its NOR read passes). -/
  imageOk : Bool
  /-- B6: arrays (18 × die + array) whose structural test failed. -/
  arraysFailed : List Nat
  /-- B7: failing pool rows as (pool index 64 × die + pool, row). -/
  poolRows : List (Nat × Nat)
  /-- B7: failing HBM rows as (64 × stack + 2 × channel + pseudo-channel, row). -/
  hbmRows : List (Nat × Nat)
  /-- B7: channels (32 × stack + channel) whose PHY failed to train. -/
  phyFailed : List Nat
deriving DecidableEq, Repr

/-- Which of the two domains of a die a droop detector watches (R443). -/
inductive Rail where
  | vca | vcf
deriving DecidableEq, Repr

/-- Operand fields of a Jet instruction (Table 08-8 codes). -/
abbrev JOp := BitVec 6

/-- The commands. Names follow spec/opcode_table.json; LAWS.json maps each to its row. -/
inductive Instr where
  -- register access (R16 to R18, R50)
  | registerWrite (off : Nat) (val : Word)
  | rcRead (off : Nat)
  | pairLowRead (off : Nat)
  | pairLowWrite (off : Nat) (val : Word)
  | pairHighWrite (off : Nat) (val : Word)
  | accerrClear (refusedSameCycle : List (Nat × AccCause))
  -- resets (R42 to R45, R49)
  | partitionReset (key : Byte) (ptmask : BitVec 16)
  | computeReset (key : Byte)
  | moduleReset (key : Byte)
  | scrubComplete (compute : Bool) (pt : Pt)
  -- scheduler and Basin (R187, R188, R61 to R75, R146)
  | taskChoose (die : Die)
  | fusedFillComplete (die : Die) (eng : Engine)
  | columnDrain (die : Die) (arr : ArrayIx) (hits : List PeHit)
  | tileRepeat (die : Die) (arr : ArrayIx)
  | basinStallEnd (die : Die) (arr : ArrayIx)
  -- rounds and updates (R197, R102, R198, R224)
  | settleRoundStart (pt : Pt)
  | settleRoundComplete (pt : Pt)
  | rungReturn (pt : Pt) (tensor : Nat)
  | updateStart (pt : Pt) (layerId : Nat)
  | statisticsComplete (pt : Pt) (layerId : Nat)
  -- Jet instructions (R211, R223, R225); hits are lanes whose residue check mismatches (R229)
  | nop (die : Die) (arr : ArrayIx)
  | add (die : Die) (arr : ArrayIx) (dst : Fin 8) (a b : JOp) (hits : List (Fin 256))
  | sub (die : Die) (arr : ArrayIx) (dst : Fin 8) (a b : JOp) (hits : List (Fin 256))
  | mul (die : Die) (arr : ArrayIx) (dst : Fin 8) (a b : JOp) (hits : List (Fin 256))
  | max (die : Die) (arr : ArrayIx) (dst : Fin 8) (a b : JOp) (hits : List (Fin 256))
  | abs (die : Die) (arr : ArrayIx) (dst : Fin 8) (a : JOp) (hits : List (Fin 256))
  | sign (die : Die) (arr : ArrayIx) (dst : Fin 8) (a : JOp) (hits : List (Fin 256))
  | rsqrt (die : Die) (arr : ArrayIx) (dst : Fin 8) (a : JOp) (hits : List (Fin 256))
  | select (die : Die) (arr : ArrayIx) (dst : Fin 8) (a b c : JOp) (hits : List (Fin 256))
  | scale (die : Die) (arr : ArrayIx) (dst : Fin 8) (a : JOp) (imm : BitVec 6) (hits : List (Fin 256))
  | layerReduce (die : Die) (arr : ArrayIx) (tslot : Fin 4) (a : JOp) (rkind : Fin 3) (divn : Bool)
      (elsb : BitVec 8) (hits : List (Fin 256))
  | store (die : Die) (arr : ArrayIx) (target : Fin 3) (a pred : JOp) (round : BitVec 2) (hits : List (Fin 256))
  -- commit, undo, replay (R198, R202, R352)
  | commitRoundStart (pt : Pt)
  | stepCommit (pt : Pt)
  | undoComplete (pt : Pt)
  | replayStart (pt : Pt)
  -- Sluice (R149, R140)
  | sluiceStart (die : Die) (eng : Engine)
  | sluiceComplete (die : Die) (eng : Engine) (residueAt : Option Nat)
  -- Parterre loader (R170 to R181)
  | load (key : Byte)
  | clear (key : Byte)
  | cancel (key : Byte) (pt : Pt)
  | loadFinish
  | bedTakeEffect (pt : Pt)
  | persist
  | eraseDefault
  -- Weir descriptors (R233 to R251); pt and sq name the queue whose turn it is (R236)
  | step (pt : Pt) (sq : QueueIx)
  | seed (pt : Pt) (sq : QueueIx)
  | copy (pt : Pt) (sq : QueueIx)
  | gather (pt : Pt) (sq : QueueIx)
  | scatter (pt : Pt) (sq : QueueIx)
  | scalarSet (pt : Pt) (sq : QueueIx) (hostRecord : List Byte)
  | snapshot (pt : Pt) (sq : QueueIx)
  | dmaIn (pt : Pt) (sq : QueueIx)
  | dmaOut (pt : Pt) (sq : QueueIx)
  | fence (pt : Pt) (sq : QueueIx)
  | promiseExpire (pt : Pt) (admno : Word)
  -- Cascade programs (R259) by the position of the CASCADE record, and the micro-batch under PERMB
  | cascEnd (pt : Pt) (record : Nat)
  | reduceScatter (pt : Pt) (record mb : Nat)
  | allGather (pt : Pt) (record mb : Nat)
  | allReduce (pt : Pt) (record mb : Nat)
  | allToAll (pt : Pt) (record mb : Nat)
  -- Cascade chunks and control messages (R262 to R282, R366): the oldest delivered message is handled
  | sum (residueHit : Bool)
  | sumRepeat (residueHit : Bool)
  | anchor (residueHit : Bool)
  | deficit (residueHit : Bool)
  | dataChunk (residueHit : Bool)
  | scalar (residueHit : Bool)
  | confirm
  | retract
  | recall
  | abandon
  | suspect
  -- groups (R256, R258)
  | groupFormation (slot : Fin 256)
  | groupWaiting (slot : Fin 256)
  | peerTimeout (slot : Fin 256) (position : Word)
  -- QWT and discovery (R305 to R316)
  | data (port : Port) (p : Packet)
  | peerwrite
  | ack (port : Port) (p : Packet)
  | nack (port : Port) (p : Packet)
  | advert (port : Port) (p : Packet)
  | ackTimer (srcAddr : BitVec 128) (flowId : Word)
  | rtoExpire (flowId : Word)
  | idleFlowExpire (srcAddr : BitVec 128) (flowId : Word)
  | pacingRaise (flowId : Word)
  | advertPeriod
  | advertExpire (serial : BitVec 64)
  -- router, neighbours, LLDP (R286, R298 to R302)
  | transitForward (port : Port) (p : IpPacket)
  | pfcFrame (port : Port) (prio : Fin 8) (sCycles : Nat)
  | pauseEnd (port : Port)
  | pauseFrame (port : Port)
  | neighbourSolicitation (port : Port) (srcAddr target : BitVec 128)
  | echoRequest (port : Port) (srcAddr dstAddr : BitVec 128) (body : List Byte)
  | lldpReceive (port : Port) (half : Bool) (tlvs : List Byte)
  | lldpSend (port : Port)
  -- port training (R290 to R296)
  | trainingStage (port : Port) (half : Bool) (result : StageEnd)
  | laneFail (port : Port) (lane : Fin 10)
  | fecWindow (port : Port) (corrected : Vector Nat 10) (uncorrectable : Nat)
  | portRetry (port : Port)
  | retrain (port : Port) (key : Byte)
  | lock (rack : BitVec 11)
  -- Rill link (R321 to R337)
  | flit (f : Flit)
  | regRd (h : MsgHeader)
  | regWr (h : MsgHeader) (words : List Word)
  | memCpl (h : MsgHeader) (data : List Byte)
  | memAck (h : MsgHeader)
  | modTimeExpire (ring : RingId)
  | reset
  | linkrst (key : Byte)
  | linkDown
  /-- cable: whether CBL_PRES_N is low (R482). -/
  | rillTrainingStage (cable : Bool) (result : RillStageEnd)
  | rillRetry
  | cplTimeout (tag : BitVec 16)
  | qwSqDb (pt : Pt) (n : QueueIx) (tail : BitVec 16)
  | qwCqDb (pt : Pt) (n : QueueIx) (head : BitVec 16)
  | qwEqDb (pt : Pt) (head : BitVec 16)
  | rillMeqDb (head : BitVec 16)
  | faultRingDb (head : BitVec 16)
  | queueEnable (ring : RingId) (ctl : Word)
  | windowGrant (w : Fin 64) (ctl : Word)
  | windowRevoke (w : Fin 64) (ctl : Word)
  -- faults (R342 to R367)
  | recordHandle
  | correctedWindowExpire (die block instance_ detail : Nat)
  | suspectWindowExpire (port : Port)
  | poolScrub (die : Die) (pool : Fin 64) (errors : List MemError)
  | hbmScrub (stack : Fin 12) (channel : Fin 32) (errors : List MemError)
  | dielinkFlitError (die : Die) (link : Fin 3) (sends : Fin 9)
  | dielinkRetrainDone (die : Die) (link : Fin 3) (ok : Bool)
  -- Cistern (R373 to R396)
  | journalRecordSubmit (typ : Byte) (body : List Byte)
  | pageProgramDone (plane0Ok plane1Ok : Bool)
  | eraseDone (ok : Bool)
  | checkpoint
  | governorCredit
  | governorBin
  | ledgerHour
  | journalPatrol (page : Nat) (corrected0 corrected1 : Option Nat)
  | compaction
  | defectExpire (resource : BitVec 64)
  | next (key : Byte)
  | restart (key : Byte)
  | clearEntry
  | clearSummary
  | cisternStamp (high : Word)
  | pfwPauseEnd
  -- security (R398 to R409)
  | fwInstall (key : Byte) (arg : Fin 16)
  | fwActivate (key : Byte) (arg : Fin 16)
  | licenceInstall (key : Byte)
  | ownerEnrol (key : Byte)
  | ownerClear (key : Byte)
  | recoveryWrite (key : Byte)
  | fuseProgram (key : Byte)
  | attest (key : Byte) (arg : Fin 16) (ptv : Bool)
  | idkeyOut (key : Byte)
  | close (key : Byte)
  | secCmdComplete (norOk fuseOk : Bool)
  | secSealno (number : Word)
  | buttonPress
  | buttonWindowExpire
  | jumperFit
  | jumperRemove
  | sealBreak
  -- bring-up, in-field test, activation (R413 to R432)
  | inputValid
  | bringupPhaseEnd (found : BringupFindings)
  | firmwareWatchdog
  | forceFull
  | testDue (die : Die) (arr : ArrayIx)
  | testComplete (die : Die) (arr : ArrayIx) (failure : Option (Fin 6 × Nat))
  | testForced (die : Die) (arr : ArrayIx)
  | activationDrainEnd
  | drainTimeout
  | postpone (key : Byte)
  | restBegin
  | restEnd
  | activationComplete
  | activationTimeout
  -- power and clocks (R436 to R456)
  | inputLoss (lowest10mV : Nat)
  | inputReturn
  | holdupExpire
  | overVoltage
  | overvoltageClear
  | railPowerGood (rail : Fin 16)
  | railFault (rail : Fin 16)
  | railRetry
  | pllLockLoss
  | pointChangeDone (die : Die)
  | voltageUpdate
  | droopDetect (die : Die) (rail : Rail)
  | droopRelease (die : Die) (rail : Rail)
  | sensorRead (dies : List (List Int)) (hub : List Int)
  | thermalRestart
  | planningStepDown (die : Die)
  | estimatorWindow (watts : Nat) (inputVolts10mV inputWatts : Nat) (energies : List (EnergyBlock × Nat))
  | measurementWindow (microjoules : Nat)
  | calibration (scales : Vector Nat 11)
  | capControllerPeriod (baseWatts : Nat) (samples : List (Nat × Nat × Nat × Nat))
  | absoluteLimitEngage
  | absoluteLimitRelease
  | leakDetect (active : Bool)
  | coolantOverTemperature (active : Bool)
  | cotHoldExpire
  | powerFailWarning
  | chassisAttention (active : Bool)
  -- inputs, pairs, interrupts, mailboxes (R460 to R474)
  | stormDuration (input : Fin 7)
  | masked (input : Fin 7)
  | strapChange (straps : BitVec 6)
  | lockstepMismatch (pair : Pair)
  | pairWatchdog (pair : Pair)
  | pairRestartDone (pair : Pair)
  | watchdogKick (pair : Pair)
  | intcClaim (pair : Pair)
  | intcEoi (pair : Pair) (source : Byte)
  | disable (value : Bool)
  | info (mailbox : Pair)
  | lldpRead (mailbox : Pair)
  | discRead (mailbox : Pair)
  | routeRecompute (mailbox : Pair)
  | phaseRead (mailbox : Pair)
  -- rows added at the end of the table
  | hostDmaStageStart (pt : Pt) (admno : Word)
  | portEnable (port : Port) (ctl : Word)
  | sealLoopClose
  | powerFailWarningRelease
  | buttonRelease
  | thresholdWrite (pair : Pair) (thresh : Fin 16)
deriving DecidableEq, Repr

end Sys2Proof
end

