-- ==== Sys2Proof/Decode.lean ====
section
/-! DEFINITION. Decode.lean: commands that a word spells. No row of spec/opcode_table.json gives bits: its commands are register accesses,
messages, frames and events, none of which is one word (the encodings of images, descriptors, messages and packets are read where the
commands that carry them act). -/
namespace Sys2Proof

/-- The command a word spells by the table's bits: none, for the table gives bits for no row. -/
def decodeTableWord (_nbits _w : Nat) : Option Instr := none

end Sys2Proof
end

