-- ==== Sys2Proof/Config.lean ====
section
/-! DEFINITION. Config.lean: what the manual leaves to an external standard or does not state. Every constant is opaque: no
proof can see a value of it, so a claim that mentions it holds for every value. -/
namespace Sys2Proof

/-- What the fuse map holds (R419): the manual names the items and gives no layout of fuse rows for them. -/
structure FuseMap where
  serial : Nat
  stepping : Nat
  pkgrev : Nat
  /-- Retired arrays as 18 × die + array. -/
  arrays : List Nat
  /-- Repaired pool rows as (64 × die + pool, row). -/
  poolRows : List (Nat × Nat)
  /-- Repaired HBM rows as (64 × stack + 2 × channel + pseudo-channel, row). -/
  hbmRows : List (Nat × Nat)
  /-- Retired lanes as (port, lane). -/
  lanes : List (Nat × Nat)
  /-- VMIN in mV at 15 × die + 3 × point + corner (R442). -/
  vtab : List Nat
  guard : Nat
  /-- Laser clamp codes at 10 × port + lane (R295). -/
  clamps : List Nat
  rootDigest : List Byte
deriving DecidableEq, Repr, Inhabited

namespace Config

/-- ML-DSA-87 verification (FIPS 204, R405): public key, 64-byte digest, signature. The manual names the standard and does
not give the algorithm. Entry 10. -/
opaque mldsaVerify : List Byte → List Byte → List Byte → Bool

/-- ML-DSA-87 signature of a 64-byte digest by the device identity key (R408, R409). Entry 10. -/
opaque mldsaSign : List Byte → List Byte

/-- The device identity public key derived from the fused seed (R408). Entry 10. -/
opaque identityKey : List Byte

/-- The vendor signature over serial and identity key that IDKEY_OUT returns (R408). Entry 10. -/
opaque identityCert : List Byte

/-- A word the manual does not state, by the counter State.freshIx. Entry 2. -/
opaque freeWord : Nat → Word

/-- The member port the router picks from a set by destination, source and flow label (R299): the choice function is not
stated, only what it depends on. Entry 11. -/
opaque portPick : BitVec 128 → BitVec 128 → BitVec 20 → Nat

/-- MAC address of the next hop on a port for a destination, as neighbour solicitation resolved it (R298): no command brings the answer.
By port and destination. Entry 82. -/
opaque nextHopMac : Nat → BitVec 128 → Nat

/-- Which sensor of its die or of the hub lies nearest to a unit (R355), by BLOCK and INSTANCE: floor plans are not stated.
Entry 13. -/
opaque nearestSensor : Nat → Nat → Nat

/-- What the fuse map reads once FUSE_PROGRAM has set bits of fuse rows (R407, R419): which row holds which item is not
stated. Entry 14. -/
opaque fuseMapOf : List (Nat × Word) → FuseMap → FuseMap

/-- Step number that a Sluice operation's stochastic rounding uses (R96, R140): an operation belongs to no step and the manual names
none. By partition and admission number. Entry 32. -/
opaque opStep : Nat → Nat → Nat

/-- Leakage of a compute die in watts at the conditions of a point (R445 group 8, R452): the coefficients are fused and not stated. By die
and point. Entry 46. -/
opaque leakWatts : Nat → Nat → Nat

/-- Code of a value in INT8, by sign, magnitude and exponent in units of the code (R140): R93 rounds into output formats only, and INT8 is
none. Entry 64. -/
opaque intCode : Bool → Nat → Int → Nat

end Config
end Sys2Proof
end

