-- ==== Sys2Proof/Machine/Bits.lean ====
section
/-! DEFINITION. Bits.lean: bit fields, byte strings of both orders (R10 to R12) and CRC-32C (Table 14-2). -/
namespace Sys2Proof.Machine

/-- Field [hi:lo] of a value (R10). -/
def field (w hi lo : Nat) : Nat := (w >>> lo) % 2 ^ (hi + 1 - lo)

/-- Bit n of a value (R10). -/
def bit (w n : Nat) : Bool := (w >>> n) % 2 == 1

/-- A field value placed at bit lo. -/
def at_ (lo v : Nat) : Nat := v <<< lo

/-- A Bool as 0 or 1. -/
def b2n (b : Bool) : Nat := if b then 1 else 0

/-- Replace field [hi:lo] of a value. -/
def setField (w hi lo v : Nat) : Nat :=
  let n := hi + 1 - lo
  w - (field w hi lo <<< lo) + ((v % 2 ^ n) <<< lo)

/-- The value of a string of bytes, first byte least significant (R11). -/
def leNat : List Byte → Nat
  | [] => 0
  | b :: bs => b.toNat + 256 * leNat bs

/-- n bytes of a value, least significant first (R11). -/
def leBytes : Nat → Nat → List Byte
  | 0, _ => []
  | n + 1, v => BitVec.ofNat 8 v :: leBytes n (v / 256)

/-- n bytes of a value in network order, most significant first (R11). -/
def beBytes (n v : Nat) : List Byte := (leBytes n v).reverse

/-- The value of a string of bytes in network order (R11). -/
def beNat (l : List Byte) : Nat := leNat l.reverse

/-- n bytes of a string from an offset; bytes past the end read as zero. -/
def slice (l : List Byte) (off n : Nat) : List Byte :=
  let t := (l.drop off).take n
  t ++ List.replicate (n - t.length) 0#8

/-- Little-endian unsigned value of n bytes at an offset. -/
def uN (n : Nat) (l : List Byte) (off : Nat) : Nat := leNat (slice l off n)
/-- Byte at an offset. -/
def u8 (l : List Byte) (off : Nat) : Nat := uN 1 l off
/-- 16-bit value at an offset. -/
def u16 (l : List Byte) (off : Nat) : Nat := uN 2 l off
/-- 32-bit value at an offset. -/
def u32 (l : List Byte) (off : Nat) : Nat := uN 4 l off
/-- 48-bit value at an offset. -/
def u48 (l : List Byte) (off : Nat) : Nat := uN 6 l off
/-- 64-bit value at an offset. -/
def u64 (l : List Byte) (off : Nat) : Nat := uN 8 l off

/-- Two's complement reading of the low n bits. -/
def sN (n v : Nat) : Int :=
  let x := v % 2 ^ n
  if x < 2 ^ (n - 1) then (x : Int) else (x : Int) - (2 ^ n : Nat)

/-- Two's complement pattern of an integer in n bits. -/
def toBits (n : Nat) (z : Int) : Nat := (z % (2 ^ n : Nat)).toNat

/-- Replace bytes of a string from an offset on (the string is extended with zeros when it is too short). -/
def splice (l : List Byte) (off : Nat) (bs : List Byte) : List Byte :=
  slice l 0 off ++ bs ++ l.drop (off + bs.length)

/-- Concatenate fields of a structure given as (width in bytes, value). -/
def packLE (fs : List (Nat × Nat)) : List Byte := fs.flatMap fun f => leBytes f.1 f.2

/-- Number of leading steps to reach 2^k ≥ n: the least k with n ≤ 2^k (the manual's ⌈log₂ n⌉), 0 for n ≤ 1. -/
def clog2 (n : Nat) : Nat := if n ≤ 1 then 0 else Nat.log2 (n - 1) + 1

/-- Quotient rounded up. -/
def cdiv (a b : Nat) : Nat := (a + b - 1) / b

/-- Saturating increment of a 32-bit count by n (counts saturate at 0xFFFF_FFFF). -/
def satAdd (w : Word) (n : Nat) : Word := BitVec.ofNat 32 (min (w.toNat + n) 0xFFFFFFFF)

/-- The word of a number, modulo 2^32. -/
def wd (n : Nat) : Word := BitVec.ofNat 32 n

/-- One bit of a reflected CRC. -/
def crcBit (poly c : BitVec 32) : BitVec 32 :=
  if c &&& 1#32 = 1#32 then (c >>> (1 : Nat)) ^^^ poly else c >>> (1 : Nat)

/-- One byte of a reflected CRC. -/
def crcByte (poly c : BitVec 32) (b : Byte) : BitVec 32 :=
  let c := c ^^^ b.setWidth 32
  crcBit poly (crcBit poly (crcBit poly (crcBit poly (crcBit poly (crcBit poly (crcBit poly (crcBit poly c)))))))

/-- CRC-32C (Castagnoli) of a string, in its usual form: initial value and final exclusive-or all ones, reflected
(Table 14-2 and R375 name the code). PRESUMED: entry 20. -/
def crc32c (l : List Byte) : Word := ~~~ (l.foldl (crcByte 0x82F63B78#32) (~~~ 0#32))

/-- Put an element before the first that it precedes or equals. -/
def insertBy {α : Type} (le : α → α → Bool) (x : α) : List α → List α
  | [] => [x]
  | y :: t => if le x y then x :: y :: t else y :: insertBy le x t

/-- A list in order; equal elements keep their places. -/
def sortBy {α : Type} (le : α → α → Bool) (l : List α) : List α := l.foldr (insertBy le) []

/-- Element at a position of a list, or a default. -/
def nth {α : Type} (l : List α) (i : Nat) (d : α) : α := (l[i]?).getD d

/-- Replace the element at a position. -/
def setNth {α : Type} : List α → Nat → α → List α
  | [], _, _ => []
  | _ :: t, 0, v => v :: t
  | h :: t, i + 1, v => h :: setNth t i v

/-- Apply a function to the element at a position. -/
def modNth {α : Type} : List α → Nat → (α → α) → List α
  | [], _, _ => []
  | h :: t, 0, f => f h :: t
  | h :: t, i + 1, f => h :: modNth t i f

/-- The numbers below n that satisfy a test, rising. -/
def upTo (n : Nat) (p : Nat → Bool) : List Nat := (List.range n).filter p

/-- Positions of the set bits of a value below n. -/
def bitsOf (n w : Nat) : List Nat := upTo n (bit w)

/-- Apply a state change for every element of a list, in order. -/
def forEach {α σ : Type} (l : List α) (f : α → σ → σ) (s : σ) : σ := l.foldl (fun s x => f x s) s

end Sys2Proof.Machine
end

