-- ==== Sys2Proof/Machine/RegMap.lean ====
section
/-! DEFINITION. RegMap.lean: the register maps of the spec (R46, R47, R48, R81, R151, R180, R208, R232, R253, R285, R319,
R340, R341, R371, R372, R396, R412, R435, R459, R477, R478) as one table of rows. An offset no row holds is unmapped (R18). -/
namespace Sys2Proof.Machine

/-- Access codes of Table 00-3. -/
inductive Access where
  | ro | rw | wo | w1c | rc | rwl | rwp
deriving DecidableEq, Repr

/-- One row of a register map: absolute offset of its first instance, the repeats as (stride, count) with the larger stride
first, access code, reset value (0 where the map reads fuse or strap: entry 3), the bits a write can change (R13), its place
in a 64-bit pair (0 none, 1 low, 2 high; R17), and the stride of the partition number where it holds the state of one
partition (R43; 0 otherwise). -/
structure RegRow where
  base : Nat
  dims : List (Nat × Nat)
  acc : Access
  reset : Nat
  mask : Nat
  pair : Nat
  pt : Nat
deriving DecidableEq, Repr

/-- Register rows of the GLOBAL block (R48). -/
def rowsGlobal : List RegRow := [
  ⟨0x0, [], .ro, 0x52002641, 0x0, 0, 0x0⟩, -- GLOBAL_ID
  ⟨0x4, [], .ro, 0x101, 0x0, 0, 0x0⟩, -- GLOBAL_NUMREV
  ⟨0x8, [], .ro, 0x0, 0x0, 1, 0x0⟩, -- GLOBAL_SERIAL_LO
  ⟨0xC, [], .ro, 0x0, 0x0, 2, 0x0⟩, -- GLOBAL_SERIAL_HI
  ⟨0x10, [], .ro, 0x80000000, 0x0, 0, 0x0⟩, -- GLOBAL_LICSTAT
  ⟨0x20, [], .wo, 0x0, 0x0, 0, 0x0⟩, -- GLOBAL_RESET
  ⟨0x24, [], .ro, 0x0, 0x0, 0, 0x0⟩, -- GLOBAL_RSTSTAT
  ⟨0x30, [], .ro, 0x0, 0x0, 0, 0x0⟩, -- GLOBAL_ACCERR_ADDR
  ⟨0x34, [], .w1c, 0x0, 0x1, 0, 0x0⟩, -- GLOBAL_ACCERR_INFO
  ⟨0x40, [], .ro, 0x0, 0x0, 1, 0x0⟩, -- GLOBAL_TIME_LO
  ⟨0x44, [], .ro, 0x0, 0x0, 2, 0x0⟩, -- GLOBAL_TIME_HI
  ⟨0x50, [], .ro, 0x0, 0x0, 0, 0x0⟩] -- GLOBAL_PWRON

/-- Register rows of the ARRAY block (R232, R81). -/
def rowsArray : List RegRow := [
  ⟨0x1100000, [(0x400000, 4), (0x10000, 18)], .ro, 0x1F00, 0x0, 0, 0x0⟩, -- BASIN_STAT
  ⟨0x1100004, [(0x400000, 4), (0x10000, 18)], .ro, 0x0, 0x0, 0, 0x0⟩, -- BASIN_SHAPE
  ⟨0x1100008, [(0x400000, 4), (0x10000, 18)], .w1c, 0x0, 0x7, 0, 0x0⟩, -- BASIN_HRSTAT
  ⟨0x110000C, [(0x400000, 4), (0x10000, 18)], .ro, 0x0, 0x0, 0, 0x0⟩, -- BASIN_HRLAST
  ⟨0x1100010, [(0x400000, 4), (0x10000, 18)], .rc, 0x0, 0x0, 0, 0x0⟩, -- BASIN_HRCNT
  ⟨0x1100014, [(0x400000, 4), (0x10000, 18)], .rc, 0x0, 0x0, 0, 0x0⟩, -- BASIN_XHRCNT
  ⟨0x1100020, [(0x400000, 4), (0x10000, 18)], .w1c, 0x0, 0x7, 0, 0x0⟩, -- BASIN_RESSTAT
  ⟨0x1100024, [(0x400000, 4), (0x10000, 18)], .ro, 0x0, 0x0, 0, 0x0⟩, -- BASIN_RESPE
  ⟨0x1100028, [(0x400000, 4), (0x10000, 18)], .rc, 0x0, 0x0, 0, 0x0⟩, -- BASIN_RESCNT
  ⟨0x1100030, [(0x400000, 4), (0x10000, 18)], .ro, 0x0, 0x0, 1, 0x0⟩, -- BASIN_MACS_LO
  ⟨0x1100034, [(0x400000, 4), (0x10000, 18)], .ro, 0x0, 0x0, 2, 0x0⟩, -- BASIN_MACS_HI
  ⟨0x1100040, [(0x400000, 4), (0x10000, 18)], .rc, 0x0, 0x0, 0, 0x0⟩, -- BASIN_VARCLAMP
  ⟨0x1100044, [(0x400000, 4), (0x10000, 18)], .rc, 0x0, 0x0, 0, 0x0⟩, -- BASIN_POISON
  ⟨0x1101000, [(0x400000, 4), (0x10000, 18)], .ro, 0x0, 0x0, 0, 0x0⟩, -- JET_STAT
  ⟨0x1101004, [(0x400000, 4), (0x10000, 18)], .ro, 0x0, 0x0, 0, 0x0⟩, -- JET_LAYER
  ⟨0x1101008, [(0x400000, 4), (0x10000, 18)], .w1c, 0x0, 0xF, 0, 0x0⟩, -- JET_ERRSTAT
  ⟨0x110100C, [(0x400000, 4), (0x10000, 18)], .ro, 0x0, 0x0, 0, 0x0⟩, -- JET_ERRINFO
  ⟨0x1101010, [(0x400000, 4), (0x10000, 18)], .ro, 0x0, 0x0, 1, 0x0⟩, -- JET_VECS_LO
  ⟨0x1101014, [(0x400000, 4), (0x10000, 18)], .ro, 0x0, 0x0, 2, 0x0⟩, -- JET_VECS_HI
  ⟨0x1101020, [(0x400000, 4), (0x10000, 18)], .rc, 0x0, 0x0, 0, 0x0⟩, -- JET_FROZENST
  ⟨0x1101024, [(0x400000, 4), (0x10000, 18)], .rc, 0x0, 0x0, 0, 0x0⟩, -- JET_STATREP
  ⟨0x1101028, [(0x400000, 4), (0x10000, 18)], .rc, 0x0, 0x0, 0, 0x0⟩, -- JET_RSQRTZ
  ⟨0x110102C, [(0x400000, 4), (0x10000, 18)], .rc, 0x0, 0x0, 0, 0x0⟩, -- JET_CLAMP
  ⟨0x1101030, [(0x400000, 4), (0x10000, 18)], .rc, 0x0, 0x0, 0, 0x0⟩] -- JET_RESCNT

/-- Register rows of the SLUICE block (R151). -/
def rowsSluice : List RegRow := [
  ⟨0x1300000, [(0x400000, 4), (0x40000, 2)], .ro, 0x0, 0x0, 0, 0x0⟩, -- SLUICE_STAT
  ⟨0x1300004, [(0x400000, 4), (0x40000, 2)], .w1c, 0x0, 0x7, 0, 0x0⟩, -- SLUICE_ERRSTAT
  ⟨0x1300008, [(0x400000, 4), (0x40000, 2)], .ro, 0x0, 0x0, 0, 0x0⟩, -- SLUICE_ERRINFO
  ⟨0x1300010, [(0x400000, 4), (0x40000, 2)], .ro, 0x0, 0x0, 1, 0x0⟩, -- SLUICE_BYTES_LO
  ⟨0x1300014, [(0x400000, 4), (0x40000, 2)], .ro, 0x0, 0x0, 2, 0x0⟩, -- SLUICE_BYTES_HI
  ⟨0x1300100, [(0x400000, 4), (0x40000, 2), (0x4, 16)], .rc, 0x0, 0x0, 0, 0x4⟩, -- SLUICE_OOBR
  ⟨0x1300140, [(0x400000, 4), (0x40000, 2), (0x4, 16)], .rc, 0x0, 0x0, 0, 0x4⟩, -- SLUICE_OOBW
  ⟨0x1300180, [(0x400000, 4), (0x40000, 2), (0x4, 16)], .rc, 0x0, 0x0, 0, 0x4⟩, -- SLUICE_DYNCOLL
  ⟨0x13001C0, [(0x400000, 4), (0x40000, 2), (0x4, 16)], .rc, 0x0, 0x0, 0, 0x4⟩, -- SLUICE_COALESCE
  ⟨0x1300200, [(0x400000, 4), (0x40000, 2), (0x4, 16)], .rc, 0x0, 0x0, 0, 0x4⟩, -- SLUICE_POISON
  ⟨0x1300240, [(0x400000, 4), (0x40000, 2), (0x4, 16)], .rc, 0x0, 0x0, 0, 0x4⟩] -- SLUICE_CLAMP

/-- Register rows of the PARTERRE block (R180). -/
def rowsParterre : List RegRow := [
  ⟨0x400000, [], .wo, 0x0, 0x0, 0, 0x0⟩, -- PARTERRE_CTL
  ⟨0x400004, [], .rw, 0x0, 0xFFFFFFFF, 0, 0x0⟩, -- PARTERRE_LEN
  ⟨0x400008, [], .ro, 0x0, 0x0, 0, 0x0⟩, -- PARTERRE_STAT
  ⟨0x40000C, [], .w1c, 0x0, 0x7, 0, 0x0⟩, -- PARTERRE_RESULT
  ⟨0x400010, [], .ro, 0x0, 0x0, 0, 0x0⟩, -- PARTERRE_ERRSEC
  ⟨0x400014, [], .ro, 0x0, 0x0, 0, 0x0⟩, -- PARTERRE_ERRREC
  ⟨0x400018, [], .ro, 0x0, 0x0, 0, 0x0⟩, -- PARTERRE_BEDSTAT
  ⟨0x40001C, [], .rwp, 0x0, 0x3, 0, 0x0⟩, -- PARTERRE_PERSIST
  ⟨0x400020, [], .ro, 0x0, 0x0, 0, 0x0⟩, -- PARTERRE_DEFSTAT
  ⟨0x400040, [(0x4, 16)], .ro, 0x0, 0x0, 0, 0x0⟩, -- PARTERRE_PLANDIG
  ⟨0x400080, [], .ro, 0x0, 0x0, 1, 0x0⟩, -- PARTERRE_PLANID_LO
  ⟨0x400084, [], .ro, 0x0, 0x0, 2, 0x0⟩, -- PARTERRE_PLANID_HI
  ⟨0x400400, [(0x40, 16), (0x4, 16)], .ro, 0x0, 0x0, 0, 0x40⟩, -- PARTERRE_BEDDIG
  ⟨0x400800, [(0x8, 16)], .ro, 0x0, 0x0, 1, 0x8⟩, -- PARTERRE_BEDID_LO
  ⟨0x400804, [(0x8, 16)], .ro, 0x0, 0x0, 2, 0x8⟩] -- PARTERRE_BEDID_HI

/-- Register rows of the DIE block (R208). -/
def rowsDie : List RegRow := [
  ⟨0x1000000, [(0x400000, 4)], .ro, 0x0, 0x0, 0, 0x0⟩, -- DIE_STAT
  ⟨0x1000004, [(0x400000, 4)], .ro, 0x0, 0x0, 0, 0x0⟩, -- DIE_SCHEDSTAT
  ⟨0x1000010, [(0x400000, 4), (0x4, 4)], .ro, 0x1F1F1F1F, 0x0, 0, 0x0⟩, -- DIE_ROLEMAPn
  ⟨0x1000020, [(0x400000, 4)], .ro, 0x0, 0x0, 1, 0x0⟩, -- DIE_TILES_LO
  ⟨0x1000024, [(0x400000, 4)], .ro, 0x0, 0x0, 2, 0x0⟩, -- DIE_TILES_HI
  ⟨0x1001000, [(0x400000, 4), (0x40, 16)], .ro, 0x0, 0x0, 1, 0x40⟩, -- DIE_COMMIT_LO
  ⟨0x1001004, [(0x400000, 4), (0x40, 16)], .ro, 0x0, 0x0, 2, 0x40⟩, -- DIE_COMMIT_HI
  ⟨0x1001008, [(0x400000, 4), (0x40, 16)], .ro, 0x0, 0x0, 0, 0x40⟩, -- DIE_STEPSTAT
  ⟨0x100100C, [(0x400000, 4), (0x40, 16)], .rc, 0x0, 0x0, 0, 0x40⟩, -- DIE_REPLAYCNT
  ⟨0x1001010, [(0x400000, 4), (0x40, 16)], .rc, 0x0, 0x0, 0, 0x40⟩, -- DIE_UNDOCNT
  ⟨0x1001014, [(0x400000, 4), (0x40, 16)], .rc, 0x0, 0x0, 0, 0x40⟩, -- DIE_VERWAIT
  ⟨0x1001018, [(0x400000, 4), (0x40, 16)], .rc, 0x0, 0x0, 0, 0x40⟩, -- DIE_SPILLREP
  ⟨0x100101C, [(0x400000, 4), (0x40, 16)], .rc, 0x0, 0x0, 0, 0x40⟩, -- DIE_MASKSKIP
  ⟨0x1001020, [(0x400000, 4), (0x40, 16)], .rc, 0x0, 0x0, 0, 0x40⟩, -- DIE_TIEDWR
  ⟨0x1001024, [(0x400000, 4), (0x40, 16)], .rc, 0x0, 0x0, 0, 0x40⟩, -- DIE_SNAPCNT
  ⟨0x1002000, [(0x400000, 4), (0x4, 64)], .ro, 0x0, 0x0, 0, 0x0⟩] -- DIE_POOLSTAT

/-- Register rows of the WEIR block (R253). -/
def rowsWeir : List RegRow := [
  ⟨0x200000, [], .ro, 0x0, 0x0, 0, 0x0⟩, -- WEIR_STAT
  ⟨0x200004, [], .rw, 0x19, 0x7F, 0, 0x0⟩, -- WEIR_TRANSIT
  ⟨0x200010, [(0x4, 4)], .ro, 0xE100708, 0x0, 0, 0x0⟩, -- WEIR_PLANFREQ
  ⟨0x200020, [], .ro, 0x0, 0x0, 1, 0x0⟩, -- WEIR_ADMSEQ_LO
  ⟨0x200024, [], .ro, 0x0, 0x0, 2, 0x0⟩, -- WEIR_ADMSEQ_HI
  ⟨0x200028, [], .ro, 0x0, 0x0, 1, 0x0⟩, -- WEIR_QUANTUM_LO
  ⟨0x20002C, [], .ro, 0x0, 0x0, 2, 0x0⟩, -- WEIR_QUANTUM_HI
  ⟨0x201000, [(0x40, 16)], .rw, 0x0, 0x1, 0, 0x40⟩, -- WEIR_PT_CTL
  ⟨0x201004, [(0x40, 16)], .ro, 0x0, 0x0, 0, 0x40⟩, -- WEIR_PT_INFLIGHT
  ⟨0x201008, [(0x40, 16)], .ro, 0x0, 0x0, 0, 0x40⟩, -- WEIR_PT_OVERDUE
  ⟨0x20100C, [(0x40, 16)], .rc, 0x0, 0x0, 0, 0x40⟩, -- WEIR_PT_ADMITTED
  ⟨0x201010, [(0x40, 16)], .rc, 0x0, 0x0, 0, 0x40⟩, -- WEIR_PT_REFUSED
  ⟨0x201014, [(0x40, 16)], .rc, 0x0, 0x0, 0, 0x40⟩, -- WEIR_PT_MISSED
  ⟨0x201018, [(0x40, 16)], .ro, 0x0, 0x0, 0, 0x40⟩, -- WEIR_PT_LASTREF
  ⟨0x20101C, [(0x40, 16)], .ro, 0x0, 0x0, 0, 0x40⟩, -- WEIR_PT_STEPQ
  ⟨0x201020, [(0x40, 16)], .ro, 0x0, 0x0, 1, 0x40⟩, -- WEIR_PT_STEP_LO
  ⟨0x201024, [(0x40, 16)], .ro, 0x0, 0x0, 2, 0x40⟩] -- WEIR_PT_STEP_HI

/-- Register rows of the CASCADE block (R285). -/
def rowsCascade : List RegRow := [
  ⟨0x2000000, [], .ro, 0x0, 0x0, 0, 0x0⟩, -- CASCADE_STAT
  ⟨0x2000004, [], .rw, 0x6DDD0, 0xFFFFFFFF, 0, 0x0⟩, -- CASCADE_TIMEOUT
  ⟨0x2000008, [], .ro, 0x0, 0x0, 0, 0x0⟩, -- CASCADE_INRSTAT
  ⟨0x200000C, [], .rc, 0x0, 0x0, 0, 0x0⟩, -- CASCADE_STALE
  ⟨0x2000010, [], .rc, 0x0, 0x0, 0, 0x0⟩, -- CASCADE_RESERR
  ⟨0x2000800, [(0x4, 16)], .rw, 0x0, 0x3, 0, 0x4⟩, -- CASCADE_PT_CTL
  ⟨0x2001000, [(0x40, 256)], .ro, 0x0, 0x0, 0, 0x0⟩, -- CASCADE_GRP_ID
  ⟨0x2001004, [(0x40, 256)], .ro, 0x0, 0x0, 0, 0x0⟩, -- CASCADE_GRP_STAT
  ⟨0x2001008, [(0x40, 256)], .ro, 0x0, 0x0, 0, 0x0⟩, -- CASCADE_GRP_SIZE
  ⟨0x200100C, [(0x40, 256)], .ro, 0x0, 0x0, 0, 0x0⟩, -- CASCADE_GRP_RANK
  ⟨0x2001010, [(0x40, 256)], .ro, 0x0, 0x0, 0, 0x0⟩, -- CASCADE_GRP_EPOCH
  ⟨0x2001014, [(0x40, 256)], .ro, 0x0, 0x0, 0, 0x0⟩, -- CASCADE_GRP_REFUSE
  ⟨0x2001018, [(0x40, 256)], .rc, 0x0, 0x0, 0, 0x0⟩, -- CASCADE_GRP_RETRACT
  ⟨0x200101C, [(0x40, 256)], .rc, 0x0, 0x0, 0, 0x0⟩, -- CASCADE_GRP_RECALL
  ⟨0x2001020, [(0x40, 256)], .rc, 0x0, 0x0, 0, 0x0⟩, -- CASCADE_GRP_XREPEAT
  ⟨0x2001024, [(0x40, 256)], .rc, 0x0, 0x0, 0, 0x0⟩, -- CASCADE_GRP_A2ADROP
  ⟨0x2001028, [(0x40, 256)], .rc, 0x0, 0x0, 0, 0x0⟩] -- CASCADE_GRP_FORMS

/-- Register rows of the FABRIC block (R319). FABRIC_PORT_CTL resets to what Table 11-11 gives its fields, where Table 11-10 gives 1 (DESIGN
CHOICE, entry 78). -/
def rowsFabric : List RegRow := [
  ⟨0x2400000, [], .ro, 0x0, 0x0, 0, 0x0⟩, -- FABRIC_STAT
  ⟨0x2400004, [], .ro, 0x0, 0x0, 0, 0x0⟩, -- FABRIC_INJECT
  ⟨0x2400008, [], .rwl, 0x0, 0x87FF0000, 0, 0x0⟩, -- FABRIC_POS
  ⟨0x2400010, [], .rwl, 0x0, 0xFFFFFFFF, 1, 0x0⟩, -- FABRIC_PREFIX_LO
  ⟨0x2400014, [], .rwl, 0x0, 0xFFFFFFFF, 2, 0x0⟩, -- FABRIC_PREFIX_HI
  ⟨0x2400020, [], .rw, 0x40000, 0xFFFFFFFF, 0, 0x0⟩, -- FABRIC_ECNTH
  ⟨0x2400024, [], .rw, 0x1194, 0xFFFFFFFF, 0, 0x0⟩, -- FABRIC_QWT_RTO
  ⟨0x2400028, [], .rw, 0x8, 0xFFFFFFFF, 0, 0x0⟩, -- FABRIC_QWT_RETRY
  ⟨0x240002C, [], .rw, 0xD693A40, 0xFFFFFFFF, 0, 0x0⟩, -- FABRIC_DISC_PERIOD
  ⟨0x2400030, [], .rw, 0x100000, 0xFFFFFFFF, 0, 0x0⟩, -- FABRIC_LANE_FAILTH
  ⟨0x2400034, [], .rw, 0x0, 0x3F, 0, 0x0⟩, -- FABRIC_DSCP
  ⟨0x2400040, [], .rc, 0x0, 0x0, 0, 0x0⟩, -- FABRIC_SRCFILT
  ⟨0x2400044, [], .rc, 0x0, 0x0, 0, 0x0⟩, -- FABRIC_NOROUTE
  ⟨0x2401000, [(0x100, 24)], .rw, 0xD, 0x1F, 0, 0x0⟩, -- FABRIC_PORT_CTL
  ⟨0x2401004, [(0x100, 24)], .wo, 0x0, 0x0, 0, 0x0⟩, -- FABRIC_PORT_CMD
  ⟨0x2401008, [(0x100, 24)], .ro, 0x0, 0x0, 0, 0x0⟩, -- FABRIC_PORT_STAT
  ⟨0x240100C, [(0x100, 24)], .ro, 0x0, 0x0, 0, 0x0⟩, -- FABRIC_PORT_LANES
  ⟨0x2401010, [(0x100, 24)], .ro, 0x0, 0x0, 1, 0x0⟩, -- FABRIC_PORT_PARTNER_LO
  ⟨0x2401014, [(0x100, 24)], .ro, 0x0, 0x0, 2, 0x0⟩, -- FABRIC_PORT_PARTNER_HI
  ⟨0x2401018, [(0x100, 24)], .ro, 0xFFFFFFFF, 0x0, 0, 0x0⟩, -- FABRIC_PORT_PARTNERPOS
  ⟨0x2401020, [(0x100, 24)], .ro, 0x0, 0x0, 1, 0x0⟩, -- FABRIC_PORT_FECCORR_LO
  ⟨0x2401024, [(0x100, 24)], .ro, 0x0, 0x0, 2, 0x0⟩, -- FABRIC_PORT_FECCORR_HI
  ⟨0x2401028, [(0x100, 24)], .rc, 0x0, 0x0, 0, 0x0⟩, -- FABRIC_PORT_FECUNC
  ⟨0x240102C, [(0x100, 24)], .rc, 0x0, 0x0, 0, 0x0⟩, -- FABRIC_PORT_TAGDROP
  ⟨0x2401030, [(0x100, 24)], .rc, 0x0, 0x0, 0, 0x0⟩, -- FABRIC_PORT_RESETNAK
  ⟨0x2401034, [(0x100, 24)], .rc, 0x0, 0x0, 0, 0x0⟩, -- FABRIC_PORT_ECNMARK
  ⟨0x2401038, [(0x100, 24)], .rc, 0x0, 0x0, 0, 0x0⟩, -- FABRIC_PORT_DROP
  ⟨0x240103C, [(0x100, 24)], .rc, 0x0, 0x0, 0, 0x0⟩, -- FABRIC_PORT_RETRAINS
  ⟨0x2401080, [(0x100, 24), (0x4, 10)], .ro, 0x0, 0x0, 0, 0x0⟩, -- FABRIC_LANE_STAT
  ⟨0x2408000, [(0x200, 16)], .rw, 0x0, 0xFFFFFFFF, 1, 0x200⟩, -- FABRIC_PT_RXWIN_BASE_LO
  ⟨0x2408004, [(0x200, 16)], .rw, 0x0, 0xFFFF, 2, 0x200⟩, -- FABRIC_PT_RXWIN_BASE_HI
  ⟨0x2408008, [(0x200, 16)], .rw, 0x0, 0xFFFFFFFF, 1, 0x200⟩, -- FABRIC_PT_RXWIN_LEN_LO
  ⟨0x240800C, [(0x200, 16)], .rw, 0x0, 0xFFFF, 2, 0x200⟩, -- FABRIC_PT_RXWIN_LEN_HI
  ⟨0x2408100, [(0x200, 16), (0x10, 16), (0x4, 4)], .rw, 0x0, 0xFFFFFFFF, 0, 0x200⟩, -- FABRIC_PT_PEER
  ⟨0x2410000, [(0x4, 2048)], .rw, 0x0, 0xC0FFFFFF, 0, 0x0⟩, -- FABRIC_RT_RACK
  ⟨0x2414000, [(0x4, 64)], .rw, 0x0, 0xC0FFFFFF, 0, 0x0⟩, -- FABRIC_RT_LOCAL
  ⟨0x2414100, [], .rw, 0x0, 0xC0FFFFFF, 0, 0x0⟩] -- FABRIC_RT_DEFAULT

/-- Register rows of the RILL block (R340). -/
def rowsRill : List RegRow := [
  ⟨0x100000, [], .ro, 0x0, 0x0, 0, 0x0⟩, -- RILL_STAT
  ⟨0x100004, [], .wo, 0x0, 0x0, 0, 0x0⟩, -- RILL_CMD
  ⟨0x100008, [], .rw, 0xAFC8, 0xFFFFFFFF, 0, 0x0⟩, -- RILL_CPLTO
  ⟨0x100010, [], .rc, 0x0, 0x0, 0, 0x0⟩, -- RILL_CRCERR
  ⟨0x100014, [], .rc, 0x0, 0x0, 0, 0x0⟩, -- RILL_REPLAY
  ⟨0x100018, [], .rc, 0x0, 0x0, 0, 0x0⟩, -- RILL_ACCREF
  ⟨0x10001C, [], .rc, 0x0, 0x0, 0, 0x0⟩, -- RILL_DMAREF
  ⟨0x100020, [], .rc, 0x0, 0x0, 0, 0x0⟩, -- RILL_PROTERR
  ⟨0x100100, [(0x20, 64)], .rw, 0x0, 0xFFFFF000, 1, 0x0⟩, -- RILL_WIN_BASE_LO
  ⟨0x100104, [(0x20, 64)], .rw, 0x0, 0xFFFFFFFF, 2, 0x0⟩, -- RILL_WIN_BASE_HI
  ⟨0x100108, [(0x20, 64)], .rw, 0x0, 0xFFFFF000, 1, 0x0⟩, -- RILL_WIN_LEN_LO
  ⟨0x10010C, [(0x20, 64)], .rw, 0x0, 0x7FF, 2, 0x0⟩, -- RILL_WIN_LEN_HI
  ⟨0x100110, [(0x20, 64)], .rw, 0x0, 0x1F07, 0, 0x0⟩, -- RILL_WIN_CTL
  ⟨0x100114, [(0x20, 64)], .ro, 0x0, 0x0, 0, 0x0⟩, -- RILL_WIN_STAT
  ⟨0x100900, [], .rw, 0x0, 0xFFFFFFFF, 1, 0x0⟩, -- RILL_MEQ_BASE_LO
  ⟨0x100904, [], .rw, 0x0, 0xFFFFFFFF, 2, 0x0⟩, -- RILL_MEQ_BASE_HI
  ⟨0x100908, [], .rw, 0x0, 0xFFFFFF3F, 0, 0x0⟩, -- RILL_MEQ_CTL
  ⟨0x10090C, [], .ro, 0x0, 0x0, 0, 0x0⟩, -- RILL_MEQ_TAIL
  ⟨0x100910, [], .wo, 0x0, 0x0, 0, 0x0⟩, -- RILL_MEQ_DB
  ⟨0x100914, [], .rc, 0x0, 0x0, 0, 0x0⟩] -- RILL_MEQ_LOST

/-- Register rows of the QW block (R341). -/
def rowsQw : List RegRow := [
  ⟨0x3800000, [(0x40000, 16)], .ro, 0x0, 0x0, 0, 0x40000⟩, -- QW_STAT
  ⟨0x3800100, [(0x40000, 16), (0x20, 8)], .rw, 0x0, 0xFFFFFFFF, 1, 0x40000⟩, -- QW_SQ_BASE_LO
  ⟨0x3800104, [(0x40000, 16), (0x20, 8)], .rw, 0x0, 0xFFFFFFFF, 2, 0x40000⟩, -- QW_SQ_BASE_HI
  ⟨0x3800108, [(0x40000, 16), (0x20, 8)], .rw, 0x0, 0x73F, 0, 0x40000⟩, -- QW_SQ_CTL
  ⟨0x380010C, [(0x40000, 16), (0x20, 8)], .ro, 0x0, 0x0, 0, 0x40000⟩, -- QW_SQ_HEAD
  ⟨0x3800110, [(0x40000, 16), (0x20, 8)], .ro, 0x0, 0x0, 0, 0x40000⟩, -- QW_SQ_STAT
  ⟨0x3800200, [(0x40000, 16), (0x20, 8)], .rw, 0x0, 0xFFFFFFFF, 1, 0x40000⟩, -- QW_CQ_BASE_LO
  ⟨0x3800204, [(0x40000, 16), (0x20, 8)], .rw, 0x0, 0xFFFFFFFF, 2, 0x40000⟩, -- QW_CQ_BASE_HI
  ⟨0x3800208, [(0x40000, 16), (0x20, 8)], .rw, 0x0, 0xFFFFFF3F, 0, 0x40000⟩, -- QW_CQ_CTL
  ⟨0x380020C, [(0x40000, 16), (0x20, 8)], .ro, 0x0, 0x0, 0, 0x40000⟩, -- QW_CQ_TAIL
  ⟨0x3800210, [(0x40000, 16), (0x20, 8)], .ro, 0x0, 0x0, 0, 0x40000⟩, -- QW_CQ_STAT
  ⟨0x3800300, [(0x40000, 16)], .rw, 0x0, 0xFFFFFFFF, 1, 0x40000⟩, -- QW_EQ_BASE_LO
  ⟨0x3800304, [(0x40000, 16)], .rw, 0x0, 0xFFFFFFFF, 2, 0x40000⟩, -- QW_EQ_BASE_HI
  ⟨0x3800308, [(0x40000, 16)], .rw, 0x0, 0xFFFFFF3F, 0, 0x40000⟩, -- QW_EQ_CTL
  ⟨0x380030C, [(0x40000, 16)], .ro, 0x0, 0x0, 0, 0x40000⟩, -- QW_EQ_TAIL
  ⟨0x3800310, [(0x40000, 16)], .ro, 0x0, 0x0, 0, 0x40000⟩, -- QW_EQ_STAT
  ⟨0x3800314, [(0x40000, 16)], .rc, 0x0, 0x0, 0, 0x40000⟩, -- QW_EQ_LOST
  ⟨0x3801000, [(0x40000, 16), (0x8, 8)], .wo, 0x0, 0x0, 0, 0x40000⟩, -- QW_SQ_DB
  ⟨0x3801100, [(0x40000, 16), (0x8, 8)], .wo, 0x0, 0x0, 0, 0x40000⟩, -- QW_CQ_DB
  ⟨0x3801200, [(0x40000, 16)], .wo, 0x0, 0x0, 0, 0x40000⟩] -- QW_EQ_DB

/-- Register rows of the FAULT block (R371). -/
def rowsFault : List RegRow := [
  ⟨0x2800000, [], .ro, 0x0, 0x0, 0, 0x0⟩, -- FAULT_STAT
  ⟨0x2800004, [], .rw, 0x23, 0x7F, 0, 0x0⟩, -- FAULT_CTL
  ⟨0x2800008, [], .ro, 0x0, 0x0, 0, 0x0⟩, -- FAULT_SEQ
  ⟨0x2800010, [(0x4, 5)], .rc, 0x0, 0x0, 0, 0x0⟩, -- FAULT_LOST
  ⟨0x2800030, [(0x4, 5)], .rc, 0x0, 0x0, 0, 0x0⟩, -- FAULT_COUNT
  ⟨0x2800050, [], .rc, 0x0, 0x0, 0, 0x0⟩, -- FAULT_TRACKEVICT
  ⟨0x2800054, [], .rc, 0x0, 0x0, 0, 0x0⟩, -- FAULT_CAND
  ⟨0x2800058, [], .rc, 0x0, 0x0, 0, 0x0⟩, -- FAULT_NOTICE_OUT
  ⟨0x280005C, [], .rc, 0x0, 0x0, 0, 0x0⟩, -- FAULT_NOTICE_SUPP
  ⟨0x2800060, [], .rc, 0x0, 0x0, 0, 0x0⟩, -- FAULT_NOTICE_IN
  ⟨0x2800100, [], .rw, 0x0, 0xFFFFFFFF, 1, 0x0⟩, -- FAULT_RING_BASE_LO
  ⟨0x2800104, [], .rw, 0x0, 0xFFFFFFFF, 2, 0x0⟩, -- FAULT_RING_BASE_HI
  ⟨0x2800108, [], .rw, 0x0, 0xFFFFFF3F, 0, 0x0⟩, -- FAULT_RING_CTL
  ⟨0x280010C, [], .ro, 0x0, 0x0, 0, 0x0⟩, -- FAULT_RING_TAIL
  ⟨0x2800110, [], .ro, 0x0, 0x0, 0, 0x0⟩, -- FAULT_RING_STAT
  ⟨0x2800114, [], .wo, 0x0, 0x0, 0, 0x0⟩, -- FAULT_RING_DB
  ⟨0x2800200, [(0x4, 16)], .ro, 0x0, 0x0, 0, 0x0⟩, -- FAULT_LAST
  ⟨0x2800400, [(0x4, 16)], .rc, 0x0, 0x0, 0, 0x4⟩] -- FAULT_PT_LOST

/-- Register rows of the HBM block (R372). -/
def rowsHbm : List RegRow := [
  ⟨0x1380000, [(0x400000, 4), (0x10000, 3)], .ro, 0x0, 0x0, 0, 0x0⟩, -- HBM_STAT
  ⟨0x1380004, [(0x400000, 4), (0x10000, 3)], .rc, 0x0, 0x0, 0, 0x0⟩, -- HBM_CECNT
  ⟨0x1380008, [(0x400000, 4), (0x10000, 3)], .rc, 0x0, 0x0, 0, 0x0⟩, -- HBM_UECNT
  ⟨0x138000C, [(0x400000, 4), (0x10000, 3)], .rc, 0x0, 0x0, 0, 0x0⟩, -- HBM_ADDRCNT
  ⟨0x1380010, [(0x400000, 4), (0x10000, 3)], .rw, 0x18, 0xFF, 0, 0x0⟩, -- HBM_SCRUBCTL
  ⟨0x1380014, [(0x400000, 4), (0x10000, 3)], .ro, 0x0, 0x0, 0, 0x0⟩, -- HBM_SCRUBPASS
  ⟨0x1380018, [(0x400000, 4), (0x10000, 3)], .ro, 0x0, 0x0, 0, 0x0⟩] -- HBM_LASTUE

/-- Register rows of the CISTERN block (R396). -/
def rowsCistern : List RegRow := [
  ⟨0x2C00000, [], .ro, 0x0, 0x0, 0, 0x0⟩, -- CISTERN_STAT
  ⟨0x2C00004, [], .wo, 0x0, 0x0, 0, 0x0⟩, -- CISTERN_CMD
  ⟨0x2C00008, [], .rw, 0x0, 0x3FF, 0, 0x0⟩, -- CISTERN_QUERY
  ⟨0x2C00010, [], .rw, 0x0, 0xFFFFFFFF, 1, 0x0⟩, -- CISTERN_QFROM_LO
  ⟨0x2C00014, [], .rw, 0x0, 0xFFFFFFFF, 2, 0x0⟩, -- CISTERN_QFROM_HI
  ⟨0x2C00018, [], .rw, 0x0, 0xFFFFFFFF, 1, 0x0⟩, -- CISTERN_QKEY_LO
  ⟨0x2C0001C, [], .rw, 0x0, 0xFFFFFFFF, 2, 0x0⟩, -- CISTERN_QKEY_HI
  ⟨0x2C00020, [], .ro, 0x0, 0x0, 0, 0x0⟩, -- CISTERN_RDSTAT
  ⟨0x2C00030, [], .ro, 0x401000, 0x0, 0, 0x0⟩, -- CISTERN_GOVSTAT
  ⟨0x2C00034, [], .ro, 0x0, 0x0, 0, 0x0⟩, -- CISTERN_GOVWIN
  ⟨0x2C00038, [], .rc, 0x0, 0x0, 0, 0x0⟩, -- CISTERN_GOVWAIT
  ⟨0x2C00040, [], .ro, 0x0, 0x0, 1, 0x0⟩, -- CISTERN_RSEQ_LO
  ⟨0x2C00044, [], .ro, 0x0, 0x0, 2, 0x0⟩, -- CISTERN_RSEQ_HI
  ⟨0x2C00048, [], .ro, 0x0, 0x0, 0, 0x0⟩, -- CISTERN_LIVE
  ⟨0x2C0004C, [], .ro, 0x0, 0x0, 0, 0x0⟩, -- CISTERN_MOUNT
  ⟨0x2C00050, [], .rc, 0x0, 0x0, 0, 0x0⟩, -- CISTERN_REFRESHCNT
  ⟨0x2C00054, [], .ro, 0x0, 0x0, 0, 0x0⟩, -- CISTERN_ERASEMAX
  ⟨0x2C00058, [], .ro, 0x0, 0x0, 0, 0x0⟩, -- CISTERN_ERASEMIN
  ⟨0x2C0005C, [], .ro, 0x0, 0x0, 0, 0x0⟩, -- CISTERN_DEFCNT
  ⟨0x2C00060, [], .wo, 0x0, 0x0, 1, 0x0⟩, -- CISTERN_STAMP_LO
  ⟨0x2C00064, [], .wo, 0x0, 0x0, 2, 0x0⟩, -- CISTERN_STAMP_HI
  ⟨0x2C00070, [], .rwp, 0x0, 0x3, 0, 0x0⟩, -- CISTERN_DEFCLR
  ⟨0x2C00074, [], .ro, 0x0, 0x0, 0, 0x0⟩, -- CISTERN_DEFRES
  ⟨0x2C00080, [(0x4, 16)], .ro, 0x0, 0x0, 0, 0x0⟩, -- CISTERN_COUNTER
  ⟨0x2C01000, [(0x4, 1024)], .ro, 0x0, 0x0, 0, 0x0⟩] -- CISTERN_RDBUF

/-- Register rows of the SEC block (R412). -/
def rowsSec : List RegRow := [
  ⟨0x3000000, [], .ro, 0x0, 0x0, 0, 0x0⟩, -- SEC_STAT
  ⟨0x3000004, [], .wo, 0x0, 0x0, 0, 0x0⟩, -- SEC_CMD
  ⟨0x3000008, [], .w1c, 0x0, 0x3, 0, 0x0⟩, -- SEC_RESULT
  ⟨0x300000C, [], .ro, 0x0, 0x0, 0, 0x0⟩, -- SEC_PRES
  ⟨0x3000010, [], .rwp, 0x0, 0xFFFFFFFF, 0, 0x0⟩, -- SEC_SEALNO
  ⟨0x3000014, [], .rc, 0x0, 0x0, 0, 0x0⟩, -- SEC_NOPRES
  ⟨0x3000018, [], .rw, 0x0, 0xFFFFFFFF, 1, 0x0⟩, -- SEC_SRC_LO
  ⟨0x300001C, [], .rw, 0x0, 0xFFFF, 2, 0x0⟩, -- SEC_SRC_HI
  ⟨0x3000020, [], .rw, 0x0, 0xFFFFFFFF, 0, 0x0⟩, -- SEC_LEN
  ⟨0x3000024, [], .rw, 0x0, 0xFFFFFFFF, 1, 0x0⟩, -- SEC_DST_LO
  ⟨0x3000028, [], .rw, 0x0, 0xFFFF, 2, 0x0⟩, -- SEC_DST_HI
  ⟨0x3000040, [(0x4, 16)], .rw, 0x0, 0xFFFFFFFF, 0, 0x0⟩, -- SEC_NONCE
  ⟨0x3000080, [(0x4, 16)], .ro, 0x0, 0x0, 0, 0x0⟩, -- SEC_ROOTDIG
  ⟨0x30000C0, [(0x4, 16)], .ro, 0x0, 0x0, 0, 0x0⟩, -- SEC_OWNDIG
  ⟨0x3000100, [(0x4, 16)], .ro, 0x0, 0x0, 0, 0x0⟩] -- SEC_FWDIG

/-- Register rows of the TEST block (R435). -/
def rowsTest : List RegRow := [
  ⟨0x3200000, [], .ro, 0x0, 0x0, 0, 0x0⟩, -- TEST_BOOT
  ⟨0x3200004, [], .rw, 0x0, 0x1, 0, 0x0⟩, -- TEST_MEMSEL
  ⟨0x3200008, [], .ro, 0x0, 0x0, 0, 0x0⟩, -- TEST_MEMSTAT
  ⟨0x320000C, [], .rw, 0x18, 0x1F, 0, 0x0⟩, -- TEST_CTL
  ⟨0x3200010, [], .ro, 0x0, 0x0, 0, 0x0⟩, -- TEST_ACT
  ⟨0x3200014, [], .rw, 0xEA60, 0xFFFFFFFF, 0, 0x0⟩, -- TEST_ACTDRAIN
  ⟨0x3200018, [], .wo, 0x0, 0x0, 0, 0x0⟩, -- TEST_ACTCMD
  ⟨0x3200020, [], .ro, 0x0, 0x0, 1, 0x0⟩, -- TEST_READY_LO
  ⟨0x3200024, [], .ro, 0x0, 0x0, 2, 0x0⟩, -- TEST_READY_HI
  ⟨0x3200030, [], .rc, 0x0, 0x0, 0, 0x0⟩, -- TEST_FAILCNT
  ⟨0x3200034, [], .rc, 0x0, 0x0, 0, 0x0⟩, -- TEST_DEFERCNT
  ⟨0x3200038, [], .rc, 0x0, 0x0, 0, 0x0⟩, -- TEST_FORCECNT
  ⟨0x3200100, [(0x4, 72)], .ro, 0x0, 0x0, 0, 0x0⟩] -- TEST_ARRAY

/-- Register rows of the POWER block (R459). -/
def rowsPower : List RegRow := [
  ⟨0x2E00000, [], .ro, 0x0, 0x0, 0, 0x0⟩, -- POWER_STAT
  ⟨0x2E00004, [], .rw, 0x1, 0x3, 0, 0x0⟩, -- POWER_CTL
  ⟨0x2E00008, [], .rw, 0x0, 0xFFFF, 0, 0x0⟩, -- POWER_MODCAP
  ⟨0x2E0000C, [], .ro, 0x0, 0x0, 0, 0x0⟩, -- POWER_CAPEFF
  ⟨0x2E00010, [], .rw, 0x3E8, 0xFFFFFFFF, 0, 0x0⟩, -- POWER_PFW_W
  ⟨0x2E00014, [], .rw, 0x5DC, 0xFFFFFFFF, 0, 0x0⟩, -- POWER_COT_W
  ⟨0x2E00018, [], .rw, 0x28, 0xFF, 0, 0x0⟩, -- POWER_DROOP
  ⟨0x2E0001C, [], .ro, 0x0, 0x0, 0, 0x0⟩, -- POWER_RSTCAUSE
  ⟨0x2E00020, [], .ro, 0x0, 0x0, 0, 0x0⟩, -- POWER_INPUT
  ⟨0x2E00024, [], .ro, 0x0, 0x0, 0, 0x0⟩, -- POWER_EST
  ⟨0x2E00028, [], .rc, 0x0, 0x0, 0, 0x0⟩, -- POWER_LIMCNT
  ⟨0x2E0002C, [], .rc, 0x0, 0x0, 0, 0x0⟩, -- POWER_ABSCNT
  ⟨0x2E00030, [], .ro, 0x0, 0x0, 1, 0x0⟩, -- POWER_MEAS_LO
  ⟨0x2E00034, [], .ro, 0x0, 0x0, 2, 0x0⟩, -- POWER_MEAS_HI
  ⟨0x2E00038, [], .ro, 0x0, 0x0, 1, 0x0⟩, -- POWER_TAG0_LO
  ⟨0x2E0003C, [], .ro, 0x0, 0x0, 2, 0x0⟩, -- POWER_TAG0_HI
  ⟨0x2E00040, [(0x4, 4)], .ro, 0x0, 0x0, 0, 0x0⟩, -- POWER_DIE
  ⟨0x2E00050, [(0x4, 4)], .ro, 0x0, 0x0, 0, 0x0⟩, -- POWER_TEMP
  ⟨0x2E00060, [(0x4, 4)], .rc, 0x0, 0x0, 0, 0x0⟩, -- POWER_DROOPCNT
  ⟨0x2E00070, [], .ro, 0x0, 0x0, 0, 0x0⟩, -- POWER_VGUARD
  ⟨0x2E00080, [(0x4, 16)], .ro, 0x0, 0x0, 0, 0x0⟩, -- POWER_RAIL
  ⟨0x2E00100, [(0x40, 4), (0x4, 15)], .ro, 0x0, 0x0, 0, 0x0⟩, -- POWER_VTAB
  ⟨0x2E00200, [(0x4, 11)], .ro, 0x10000, 0x0, 0, 0x0⟩, -- POWER_CALSCALE
  ⟨0x2E01000, [(0x20, 16)], .ro, 0x0, 0x0, 0, 0x20⟩, -- POWER_PT_GRANT
  ⟨0x2E01004, [(0x20, 16)], .ro, 0x0, 0x0, 1, 0x20⟩, -- POWER_PT_ENERGY_LO
  ⟨0x2E01008, [(0x20, 16)], .ro, 0x0, 0x0, 2, 0x20⟩, -- POWER_PT_ENERGY_HI
  ⟨0x2E0100C, [(0x20, 16)], .ro, 0x0, 0x0, 0, 0x20⟩, -- POWER_PT_AVG
  ⟨0x2E01010, [(0x20, 16)], .rc, 0x0, 0x0, 0, 0x20⟩] -- POWER_PT_CAPHIT

/-- Register rows of the INTC block (R477). -/
def rowsIntc : List RegRow := [
  ⟨0x2A00000, [], .ro, 0x0, 0x0, 0, 0x0⟩, -- INTC_STAT
  ⟨0x2A00004, [], .rw, 0x0, 0x1, 0, 0x0⟩, -- INTC_GCTL
  ⟨0x2A00010, [(0x4, 4)], .ro, 0x0, 0x0, 0, 0x0⟩, -- INTC_CORE
  ⟨0x2A00100, [(0x4, 8)], .ro, 0x0, 0x0, 0, 0x0⟩, -- INTC_PEND
  ⟨0x2A00120, [(0x4, 8)], .ro, 0x0, 0x0, 0, 0x0⟩, -- INTC_ACTIVE
  ⟨0x2A00400, [(0x4, 256)], .ro, 0x0, 0x0, 0, 0x0⟩, -- INTC_SRC
  ⟨0x2A00800, [(0x10, 13)], .rw, 0x0, 0xFFFF, 0, 0x0⟩, -- INPUT_CFG
  ⟨0x2A00804, [(0x10, 13)], .rw, 0x0, 0xFFFFFFFF, 0, 0x0⟩, -- INPUT_STORM
  ⟨0x2A00808, [(0x10, 13)], .w1c, 0x0, 0x4, 0, 0x0⟩, -- INPUT_STAT
  ⟨0x2A0080C, [(0x10, 13)], .rc, 0x0, 0x0, 0, 0x0⟩] -- INPUT_CNT

/-- Register rows of the FTN block (R478). -/
def rowsFtn : List RegRow := [
  ⟨0x3400000, [], .ro, 0x0, 0x0, 0, 0x0⟩, -- FTN_STAT
  ⟨0x3400004, [], .ro, 0x0, 0x0, 0, 0x0⟩, -- FTN_FWVER
  ⟨0x3400008, [], .rc, 0x0, 0x0, 0, 0x0⟩, -- FTN_RESTARTS
  ⟨0x3401000, [(0x1000, 2)], .wo, 0x0, 0x0, 0, 0x0⟩, -- FTN_MB_CTL
  ⟨0x3401004, [(0x1000, 2)], .w1c, 0x0, 0x2, 0, 0x0⟩, -- FTN_MB_STAT
  ⟨0x3401100, [(0x1000, 2), (0x4, 64)], .rw, 0x0, 0xFFFFFFFF, 0, 0x0⟩, -- FTN_MB_REQ
  ⟨0x3401200, [(0x1000, 2), (0x4, 64)], .ro, 0x0, 0x0, 0, 0x0⟩] -- FTN_MB_RSP

/-- Whether a distance from the first instance is a repeat of the row. -/
def dimsHit : List (Nat × Nat) → Nat → Bool
  | [], x => x == 0
  | (st, n) :: ds, x => decide (x / st < n) && dimsHit ds (x % st)

/-- Whether an offset is an instance of the row. -/
def RegRow.hit (r : RegRow) (off : Nat) : Bool := decide (r.base ≤ off) && dimsHit r.dims (off - r.base)

/-- The partition number of an instance of a row of partition state. -/
def dimsPt (pt : Nat) : List (Nat × Nat) → Nat → Nat
  | [], _ => 0
  | (st, _) :: ds, x => if st = pt then x / st else dimsPt pt ds (x % st)

/-- The blocks of the register space (Table 01-9, Table 01-10). -/
inductive Block where
  | global | rill | weir | parterre | staging | die | array | sluice | hbm | cascade | fabric | fault | intc | cistern
  | power | security | test | fountainer | queueWindow | none
deriving DecidableEq, Repr

/-- Block of an offset (R46, R47). The staging window is the upper 8 MiB of the PARTERRE block (R180). -/
def blockOf (off : Nat) : Block :=
  if off < 0x100000 then .global
  else if off < 0x200000 then .rill
  else if off < 0x400000 then .weir
  else if off < 0x800000 then .parterre
  else if off < 0x1000000 then .staging
  else if off < 0x2000000 then
    let x := (off - 0x1000000) % 0x400000
    if x < 0x100000 then .die else if x < 0x220000 then .array else if x < 0x300000 then .none
    else if x < 0x380000 then .sluice else if x < 0x3C0000 then .hbm else .none
  else if off < 0x2400000 then .cascade
  else if off < 0x2800000 then .fabric
  else if off < 0x2A00000 then .fault
  else if off < 0x2C00000 then .intc
  else if off < 0x2E00000 then .cistern
  else if off < 0x3000000 then .power
  else if off < 0x3200000 then .security
  else if off < 0x3400000 then .test
  else if off < 0x3800000 then .fountainer
  else if off < 0x3C00000 then .queueWindow
  else .none

/-- Rows of a block. -/
def rowsOf : Block → List RegRow
  | .global => rowsGlobal
  | .rill => rowsRill
  | .weir => rowsWeir
  | .parterre => rowsParterre
  | .staging => []
  | .die => rowsDie
  | .array => rowsArray
  | .sluice => rowsSluice
  | .hbm => rowsHbm
  | .cascade => rowsCascade
  | .fabric => rowsFabric
  | .fault => rowsFault
  | .intc => rowsIntc
  | .cistern => rowsCistern
  | .power => rowsPower
  | .security => rowsSec
  | .test => rowsTest
  | .fountainer => rowsFtn
  | .queueWindow => rowsQw
  | .none => []

/-- The row that holds an offset, or none for an unmapped offset. -/
def regRow (off : Nat) : Option RegRow := (rowsOf (blockOf off)).find? fun r => r.hit off

/-- Reset values of INPUT_CFG (Table 18-5). -/
def inputFiltReset (i : Nat) : Nat := nth [65535, 65535, 65535, 2250, 22500, 225, 65535] i 0
/-- Reset values of INPUT_STORM (Table 18-5): COUNT [7:0], WINDOW [15:8], DURATION [31:16]. -/
def inputStormReset (i : Nat) : Nat :=
  nth [0x1E640A, 0x640A, 0x6404, 0x6414, 0x6414, 0x6414, 0x3C640A] i 0

/-- What a register reads as at reset (R15). -/
def regReset (off : Nat) : Word :=
  if 0x2A00800 ≤ off ∧ off < 0x2A008D0 ∧ off % 16 = 0 then wd (inputFiltReset ((off - 0x2A00800) / 16))
  else if 0x2A00800 ≤ off ∧ off < 0x2A008D0 ∧ off % 16 = 4 then wd (inputStormReset ((off - 0x2A00800) / 16))
  else match regRow off with
    | some r => wd r.reset
    | none => 0#32

/-- Whether the low word of a 64-bit pair stands at an offset (R17). -/
def isPairLow (off : Nat) : Bool := match regRow off with | some r => r.pair == 1 | none => false
/-- Whether the high word of a 64-bit pair stands at an offset (R17). -/
def isPairHigh (off : Nat) : Bool := match regRow off with | some r => r.pair == 2 | none => false

/-- Reset domains (Table 01-7). -/
inductive Domain where
  | module | rill | compute | partition (pt : Nat)
deriving DecidableEq, Repr

/-- Reset domain of an offset (R43, Table 01-9). -/
def regDomain (off : Nat) : Domain :=
  match regRow off with
  | none => .module
  | some r =>
    if r.pt ≠ 0 then .partition (dimsPt r.pt r.dims (off - r.base))
    else match blockOf off with
      | .rill => .rill
      | .die | .array | .sluice | .hbm => .compute
      | _ => .module

/-! ### Offsets by register name. Arguments are the instance numbers, the larger stride first. -/

/-- Offset of GLOBAL_ID (R48). -/
def Reg.globalId : Nat := 0x0
/-- Offset of GLOBAL_NUMREV (R48). -/
def Reg.globalNumrev : Nat := 0x4
/-- Offset of GLOBAL_SERIAL_LO (R48). -/
def Reg.globalSerialLo : Nat := 0x8
/-- Offset of GLOBAL_SERIAL_HI (R48). -/
def Reg.globalSerialHi : Nat := 0xC
/-- Offset of GLOBAL_LICSTAT (R48). -/
def Reg.globalLicstat : Nat := 0x10
/-- Offset of GLOBAL_RESET (R48). -/
def Reg.globalReset : Nat := 0x20
/-- Offset of GLOBAL_RSTSTAT (R48). -/
def Reg.globalRststat : Nat := 0x24
/-- Offset of GLOBAL_ACCERR_ADDR (R48). -/
def Reg.globalAccerrAddr : Nat := 0x30
/-- Offset of GLOBAL_ACCERR_INFO (R48). -/
def Reg.globalAccerrInfo : Nat := 0x34
/-- Offset of GLOBAL_TIME_LO (R48). -/
def Reg.globalTimeLo : Nat := 0x40
/-- Offset of GLOBAL_TIME_HI (R48). -/
def Reg.globalTimeHi : Nat := 0x44
/-- Offset of GLOBAL_PWRON (R48). -/
def Reg.globalPwron : Nat := 0x50
/-- Offset of BASIN_STAT (R81). -/
def Reg.basinStat (i0 i1 : Nat) : Nat := 0x1100000 + 0x400000 * i0 + 0x10000 * i1
/-- Offset of BASIN_SHAPE (R81). -/
def Reg.basinShape (i0 i1 : Nat) : Nat := 0x1100004 + 0x400000 * i0 + 0x10000 * i1
/-- Offset of BASIN_HRSTAT (R81). -/
def Reg.basinHrstat (i0 i1 : Nat) : Nat := 0x1100008 + 0x400000 * i0 + 0x10000 * i1
/-- Offset of BASIN_HRLAST (R81). -/
def Reg.basinHrlast (i0 i1 : Nat) : Nat := 0x110000C + 0x400000 * i0 + 0x10000 * i1
/-- Offset of BASIN_HRCNT (R81). -/
def Reg.basinHrcnt (i0 i1 : Nat) : Nat := 0x1100010 + 0x400000 * i0 + 0x10000 * i1
/-- Offset of BASIN_XHRCNT (R81). -/
def Reg.basinXhrcnt (i0 i1 : Nat) : Nat := 0x1100014 + 0x400000 * i0 + 0x10000 * i1
/-- Offset of BASIN_RESSTAT (R81). -/
def Reg.basinResstat (i0 i1 : Nat) : Nat := 0x1100020 + 0x400000 * i0 + 0x10000 * i1
/-- Offset of BASIN_RESPE (R81). -/
def Reg.basinRespe (i0 i1 : Nat) : Nat := 0x1100024 + 0x400000 * i0 + 0x10000 * i1
/-- Offset of BASIN_RESCNT (R81). -/
def Reg.basinRescnt (i0 i1 : Nat) : Nat := 0x1100028 + 0x400000 * i0 + 0x10000 * i1
/-- Offset of BASIN_MACS_LO (R81). -/
def Reg.basinMacsLo (i0 i1 : Nat) : Nat := 0x1100030 + 0x400000 * i0 + 0x10000 * i1
/-- Offset of BASIN_MACS_HI (R81). -/
def Reg.basinMacsHi (i0 i1 : Nat) : Nat := 0x1100034 + 0x400000 * i0 + 0x10000 * i1
/-- Offset of BASIN_VARCLAMP (R81). -/
def Reg.basinVarclamp (i0 i1 : Nat) : Nat := 0x1100040 + 0x400000 * i0 + 0x10000 * i1
/-- Offset of BASIN_POISON (R81). -/
def Reg.basinPoison (i0 i1 : Nat) : Nat := 0x1100044 + 0x400000 * i0 + 0x10000 * i1
/-- Offset of JET_STAT (R232). -/
def Reg.jetStat (i0 i1 : Nat) : Nat := 0x1101000 + 0x400000 * i0 + 0x10000 * i1
/-- Offset of JET_LAYER (R232). -/
def Reg.jetLayer (i0 i1 : Nat) : Nat := 0x1101004 + 0x400000 * i0 + 0x10000 * i1
/-- Offset of JET_ERRSTAT (R232). -/
def Reg.jetErrstat (i0 i1 : Nat) : Nat := 0x1101008 + 0x400000 * i0 + 0x10000 * i1
/-- Offset of JET_ERRINFO (R232). -/
def Reg.jetErrinfo (i0 i1 : Nat) : Nat := 0x110100C + 0x400000 * i0 + 0x10000 * i1
/-- Offset of JET_VECS_LO (R232). -/
def Reg.jetVecsLo (i0 i1 : Nat) : Nat := 0x1101010 + 0x400000 * i0 + 0x10000 * i1
/-- Offset of JET_VECS_HI (R232). -/
def Reg.jetVecsHi (i0 i1 : Nat) : Nat := 0x1101014 + 0x400000 * i0 + 0x10000 * i1
/-- Offset of JET_FROZENST (R232). -/
def Reg.jetFrozenst (i0 i1 : Nat) : Nat := 0x1101020 + 0x400000 * i0 + 0x10000 * i1
/-- Offset of JET_STATREP (R232). -/
def Reg.jetStatrep (i0 i1 : Nat) : Nat := 0x1101024 + 0x400000 * i0 + 0x10000 * i1
/-- Offset of JET_RSQRTZ (R232). -/
def Reg.jetRsqrtz (i0 i1 : Nat) : Nat := 0x1101028 + 0x400000 * i0 + 0x10000 * i1
/-- Offset of JET_CLAMP (R232). -/
def Reg.jetClamp (i0 i1 : Nat) : Nat := 0x110102C + 0x400000 * i0 + 0x10000 * i1
/-- Offset of JET_RESCNT (R232). -/
def Reg.jetRescnt (i0 i1 : Nat) : Nat := 0x1101030 + 0x400000 * i0 + 0x10000 * i1
/-- Offset of SLUICE_STAT (R151). -/
def Reg.sluiceStat (i0 i1 : Nat) : Nat := 0x1300000 + 0x400000 * i0 + 0x40000 * i1
/-- Offset of SLUICE_ERRSTAT (R151). -/
def Reg.sluiceErrstat (i0 i1 : Nat) : Nat := 0x1300004 + 0x400000 * i0 + 0x40000 * i1
/-- Offset of SLUICE_ERRINFO (R151). -/
def Reg.sluiceErrinfo (i0 i1 : Nat) : Nat := 0x1300008 + 0x400000 * i0 + 0x40000 * i1
/-- Offset of SLUICE_BYTES_LO (R151). -/
def Reg.sluiceBytesLo (i0 i1 : Nat) : Nat := 0x1300010 + 0x400000 * i0 + 0x40000 * i1
/-- Offset of SLUICE_BYTES_HI (R151). -/
def Reg.sluiceBytesHi (i0 i1 : Nat) : Nat := 0x1300014 + 0x400000 * i0 + 0x40000 * i1
/-- Offset of SLUICE_OOBR (R151). -/
def Reg.sluiceOobr (i0 i1 i2 : Nat) : Nat := 0x1300100 + 0x400000 * i0 + 0x40000 * i1 + 0x4 * i2
/-- Offset of SLUICE_OOBW (R151). -/
def Reg.sluiceOobw (i0 i1 i2 : Nat) : Nat := 0x1300140 + 0x400000 * i0 + 0x40000 * i1 + 0x4 * i2
/-- Offset of SLUICE_DYNCOLL (R151). -/
def Reg.sluiceDyncoll (i0 i1 i2 : Nat) : Nat := 0x1300180 + 0x400000 * i0 + 0x40000 * i1 + 0x4 * i2
/-- Offset of SLUICE_COALESCE (R151). -/
def Reg.sluiceCoalesce (i0 i1 i2 : Nat) : Nat := 0x13001C0 + 0x400000 * i0 + 0x40000 * i1 + 0x4 * i2
/-- Offset of SLUICE_POISON (R151). -/
def Reg.sluicePoison (i0 i1 i2 : Nat) : Nat := 0x1300200 + 0x400000 * i0 + 0x40000 * i1 + 0x4 * i2
/-- Offset of SLUICE_CLAMP (R151). -/
def Reg.sluiceClamp (i0 i1 i2 : Nat) : Nat := 0x1300240 + 0x400000 * i0 + 0x40000 * i1 + 0x4 * i2
/-- Offset of PARTERRE_CTL (R180). -/
def Reg.parterreCtl : Nat := 0x400000
/-- Offset of PARTERRE_LEN (R180). -/
def Reg.parterreLen : Nat := 0x400004
/-- Offset of PARTERRE_STAT (R180). -/
def Reg.parterreStat : Nat := 0x400008
/-- Offset of PARTERRE_RESULT (R180). -/
def Reg.parterreResult : Nat := 0x40000C
/-- Offset of PARTERRE_ERRSEC (R180). -/
def Reg.parterreErrsec : Nat := 0x400010
/-- Offset of PARTERRE_ERRREC (R180). -/
def Reg.parterreErrrec : Nat := 0x400014
/-- Offset of PARTERRE_BEDSTAT (R180). -/
def Reg.parterreBedstat : Nat := 0x400018
/-- Offset of PARTERRE_PERSIST (R180). -/
def Reg.parterrePersist : Nat := 0x40001C
/-- Offset of PARTERRE_DEFSTAT (R180). -/
def Reg.parterreDefstat : Nat := 0x400020
/-- Offset of PARTERRE_PLANDIG (R180). -/
def Reg.parterrePlandig (i0 : Nat) : Nat := 0x400040 + 0x4 * i0
/-- Offset of PARTERRE_PLANID_LO (R180). -/
def Reg.parterrePlanidLo : Nat := 0x400080
/-- Offset of PARTERRE_PLANID_HI (R180). -/
def Reg.parterrePlanidHi : Nat := 0x400084
/-- Offset of PARTERRE_BEDDIG (R180). -/
def Reg.parterreBeddig (i0 i1 : Nat) : Nat := 0x400400 + 0x40 * i0 + 0x4 * i1
/-- Offset of PARTERRE_BEDID_LO (R180). -/
def Reg.parterreBedidLo (i0 : Nat) : Nat := 0x400800 + 0x8 * i0
/-- Offset of PARTERRE_BEDID_HI (R180). -/
def Reg.parterreBedidHi (i0 : Nat) : Nat := 0x400804 + 0x8 * i0
/-- Offset of DIE_STAT (R208). -/
def Reg.dieStat (i0 : Nat) : Nat := 0x1000000 + 0x400000 * i0
/-- Offset of DIE_SCHEDSTAT (R208). -/
def Reg.dieSchedstat (i0 : Nat) : Nat := 0x1000004 + 0x400000 * i0
/-- Offset of DIE_ROLEMAPn (R208). -/
def Reg.dieRolemap (i0 i1 : Nat) : Nat := 0x1000010 + 0x400000 * i0 + 0x4 * i1
/-- Offset of DIE_TILES_LO (R208). -/
def Reg.dieTilesLo (i0 : Nat) : Nat := 0x1000020 + 0x400000 * i0
/-- Offset of DIE_TILES_HI (R208). -/
def Reg.dieTilesHi (i0 : Nat) : Nat := 0x1000024 + 0x400000 * i0
/-- Offset of DIE_COMMIT_LO (R208). -/
def Reg.dieCommitLo (i0 i1 : Nat) : Nat := 0x1001000 + 0x400000 * i0 + 0x40 * i1
/-- Offset of DIE_COMMIT_HI (R208). -/
def Reg.dieCommitHi (i0 i1 : Nat) : Nat := 0x1001004 + 0x400000 * i0 + 0x40 * i1
/-- Offset of DIE_STEPSTAT (R208). -/
def Reg.dieStepstat (i0 i1 : Nat) : Nat := 0x1001008 + 0x400000 * i0 + 0x40 * i1
/-- Offset of DIE_REPLAYCNT (R208). -/
def Reg.dieReplaycnt (i0 i1 : Nat) : Nat := 0x100100C + 0x400000 * i0 + 0x40 * i1
/-- Offset of DIE_UNDOCNT (R208). -/
def Reg.dieUndocnt (i0 i1 : Nat) : Nat := 0x1001010 + 0x400000 * i0 + 0x40 * i1
/-- Offset of DIE_VERWAIT (R208). -/
def Reg.dieVerwait (i0 i1 : Nat) : Nat := 0x1001014 + 0x400000 * i0 + 0x40 * i1
/-- Offset of DIE_SPILLREP (R208). -/
def Reg.dieSpillrep (i0 i1 : Nat) : Nat := 0x1001018 + 0x400000 * i0 + 0x40 * i1
/-- Offset of DIE_MASKSKIP (R208). -/
def Reg.dieMaskskip (i0 i1 : Nat) : Nat := 0x100101C + 0x400000 * i0 + 0x40 * i1
/-- Offset of DIE_TIEDWR (R208). -/
def Reg.dieTiedwr (i0 i1 : Nat) : Nat := 0x1001020 + 0x400000 * i0 + 0x40 * i1
/-- Offset of DIE_SNAPCNT (R208). -/
def Reg.dieSnapcnt (i0 i1 : Nat) : Nat := 0x1001024 + 0x400000 * i0 + 0x40 * i1
/-- Offset of DIE_POOLSTAT (R208). -/
def Reg.diePoolstat (i0 i1 : Nat) : Nat := 0x1002000 + 0x400000 * i0 + 0x4 * i1
/-- Offset of WEIR_STAT (R253). -/
def Reg.weirStat : Nat := 0x200000
/-- Offset of WEIR_TRANSIT (R253). -/
def Reg.weirTransit : Nat := 0x200004
/-- Offset of WEIR_PLANFREQ (R253). -/
def Reg.weirPlanfreq (i0 : Nat) : Nat := 0x200010 + 0x4 * i0
/-- Offset of WEIR_ADMSEQ_LO (R253). -/
def Reg.weirAdmseqLo : Nat := 0x200020
/-- Offset of WEIR_ADMSEQ_HI (R253). -/
def Reg.weirAdmseqHi : Nat := 0x200024
/-- Offset of WEIR_QUANTUM_LO (R253). -/
def Reg.weirQuantumLo : Nat := 0x200028
/-- Offset of WEIR_QUANTUM_HI (R253). -/
def Reg.weirQuantumHi : Nat := 0x20002C
/-- Offset of WEIR_PT_CTL (R253). -/
def Reg.weirPtCtl (i0 : Nat) : Nat := 0x201000 + 0x40 * i0
/-- Offset of WEIR_PT_INFLIGHT (R253). -/
def Reg.weirPtInflight (i0 : Nat) : Nat := 0x201004 + 0x40 * i0
/-- Offset of WEIR_PT_OVERDUE (R253). -/
def Reg.weirPtOverdue (i0 : Nat) : Nat := 0x201008 + 0x40 * i0
/-- Offset of WEIR_PT_ADMITTED (R253). -/
def Reg.weirPtAdmitted (i0 : Nat) : Nat := 0x20100C + 0x40 * i0
/-- Offset of WEIR_PT_REFUSED (R253). -/
def Reg.weirPtRefused (i0 : Nat) : Nat := 0x201010 + 0x40 * i0
/-- Offset of WEIR_PT_MISSED (R253). -/
def Reg.weirPtMissed (i0 : Nat) : Nat := 0x201014 + 0x40 * i0
/-- Offset of WEIR_PT_LASTREF (R253). -/
def Reg.weirPtLastref (i0 : Nat) : Nat := 0x201018 + 0x40 * i0
/-- Offset of WEIR_PT_STEPQ (R253). -/
def Reg.weirPtStepq (i0 : Nat) : Nat := 0x20101C + 0x40 * i0
/-- Offset of WEIR_PT_STEP_LO (R253). -/
def Reg.weirPtStepLo (i0 : Nat) : Nat := 0x201020 + 0x40 * i0
/-- Offset of WEIR_PT_STEP_HI (R253). -/
def Reg.weirPtStepHi (i0 : Nat) : Nat := 0x201024 + 0x40 * i0
/-- Offset of CASCADE_STAT (R285). -/
def Reg.cascadeStat : Nat := 0x2000000
/-- Offset of CASCADE_TIMEOUT (R285). -/
def Reg.cascadeTimeout : Nat := 0x2000004
/-- Offset of CASCADE_INRSTAT (R285). -/
def Reg.cascadeInrstat : Nat := 0x2000008
/-- Offset of CASCADE_STALE (R285). -/
def Reg.cascadeStale : Nat := 0x200000C
/-- Offset of CASCADE_RESERR (R285). -/
def Reg.cascadeReserr : Nat := 0x2000010
/-- Offset of CASCADE_PT_CTL (R285). -/
def Reg.cascadePtCtl (i0 : Nat) : Nat := 0x2000800 + 0x4 * i0
/-- Offset of CASCADE_GRP_ID (R285). -/
def Reg.cascadeGrpId (i0 : Nat) : Nat := 0x2001000 + 0x40 * i0
/-- Offset of CASCADE_GRP_STAT (R285). -/
def Reg.cascadeGrpStat (i0 : Nat) : Nat := 0x2001004 + 0x40 * i0
/-- Offset of CASCADE_GRP_SIZE (R285). -/
def Reg.cascadeGrpSize (i0 : Nat) : Nat := 0x2001008 + 0x40 * i0
/-- Offset of CASCADE_GRP_RANK (R285). -/
def Reg.cascadeGrpRank (i0 : Nat) : Nat := 0x200100C + 0x40 * i0
/-- Offset of CASCADE_GRP_EPOCH (R285). -/
def Reg.cascadeGrpEpoch (i0 : Nat) : Nat := 0x2001010 + 0x40 * i0
/-- Offset of CASCADE_GRP_REFUSE (R285). -/
def Reg.cascadeGrpRefuse (i0 : Nat) : Nat := 0x2001014 + 0x40 * i0
/-- Offset of CASCADE_GRP_RETRACT (R285). -/
def Reg.cascadeGrpRetract (i0 : Nat) : Nat := 0x2001018 + 0x40 * i0
/-- Offset of CASCADE_GRP_RECALL (R285). -/
def Reg.cascadeGrpRecall (i0 : Nat) : Nat := 0x200101C + 0x40 * i0
/-- Offset of CASCADE_GRP_XREPEAT (R285). -/
def Reg.cascadeGrpXrepeat (i0 : Nat) : Nat := 0x2001020 + 0x40 * i0
/-- Offset of CASCADE_GRP_A2ADROP (R285). -/
def Reg.cascadeGrpA2adrop (i0 : Nat) : Nat := 0x2001024 + 0x40 * i0
/-- Offset of CASCADE_GRP_FORMS (R285). -/
def Reg.cascadeGrpForms (i0 : Nat) : Nat := 0x2001028 + 0x40 * i0
/-- Offset of FABRIC_STAT (R319). -/
def Reg.fabricStat : Nat := 0x2400000
/-- Offset of FABRIC_INJECT (R319). -/
def Reg.fabricInject : Nat := 0x2400004
/-- Offset of FABRIC_POS (R319). -/
def Reg.fabricPos : Nat := 0x2400008
/-- Offset of FABRIC_PREFIX_LO (R319). -/
def Reg.fabricPrefixLo : Nat := 0x2400010
/-- Offset of FABRIC_PREFIX_HI (R319). -/
def Reg.fabricPrefixHi : Nat := 0x2400014
/-- Offset of FABRIC_ECNTH (R319). -/
def Reg.fabricEcnth : Nat := 0x2400020
/-- Offset of FABRIC_QWT_RTO (R319). -/
def Reg.fabricQwtRto : Nat := 0x2400024
/-- Offset of FABRIC_QWT_RETRY (R319). -/
def Reg.fabricQwtRetry : Nat := 0x2400028
/-- Offset of FABRIC_DISC_PERIOD (R319). -/
def Reg.fabricDiscPeriod : Nat := 0x240002C
/-- Offset of FABRIC_LANE_FAILTH (R319). -/
def Reg.fabricLaneFailth : Nat := 0x2400030
/-- Offset of FABRIC_DSCP (R319). -/
def Reg.fabricDscp : Nat := 0x2400034
/-- Offset of FABRIC_SRCFILT (R319). -/
def Reg.fabricSrcfilt : Nat := 0x2400040
/-- Offset of FABRIC_NOROUTE (R319). -/
def Reg.fabricNoroute : Nat := 0x2400044
/-- Offset of FABRIC_PORT_CTL (R319). -/
def Reg.fabricPortCtl (i0 : Nat) : Nat := 0x2401000 + 0x100 * i0
/-- Offset of FABRIC_PORT_CMD (R319). -/
def Reg.fabricPortCmd (i0 : Nat) : Nat := 0x2401004 + 0x100 * i0
/-- Offset of FABRIC_PORT_STAT (R319). -/
def Reg.fabricPortStat (i0 : Nat) : Nat := 0x2401008 + 0x100 * i0
/-- Offset of FABRIC_PORT_LANES (R319). -/
def Reg.fabricPortLanes (i0 : Nat) : Nat := 0x240100C + 0x100 * i0
/-- Offset of FABRIC_PORT_PARTNER_LO (R319). -/
def Reg.fabricPortPartnerLo (i0 : Nat) : Nat := 0x2401010 + 0x100 * i0
/-- Offset of FABRIC_PORT_PARTNER_HI (R319). -/
def Reg.fabricPortPartnerHi (i0 : Nat) : Nat := 0x2401014 + 0x100 * i0
/-- Offset of FABRIC_PORT_PARTNERPOS (R319). -/
def Reg.fabricPortPartnerpos (i0 : Nat) : Nat := 0x2401018 + 0x100 * i0
/-- Offset of FABRIC_PORT_FECCORR_LO (R319). -/
def Reg.fabricPortFeccorrLo (i0 : Nat) : Nat := 0x2401020 + 0x100 * i0
/-- Offset of FABRIC_PORT_FECCORR_HI (R319). -/
def Reg.fabricPortFeccorrHi (i0 : Nat) : Nat := 0x2401024 + 0x100 * i0
/-- Offset of FABRIC_PORT_FECUNC (R319). -/
def Reg.fabricPortFecunc (i0 : Nat) : Nat := 0x2401028 + 0x100 * i0
/-- Offset of FABRIC_PORT_TAGDROP (R319). -/
def Reg.fabricPortTagdrop (i0 : Nat) : Nat := 0x240102C + 0x100 * i0
/-- Offset of FABRIC_PORT_RESETNAK (R319). -/
def Reg.fabricPortResetnak (i0 : Nat) : Nat := 0x2401030 + 0x100 * i0
/-- Offset of FABRIC_PORT_ECNMARK (R319). -/
def Reg.fabricPortEcnmark (i0 : Nat) : Nat := 0x2401034 + 0x100 * i0
/-- Offset of FABRIC_PORT_DROP (R319). -/
def Reg.fabricPortDrop (i0 : Nat) : Nat := 0x2401038 + 0x100 * i0
/-- Offset of FABRIC_PORT_RETRAINS (R319). -/
def Reg.fabricPortRetrains (i0 : Nat) : Nat := 0x240103C + 0x100 * i0
/-- Offset of FABRIC_LANE_STAT (R319). -/
def Reg.fabricLaneStat (i0 i1 : Nat) : Nat := 0x2401080 + 0x100 * i0 + 0x4 * i1
/-- Offset of FABRIC_PT_RXWIN_BASE_LO (R319). -/
def Reg.fabricPtRxwinBaseLo (i0 : Nat) : Nat := 0x2408000 + 0x200 * i0
/-- Offset of FABRIC_PT_RXWIN_BASE_HI (R319). -/
def Reg.fabricPtRxwinBaseHi (i0 : Nat) : Nat := 0x2408004 + 0x200 * i0
/-- Offset of FABRIC_PT_RXWIN_LEN_LO (R319). -/
def Reg.fabricPtRxwinLenLo (i0 : Nat) : Nat := 0x2408008 + 0x200 * i0
/-- Offset of FABRIC_PT_RXWIN_LEN_HI (R319). -/
def Reg.fabricPtRxwinLenHi (i0 : Nat) : Nat := 0x240800C + 0x200 * i0
/-- Offset of FABRIC_PT_PEER (R319). -/
def Reg.fabricPtPeer (i0 i1 i2 : Nat) : Nat := 0x2408100 + 0x200 * i0 + 0x10 * i1 + 0x4 * i2
/-- Offset of FABRIC_RT_RACK (R319). -/
def Reg.fabricRtRack (i0 : Nat) : Nat := 0x2410000 + 0x4 * i0
/-- Offset of FABRIC_RT_LOCAL (R319). -/
def Reg.fabricRtLocal (i0 : Nat) : Nat := 0x2414000 + 0x4 * i0
/-- Offset of FABRIC_RT_DEFAULT (R319). -/
def Reg.fabricRtDefault : Nat := 0x2414100
/-- Offset of RILL_STAT (R340). -/
def Reg.rillStat : Nat := 0x100000
/-- Offset of RILL_CMD (R340). -/
def Reg.rillCmd : Nat := 0x100004
/-- Offset of RILL_CPLTO (R340). -/
def Reg.rillCplto : Nat := 0x100008
/-- Offset of RILL_CRCERR (R340). -/
def Reg.rillCrcerr : Nat := 0x100010
/-- Offset of RILL_REPLAY (R340). -/
def Reg.rillReplay : Nat := 0x100014
/-- Offset of RILL_ACCREF (R340). -/
def Reg.rillAccref : Nat := 0x100018
/-- Offset of RILL_DMAREF (R340). -/
def Reg.rillDmaref : Nat := 0x10001C
/-- Offset of RILL_PROTERR (R340). -/
def Reg.rillProterr : Nat := 0x100020
/-- Offset of RILL_WIN_BASE_LO (R340). -/
def Reg.rillWinBaseLo (i0 : Nat) : Nat := 0x100100 + 0x20 * i0
/-- Offset of RILL_WIN_BASE_HI (R340). -/
def Reg.rillWinBaseHi (i0 : Nat) : Nat := 0x100104 + 0x20 * i0
/-- Offset of RILL_WIN_LEN_LO (R340). -/
def Reg.rillWinLenLo (i0 : Nat) : Nat := 0x100108 + 0x20 * i0
/-- Offset of RILL_WIN_LEN_HI (R340). -/
def Reg.rillWinLenHi (i0 : Nat) : Nat := 0x10010C + 0x20 * i0
/-- Offset of RILL_WIN_CTL (R340). -/
def Reg.rillWinCtl (i0 : Nat) : Nat := 0x100110 + 0x20 * i0
/-- Offset of RILL_WIN_STAT (R340). -/
def Reg.rillWinStat (i0 : Nat) : Nat := 0x100114 + 0x20 * i0
/-- Offset of RILL_MEQ_BASE_LO (R340). -/
def Reg.rillMeqBaseLo : Nat := 0x100900
/-- Offset of RILL_MEQ_BASE_HI (R340). -/
def Reg.rillMeqBaseHi : Nat := 0x100904
/-- Offset of RILL_MEQ_CTL (R340). -/
def Reg.rillMeqCtl : Nat := 0x100908
/-- Offset of RILL_MEQ_TAIL (R340). -/
def Reg.rillMeqTail : Nat := 0x10090C
/-- Offset of RILL_MEQ_DB (R340). -/
def Reg.rillMeqDb : Nat := 0x100910
/-- Offset of RILL_MEQ_LOST (R340). -/
def Reg.rillMeqLost : Nat := 0x100914
/-- Offset of QW_STAT (R341). -/
def Reg.qwStat (i0 : Nat) : Nat := 0x3800000 + 0x40000 * i0
/-- Offset of QW_SQ_BASE_LO (R341). -/
def Reg.qwSqBaseLo (i0 i1 : Nat) : Nat := 0x3800100 + 0x40000 * i0 + 0x20 * i1
/-- Offset of QW_SQ_BASE_HI (R341). -/
def Reg.qwSqBaseHi (i0 i1 : Nat) : Nat := 0x3800104 + 0x40000 * i0 + 0x20 * i1
/-- Offset of QW_SQ_CTL (R341). -/
def Reg.qwSqCtl (i0 i1 : Nat) : Nat := 0x3800108 + 0x40000 * i0 + 0x20 * i1
/-- Offset of QW_SQ_HEAD (R341). -/
def Reg.qwSqHead (i0 i1 : Nat) : Nat := 0x380010C + 0x40000 * i0 + 0x20 * i1
/-- Offset of QW_SQ_STAT (R341). -/
def Reg.qwSqStat (i0 i1 : Nat) : Nat := 0x3800110 + 0x40000 * i0 + 0x20 * i1
/-- Offset of QW_CQ_BASE_LO (R341). -/
def Reg.qwCqBaseLo (i0 i1 : Nat) : Nat := 0x3800200 + 0x40000 * i0 + 0x20 * i1
/-- Offset of QW_CQ_BASE_HI (R341). -/
def Reg.qwCqBaseHi (i0 i1 : Nat) : Nat := 0x3800204 + 0x40000 * i0 + 0x20 * i1
/-- Offset of QW_CQ_CTL (R341). -/
def Reg.qwCqCtl (i0 i1 : Nat) : Nat := 0x3800208 + 0x40000 * i0 + 0x20 * i1
/-- Offset of QW_CQ_TAIL (R341). -/
def Reg.qwCqTail (i0 i1 : Nat) : Nat := 0x380020C + 0x40000 * i0 + 0x20 * i1
/-- Offset of QW_CQ_STAT (R341). -/
def Reg.qwCqStat (i0 i1 : Nat) : Nat := 0x3800210 + 0x40000 * i0 + 0x20 * i1
/-- Offset of QW_EQ_BASE_LO (R341). -/
def Reg.qwEqBaseLo (i0 : Nat) : Nat := 0x3800300 + 0x40000 * i0
/-- Offset of QW_EQ_BASE_HI (R341). -/
def Reg.qwEqBaseHi (i0 : Nat) : Nat := 0x3800304 + 0x40000 * i0
/-- Offset of QW_EQ_CTL (R341). -/
def Reg.qwEqCtl (i0 : Nat) : Nat := 0x3800308 + 0x40000 * i0
/-- Offset of QW_EQ_TAIL (R341). -/
def Reg.qwEqTail (i0 : Nat) : Nat := 0x380030C + 0x40000 * i0
/-- Offset of QW_EQ_STAT (R341). -/
def Reg.qwEqStat (i0 : Nat) : Nat := 0x3800310 + 0x40000 * i0
/-- Offset of QW_EQ_LOST (R341). -/
def Reg.qwEqLost (i0 : Nat) : Nat := 0x3800314 + 0x40000 * i0
/-- Offset of QW_SQ_DB (R341). -/
def Reg.qwSqDb (i0 i1 : Nat) : Nat := 0x3801000 + 0x40000 * i0 + 0x8 * i1
/-- Offset of QW_CQ_DB (R341). -/
def Reg.qwCqDb (i0 i1 : Nat) : Nat := 0x3801100 + 0x40000 * i0 + 0x8 * i1
/-- Offset of QW_EQ_DB (R341). -/
def Reg.qwEqDb (i0 : Nat) : Nat := 0x3801200 + 0x40000 * i0
/-- Offset of FAULT_STAT (R371). -/
def Reg.faultStat : Nat := 0x2800000
/-- Offset of FAULT_CTL (R371). -/
def Reg.faultCtl : Nat := 0x2800004
/-- Offset of FAULT_SEQ (R371). -/
def Reg.faultSeq : Nat := 0x2800008
/-- Offset of FAULT_LOST (R371). -/
def Reg.faultLost (i0 : Nat) : Nat := 0x2800010 + 0x4 * i0
/-- Offset of FAULT_COUNT (R371). -/
def Reg.faultCount (i0 : Nat) : Nat := 0x2800030 + 0x4 * i0
/-- Offset of FAULT_TRACKEVICT (R371). -/
def Reg.faultTrackevict : Nat := 0x2800050
/-- Offset of FAULT_CAND (R371). -/
def Reg.faultCand : Nat := 0x2800054
/-- Offset of FAULT_NOTICE_OUT (R371). -/
def Reg.faultNoticeOut : Nat := 0x2800058
/-- Offset of FAULT_NOTICE_SUPP (R371). -/
def Reg.faultNoticeSupp : Nat := 0x280005C
/-- Offset of FAULT_NOTICE_IN (R371). -/
def Reg.faultNoticeIn : Nat := 0x2800060
/-- Offset of FAULT_RING_BASE_LO (R371). -/
def Reg.faultRingBaseLo : Nat := 0x2800100
/-- Offset of FAULT_RING_BASE_HI (R371). -/
def Reg.faultRingBaseHi : Nat := 0x2800104
/-- Offset of FAULT_RING_CTL (R371). -/
def Reg.faultRingCtl : Nat := 0x2800108
/-- Offset of FAULT_RING_TAIL (R371). -/
def Reg.faultRingTail : Nat := 0x280010C
/-- Offset of FAULT_RING_STAT (R371). -/
def Reg.faultRingStat : Nat := 0x2800110
/-- Offset of FAULT_RING_DB (R371). -/
def Reg.faultRingDb : Nat := 0x2800114
/-- Offset of FAULT_LAST (R371). -/
def Reg.faultLast (i0 : Nat) : Nat := 0x2800200 + 0x4 * i0
/-- Offset of FAULT_PT_LOST (R371). -/
def Reg.faultPtLost (i0 : Nat) : Nat := 0x2800400 + 0x4 * i0
/-- Offset of HBM_STAT (R372). -/
def Reg.hbmStat (i0 i1 : Nat) : Nat := 0x1380000 + 0x400000 * i0 + 0x10000 * i1
/-- Offset of HBM_CECNT (R372). -/
def Reg.hbmCecnt (i0 i1 : Nat) : Nat := 0x1380004 + 0x400000 * i0 + 0x10000 * i1
/-- Offset of HBM_UECNT (R372). -/
def Reg.hbmUecnt (i0 i1 : Nat) : Nat := 0x1380008 + 0x400000 * i0 + 0x10000 * i1
/-- Offset of HBM_ADDRCNT (R372). -/
def Reg.hbmAddrcnt (i0 i1 : Nat) : Nat := 0x138000C + 0x400000 * i0 + 0x10000 * i1
/-- Offset of HBM_SCRUBCTL (R372). -/
def Reg.hbmScrubctl (i0 i1 : Nat) : Nat := 0x1380010 + 0x400000 * i0 + 0x10000 * i1
/-- Offset of HBM_SCRUBPASS (R372). -/
def Reg.hbmScrubpass (i0 i1 : Nat) : Nat := 0x1380014 + 0x400000 * i0 + 0x10000 * i1
/-- Offset of HBM_LASTUE (R372). -/
def Reg.hbmLastue (i0 i1 : Nat) : Nat := 0x1380018 + 0x400000 * i0 + 0x10000 * i1
/-- Offset of CISTERN_STAT (R396). -/
def Reg.cisternStat : Nat := 0x2C00000
/-- Offset of CISTERN_CMD (R396). -/
def Reg.cisternCmd : Nat := 0x2C00004
/-- Offset of CISTERN_QUERY (R396). -/
def Reg.cisternQuery : Nat := 0x2C00008
/-- Offset of CISTERN_QFROM_LO (R396). -/
def Reg.cisternQfromLo : Nat := 0x2C00010
/-- Offset of CISTERN_QFROM_HI (R396). -/
def Reg.cisternQfromHi : Nat := 0x2C00014
/-- Offset of CISTERN_QKEY_LO (R396). -/
def Reg.cisternQkeyLo : Nat := 0x2C00018
/-- Offset of CISTERN_QKEY_HI (R396). -/
def Reg.cisternQkeyHi : Nat := 0x2C0001C
/-- Offset of CISTERN_RDSTAT (R396). -/
def Reg.cisternRdstat : Nat := 0x2C00020
/-- Offset of CISTERN_GOVSTAT (R396). -/
def Reg.cisternGovstat : Nat := 0x2C00030
/-- Offset of CISTERN_GOVWIN (R396). -/
def Reg.cisternGovwin : Nat := 0x2C00034
/-- Offset of CISTERN_GOVWAIT (R396). -/
def Reg.cisternGovwait : Nat := 0x2C00038
/-- Offset of CISTERN_RSEQ_LO (R396). -/
def Reg.cisternRseqLo : Nat := 0x2C00040
/-- Offset of CISTERN_RSEQ_HI (R396). -/
def Reg.cisternRseqHi : Nat := 0x2C00044
/-- Offset of CISTERN_LIVE (R396). -/
def Reg.cisternLive : Nat := 0x2C00048
/-- Offset of CISTERN_MOUNT (R396). -/
def Reg.cisternMount : Nat := 0x2C0004C
/-- Offset of CISTERN_REFRESHCNT (R396). -/
def Reg.cisternRefreshcnt : Nat := 0x2C00050
/-- Offset of CISTERN_ERASEMAX (R396). -/
def Reg.cisternErasemax : Nat := 0x2C00054
/-- Offset of CISTERN_ERASEMIN (R396). -/
def Reg.cisternErasemin : Nat := 0x2C00058
/-- Offset of CISTERN_DEFCNT (R396). -/
def Reg.cisternDefcnt : Nat := 0x2C0005C
/-- Offset of CISTERN_STAMP_LO (R396). -/
def Reg.cisternStampLo : Nat := 0x2C00060
/-- Offset of CISTERN_STAMP_HI (R396). -/
def Reg.cisternStampHi : Nat := 0x2C00064
/-- Offset of CISTERN_DEFCLR (R396). -/
def Reg.cisternDefclr : Nat := 0x2C00070
/-- Offset of CISTERN_DEFRES (R396). -/
def Reg.cisternDefres : Nat := 0x2C00074
/-- Offset of CISTERN_COUNTER (R396). -/
def Reg.cisternCounter (i0 : Nat) : Nat := 0x2C00080 + 0x4 * i0
/-- Offset of CISTERN_RDBUF (R396). -/
def Reg.cisternRdbuf (i0 : Nat) : Nat := 0x2C01000 + 0x4 * i0
/-- Offset of SEC_STAT (R412). -/
def Reg.secStat : Nat := 0x3000000
/-- Offset of SEC_CMD (R412). -/
def Reg.secCmd : Nat := 0x3000004
/-- Offset of SEC_RESULT (R412). -/
def Reg.secResult : Nat := 0x3000008
/-- Offset of SEC_PRES (R412). -/
def Reg.secPres : Nat := 0x300000C
/-- Offset of SEC_SEALNO (R412). -/
def Reg.secSealno : Nat := 0x3000010
/-- Offset of SEC_NOPRES (R412). -/
def Reg.secNopres : Nat := 0x3000014
/-- Offset of SEC_SRC_LO (R412). -/
def Reg.secSrcLo : Nat := 0x3000018
/-- Offset of SEC_SRC_HI (R412). -/
def Reg.secSrcHi : Nat := 0x300001C
/-- Offset of SEC_LEN (R412). -/
def Reg.secLen : Nat := 0x3000020
/-- Offset of SEC_DST_LO (R412). -/
def Reg.secDstLo : Nat := 0x3000024
/-- Offset of SEC_DST_HI (R412). -/
def Reg.secDstHi : Nat := 0x3000028
/-- Offset of SEC_NONCE (R412). -/
def Reg.secNonce (i0 : Nat) : Nat := 0x3000040 + 0x4 * i0
/-- Offset of SEC_ROOTDIG (R412). -/
def Reg.secRootdig (i0 : Nat) : Nat := 0x3000080 + 0x4 * i0
/-- Offset of SEC_OWNDIG (R412). -/
def Reg.secOwndig (i0 : Nat) : Nat := 0x30000C0 + 0x4 * i0
/-- Offset of SEC_FWDIG (R412). -/
def Reg.secFwdig (i0 : Nat) : Nat := 0x3000100 + 0x4 * i0
/-- Offset of TEST_BOOT (R435). -/
def Reg.testBoot : Nat := 0x3200000
/-- Offset of TEST_MEMSEL (R435). -/
def Reg.testMemsel : Nat := 0x3200004
/-- Offset of TEST_MEMSTAT (R435). -/
def Reg.testMemstat : Nat := 0x3200008
/-- Offset of TEST_CTL (R435). -/
def Reg.testCtl : Nat := 0x320000C
/-- Offset of TEST_ACT (R435). -/
def Reg.testAct : Nat := 0x3200010
/-- Offset of TEST_ACTDRAIN (R435). -/
def Reg.testActdrain : Nat := 0x3200014
/-- Offset of TEST_ACTCMD (R435). -/
def Reg.testActcmd : Nat := 0x3200018
/-- Offset of TEST_READY_LO (R435). -/
def Reg.testReadyLo : Nat := 0x3200020
/-- Offset of TEST_READY_HI (R435). -/
def Reg.testReadyHi : Nat := 0x3200024
/-- Offset of TEST_FAILCNT (R435). -/
def Reg.testFailcnt : Nat := 0x3200030
/-- Offset of TEST_DEFERCNT (R435). -/
def Reg.testDefercnt : Nat := 0x3200034
/-- Offset of TEST_FORCECNT (R435). -/
def Reg.testForcecnt : Nat := 0x3200038
/-- Offset of TEST_ARRAY (R435). -/
def Reg.testArray (i0 : Nat) : Nat := 0x3200100 + 0x4 * i0
/-- Offset of POWER_STAT (R459). -/
def Reg.powerStat : Nat := 0x2E00000
/-- Offset of POWER_CTL (R459). -/
def Reg.powerCtl : Nat := 0x2E00004
/-- Offset of POWER_MODCAP (R459). -/
def Reg.powerModcap : Nat := 0x2E00008
/-- Offset of POWER_CAPEFF (R459). -/
def Reg.powerCapeff : Nat := 0x2E0000C
/-- Offset of POWER_PFW_W (R459). -/
def Reg.powerPfwW : Nat := 0x2E00010
/-- Offset of POWER_COT_W (R459). -/
def Reg.powerCotW : Nat := 0x2E00014
/-- Offset of POWER_DROOP (R459). -/
def Reg.powerDroop : Nat := 0x2E00018
/-- Offset of POWER_RSTCAUSE (R459). -/
def Reg.powerRstcause : Nat := 0x2E0001C
/-- Offset of POWER_INPUT (R459). -/
def Reg.powerInput : Nat := 0x2E00020
/-- Offset of POWER_EST (R459). -/
def Reg.powerEst : Nat := 0x2E00024
/-- Offset of POWER_LIMCNT (R459). -/
def Reg.powerLimcnt : Nat := 0x2E00028
/-- Offset of POWER_ABSCNT (R459). -/
def Reg.powerAbscnt : Nat := 0x2E0002C
/-- Offset of POWER_MEAS_LO (R459). -/
def Reg.powerMeasLo : Nat := 0x2E00030
/-- Offset of POWER_MEAS_HI (R459). -/
def Reg.powerMeasHi : Nat := 0x2E00034
/-- Offset of POWER_TAG0_LO (R459). -/
def Reg.powerTag0Lo : Nat := 0x2E00038
/-- Offset of POWER_TAG0_HI (R459). -/
def Reg.powerTag0Hi : Nat := 0x2E0003C
/-- Offset of POWER_DIE (R459). -/
def Reg.powerDie (i0 : Nat) : Nat := 0x2E00040 + 0x4 * i0
/-- Offset of POWER_TEMP (R459). -/
def Reg.powerTemp (i0 : Nat) : Nat := 0x2E00050 + 0x4 * i0
/-- Offset of POWER_DROOPCNT (R459). -/
def Reg.powerDroopcnt (i0 : Nat) : Nat := 0x2E00060 + 0x4 * i0
/-- Offset of POWER_VGUARD (R459). -/
def Reg.powerVguard : Nat := 0x2E00070
/-- Offset of POWER_RAIL (R459). -/
def Reg.powerRail (i0 : Nat) : Nat := 0x2E00080 + 0x4 * i0
/-- Offset of POWER_VTAB (R459). -/
def Reg.powerVtab (i0 i1 : Nat) : Nat := 0x2E00100 + 0x40 * i0 + 0x4 * i1
/-- Offset of POWER_CALSCALE (R459). -/
def Reg.powerCalscale (i0 : Nat) : Nat := 0x2E00200 + 0x4 * i0
/-- Offset of POWER_PT_GRANT (R459). -/
def Reg.powerPtGrant (i0 : Nat) : Nat := 0x2E01000 + 0x20 * i0
/-- Offset of POWER_PT_ENERGY_LO (R459). -/
def Reg.powerPtEnergyLo (i0 : Nat) : Nat := 0x2E01004 + 0x20 * i0
/-- Offset of POWER_PT_ENERGY_HI (R459). -/
def Reg.powerPtEnergyHi (i0 : Nat) : Nat := 0x2E01008 + 0x20 * i0
/-- Offset of POWER_PT_AVG (R459). -/
def Reg.powerPtAvg (i0 : Nat) : Nat := 0x2E0100C + 0x20 * i0
/-- Offset of POWER_PT_CAPHIT (R459). -/
def Reg.powerPtCaphit (i0 : Nat) : Nat := 0x2E01010 + 0x20 * i0
/-- Offset of INTC_STAT (R477). -/
def Reg.intcStat : Nat := 0x2A00000
/-- Offset of INTC_GCTL (R477). -/
def Reg.intcGctl : Nat := 0x2A00004
/-- Offset of INTC_CORE (R477). -/
def Reg.intcCore (i0 : Nat) : Nat := 0x2A00010 + 0x4 * i0
/-- Offset of INTC_PEND (R477). -/
def Reg.intcPend (i0 : Nat) : Nat := 0x2A00100 + 0x4 * i0
/-- Offset of INTC_ACTIVE (R477). -/
def Reg.intcActive (i0 : Nat) : Nat := 0x2A00120 + 0x4 * i0
/-- Offset of INTC_SRC (R477). -/
def Reg.intcSrc (i0 : Nat) : Nat := 0x2A00400 + 0x4 * i0
/-- Offset of INPUT_CFG (R477). -/
def Reg.inputCfg (i0 : Nat) : Nat := 0x2A00800 + 0x10 * i0
/-- Offset of INPUT_STORM (R477). -/
def Reg.inputStorm (i0 : Nat) : Nat := 0x2A00804 + 0x10 * i0
/-- Offset of INPUT_STAT (R477). -/
def Reg.inputStat (i0 : Nat) : Nat := 0x2A00808 + 0x10 * i0
/-- Offset of INPUT_CNT (R477). -/
def Reg.inputCnt (i0 : Nat) : Nat := 0x2A0080C + 0x10 * i0
/-- Offset of FTN_STAT (R478). -/
def Reg.ftnStat : Nat := 0x3400000
/-- Offset of FTN_FWVER (R478). -/
def Reg.ftnFwver : Nat := 0x3400004
/-- Offset of FTN_RESTARTS (R478). -/
def Reg.ftnRestarts : Nat := 0x3400008
/-- Offset of FTN_MB_CTL (R478). -/
def Reg.ftnMbCtl (i0 : Nat) : Nat := 0x3401000 + 0x1000 * i0
/-- Offset of FTN_MB_STAT (R478). -/
def Reg.ftnMbStat (i0 : Nat) : Nat := 0x3401004 + 0x1000 * i0
/-- Offset of FTN_MB_REQ (R478). -/
def Reg.ftnMbReq (i0 i1 : Nat) : Nat := 0x3401100 + 0x1000 * i0 + 0x4 * i1
/-- Offset of FTN_MB_RSP (R478). -/
def Reg.ftnMbRsp (i0 i1 : Nat) : Nat := 0x3401200 + 0x1000 * i0 + 0x4 * i1

end Sys2Proof.Machine
end

