-- ==== Sys2Proof/Machine/Sparse.lean ====
section
/-! DEFINITION. Sparse.lean: sparse data by key in one canonical form: keys strictly rising and no entry equal to what an
unlisted key reads as. Memory (R415, R44) and the register file use it. -/
namespace Sys2Proof.Machine

/-- What a key reads as. -/
def Sparse.get {α : Type} (dflt : Nat → α) : List (Nat × α) → Nat → α
  | [], k => dflt k
  | (k', v) :: t, k => if k = k' then v else if k < k' then dflt k else Sparse.get dflt t k

/-- Write a key; writing what an unlisted key reads as removes the entry. -/
def Sparse.set {α : Type} [DecidableEq α] (dflt : Nat → α) : List (Nat × α) → Nat → α → List (Nat × α)
  | [], k, v => if v = dflt k then [] else [(k, v)]
  | (k', v') :: t, k, v =>
    if k = k' then (if v = dflt k then t else (k, v) :: t)
    else if k < k' then (if v = dflt k then (k', v') :: t else (k, v) :: (k', v') :: t)
    else (k', v') :: Sparse.set dflt t k v

/-- Forget every key that satisfies a test: those keys read as unlisted again. -/
def Sparse.clear {α : Type} (p : Nat → Bool) (m : List (Nat × α)) : List (Nat × α) := m.filter fun e => !p e.1

/-- Every key of the list lies above a bound. -/
def Sparse.above {α : Type} (b : Nat) (m : List (Nat × α)) : Bool := m.all fun e => b < e.1

/-- The canonical form: keys strictly rising, no entry equal to its default. -/
def Sparse.wf {α : Type} [DecidableEq α] (dflt : Nat → α) : List (Nat × α) → Bool
  | [] => true
  | (k, v) :: t => Sparse.above k t && decide (v ≠ dflt k) && Sparse.wf dflt t

/-- What a byte of memory that nothing has written reads as: zero, as B7 leaves every pool and channel (R415) and a scrub
leaves it (R44). -/
def memDefault (_ : Nat) : Byte := 0#8

/-- Memory contents. -/
abbrev Memory := List Host.Cell

/-- Read one byte. -/
def Memory.read (m : Memory) (a : Nat) : Byte := Sparse.get memDefault m a
/-- Write one byte. -/
def Memory.write (m : Memory) (a : Nat) (b : Byte) : Memory := Sparse.set memDefault m a b
/-- The canonical form of memory. -/
def Memory.wf (m : Memory) : Bool := Sparse.wf memDefault m

/-- Read n bytes from an address. -/
def Memory.readBytes (m : Memory) (a : Nat) : Nat → List Byte
  | 0 => []
  | n + 1 => Memory.read m a :: Memory.readBytes m (a + 1) n

/-- Write bytes from an address on. -/
def Memory.writeBytes (m : Memory) (a : Nat) : List Byte → Memory
  | [] => m
  | b :: bs => Memory.writeBytes (Memory.write m a b) (a + 1) bs

/-- Scrub: every byte whose address satisfies the test reads zero (R44). -/
def Memory.scrub (m : Memory) (p : Nat → Bool) : Memory := Sparse.clear p m

/-- Sorted set of numbers: insertion without repeats. -/
def setInsert (k : Nat) : List Nat → List Nat
  | [] => [k]
  | h :: t => if k = h then h :: t else if k < h then k :: h :: t else h :: setInsert k t

end Sys2Proof.Machine
end

