-- ==== Sys2Proof/Machine/MgmtTypes.lean ====
section
/-! DEFINITION. MgmtTypes.lean: the state of the management side: host link and queues (12), faults (13), Cistern (14),
security (15), bring-up and test (16), power (17), Fountainer and interrupt control (18). -/
namespace Sys2Proof.Machine

/-! ### Host link and queues (R320 to R341) -/

/-- A ring in host memory (R331): its BASE and CTL stand in the register file. -/
structure Ring where
  head : Nat := 0
  tail : Nat := 0
  phase : Bool := false
  fault : Nat := 0
  dberr : Bool := false
  /-- Entries posted and not yet signalled, and the time of the first of them (R336). -/
  unsig : Nat := 0
  firstAt : Option Nat := none
deriving DecidableEq, Repr, Inhabited

/-- An event (R335, Table 12-7), less SEQ and PHASE, which posting gives it. -/
structure Event where
  code : Nat
  pt : Option Nat
  time : Nat
  body : List Byte
deriving DecidableEq, Repr, Inhabited

/-- An event queue (R335): held events, losses not yet reported by EQ_OVERFLOW, events posted. -/
structure EvQueue where
  ring : Ring := {}
  seq : Nat := 0
  held : List Event := []
  lost : Nat := 0
deriving DecidableEq, Repr, Inhabited

/-- A submission queue (R332). -/
structure SubQueue where
  ring : Ring := {}
deriving DecidableEq, Repr, Inhabited

/-- Entries of the hold of a partition (R333): completion queue, submission queue and the 32 bytes of Table 09-3. -/
structure HeldEntry where
  cq : Nat
  sq : Nat
  bytes : List Byte
deriving DecidableEq, Repr, Inhabited

/-- Queues of one partition's window (R341). -/
structure PtQueues where
  sq : Vector SubQueue 8 := Vector.replicate 8 {}
  cq : Vector Ring 8 := Vector.replicate 8 {}
  eq : EvQueue := {}
  hold : List HeldEntry := []
deriving DecidableEq, Repr

/-- What a message to host memory is for. -/
inductive Purpose where
  /-- Descriptor fetch from a submission queue (R332). -/
  | fetch (pt sq count : Nat)
  /-- An entry of a completion queue, an event queue or the MEQ. -/
  | entry
  /-- An error ring entry for the record with this uid (R363). -/
  | record (uid : Nat)
  /-- Part of a DMA_IN (R234): offset within the transfer. -/
  | dmaIn (pt admno off : Nat)
  /-- Part of a DMA_OUT or a SNAPSHOT to a host window. -/
  | dmaOut (pt admno : Nat)
  /-- Part of a signed object (R404): offset within it. -/
  | secObject (off : Nat)
  /-- Part of a security block output (R408, R409). -/
  | secOutput
deriving DecidableEq, Repr, Inhabited

/-- A MEM_RD or MEM_WR not yet answered (R326). -/
structure Outstanding where
  tag : Nat
  read : Bool
  window : Nat
  deadline : Nat
  len : Nat
  purpose : Purpose
deriving DecidableEq, Repr, Inhabited

/-- A message that waits to be sent: reads beyond 256 outstanding wait (R326). -/
structure WaitingMsg where
  addr : Nat
  len : Nat
  mgmt : Bool
  pt : Nat
  purpose : Purpose
deriving DecidableEq, Repr, Inhabited

/-- A message the module sends over the Rill link (Table 12-4), and what the flit layer sends (R324). -/
inductive HostMsg where
  | regCpl (tag : Nat) (status : Nat) (data : List Byte)
  | memRd (tag addr units : Nat)
  | memWr (tag addr : Nat) (data : List Byte)
  | attn (vector : Nat)
  | nak (ackseq : Nat)
  | resend (first count : Nat)
deriving DecidableEq, Repr, Inhabited

/-- The Rill controller (R320 to R340). -/
structure Rill where
  /-- Training stage 1 to 4 of Table 12-1, or 0 while no stage runs. -/
  stage : Nat := 0
  /-- Start of the stage (R321), and whether the cable grounds CBL_PRES_N, as last seen (R482). -/
  since : Nat := 0
  cable : Bool := false
  up : Bool := false
  width : Nat := 0
  good : Nat := 0
  /-- Time from which a failed training may restart (R321). -/
  retryAt : Option Nat := none
  /-- Payload bytes sent since the link came up; the flits that carry them number ⌈bytes / 240⌉ (R323). -/
  txBytes : Nat := 0
  /-- Sequence number of the next flit expected (R323). -/
  rxNext : Nat := 0
  /-- First flit of the last resend, and how often in a row it has been resent (R324). -/
  resendAt : Nat := 0
  resendRun : Nat := 0
  creditReq : Nat := 0
  creditCpl : Nat := 0
  nextTag : Nat := 0
  outst : List Outstanding := []
  waiting : List WaitingMsg := []
  /-- Messages that wait for request credit, oldest first (R326). -/
  held : List HostMsg := []
  /-- Windows whose last VALID write was refused (RILL_WIN_STAT.BAD). -/
  winBad : List Nat := []
  meq : EvQueue := {}
deriving DecidableEq, Repr, Inhabited

/-! ### Faults (R342 to R372) -/

/-- An error record (Table 13-4) with what the aggregator keeps beside it. -/
structure Rec where
  uid : Nat := 0
  sev : Nat := 0
  pt : Option Nat := none
  cls : Nat := 0
  coalesced : Bool := false
  confirmed : Bool := false
  committed : Bool := false
  time : Nat := 0
  count : Nat := 1
  temp : Int := 0
  die : Nat := 15
  block : Nat := 0
  inst : Nat := 0
  volt : Nat := 0
  step : Option Nat := none
  mb : Option Nat := none
  admno : Nat := 0
  layer : Nat := 0
  detail0 : Nat := 0
  detail1 : Nat := 0
  detail2 : Nat := 0
  /-- The record this one names by its SEQ in DETAIL1 (R349, R352, R360). -/
  names : Option Nat := none
  /-- SEQ once handled, and whether its ring entry has been issued and awaits its acknowledgement (R363). -/
  seq : Option Nat := none
  issued : Bool := false
  /-- Ring slot and phase its entry was written with, kept while the ring stays enabled (R363). -/
  slot : Option (Nat × Bool) := none
  lostBefore : Bool := false
  /-- Resource key of the candidate a DEFECT_CANDIDATE record reports, and whether a bring-up test found it (R368, R421). -/
  cand : Option Nat := none
  candTest : Bool := false
deriving DecidableEq, Repr, Inhabited

/-- An open coalescing window of corrected errors (R362): resource by DIE, BLOCK, INSTANCE and DETAIL1. -/
structure Coalesce where
  start : Nat
  count : Nat
  first : Rec
deriving DecidableEq, Repr, Inhabited

/-- A tracked resource (R368): kind, die, instance, row, and its counted events as (time, which counted event of Table 13-8,
word or sector). -/
structure Tracked where
  kind : Nat
  die : Nat
  inst : Nat
  row : Nat
  events : List (Nat × Nat × Nat)
deriving DecidableEq, Repr, Inhabited

/-- An open suspect window (R367): port, start, notices, first accuser, cause. -/
structure SuspectWin where
  port : Nat
  start : Nat
  count : Nat
  accuser : Nat
  cause : Nat
deriving DecidableEq, Repr, Inhabited

/-- The fault aggregator. -/
structure FaultUnit where
  queue : List Rec := []
  seq : Nat := 0
  uid : Nat := 0
  lostRing : Bool := false
  lostLast : Bool := false
  /-- uid and SEQ of records handled or discarded, kept for the records that name them (R360). -/
  named : List (Nat × Nat) := []
  coalesce : List Coalesce := []
  track : List Tracked := []
  suspects : List SuspectWin := []
  /-- Position of a suspect module and the time of the last notice sent to it (R366). -/
  notices : List (Nat × Nat) := []
  ring : Ring := {}
  /-- Partitions with a record of severity 2 and COMMITTED clear since the step's start or last replay, and the uid of the latest
  record of each partition with COMMITTED set (R349). -/
  recov : List Nat := []
  commRec : List (Nat × Nat) := []
deriving DecidableEq, Repr, Inhabited

/-! ### Cistern (R373 to R396) -/

/-- A journal record (R377) with the PAGE_SEQ of the page that holds it and whether it is committed (R379). -/
structure JRec where
  rseq : Nat
  typ : Nat
  frag : Nat
  body : List Byte
  page : Nat
  committed : Bool
deriving DecidableEq, Repr, Inhabited

/-- A programmed journal page (Table 14-2). -/
structure JPage where
  seq : Nat
  pair : Nat
  index : Nat
  pfail : Bool
  copy : Bool
  pwron : Nat
  phours : Nat
deriving DecidableEq, Repr, Inhabited

/-- What a pair is used for. -/
inductive PairUse where
  | erased | written | erasing | bad
deriving DecidableEq, Repr, Inhabited

/-- A pair that is not erased with ERASES 0. -/
structure JPair where
  pair : Nat
  erases : Nat
  use : PairUse
deriving DecidableEq, Repr, Inhabited

/-- The NAND journal. -/
structure Journal where
  recs : List JRec := []
  pages : List JPage := []
  pairs : List JPair := []
  nextRseq : Nat := 1
  nextPage : Nat := 1
  /-- The pair being filled and its next page. -/
  pair : Nat := 0
  index : Nat := 0
deriving DecidableEq, Repr, Inhabited

/-- A NOR image region: validity marker and the object it holds (R407). -/
structure NorSlot where
  marker : Bool := false
  obj : List Byte := []
deriving DecidableEq, Repr, Inhabited

/-- Inventory EEPROM as written at manufacture (Table 19-6): serial, REV, year and week; unused bytes hold 0xFF. -/
def eepromOf (serial rev year week : Nat) : List Byte :=
  let body := packLE [(4, 0x49555751), (1, 1), (1, 0xFF), (2, 0x2641), (8, serial), (2, year), (1, week), (1, 0xFF), (1, rev), (1, 0xFF), (2, 4000), (2, 2000),
    (1, 40), (1, 35), (1, 35), (1, 1)] ++ List.replicate 222 0xFF#8
  body ++ leBytes 4 (crc32c body).toNat

/-- What outlives power: fuses, NOR, journal, EEPROM, powered hours. -/
structure Nv where
  /-- Fuse map as manufactured, and fuse rows programmed since (R407). -/
  factory : FuseMap
  fuseRows : List (Nat × Word)
  slotA : NorSlot
  slotB : NorSlot
  recovery : NorSlot
  choice : Nat
  journal : Journal
  phours : Nat
  eeprom : List Byte
deriving DecidableEq, Repr

/-- A journal program in progress (R379). -/
structure JProg where
  page : JPage
  recs : List JRec
  /-- The page holds copies (R385). -/
  copy : Bool
deriving DecidableEq, Repr, Inhabited

/-- Energy of one tag (R391, R392): µJ not yet in a record, mJ in its records, whether it drew energy this hour. -/
structure TagEnergy where
  tag : Nat
  micro : Nat
  cumul : Nat
deriving DecidableEq, Repr, Inhabited

/-- A defect overlay entry (Table 14-5a). -/
structure Defect where
  key : Nat
  state : Nat
  unrepaired : Bool := false
  cands : Nat := 0
  firstPwron : Nat := 0
  firstPhours : Nat := 0
  lastPhours : Nat := 0
  source : Nat := 0
deriving DecidableEq, Repr, Inhabited

/-- The Cistern controller's volatile state. -/
structure Cistern where
  /-- CISTERN_STAT.STATE. -/
  st : Nat := 0
  /-- Records of the open page, oldest first. -/
  page : List JRec := []
  /-- Records that refresh and compaction copy forward (R385, R386). -/
  copies : List JRec := []
  prog : Option JProg := none
  /-- Records programmed and not yet named by a COMMIT. -/
  uncommitted : List Nat := []
  bucket : Nat := 4096
  reserve : Nat := 64
  govwait : Bool := false
  bins : List Nat := List.replicate 96 0
  /-- Pair programs since the last CHECKPOINT (R378). -/
  sinceCheckpoint : Nat := 0
  pausedUntil : Option Nat := none
  flushing : Bool := false
  refreshing : Bool := false
  compacting : Option Nat := none
  suppress : Bool := false
  tags : List TagEnergy := []
  /-- Latest host stamp and the local time of its writing; whether this hour's stamp is still to be recorded. -/
  stamp : Option (Nat × Nat) := none
  stampNew : Bool := false
  /-- Error history counts by (CLASS, DIE, BLOCK, INSTANCE) key, and the keys changed since the last hour. -/
  errhist : List (Nat × Nat) := []
  errchanged : List Nat := []
  /-- S cycles per (die, bin) (Table 14-6). -/
  stress : List (Nat × Nat) := []
  /-- Hour of the latest ledger boundary, and of the latest GOVERNOR_WAIT, CALIB and class reports. -/
  hour : Nat := 0
  govHour : Option Nat := none
  /-- The overlay as the journal service holds it (R387 to R390). -/
  overlay : List Defect := []
  /-- Presence bodies held while the journal is read-only (R382). -/
  presence : List (List Byte) := []
  rdbuf : List Byte := []
  rdValid : Bool := false
  rdEnd : Bool := false
  torn : Nat := 0
  lostPages : Nat := 0
deriving DecidableEq, Repr, Inhabited

/-! ### Security (R397 to R412) -/

/-- A security command that runs (R403). -/
structure SecRun where
  cmd : Nat
  arg : Nat
  /-- Parts of the object fetched so far, by offset, and whether the fetch failed. -/
  parts : List (Nat × List Byte)
  failed : Bool
  /-- Output still to be acknowledged by the host, in messages. -/
  writes : Nat
  /-- Result code found when the command started (0: none yet). -/
  code : Nat
deriving DecidableEq, Repr, Inhabited

/-- The security block. -/
structure Sec where
  windowEnd : Option Nat := none
  sealValid : Bool := false
  sealNo : Nat := 0
  run : Option SecRun := none
  refHour : Option Nat := none
deriving DecidableEq, Repr, Inhabited

/-! ### Bring-up, resets, test (R413 to R435) -/

/-- Bring-up state. -/
structure Boot where
  input : Bool := false
  released : Bool := false
  /-- Phase that runs, 1 to 10; 11 once READY or halted. -/
  phase : Nat := 0
  /-- TEST_BOOT.PHASE. -/
  reached : Nat := 0
  /-- Candidates still to try in B4, the first being under trial (R416). -/
  cands : List Nat := []
  /-- When the candidate under trial began (R417). -/
  candAt : Nat := 0
  failed : Nat := 0
  slot : Nat := 3
  halt : Bool := false
  journalRo : Bool := false
  ready : Bool := false
  quick : Bool := false
  eligible : Bool := false
  memStage : Nat := 0
  memFull : Bool := false
  memCands : Nat := 0
  computeResetting : Bool := false
  ptResetting : BitVec 16 := 0#16
  routerRest : Bool := false
  /-- HBM channels out of service for this power-on, 32 × stack + channel (R421). -/
  channelsOut : List Nat := []
  /-- Row repairs in force: (pool, row) and (HBM instance, row). -/
  poolSpares : List (Nat × Nat) := []
  hbmRemaps : List (Nat × Nat) := []
  /-- Lanes marked bad by fuse or overlay, 16 × port + lane (R369, R419). -/
  lanesBad : List Nat := []
  /-- Die links that retrain, and those down until module reset, 3 × die + link (R346). -/
  linksTraining : List Nat := []
  linksDown : List Nat := []
  /-- Roles (16 × die + role) whose array failed its test in place with no spare free (R432). -/
  unbound : List Nat := []
  /-- A thermal trip waits to place its record and to restart (R444). -/
  trip : Option Nat := none
deriving DecidableEq, Repr, Inhabited

/-- In-field test state of one array (R430 to R432). -/
structure ArrayTest where
  /-- TEST_ARRAY.STATE: 0 idle, 1 rotated out, 2 testing, 3 deferred. -/
  st : Nat := 0
  lastFail : Bool := false
  forced : Bool := false
  due : Nat := 0
  last : Option Nat := none
  /-- The spare that holds the role during a rotation. -/
  spare : Option Nat := none
  /-- The role to give back or to rotate at the next boundary. -/
  waiting : Bool := false
  forcing : Bool := false
deriving DecidableEq, Repr, Inhabited

/-- Firmware activation (R427 to R429). -/
structure Activation where
  st : Nat := 0
  outcome : Nat := 0
  slot : Nat := 0
  since : Nat := 0
  restAt : Nat := 0
deriving DecidableEq, Repr, Inhabited

/-! ### Power (R436 to R459) -/

/-- A rail (Table 17-2). -/
structure RailSt where
  on : Bool := false
  good : Bool := false
  mv : Nat := 0
deriving DecidableEq, Repr, Inhabited

/-- Clocks, droop and temperature of one compute die. -/
structure DiePower where
  point : Nat := 0
  /-- Point the die moves to when the reservations that hold it end (R453). -/
  target : Nat := 0
  vca : Nat := 0
  droopA : Bool := false
  droopF : Bool := false
  thermal : Bool := false
  sensors : List Int := []
  /-- Points the planning frequency stands below the grant (R444). -/
  planDown : Nat := 0
  planAt : Nat := 0
  /-- Open coalescing window of DROOP records: start, count and rail. -/
  droopWin : Option (Nat × Nat × Nat) := none
deriving DecidableEq, Repr, Inhabited

/-- A learned phase power (R452): partition, phase, die, watts × 8 and the point it was learned at. -/
structure Learned where
  pt : Nat
  phase : Nat
  die : Nat
  watts8 : Nat
  point : Nat
deriving DecidableEq, Repr, Inhabited

/-- The power controller. -/
structure Power where
  rails : Vector RailSt 16 := Vector.replicate 16 {}
  /-- Order of the rails being enabled (Table 17-2), 0 when none is. -/
  order : Nat := 0
  attempts : Nat := 0
  /-- Rails stay off until the input is removed and applied again. -/
  latched : Bool := false
  retryAt : Option Nat := none
  lost : Bool := false
  lossAt : Nat := 0
  lowest : Nat := 0
  /-- Over-voltage holds the rails off since this time. -/
  overAt : Option Nat := none
  dies : Vector DiePower 4 := Vector.replicate 4 {}
  hub : List Int := []
  absLimit : Bool := false
  fastK : Nat := 18
  pfw : Bool := false
  cot : Bool := false
  cotUntil : Option Nat := none
  leak : Bool := false
  learned : List Learned := []
  base : Nat := 0
  /-- Reservations' hold on a die (R453): die, partition, admission number, point in force when it was admitted. -/
  holds : List (Nat × Nat × Nat × Nat) := []
  /-- Phase a die has entered for a partition (R452): partition, die, PHASE_ID. -/
  phases : List (Nat × Nat × Nat) := []
  /-- Estimated energy over the running measurement window in pJ, as (tag, partition + 1 or 0 for none, energy) (R455), and the input energy
  of its estimator windows in µJ (R456). -/
  est : List (Nat × Nat × Nat) := []
  /-- Bytes that each partition has moved through a shared unit in the running estimator window, as (unit, partition, bytes): Sluice engines
  0 to 7, sequencers 8 to 15, reduction slots 16, host DMA 17 (R455). -/
  moved : List (Nat × Nat × Nat) := []
  meas : Nat := 0
  /-- Measurement windows since the last calibration, and the powered hour of the last CALIB record (R447). -/
  windows : Nat := 0
  calHour : Option Nat := none
  /-- POWER_RSTCAUSE, which outlives a module reset (R459). -/
  rstcause : Word := 0#32
deriving DecidableEq, Repr

/-! ### Fountainer and interrupt control (R460 to R478) -/

/-- A route of a source (R466). -/
structure Route where
  source : Nat
  prio : Nat
  target : Nat
  pt : Nat
deriving DecidableEq, Repr, Inhabited

/-- A lockstep pair (R460, R461): state, last kick, times of its restarts, threshold, nested handlers (source, level). -/
structure PairSt where
  st : Nat := 0
  kickAt : Nat := 0
  restarts : List Nat := []
  cause : Nat := 0
  thresh : Nat := 0
  stack : List (Nat × Nat) := []
  /-- What the last INTC_CLAIM read returned (R468). -/
  claimed : Word := 0#32
deriving DecidableEq, Repr, Inhabited

/-- A discrete input (R471 to R473). -/
structure InputSt where
  raw : Bool := false
  level : Bool := false
  changes : List Nat := []
  activeAt : Option Nat := none
  masked : Bool := false
  reason : Nat := 0
deriving DecidableEq, Repr, Inhabited

/-- The interrupt controller. -/
structure Intc where
  pending : BitVec 256 := 0#256
  active : BitVec 256 := 0#256
  fired : List (Nat × Nat) := []
  routes : List Route := []
  eoiErr : Bool := false
  inputs : Vector InputSt 13 := Vector.replicate 13 {}
  strapTold : Bool := false
deriving DecidableEq, Repr

/-- A mailbox (R463): request outstanding, response present. -/
structure Mailbox where
  busy : Bool := false
  valid : Bool := false
deriving DecidableEq, Repr, Inhabited

end Sys2Proof.Machine
end

