-- ==== Sys2Proof/Machine/ComputeTypes.lean ====
section
/-! DEFINITION. ComputeTypes.lean: the state of the compute side: arrays, Basin words, Jet units, Sluice engines, images and
jobs, steps, the Weir, Cascade and the fabric (02 to 11). -/
namespace Sys2Proof.Machine

/-! ### Arrays and tasks (R24 to R27, R52, R53, R187) -/

/-- A Basin word with its side state (R52, R53); b is the two's-complement word as a signed integer. -/
structure Basin where
  b : Int := 0
  mtop : Nat := 0
  res : Nat := 0
  poison : Bool := false
  anchor : Int := 0
  rep : Nat := 0
  /-- The two side accumulators of a g = 255 tile (R126): side products as the multiplier forms them, and from the operands. -/
  sideMul : Nat := 0
  sideOps : Nat := 0
deriving DecidableEq, Repr, Inhabited

/-- A task (R183, R187): product 0 FWD, 1 DX, 2 DW; LAYER record; micro-batch; tile row and column. -/
structure Task where
  prod : Nat
  layer : Nat
  mb : Nat
  ti : Nat
  tj : Nat
deriving DecidableEq, Repr, Inhabited

/-- A tile on an array (R63, R74, R75): its task, the Basin word it uses, the next column to drain, the fills it waits for, its
256 × 256 words column by column, and the deficits found so far as (place, d, m). -/
structure Tile where
  pt : Nat
  step : Nat
  task : Task
  word : Bool
  fills : Nat := 0
  col : Nat := 0
  words : List Basin := []
  deficits : List (Nat × Nat × Nat) := []
  again : Bool := false
  /-- The words are those of its repeat, which is final (R62, R63). -/
  rep : Bool := false
  /-- The tile is a cross-chip recompute (R64). -/
  cross : Bool := false
  /-- Its step was undone: its outputs are discarded at drain (R202). -/
  discard : Bool := false
deriving DecidableEq, Repr, Inhabited

/-- An array in the row-statistics mode (R69): the TENSOR record whose rows it sums, its step and micro-batch, OP as Table 02-10 codes
it, the TENSOR records that take the means and variances (none32: none), Σx and Σx² of every row, the deficit d₁ of each row, and
how far it has drained. -/
structure RowStat where
  pt : Nat
  step : Nat
  tensor : Nat
  mb : Nat
  op : Nat := 3
  mean : Nat
  var : Nat
  words : List (Basin × Basin) := []
  defs : List Nat := []
  col : Nat := 0
  again : Bool := false
  rep : Bool := false
deriving DecidableEq, Repr, Inhabited

/-- One physical array. -/
structure ArraySt where
  retired : Bool := false
  /-- Left out of binding for this power-on (R353, R369, R419). -/
  out : Bool := false
  role : Option Nat := none
  /-- Tiles on the array, the draining one first (R75). -/
  tiles : List Tile := []
  /-- Basin word that the next tile takes (R75). -/
  nextWord : Bool := false
  stall : Bool := false
  /-- The stall is the drain's: its consumer refuses data (R75). -/
  refused : Bool := false
  /-- Row statistics in progress (R69). -/
  stats : Option RowStat := none
  /-- A role move that waits for the step boundary (R353, R369). -/
  moveAway : Bool := false
deriving DecidableEq, Repr, Inhabited

/-- A Jet value (R211): a binary32 pattern and a poison flag. -/
structure JVal where
  bits : Nat := 0
  poison : Bool := false
deriving DecidableEq, Repr, Inhabited

/-- A program pass on one Jet unit (R209, R220): partition, step, JETPROG, LAYER_ID, pass, vectors still to run, instruction next
to issue, and V0 to V7 by lane. -/
structure JetRun where
  pt : Nat
  step : Nat
  prog : Nat
  layerId : Nat
  pass : Nat
  vecs : List Nat
  pc : Nat
  regs : Vector (List JVal) 8 := Vector.replicate 8 []
deriving DecidableEq, Repr, Inhabited

/-- What a Jet unit waits for: partition, step and LAYER_ID. -/
structure JetWait where
  pt : Nat
  step : Nat
  layerId : Nat
deriving DecidableEq, Repr, Inhabited

/-- One Jet unit: its run, the runs that wait for the unit, and the programs whose statistics or scalar set it waits for. -/
structure JetSt where
  run : Option JetRun := none
  queue : List JetRun := []
  statWait : List JetWait := []
  scalarWait : List JetWait := []
  lastPc : Nat := 0
deriving DecidableEq, Repr, Inhabited

/-- A Sluice operation that an engine runs (R140): the admitted descriptor it serves. -/
structure SluiceRun where
  pt : Nat
  admno : Nat
deriving DecidableEq, Repr, Inhabited

/-- One Sluice engine: fused fills as (array, partition), the running one first, and the running operation. -/
structure EngineSt where
  fills : List (Nat × Nat) := []
  run : Option SluiceRun := none
deriving DecidableEq, Repr, Inhabited

/-! ### Jobs and steps (R104, R162 to R168, R196) -/

/-- Coarse scale and rung of one stored instance (R90): TENSOR record, slot, the version or step it holds. -/
structure SlotScale where
  tensor : Nat
  slot : Nat
  version : Nat
  c : Int
  rung : Nat
deriving DecidableEq, Repr, Inhabited

/-- Job state of one tensor (R104): current rung, the step of its last spill or move, and X_s by committed step. -/
structure TensorJob where
  tensor : Nat
  rung : Nat
  since : Option Nat
  xs : List (Nat × Option Int)
deriving DecidableEq, Repr, Inhabited

/-- A scalar set (R215, R216). -/
structure ScalarSet where
  step : Nat
  locked : Bool
  slots : List Nat
deriving DecidableEq, Repr, Inhabited

/-- An exact value: sign, magnitude m × 2^e, and a sticky bit below m that a division left (R72). -/
structure Exact where
  neg : Bool := false
  m : Nat := 0
  e : Int := 0
  sticky : Bool := false
  poison : Bool := false
deriving DecidableEq, Repr, Inhabited

/-- One output instance of a step (R187, R197): TENSOR record, micro-batch (0xFFFF for a once-per-step tensor), the words that each
task has contributed to an element by index48, the words of its repeat (R64), accepted exact values not yet rounded, elements
rounded as a bit set, deficits asked for, and the largest exponent and fit rung found. -/
structure Inst where
  tensor : Nat
  mb : Nat
  acc : List (Nat × Task × Basin) := []
  racc : List (Nat × Task × Basin) := []
  vals : List (Nat × Exact) := []
  done : Nat := 0
  defs : List (Nat × Nat) := []
  xs : Option Int := none
  fit : Nat := 0
deriving DecidableEq, Repr, Inhabited

/-- A statistic accumulator of a layer (R223): slot, exact sum or maximum, MTOP, residue, count. -/
structure StatAcc where
  slot : Nat
  sum : Int := 0
  max : Option Nat := none
  mtop : Nat := 0
  res : Nat := 0
  n : Nat := 0
deriving DecidableEq, Repr, Inhabited

/-- The update of one layer (R198, R220): pass that runs (0 before it starts, 1 statistics, 2 verify, 3 apply, 4 finished, 5
statistics to be completed, 6 waiting for the commit round under R195), scalar slots read (R215), statistics, T slots, truncations in force, values
stored as (target, element, value), failure rank and fit rungs. -/
structure Upd where
  layerId : Nat
  prog : Nat
  pass : Nat := 0
  slots : List Nat := []
  stats : List StatAcc := []
  tvals : List (Nat × JVal) := []
  trunc : List (Nat × Nat) := []
  stored : List (Nat × Nat × JVal × Nat) := []
  fail : Nat := 0
  waited : Bool := false
deriving DecidableEq, Repr, Inhabited

/-- Sum of one reduction as it stands on a member (R264, R267): index48, integer, crest, poison. -/
structure RedElem where
  ix : Nat
  v : Int
  crest : Nat
  poison : Bool
deriving DecidableEq, Repr, Inhabited

/-- A chunk (R262). -/
structure Chunk where
  tag : Nat
  gid : Nat
  kind : Nat
  prov : Bool
  careful : Bool
  stage : Nat
  step : Nat
  mb : Nat
  first : Nat
  count : Nat
  estride : Nat
  epoch : Nat
  lbase : Int
  rev : Nat
  residue : Nat
  payload : List Byte
deriving DecidableEq, Repr, Inhabited

/-- A chunk sent (R279 to R282): its receiver, whether it is confirmed, recalls in this epoch. -/
structure SentChunk where
  pt : Nat
  dst : Nat
  chunk : Chunk
  /-- Sequencer whose record it is of; none for a scalar round. -/
  seq : Option Nat := none
  confirmed : Bool := false
  recalls : Nat := 0
  /-- It waits for its step to become the oldest (R280). -/
  held : Bool := false
  /-- It has been retracted and not yet resent (R281). -/
  gone : Bool := false
  /-- Time at which this revision was sent (R258). -/
  since : Nat := 0
deriving DecidableEq, Repr, Inhabited

/-- A Cascade instruction in progress (R259, R269): record, step, micro-batch, anchors agreed, chunks received with the
ranks of their senders, phase (0 sums, 1 anchors, 2 repeat, 3 gather or exchange, 4 complete). -/
structure CascRun where
  pt : Nat
  record : Nat
  layer : Option Nat
  slot : Nat
  step : Nat
  mb : Nat
  anchors : List (Nat × Int) := []
  recv : List (Nat × Chunk) := []
  phase : Nat := 0
  defs : List (Nat × Nat) := []
  /-- The instruction has started here, and when; chunks that came before are kept (R280, R284). -/
  on : Bool := false
  since : Nat := 0
  /-- Chunks that the package stage has formed, by FIRST, and the die in whose staging region each stands (R268). -/
  placed : List (Nat × Nat) := []
deriving DecidableEq, Repr, Inhabited

/-- A step of a partition (R196): state 0 admitted, 1 RUNNING, 2 SETTLING, 3 UPDATING, 4 COMMITTING, 5 FAILED. -/
structure StepSt where
  num : Nat
  st : Nat := 0
  /-- A failed step's undo has completed (R202). -/
  undone : Bool := false
  replay : Bool := false
  /-- Replays since the step first failed (R352). -/
  replays : Nat := 0
  done : List Task := []
  skipped : List Task := []
  /-- Tasks to recompute in class 0 (R188). -/
  again : List Task := []
  insts : List Inst := []
  upds : List Upd := []
  scales : List SlotScale := []
  rungs : List (Nat × Nat) := []
  settled : Bool := false
  /-- The settle round serves as the commit round (R198). -/
  both : Bool := false
  /-- Failure rank: 0 none, 1 detected error or member lost (replay), 2 consumed poison, 3 strict abort, 4 numeric failure. -/
  fail : Nat := 0
  /-- Tag of the tensor whose poison the step consumed (R349), and LAYER of its last detected error (R352). -/
  lostTag : Nat := 0
  errLayer : Nat := 0
  scalarTold : Bool := false
  careful : Bool := false
  a2aTold : Bool := false
  /-- X_s combined by the settle round (R88, R197). -/
  xs : List (Nat × Int) := []
  /-- Places of the errors met so far, for confirmation (R353). -/
  errs : List Nat := []
  /-- Error record uids that asked for the present replay (R352). -/
  causes : List Nat := []
deriving DecidableEq, Repr, Inhabited

/-- A partition's job: BED in effect and pending, mask bitmaps read at load (R166), job state (R104), steps, scalar sets. -/
structure Part where
  bed : Option (List Byte) := none
  pendBed : Option (List Byte) := none
  masks : List (Nat × List Byte) := []
  pendMasks : List (Nat × List Byte) := []
  jobs : List TensorJob := []
  scales : List SlotScale := []
  /-- First step number after the BED took effect, once a STEP is admitted; whether R193's copy has been made. -/
  first : Option Nat := none
  ringInit : Bool := false
  steps : List StepSt := []
  commit : Nat := 0
  lastStep : Option Nat := none
  /-- Number a failed step leaves for the next STEP (R244). -/
  rerun : Option Nat := none
  /-- Seeds written: step, TENSOR record, micro-batch or 0xFFFF (R186). -/
  seeds : List (Nat × Nat × Nat) := []
  /-- Largest exponent ⌊log₂ x_max⌋ that the seeds of a step gave a tensor: step, TENSOR record, exponent (R88). -/
  seedXs : List (Nat × Nat × Int) := []
  sets : List ScalarSet := []
deriving DecidableEq, Repr, Inhabited

/-- The Parterre loader (R169 to R181). -/
structure Loader where
  /-- Staged bytes (R180). -/
  stage : Memory := []
  st : Nat := 0
  /-- Partitions that entered reset since LOAD, and the time of LOAD. -/
  hit : BitVec 16 := 0#16
  since : Nat := 0
  plan : Option (List Byte) := none
deriving DecidableEq, Repr, Inhabited

/-! ### The Weir (R233 to R253) -/

/-- A reservation of a resource over quanta [from_, to_). -/
structure Resv where
  pt : Nat
  admno : Nat
  res : Nat
  from_ : Nat
  to_ : Nat
  amount : Nat
deriving DecidableEq, Repr, Inhabited

/-- A stage of a demand profile (R240): resources with the amount held in every quantum, quanta, and the places of its
predecessors. -/
structure Stage where
  res : List (Nat × Nat)
  dur : Nat
  preds : List Nat := []
  /-- First quantum that it may take, where it waits for what an earlier descriptor's promise gives (R194, R206). -/
  notBefore : Nat := 0
  /-- Reduction slots with the group that holds them, from its first stage of the step to its last (Table 09-4b). -/
  slots : Option (Nat × Nat) := none
  /-- Seeds that it reads, as (TENSOR record, micro-batch or 0xFFFF) (R243), and weights whose next version it ends (R194). -/
  seeds : List (Nat × Nat) := []
  stores : List Nat := []
deriving DecidableEq, Repr, Inhabited

/-- An admitted, incomplete descriptor (R237, R239): descriptor bytes, promise, records it was admitted with, list header read at
the decision, bytes still to move, cause charged. -/
structure Adm where
  pt : Nat
  admno : Nat
  sq : Nat
  desc : List Byte
  promise : Nat
  startQ : Nat := 0
  started : Bool := false
  /-- LAYOUT and TENSOR records held for it (R173), source and destination bases. -/
  src : List Byte := []
  dst : List Byte := []
  count : Nat := 0
  rank : Nat := 0
  /-- Bytes asked for and not yet answered, and whether the transfer has failed. -/
  left : Nat := 0
  sent : Bool := false
  status : Nat := 0
  cause : Option (Nat × Nat) := none
  overdue : Bool := false
  /-- The BED it was admitted under, if it names its records (R173). -/
  bed : List Byte := []
  /-- Bytes of a host seed fetched so far. -/
  out : List Byte := []
  /-- Coarse scale, rung and slot of each tensor that an operation which has started reads or writes (R90, R173): source and destination of a
  COPY, GATHER or SCATTER, the tensor of a SEED, the tensors of a SNAPSHOT in the order of its list. -/
  held : List (Int × Nat × Nat) := []
  /-- Byte ranges that the operation writes (R149). -/
  ranges : List (Nat × Int × Int) := []
  /-- The BED it was admitted under is no longer in effect (R173). -/
  stale : Bool := false
  /-- A host transfer into a weight region that was dropped (R204). -/
  dropped : Bool := false
  /-- Of a STEP's placed profile: the first quantum that reads each seed (R243), and for each weight the first quantum of the stage that
  writes its next version and the quantum after it (R194, R206). -/
  seedQ : List (Nat × Nat × Nat) := []
  storeQ : List (Nat × Nat × Nat) := []
deriving DecidableEq, Repr, Inhabited

/-- The Weir: descriptors fetched and undecided by queue, admitted ones, reservations. -/
structure Weir where
  heads : List (Nat × Nat × List Byte) := []
  adms : List Adm := []
  resv : List Resv := []
  /-- Partition and, for each partition, queue served last (R236). -/
  lastPt : Option Nat := none
  lastSq : List (Nat × Nat) := []
  nextAdm : List (Nat × Nat) := []
  /-- Step profile of each partition with a BED, derived when the BED takes effect (R240). -/
  profiles : List (Nat × List Stage) := []
deriving DecidableEq, Repr, Inhabited

/-! ### Cascade (R254 to R285) -/

/-- A group slot (R254 to R258). -/
structure Group where
  pt : Nat := 0
  gid : Nat := 0
  record : Nat := 0
  /-- 0 free; 1 forming; 2 formed; 3 abandoning; 4 refused. -/
  st : Nat := 0
  rank : Nat := 0
  epoch : Nat := 0
  proto : Nat := 0
  /-- Positions of the members in rank order, RACK [15:0], TRAY [23:16], SLOT [31:24]. -/
  members : List Nat := []
  careful : Bool := false
  inr : Bool := false
  fallback : Bool := false
  claim : Nat := 0
  since : Nat := 0
  told : Bool := false
  /-- A member was lost: the group re-forms at the boundary (R258). -/
  lost : Bool := false
  /-- The next step is the first after a formation (R274). -/
  fresh : Bool := false
deriving DecidableEq, Repr, Inhabited

/-- A scalar round at this member (R275): group slot, ROUND, IDENT, step, the entries of 32 bytes it enters with, and the lists received as
(STAGE, REV, entries), oldest first: a list for the next passage of the same round may come before this one has ended here. -/
structure RoundAcc where
  slot : Nat
  round : Nat
  ident : Nat
  step : Nat
  own : Option (List (List Byte)) := none
  recv : List (Nat × Nat × List (List Byte)) := []
  /-- When this member entered. -/
  since : Nat := 0
deriving DecidableEq, Repr, Inhabited

/-- Cascade. -/
structure Cascade where
  groups : Vector Group 256 := Vector.replicate 256 {}
  /-- Delivered CASCADE messages: sender position, receiving partition, bytes; oldest first. -/
  inbox : List (Nat × Nat × List Byte) := []
  runs : List CascRun := []
  sent : List SentChunk := []
  rounds : List RoundAcc := []
  /-- Highest revision seen by (partition, sender, chunk identity) (R281). -/
  revs : List (Nat × Nat × Chunk × Nat) := []
deriving DecidableEq, Repr, Inhabited

/-! ### The fabric (R286 to R319) -/

/-- A port, or one half of it (R287, R290). -/
structure HalfSt where
  /-- 0 down; 1 training; 2 up; 3 retry wait; 4 SPLIT_MISMATCH. -/
  st : Nat := 0
  stage : Nat := 0
  fast : Bool := false
  std : Bool := false
  width : Nat := 0
  own : Nat := 0
  partner : Nat := 0
  used : Nat := 0
  bad : Nat := 0
  retryAt : Option Nat := none
  /-- Start of the training stage (R290). -/
  since : Nat := 0
deriving DecidableEq, Repr, Inhabited

/-- A frame the module sends from a port. -/
inductive PortMsg where
  | qwt (port : Nat) (p : Packet)
  | transit (port : Nat) (p : IpPacket)
  /-- ICMPv6: type, code, source, destination, and what follows the checksum. -/
  | icmp (port : Nat) (type code : Nat) (src dst : BitVec 128) (body : List Byte)
  | lldp (port half : Nat) (tlvs : List Byte)
deriving DecidableEq, Repr, Inhabited

/-- A frame on the wire: what it is, and its bytes from the destination address up to the FCS. -/
structure TxFrame where
  msg : PortMsg
  bytes : List Byte
deriving DecidableEq, Repr, Inhabited

/-- One port. -/
structure PortSt where
  halves : Vector HalfSt 2 := Vector.replicate 2 {}
  pausedTo : Option Nat := none
  /-- Frames that wait for egress, oldest first (R301, R302). -/
  queue : List PortMsg := []
  /-- Quantum in which egress is measured, bytes started in it by class (MGMT, RESERVED, TRANSIT), bytes of earlier frames that run into
  it, and whether RESERVED has waited in it throughout (R301). -/
  quantum : Nat := 0
  used : Nat × Nat × Nat := (0, 0, 0)
  ahead : Nat := 0
  backlog : Bool := false
  lldp : List (Bool × List Byte) := []
  lldpAt : Nat := 0
  /-- Start of the second in which ICMPv6 errors are counted, and the counts of Time Exceeded and Destination Unreachable. -/
  icmp : Nat × Nat × Nat := (0, 0, 0)
deriving DecidableEq, Repr

/-- A sending flow (R307 to R310): user 0 Cascade of a group slot, 1 a snapshot of an admission. -/
structure TxFlow where
  fid : Nat
  pt : Nat
  dst : BitVec 128
  user : Nat
  key : Nat
  port : Nat
  next : Nat := 0
  msg : Nat := 0
  /-- Next PSN the receiver expects, and packets of messages not wholly acknowledged, oldest first. -/
  acked : Nat := 0
  unacked : List Packet := []
  since : Nat := 0
  backoff : Nat := 1
  expiries : Nat := 0
  /-- Rate in Mb/s, and the times of its last halving and last raise. -/
  rate : Nat := 0
  halvedAt : Option Nat := none
  raisedAt : Nat := 0
  /-- Message numbers of messages that carry PROV with their step (R312). -/
  prov : List (Nat × Nat) := []
deriving DecidableEq, Repr, Inhabited

/-- A receiving flow (R307 to R309). -/
structure RxFlow where
  src : BitVec 128
  fid : Nat
  pt : Nat
  port : Nat
  expect : Nat := 0
  buf : List Packet := []
  unacked : Nat := 0
  firstAt : Option Nat := none
  ce : Bool := false
  msg : List Byte := []
  lastAt : Nat := 0
deriving DecidableEq, Repr, Inhabited

/-- A stored advert (R314, R315). -/
structure Advert where
  serial : Nat
  seq : Nat
  body : List Byte
  at_ : Nat
  /-- Port it came in on with hop limit 255, if it did. -/
  port : Option Nat
deriving DecidableEq, Repr, Inhabited

/-- The fabric. -/
structure Fabric where
  ports : Vector PortSt 24 := Vector.replicate 24 {}
  adverts : List Advert := []
  advSeq : Nat := 0
  advertAt : Nat := 0
  withdrawn : Bool := false
  tx : List TxFlow := []
  rx : List RxFlow := []
  nextFlow : Nat := 0
  /-- Complete PEERWRITE messages: partition, sender address, flow, bytes; oldest first. -/
  peerIn : List (Nat × BitVec 128 × Nat × List Byte) := []
deriving DecidableEq, Repr

/-- The compute side and its engines. -/
structure Comp where
  jets : Vector JetSt 72 := Vector.replicate 72 {}
  engines : Vector EngineSt 8 := Vector.replicate 8 {}
  parts : Vector Part 16 := Vector.replicate 16 {}
  loader : Loader := {}
  weir : Weir := {}
  casc : Cascade := {}
  fab : Fabric := {}
deriving DecidableEq, Repr

end Sys2Proof.Machine
end

