-- ==== Sys2Proof/Machine/State.lean ====
section
/-! DEFINITION. State.lean: the state of the block, the reasons a step can stop, and the state at reset. -/
namespace Sys2Proof.Machine

/-- Reasons a step can fault: none. The manual stops nothing: a refused access, a detected error and a failed step are all
recorded in State and the module goes on. Safe: no behaviour of the module is cut off. -/
inductive Fault
deriving DecidableEq, Repr

/-- Reasons a step can be refused. -/
inductive Refusal where
  /-- A command whose meaning is not written; raised by an arm of exec alone. Safe: the model stops where the module goes
  on. -/
  | notModelled (mnemonic : String)
deriving DecidableEq, Repr

/-- The state of the block. -/
structure State where
  /-- Commands that wait, oldest first. -/
  pending : List Instr
  /-- GLOBAL_TIME in S cycles (R51). -/
  time : Nat
  /-- Counter that names the next free value (entry 2). -/
  freshIx : Nat
  /-- Register file: entries differ from their reset values. -/
  regs : List (Nat × Word)
  /-- Read shadows and write shadows of 64-bit pairs by offset of the low word (R17). -/
  rdShadow : List (Nat × Word)
  wrShadow : List (Nat × Word)
  /-- Pools and HBM (R415, R44): keys as Machine.poolAddr and Machine.hbmAddr give. -/
  mem : Memory
  /-- Poisoned pool words and HBM sectors (R343, R344), sorted. -/
  poison : List Nat
  hostTx : List HostMsg
  nv : Nv
  boot : Boot
  fault : FaultUnit
  rill : Rill
  queues : Vector PtQueues 16
  intc : Intc
  pairs : Vector PairSt 2
  mailboxes : Vector Mailbox 2
  cis : Cistern
  sec : Sec
  tests : Vector ArrayTest 72
  act : Activation
  power : Power
  arrays : Vector ArraySt 72
  comp : Comp
  /-- Frames sent from the ports. -/
  portTx : List TxFrame
deriving DecidableEq, Repr

/-- The module in module reset, as the application of 54 V finds it (R42): registers at their reset values, no memory listed, no command
pending, the stores that outlive power empty (entry 3), and the EEPROM as made for that fuse map (entry 6). -/
def State.reset : State where
  pending := []
  time := 0
  freshIx := 0
  regs := []
  rdShadow := []
  wrShadow := []
  mem := []
  poison := []
  hostTx := []
  nv :=
    { factory := default
      fuseRows := []
      slotA := {}
      slotB := {}
      recovery := {}
      choice := 0
      journal := {}
      phours := 0
      eeprom := eepromOf 0 0 0 1 }
  boot := {}
  fault := {}
  rill := {}
  queues := Vector.replicate 16 {}
  intc := {}
  pairs := Vector.replicate 2 {}
  mailboxes := Vector.replicate 2 {}
  cis := {}
  sec := {}
  tests := Vector.replicate 72 {}
  act := {}
  power := {}
  arrays := Vector.replicate 72 {}
  comp := {}
  portTx := []

end Sys2Proof.Machine
end

