-- ==== Sys2Proof/Machine/Ops.lean ====
section
/-! DEFINITION. Ops.lean: the named operations over the register file, refused accesses, memory, rings, events, interrupts,
error records and candidates that every family shares. -/
namespace Sys2Proof.Machine

/-! ### Registers -/

/-- The one home of an offset: the step registers of a partition read the same in all four dies' blocks (R208). -/
def regHome (off : Nat) : Nat :=
  if 0x1000000 ≤ off ∧ off < 0x2000000 ∧ (off - 0x1000000) % 0x400000 < 0x2000 ∧ 0x1000 ≤ (off - 0x1000000) % 0x400000 then
    0x1000000 + (off - 0x1000000) % 0x400000
  else off

/-- Stored value of a register. -/
def State.getReg (s : State) (off : Nat) : Word := Sparse.get regReset s.regs (regHome off)

/-- Store a register. -/
def State.setReg (s : State) (off : Nat) (v : Word) : State :=
  { s with regs := Sparse.set regReset s.regs (regHome off) v }

/-- Stored value of a register as a number. -/
def State.reg (s : State) (off : Nat) : Nat := (s.getReg off).toNat

/-- Store a number in a register. -/
def State.put (s : State) (off v : Nat) : State := s.setReg off (wd v)

/-- A count register counts n more; it saturates at 0xFFFF_FFFF. -/
def State.bump (s : State) (off n : Nat) : State := s.setReg off (satAdd (s.getReg off) n)

/-- Stored 64-bit pair at the offset of its low word (R17). -/
def State.reg64 (s : State) (lo : Nat) : Nat := s.reg lo + 2 ^ 32 * s.reg (lo + 4)

/-- Store a 64-bit pair; it wraps at 2^64. -/
def State.put64 (s : State) (lo v : Nat) : State := (s.put lo v).put (lo + 4) (v / 2 ^ 32)

/-- Set bits of a register. -/
def State.orReg (s : State) (off v : Nat) : State := s.setReg off (s.getReg off ||| wd v)

/-- Forget the stored values and shadows of every register whose offset satisfies a test: they read their reset values
(R15), and the shadows of their pairs are empty (R17). -/
def State.resetRegs (s : State) (p : Nat → Bool) : State :=
  { s with regs := Sparse.clear p s.regs, rdShadow := Sparse.clear p s.rdShadow, wrShadow := Sparse.clear p s.wrShadow }

/-- One S cycle of local time, which runs from the release of module reset on (R51). -/
def State.tick (s : State) : State := if s.boot.released then { s with time := s.time + 1 } else s

/-- A fresh index for a free value (entry 2). -/
def State.fresh (s : State) : Nat × State := (s.freshIx, { s with freshIx := s.freshIx + 1 })

/-! ### Small accessors -/

/-- GLOBAL_PWRON (R48). -/
def State.pwron (s : State) : Nat := s.reg Reg.globalPwron

/-- Local time as the 64-bit count of R51. -/
def State.now (s : State) : Nat := s.time

/-- Hour of local time (R391). -/
def State.hourNow (s : State) : Nat := s.time / 810000000000

/-- Whether a deadline has come. -/
def State.due (s : State) : Option Nat → Bool
  | some t => decide (t ≤ s.time)
  | none => false

/-- Read an entry of a vector by a number; out of range reads the first. -/
def vget {α : Type} {n : Nat} (v : Vector α (n + 1)) (i : Nat) : α := v[i % (n + 1)]'(Nat.mod_lt _ (Nat.succ_pos n))

/-- Change an entry of a vector by a number. -/
def vmod {α : Type} {n : Nat} (v : Vector α (n + 1)) (i : Nat) (f : α → α) : Vector α (n + 1) :=
  v.set (i % (n + 1)) (f (vget v i)) (Nat.mod_lt _ (Nat.succ_pos n))

/-- Change a partition's queues. -/
def State.modQ (s : State) (pt : Nat) (f : PtQueues → PtQueues) : State :=
  { s with queues := vmod s.queues pt f }

/-- Change the fault aggregator, the Rill controller, the interrupt controller, the Cistern controller, the security block,
bring-up, activation, the power controller, what outlives power. -/
def State.modFault (s : State) (f : FaultUnit → FaultUnit) : State := { s with fault := f s.fault }
def State.modRill (s : State) (f : Rill → Rill) : State := { s with rill := f s.rill }
def State.modIntc (s : State) (f : Intc → Intc) : State := { s with intc := f s.intc }
def State.modCis (s : State) (f : Cistern → Cistern) : State := { s with cis := f s.cis }
def State.modSec (s : State) (f : Sec → Sec) : State := { s with sec := f s.sec }
def State.modBoot (s : State) (f : Boot → Boot) : State := { s with boot := f s.boot }
def State.modAct (s : State) (f : Activation → Activation) : State := { s with act := f s.act }
def State.modPower (s : State) (f : Power → Power) : State := { s with power := f s.power }
def State.modNv (s : State) (f : Nv → Nv) : State := { s with nv := f s.nv }
def State.modJournal (s : State) (f : Journal → Journal) : State :=
  { s with nv := { s.nv with journal := f s.nv.journal } }
def State.modPair (s : State) (m : Nat) (f : PairSt → PairSt) : State := { s with pairs := vmod s.pairs m f }
def State.modBox (s : State) (m : Nat) (f : Mailbox → Mailbox) : State := { s with mailboxes := vmod s.mailboxes m f }
def State.modInput (s : State) (i : Nat) (f : InputSt → InputSt) : State :=
  s.modIntc fun x => { x with inputs := vmod x.inputs i f }
def State.modDie (s : State) (d : Nat) (f : DiePower → DiePower) : State :=
  s.modPower fun p => { p with dies := vmod p.dies d f }
def State.modTest (s : State) (i : Nat) (f : ArrayTest → ArrayTest) : State := { s with tests := vmod s.tests i f }

/-- Index of an array: 18 × die + array. -/
def arrIx (die arr : Nat) : Nat := 18 * die + arr

/-- Change an array's binding. -/
def State.modArr (s : State) (i : Nat) (f : ArraySt → ArraySt) : State := { s with arrays := vmod s.arrays i f }

/-- Array that holds a role of a die (R24, R25). -/
def State.arrayOf (s : State) (die role : Nat) : Option Nat :=
  (List.range 18).find? fun a => (vget s.arrays (arrIx die a)).role == some role

/-- Usable roles of a die (R26). -/
def State.roleCount (s : State) (die : Nat) : Nat :=
  ((List.range 18).filter fun a => (vget s.arrays (arrIx die a)).role.isSome).length

/-- Bind the roles of a die to its arrays (R25, R26): role k on Ak unless retired or left out; the roles whose array is gone
go to the spares A16, A17 that are free, lowest role first; with fewer spares than gone arrays the highest-numbered of those roles are
unavailable, as an array that works keeps its own role. -/
def bindDie (s : State) (die : Nat) : State :=
  let ok := fun a => let x := vget s.arrays (arrIx die a); !x.retired && !x.out
  let gone := (List.range 16).filter fun a => !ok a
  let pairs := ((List.range 16).filter ok).map (fun a => (a, a)) ++ ([16, 17].filter ok).zip gone
  forEach (List.range 18) (fun a s =>
    s.modArr (arrIx die a) fun x => { x with role := (pairs.find? fun p => p.1 == a).map (·.2) }) s

/-- The A and F dividers of every compute die stand still, or their rails are off: an input loss, a thermal trip (R438, R444). -/
def State.diesStopped (s : State) : Bool := s.power.lost || s.boot.trip.isSome

/-- What work of a compute die does: nothing while its clocks stand still (R438). -/
def State.clocked (s : State) (o : Host.Outcome State Fault Refusal) : Host.Outcome State Fault Refusal :=
  if s.diesStopped then .next s else o

/-- The learned phases of a partition are cleared (R452). -/
def State.dropLearned (s : State) (pt : Nat) : State :=
  s.modPower fun p => { p with learned := p.learned.filter fun l => l.pt != pt, phases := p.phases.filter fun x => x.1 != pt }

/-! ### Memory (R131, R343, R344) -/

/-- Key of a byte of pool memory: 256 pools of 8 MiB, die by die. -/
def poolAddr (die pool off : Nat) : Nat := (64 * die + pool) * 2 ^ 23 + off

/-- First key of HBM. -/
def hbmBase : Nat := 2 ^ 31

/-- Key of a byte of HBM: 384 channels of 2 GiB, stack by stack. -/
def hbmAddr (stack ch off : Nat) : Nat := hbmBase + (32 * stack + ch) * 2 ^ 31 + off

/-- Poison granule of a byte: its 8-byte pool word (R343), or its 64-byte HBM sector (R344). -/
def granule (a : Nat) : Nat := if a < hbmBase then a / 8 else 2 ^ 60 + a / 64

/-- First key and size of a poison granule. -/
def granuleSpan (g : Nat) : Nat × Nat := if g < 2 ^ 60 then (8 * g, 8) else (64 * (g - 2 ^ 60), 64)

/-- Whether a byte reads as poison. -/
def State.poisoned (s : State) (a : Nat) : Bool := s.poison.contains (granule a)

/-- Store bytes: granules wholly covered lose their poison, others keep it (R343, R344). -/
def State.writeMem (s : State) (a : Nat) (bs : List Byte) : State :=
  { s with
    mem := Memory.writeBytes s.mem a bs
    poison := s.poison.filter fun g => let sp := granuleSpan g; !(decide (a ≤ sp.1 ∧ sp.1 + sp.2 ≤ a + bs.length)) }

/-- Poison the granule of a byte (R343, R344). -/
def State.poisonAt (s : State) (a : Nat) : State := { s with poison := setInsert (granule a) s.poison }

/-- Write zero to a range of keys and clear its poison (R44). -/
def State.scrubMem (s : State) (p : Nat → Bool) : State :=
  { s with
    mem := Memory.scrub s.mem p
    poison := s.poison.filter fun g => !(p (granuleSpan g).1) }

/-! ### Messages to the host (R325 to R330) -/

/-- Flit payload of a message: a 16-byte header, and data padded to a multiple of 16 bytes (R325). -/
def HostMsg.size : HostMsg → Nat
  | .regCpl _ _ d => 16 + 16 * cdiv d.length 16
  | .memWr _ _ d => 16 + 16 * cdiv d.length 16
  | .memRd _ _ _ => 16
  | .attn _ => 16
  | .nak _ => 0
  | .resend _ _ => 0

/-- Request credit a message takes, in 64-byte units (R323, R326; entry 42): completions and flit-layer answers take none. -/
def HostMsg.credit : HostMsg → Nat
  | .memWr t a d => cdiv (HostMsg.memWr t a d).size 64
  | .memRd _ _ _ => 1
  | .attn _ => 1
  | _ => 0

/-- A message leaves over the link. -/
def State.putHost (s : State) (m : HostMsg) : State :=
  { s with
    hostTx := s.hostTx ++ [m]
    rill := { s.rill with txBytes := s.rill.txBytes + m.size, creditReq := s.rill.creditReq - m.credit } }

/-- Send a message over the Rill link; a request leaves only on credit, and none overtakes one that waits (R326). -/
def State.sendHost (s : State) (m : HostMsg) : State :=
  if m.credit = 0 ∨ (s.rill.held.isEmpty ∧ m.credit ≤ s.rill.creditReq) then s.putHost m
  else { s with rill := { s.rill with held := s.rill.held ++ [m] } }

/-- Base, length and control word of a window (R328). -/
def State.winBase (s : State) (w : Nat) : Nat := s.reg64 (Reg.rillWinBaseLo w)
def State.winLen (s : State) (w : Nat) : Nat := s.reg64 (Reg.rillWinLenLo w)
def State.winCtl (s : State) (w : Nat) : Nat := s.reg (Reg.rillWinCtl w)

/-- Whether a window is VALID, has the right, and is owned by MGMT (none) or a partition (R328). -/
def State.winOk (s : State) (w : Nat) (owner : Option Nat) (write : Bool) : Bool :=
  let c := s.winCtl w
  bit c 0 && (if write then bit c 2 else bit c 1) &&
    (match owner with | none => bit c 12 | some p => !bit c 12 && field c 11 8 == p)

/-- The window that wholly holds a host range for an owner with a right (R328, R329). -/
def State.windowFor (s : State) (owner : Option Nat) (write : Bool) (addr len : Nat) : Option Nat :=
  (List.range 64).find? fun w =>
    s.winOk w owner write && decide (s.winBase w ≤ addr ∧ addr + len ≤ s.winBase w + s.winLen w)

/-- Host address and check of a range given in the window form: window [47:42], offset [41:0] (R329). -/
def State.windowForm (s : State) (owner : Option Nat) (write : Bool) (a len : Nat) : Option Nat :=
  let w := field a 47 42
  let off := field a 41 0
  if s.winOk w owner write && decide (off + len ≤ s.winLen w) then some (s.winBase w + off) else none

/-- Take the next TAG of an outgoing message (Table 12-3). -/
def State.takeTag (s : State) : Nat × State :=
  (s.rill.nextTag, { s with rill := { s.rill with nextTag := (s.rill.nextTag + 1) % 65536 } })

/-- Send one MEM_WR that no 4 KiB boundary crosses, or stop and count it (R326, R328). -/
def State.memWr1 (s : State) (owner : Option Nat) (addr : Nat) (data : List Byte) (why : Purpose) : State :=
  match s.windowFor owner true addr data.length with
  | none => s.bump Reg.rillDmaref 1
  | some w =>
    let (tag, s) := s.takeTag
    let s := s.sendHost (.memWr tag addr data)
    { s with rill := { s.rill with outst := s.rill.outst ++
        [⟨tag, false, w, s.time + s.reg Reg.rillCplto, data.length, why⟩] } }

/-- Send MEM_WR messages for a range, cut at 4 KiB boundaries (R326). The first argument bounds the number of messages. -/
def State.memWrAll : Nat → State → Option Nat → Nat → List Byte → Purpose → State
  | 0, s, _, _, _, _ => s
  | k + 1, s, owner, addr, data, why =>
    if data.isEmpty then s
    else
      let n := min data.length (4096 - addr % 4096)
      State.memWrAll k (s.memWr1 owner addr (data.take n) why) owner (addr + n) (data.drop n) why

/-- Number of MEM_RD not yet answered (R326). -/
def State.readsOut (s : State) : Nat := (s.rill.outst.filter (·.read)).length

/-- Send waiting MEM_RD while fewer than 256 are outstanding (R326, R328). -/
def State.pumpReads : Nat → State → State
  | 0, s => s
  | k + 1, s =>
    match s.rill.waiting with
    | [] => s
    | m :: rest =>
      if 256 ≤ s.readsOut then s
      else
        let s := { s with rill := { s.rill with waiting := rest } }
        let s := match s.windowFor (if m.mgmt then none else some m.pt) false m.addr m.len with
          | none => s.bump Reg.rillDmaref 1
          | some w =>
            let (tag, s) := s.takeTag
            let s := s.sendHost (.memRd tag m.addr (cdiv m.len 64))
            { s with rill := { s.rill with outst := s.rill.outst ++
                [⟨tag, true, w, s.time + s.reg Reg.rillCplto, m.len, m.purpose⟩] } }
        State.pumpReads k s

/-- Cut a host range at 4 KiB boundaries into (address, length, offset within the range). -/
def cutRange : Nat → Nat → Nat → Nat → List (Nat × Nat × Nat)
  | 0, _, _, _ => []
  | k + 1, addr, len, off =>
    if len = 0 then []
    else
      let n := min len (4096 - addr % 4096)
      (addr, n, off) :: cutRange k (addr + n) (len - n) (off + n)

/-- Ask for a host range with MEM_RD messages (R326). -/
def State.memRdAll (s : State) (owner : Option Nat) (addr len : Nat) (why : Nat → Purpose) : State :=
  let parts := cutRange (len / 4096 + 2) addr len 0
  let new := parts.map fun p => (⟨p.1, p.2.1, owner.isNone, owner.getD 0, why p.2.2⟩ : WaitingMsg)
  let s := { s with rill := { s.rill with waiting := s.rill.waiting ++ new } }
  s.pumpReads (s.rill.waiting.length)

/-! ### Rings (R331, R334, R336) -/

/-- Offset of BASE_LO and of CTL of a ring, and its owner (none: MGMT). -/
def ringBaseLo : RingId → Nat
  | .sq pt n => Reg.qwSqBaseLo pt n
  | .cq pt n => Reg.qwCqBaseLo pt n
  | .eq pt => Reg.qwEqBaseLo pt
  | .meq => Reg.rillMeqBaseLo
  | .faultRing => Reg.faultRingBaseLo
def ringCtl : RingId → Nat
  | .sq pt n => Reg.qwSqCtl pt n
  | .cq pt n => Reg.qwCqCtl pt n
  | .eq pt => Reg.qwEqCtl pt
  | .meq => Reg.rillMeqCtl
  | .faultRing => Reg.faultRingCtl
def ringOwner : RingId → Option Nat
  | .sq pt _ => some pt
  | .cq pt _ => some pt
  | .eq pt => some pt
  | .meq => none
  | .faultRing => none

/-- The ring's head, tail and state. -/
def State.ring (s : State) : RingId → Ring
  | .sq pt n => (vget (vget s.queues pt).sq n).ring
  | .cq pt n => vget (vget s.queues pt).cq n
  | .eq pt => (vget s.queues pt).eq.ring
  | .meq => s.rill.meq.ring
  | .faultRing => s.fault.ring

/-- Change a ring. -/
def State.modRing (s : State) (id : RingId) (f : Ring → Ring) : State :=
  match id with
  | .sq pt n => s.modQ pt fun q => { q with sq := vmod q.sq n fun x => { x with ring := f x.ring } }
  | .cq pt n => s.modQ pt fun q => { q with cq := vmod q.cq n f }
  | .eq pt => s.modQ pt fun q => { q with eq := { q.eq with ring := f q.eq.ring } }
  | .meq => { s with rill := { s.rill with meq := { s.rill.meq with ring := f s.rill.meq.ring } } }
  | .faultRing => { s with fault := { s.fault with ring := f s.fault.ring } }

/-- Whether a ring is enabled, and its size (R331). -/
def State.ringOn (s : State) (id : RingId) : Bool := bit (s.reg (ringCtl id)) 0
def State.ringSize (s : State) (id : RingId) : Nat := 2 ^ field (s.reg (ringCtl id)) 5 1

/-- Whether the module may write one more entry: enabled, and tail + 1 ≠ head modulo the size (R334). -/
def State.ringRoom (s : State) (id : RingId) : Bool :=
  let r := s.ring id
  s.ringOn id && (r.tail + 1) % s.ringSize id != r.head

/-- Signal posted entries when their count reaches MOD_COUNT (R336). -/
def State.ringSignal (s : State) (id : RingId) (now : Bool) : State :=
  let c := s.reg (ringCtl id)
  let r := s.ring id
  if 0 < r.unsig ∧ (now ∨ field c 23 16 ≤ r.unsig) then
    (s.sendHost (.attn (field c 15 8))).modRing id fun r => { r with unsig := 0, firstAt := none }
  else s

/-- Write one entry at the tail in one MEM_WR, advance the tail, invert the phase when it wraps, and signal (R334, R336). -/
def State.ringPost (s : State) (id : RingId) (entry : Bool → List Byte) (why : Purpose) : State :=
  let r := s.ring id
  let size := s.ringSize id
  let s := s.memWr1 (ringOwner id) (s.reg64 (ringBaseLo id) + 64 * r.tail) (entry r.phase) why
  let t := (r.tail + 1) % size
  let s := s.modRing id fun r => { r with
    tail := t
    phase := if t = 0 then !r.phase else r.phase
    unsig := r.unsig + 1
    firstAt := if r.firstAt.isNone then some s.time else r.firstAt }
  s.ringSignal id false

/-! ### Events (R335) -/

/-- The 64 bytes of an event entry (Table 12-7). -/
def eventBytes (e : Event) (seq : Nat) (phase : Bool) : List Byte :=
  packLE [(4, e.code % 65536 + at_ 16 (e.pt.getD 0) + at_ 20 (b2n e.pt.isSome)), (4, seq), (8, e.time)]
    ++ slice e.body 0 40 ++ packLE [(4, 0), (4, b2n phase)]

/-- The event queue of a partition, or the MEQ. -/
def State.evq (s : State) : Option Nat → EvQueue
  | some pt => (vget s.queues pt).eq
  | none => s.rill.meq

/-- Change an event queue. -/
def State.modEvq (s : State) (q : Option Nat) (f : EvQueue → EvQueue) : State :=
  match q with
  | some pt => s.modQ pt fun x => { x with eq := f x.eq }
  | none => { s with rill := { s.rill with meq := f s.rill.meq } }

/-- Ring of an event queue. -/
def evRing : Option Nat → RingId
  | some pt => .eq (Fin.ofNat 16 pt)
  | none => .meq

/-- Post one event entry, numbered by the queue's SEQ. -/
def State.postEntry (s : State) (q : Option Nat) (e : Event) : State :=
  let seq := (s.evq q).seq
  let s := s.modEvq q fun x => { x with seq := (x.seq + 1) % 2 ^ 32 }
  s.ringPost (evRing q) (eventBytes e seq) .entry

/-- Post held events while there is room; after a loss EQ_OVERFLOW comes first with the count (R335). -/
def State.drainEvents : Nat → State → Option Nat → State
  | 0, s, _ => s
  | k + 1, s, q =>
    let x := s.evq q
    if !s.ringRoom (evRing q) then s
    else if 0 < x.lost then
      let s := s.modEvq q fun x => { x with lost := 0 }
      State.drainEvents k (s.postEntry q ⟨0x23, q, s.time, leBytes 4 x.lost⟩) q
    else match x.held with
      | [] => s
      | e :: rest =>
        let s := s.modEvq q fun x => { x with held := rest }
        State.drainEvents k (s.postEntry q e) q

/-- Offset of the queue's count of lost events. -/
def evLostReg : Option Nat → Nat
  | some pt => Reg.qwEqLost pt
  | none => Reg.rillMeqLost

/-- Raise an event at a queue: posted at once, else held up to 64, else lost and counted (R335). -/
def State.event (s : State) (q : Option Nat) (e : Event) : State :=
  let x := s.evq q
  let s :=
    if x.held.length < 64 then s.modEvq q fun x => { x with held := x.held ++ [e] }
    else (s.modEvq q fun x => { x with lost := x.lost + 1 }).bump (evLostReg q) 1
  s.drainEvents 66 q

/-- A partition event (Table 12-8). -/
def State.ptEvent (s : State) (pt code : Nat) (body : List Byte) : State :=
  s.event (some pt) ⟨code, some pt, s.time, body⟩

/-- A module event. -/
def State.modEvent (s : State) (code : Nat) (body : List Byte) : State :=
  s.event none ⟨code, none, s.time, body⟩

/-! ### Interrupt sources (R465 to R470) -/

/-- Sources that exist (Table 18-3). -/
def sourceDefined (n : Nat) : Bool :=
  decide (n ≤ 6) || n == 8 || decide (0x10 ≤ n ∧ n ≤ 0x1D) || decide (0x20 ≤ n ∧ n ≤ 0x3A) ||
    (decide (0x80 ≤ n ∧ n < 0x100) && decide (n % 8 < 6))

/-- Default route of a source (Table 18-3): target 0 pair 0, 1 pair 1, 2 host. -/
def defaultRoute (n : Nat) : Route :=
  let r := fun p t => (⟨n, p, t, 0⟩ : Route)
  if n ≤ 2 then r 6 1 else if n ≤ 4 then r 12 1 else if n = 5 then r 14 1 else if n = 6 then r 3 1
  else if n = 8 then r 10 1 else if n = 0x10 then r 2 2 else if n = 0x11 then r 4 0 else if n = 0x12 then r 5 0
  else if n = 0x13 then r 9 0 else if n = 0x14 then r 8 1 else if n = 0x15 then r 5 1 else if n = 0x16 then r 4 1
  else if n = 0x17 then r 3 1 else if n = 0x18 then r 6 0 else if n = 0x19 then r 6 1
  else if n = 0x1A ∨ n = 0x1B then r 1 2 else if n = 0x1C then r 2 1 else if n = 0x1D then r 7 1
  else if 0x20 ≤ n ∧ n ≤ 0x37 then r 5 0 else if n = 0x38 then r 3 0 else if n = 0x39 then r 1 0
  else if n = 0x3A then r 4 0 else if 0x80 ≤ n then r 0 2 else r 0 0

/-- Route of a source in effect (R466). -/
def State.route (s : State) (n : Nat) : Route :=
  (s.intc.routes.find? fun r => r.source == n).getD (defaultRoute n)

/-- Queue to which a host-routed source posts (R466): its partition's, or the MEQ. -/
def hostQueue (n : Nat) : Option Nat := if 0x80 ≤ n then some ((n - 0x80) / 8) else none

/-- Set or clear one bit of the 256. -/
def setBit256 (v : BitVec 256) (n : Nat) (b : Bool) : BitVec 256 :=
  if b then v ||| BitVec.ofNat 256 (2 ^ n) else v &&& ~~~ BitVec.ofNat 256 (2 ^ n)

/-- Whether a source is to be posted to the host now (R466, R469, R470). -/
def State.hostReady (s : State) (n : Nat) : Bool :=
  let r := s.route n
  s.intc.pending.getLsbD n && r.target == 2 && r.prio != 0 && !bit (s.reg Reg.intcGctl) 0

/-- Post one pending host-routed source as INTR and clear its pending bit (R470). -/
def State.postIntr (s : State) (n : Nat) : State :=
  if s.hostReady n then
    let s := { s with intc := { s.intc with pending := setBit256 s.intc.pending n false } }
    s.event (hostQueue n) ⟨0x0B, hostQueue n, s.time, leBytes 4 n⟩
  else s

/-- Post every pending host-routed source, highest priority first, lower number first among equals (R470). -/
def State.postIntrs (s : State) : State :=
  let order := (List.range 16).reverse.flatMap fun p => (List.range 256).filter fun n => (s.route n).prio == p
  forEach (order.filter fun n => s.intc.pending.getLsbD n) (fun n s => s.postIntr n) s

/-- A source fires: its count and pending bit are set, and a host route posts it (R465, R470). -/
def State.fire (s : State) (n : Nat) : State :=
  let c := ((s.intc.fired.find? fun x => x.1 == n).map (·.2)).getD 0
  let fired := (n, min 255 (c + 1)) :: s.intc.fired.filter fun x => x.1 != n
  let s := { s with intc := { s.intc with fired := fired, pending := setBit256 s.intc.pending n true } }
  s.postIntr n

/-! ### Refused accesses (R18, R50) -/

/-- Code of a cause (Table 01-17). -/
def causeCode : AccCause → Nat
  | .roWrite => 1
  | .locked => 2
  | .noPresence => 3
  | .unmapped => 4
  | .badKey => 5
  | .resetting => 6
  | .noPartition => 7
  | .notReady => 8

/-- GLOBAL_ACCERR captures the first refused access; later ones count in LOST (R50). Setting VALID fires source 0x10. -/
def State.accErr (s : State) (off : Nat) (c : AccCause) : State :=
  let i := s.reg Reg.globalAccerrInfo
  if bit i 0 then
    s.put Reg.globalAccerrInfo (field i 15 0 + at_ 16 (min 0xFFFF (field i 31 16 + 1)))
  else
    ((s.put Reg.globalAccerrAddr off).put Reg.globalAccerrInfo (1 + at_ 4 (causeCode c))).fire 0x10

/-! ### Error records (R355 to R362) -/

/-- Nominal or set voltage of the rail of a unit, in mV (R355). -/
def State.railMv (s : State) (r : Nat) : Nat := (vget s.power.rails r).mv

/-- TEMP of a unit at detection (R355). -/
def State.unitTemp (s : State) (die block inst : Nat) : Int :=
  if die < 4 then nth (vget s.power.dies die).sensors (Config.nearestSensor block inst % 16) 0
  else if die = 4 then nth s.power.hub (Config.nearestSensor block inst % 8) 0
  else -0x8000

/-- VOLT of a unit at detection (R355). -/
def State.unitVolt (s : State) (die block : Nat) : Nat :=
  if die < 4 then
    if block = 1 ∨ block = 2 then s.railMv (10 + die)
    else if block = 5 then s.railMv 4 else if block = 6 then s.railMv 3 else s.railMv (6 + die)
  else if die = 4 then (if block = 0x0B ∨ block = 0x0E ∨ block = 6 then s.railMv 3 else s.railMv 2)
  else if die = 5 then s.railMv 1
  else 0

/-- A discarded record counts in FAULT_LOST, and the next record on each output it had not reached says so (R361). -/
def State.recLost (s : State) (r : Rec) : State :=
  let s := s.bump (Reg.faultLost r.sev) 1
  { s with fault := { s.fault with
      lostRing := true
      lostLast := s.fault.lostLast || r.seq.isNone
      named := if r.seq.isNone then s.fault.named ++ [(r.uid, 0)] else s.fault.named } }

/-- Position of the most recently queued record of the lowest queued severity below a bound (R361). -/
def victim (q : List Rec) (sev : Nat) : Option Nat :=
  let low := (List.range sev).find? fun v => q.any fun r => r.sev == v
  low.bind fun v => ((List.range q.length).reverse).find? fun i => ((q[i]?).map (·.sev)) == some v

/-- A record arrives at the aggregator's queue of 64 (R360, R361). -/
def State.enqueue (s : State) (r : Rec) : State :=
  if s.fault.queue.length < 64 then { s with fault := { s.fault with queue := s.fault.queue ++ [r] } }
  else match victim s.fault.queue r.sev with
    | none => s.recLost r
    | some i =>
      let v := nth s.fault.queue i r
      let s := s.recLost v
      { s with fault := { s.fault with queue := s.fault.queue.eraseIdx i ++ [r] } }

/-- Give a record its uid, time of detection, temperature and voltage (R355). -/
def State.stampRec (s : State) (r : Rec) : Rec × State :=
  ({ r with uid := s.fault.uid, time := s.time, temp := s.unitTemp r.die r.block r.inst,
            volt := s.unitVolt r.die r.block },
   { s with fault := { s.fault with uid := s.fault.uid + 1 } })

/-- Keep what R349 asks of records of a partition: a recoverable one since the step's start, the latest committed one. -/
def FaultUnit.note (f : FaultUnit) (r : Rec) : FaultUnit :=
  match r.pt with
  | none => f
  | some pt =>
    if r.committed then { f with commRec := (pt, r.uid) :: f.commRec.filter fun x => x.1 != pt }
    else if r.sev = 2 then { f with recov := setInsert pt f.recov }
    else f

/-- Place an error record. -/
def State.record (s : State) (r : Rec) : State :=
  let (r, s) := s.stampRec r
  State.enqueue { s with fault := s.fault.note r } r

/-- Place a record of a power class that the table marks with an event: POWER_ALERT follows and source 0x14 fires (R458). -/
def State.powerRecord (s : State) (r : Rec) (alert : Bool) : State :=
  let s := s.record { r with die := 4, block := 0x11 }
  if alert then (s.modEvent 0x2C (packLE [(4, r.cls), (4, r.detail1)])).fire 0x14 else s

/-- A partition record of a unit. -/
def ptRec (pt sev cls die block inst : Nat) : Rec := { pt := some pt, sev := sev, cls := cls, die := die, block := block, inst := inst }

/-- A record that names no partition. -/
def unitRec (sev cls die block inst : Nat) : Rec := { sev := sev, cls := cls, die := die, block := block, inst := inst }

/-- A corrected error of a resource (R362): it joins its resource's window, or opens one; a 257th resource closes the
oldest window early. -/
def State.corrected (s : State) (r : Rec) : State :=
  let same := fun (c : Coalesce) =>
    c.first.die == r.die && c.first.block == r.block && c.first.inst == r.inst && c.first.detail1 == r.detail1
  if s.fault.coalesce.any same then
    s.modFault fun f => { f with coalesce := f.coalesce.map fun c => if same c then { c with count := c.count + 1 } else c }
  else
    let (r, s) := s.stampRec r
    let s := { s with fault := { s.fault with coalesce := s.fault.coalesce ++ [⟨s.time, 1, r⟩] } }
    if 256 < s.fault.coalesce.length then
      match s.fault.coalesce with
      | [] => s
      | c :: rest =>
        let s := { s with fault := { s.fault with coalesce := rest } }
        s.enqueue { c.first with coalesced := true, count := min 0xFFFF c.count }
    else s

/-! ### Defect tracking (R368, R387) -/

/-- Resource key of Table 13-8 (R387). -/
def resourceKey (kind die inst row : Nat) : Nat := kind % 16 + at_ 4 (die % 16) + at_ 8 (inst % 65536) + at_ 24 (row % 2 ^ 32)

/-- BLOCK of a kind (Table 13-5, Table 13-8). -/
def kindBlock (kind : Nat) : Nat := nth [0, 0x01, 0x04, 0x05, 0x0B] kind 0

/-- A resource becomes a defect candidate: its record carries the key for the journal service (R368). -/
def State.candidate (s : State) (kind die inst row : Nat) (confirmed byTest : Bool) : State :=
  let s := s.bump Reg.faultCand 1
  s.record { sev := 1, cls := 0x1A, die := die, block := kindBlock kind, inst := inst, confirmed := confirmed,
             detail1 := kind, detail2 := row, cand := some (resourceKey kind die inst row), candTest := byTest }

/-- Threshold of a counted event of Table 13-8: event 0 confirmed mismatch, 1 mismatch, 2 test failure, 3 uncorrectable or
address error, 4 corrected error, 5 lane failure. -/
def trackLimit (kind ev : Nat) : Nat :=
  match kind, ev with
  | 1, 1 => 3
  | 2, 4 => 8
  | 3, 4 => 4
  | 4, 5 => 3
  | _, _ => 1

/-- Whether the counted events of one kind reach the threshold: pool corrected errors recur in one word, HBM corrected errors
lie in distinct sectors (Table 13-8). -/
def trackReached (kind ev item : Nat) (evs : List (Nat × Nat × Nat)) : Bool :=
  let mine := evs.filter fun e => e.2.1 == ev
  let n :=
    if kind = 2 ∧ ev = 4 then (mine.filter fun e => e.2.2 == item).length
    else if kind = 3 ∧ ev = 4 then ((mine.map fun e => e.2.2).eraseDups).length
    else mine.length
  decide (trackLimit kind ev ≤ n)

/-- Count a confirmed or repeated fault of a resource over a rolling 24 hours; at the threshold the events restart and the
answer is true (R368). -/
def State.track (s : State) (kind die inst row ev item : Nat) : Bool × State :=
  let same := fun (t : Tracked) => t.kind == kind && t.die == die && t.inst == inst && t.row == row
  let day := 24 * 810000000000
  let old := (s.fault.track.find? same).map (·.events)
  let evs := ((old.getD []).filter fun e => decide (s.time < e.1 + day)) ++ [(s.time, ev, item)]
  let hit := trackReached kind ev item evs
  let rest := s.fault.track.filter fun t => !same t
  -- entries stand in order of their last event, so the head has the oldest
  let full := old.isNone && decide (1024 ≤ s.fault.track.length)
  let s := if full then s.bump Reg.faultTrackevict 1 else s
  let rest := if full then rest.drop 1 else rest
  (hit, { s with fault := { s.fault with track := rest ++ [⟨kind, die, inst, row, if hit then [] else evs⟩] } })

end Sys2Proof.Machine
end

