-- ==== Sys2Proof/Machine/Image.lean ====
section
/-! DEFINITION. Image.lean: Parterre images as bytes, with the fields of their records (R152 to R168, R129, R254, R259), the
PLAN and BEDs in effect, and the address spaces a PLAN gives a partition (R131). -/
namespace Sys2Proof.Machine

/-! ### Access to the compute side -/

/-- Change the compute side. -/
def State.modComp (s : State) (f : Comp → Comp) : State := { s with comp := f s.comp }
/-- Change a partition's job. -/
def State.modPart (s : State) (pt : Nat) (f : Part → Part) : State :=
  s.modComp fun c => { c with parts := vmod c.parts pt f }
/-- A partition's job. -/
def State.part (s : State) (pt : Nat) : Part := vget s.comp.parts pt
/-- Change a Jet unit. -/
def State.modJet (s : State) (i : Nat) (f : JetSt → JetSt) : State := s.modComp fun c => { c with jets := vmod c.jets i f }
/-- Change a Sluice engine, 2 × die + engine. -/
def State.modEng (s : State) (i : Nat) (f : EngineSt → EngineSt) : State :=
  s.modComp fun c => { c with engines := vmod c.engines i f }
/-- Change the loader. -/
def State.modLoader (s : State) (f : Loader → Loader) : State := s.modComp fun c => { c with loader := f c.loader }
/-- Change the Weir. -/
def State.modWeir (s : State) (f : Weir → Weir) : State := s.modComp fun c => { c with weir := f c.weir }
/-- Change Cascade. -/
def State.modCasc (s : State) (f : Cascade → Cascade) : State := s.modComp fun c => { c with casc := f c.casc }
/-- Change a group slot. -/
def State.modGroup (s : State) (i : Nat) (f : Group → Group) : State :=
  s.modCasc fun c => { c with groups := vmod c.groups i f }
/-- Change the fabric. -/
def State.modFab (s : State) (f : Fabric → Fabric) : State := s.modComp fun c => { c with fab := f c.fab }
/-- Change a port. -/
def State.modPort (s : State) (p : Nat) (f : PortSt → PortSt) : State :=
  s.modFab fun x => { x with ports := vmod x.ports p f }

/-- No record (R155). -/
def none32 : Nat := 0xFFFFFFFF
/-- No address (R155). -/
def none48 : Nat := 0xFFFFFFFFFFFF

/-! ### Container (R152, R153) -/

/-- Directory entries (TYPE, RECSIZE, COUNT, OFFSET). -/
def imgDir (im : List Byte) : List (Nat × Nat × Nat × Nat) :=
  (List.range (u16 im 6)).map fun i =>
    let o := 0x40 + 16 * i
    (u16 im o, u16 im (o + 2), u32 im (o + 4), u32 im (o + 8))

/-- Record size of a section type and the range of its COUNT (Table 06-2). -/
def secInfo (t : Nat) : Option (Nat × Nat × Nat) :=
  ([(0x0101, 64, 1, 1), (0x0102, 192, 1, 16), (0x0103, 32, 0, 32), (0x0104, 8, 0, 256), (0x0201, 64, 1, 1),
    (0x0202, 192, 1, 65536), (0x0203, 64, 1, 65536), (0x0204, 16, 0, 262144), (0x0205, 64, 1, 16384),
    (0x0206, 4, 0, 1048576), (0x0207, 32, 0, 65536), (0x0208, 192, 0, 4096), (0x0209, 16, 0, 262144),
    (0x020A, 64, 0, 256), (0x020B, 16, 0, 4096)].find? fun x => x.1 == t).map (·.2)

/-- Directory index of a section. -/
def secIx (im : List Byte) (t : Nat) : Option Nat := (imgDir im).findIdx? fun e => e.1 == t

/-- Number of records of a section. -/
def secCount (im : List Byte) (t : Nat) : Nat := (((imgDir im).find? fun e => e.1 == t).map fun e => e.2.2.1).getD 0

/-- Bytes of a record. -/
def recOf (im : List Byte) (t i : Nat) : List Byte :=
  match (imgDir im).find? fun e => e.1 == t with
  | some (_, sz, cnt, off) => if i < cnt then slice im (off + sz * i) sz else List.replicate sz 0#8
  | none => []

/-- All records of a section. -/
def recsOf (im : List Byte) (t : Nat) : List (List Byte) := (List.range (secCount im t)).map fun i => recOf im t i

/-! ### LAYOUT (Table 05-1) -/

/-- A layout descriptor, decoded; every list has RANK entries. -/
structure Layout where
  base : Nat
  space : Nat
  rank : Nat
  format : Nat
  fill : Nat
  coll : Nat
  scaled : Bool
  fillcode : Nat
  bshape : List Nat
  scaleBase : Nat
  stride : List Int
  extent : List Nat
  globalExt : List Nat
  shard : List (Nat × Nat × Nat)
deriving DecidableEq, Repr, Inhabited

/-- Decode the 192 bytes. -/
def layoutOf (r : List Byte) : Layout :=
  let w8 := u32 r 8
  let rank := field w8 3 0
  let ds := List.range (min rank 8)
  { base := u48 r 0, space := field (u16 r 6) 3 0, rank := rank, format := field w8 7 4, fill := field w8 9 8,
    coll := field w8 11 10, scaled := bit w8 12, fillcode := field w8 31 16,
    bshape := ds.map fun d => field (u32 r 0x0C) (3 * d + 2) (3 * d)
    scaleBase := u48 r 0x10
    stride := ds.map fun d => sN 48 (u48 r (0x18 + 8 * d))
    extent := ds.map fun d => u32 r (0x58 + 4 * d)
    globalExt := ds.map fun d => u32 r (0x78 + 4 * d)
    shard := ds.map fun d =>
      let w := u32 r (0x98 + 4 * d)
      (field w 1 0, field w 4 2, field w 31 16) }

/-- Product of a list. -/
def prodN (l : List Nat) : Nat := l.foldl (· * ·) 1
/-- Sum of a list. -/
def sumN (l : List Nat) : Nat := l.foldl (· + ·) 0
/-- Sum of integers. -/
def sumZ (l : List Int) : Int := l.foldl (· + ·) 0

/-- Block extents b_d and block size B (R132). -/
def Layout.bext (l : Layout) : List Nat := l.bshape.map fun b => 2 ^ b
def Layout.bsize (l : Layout) : Nat := prodN l.bext

/-- Whether a format is stored in block records, and its element bytes (Table 05-2). -/
def recordFmt (f : Nat) : Bool := f == 5 || f == 6 || f == 7
def elemBytes (f : Nat) : Nat := if f = 2 ∨ f = 3 then 2 else 1
/-- Record size of a block of B elements (Table 04-3). -/
def recordSize (f b : Nat) : Nat := if f = 6 then 4 + 3 * b / 4 else 4 + b / 2
/-- Output formats (R82). -/
def outFmt (f : Nat) : Bool := decide (f < 4)
/-- Quantised formats (R108). -/
def quantFmt (f : Nat) : Bool := decide (4 ≤ f ∧ f ≤ 7)

/-- Element offset of a local index tuple (R131). -/
def Layout.offset (l : Layout) (ix : List Int) : Int := sumZ ((ix.zip l.stride).map fun p => p.1 * p.2)

/-- Least and greatest byte, relative to BASE, that indices in [0, EXTENT) reach, the end exclusive (R139). -/
def Layout.span (l : Layout) : Int × Int :=
  let d := l.stride.zip l.extent
  let lo := sumZ (d.map fun p => if p.1 < 0 then p.1 * ((p.2 : Int) - 1) else 0)
  let hi := sumZ (d.map fun p => if p.1 < 0 then 0 else p.1 * ((p.2 : Int) - 1))
  if recordFmt l.format then
    let b := (l.bsize : Int)
    let r := (recordSize l.format l.bsize : Int)
    (lo / b * r, (hi / b + 1) * r)
  else
    let e := (elemBytes l.format : Int)
    (lo * e, (hi + 1) * e)

/-- The same of the scale plane, relative to SCALE_BASE (R132, R139). -/
def Layout.scaleSpan (l : Layout) : Int × Int :=
  let d := l.stride.zip l.extent
  let lo := sumZ (d.map fun p => if p.1 < 0 then p.1 * ((p.2 : Int) - 1) else 0)
  let hi := sumZ (d.map fun p => if p.1 < 0 then 0 else p.1 * ((p.2 : Int) - 1))
  (lo / (l.bsize : Int), hi / (l.bsize : Int) + 1)

/-! ### TENSOR, USE, LAYER, MASK, JETPROG, CASCADE, GROUP (Tables 06-6 to 06-9, R166, R213, R254, R259) -/

/-- A TENSOR record, decoded. -/
structure Tensor where
  tag : Nat
  format : Nat
  kind : Nat
  fine : Bool
  round : Nat
  ret : Nat
  ring : Nat
  hold : Nat
  layout : Nat
  spill : Nat
  stride : Nat
  chDim : Nat
  wides : Nat
  wideFirst : Nat
  wideLayout : Nat
  zpLayout : Nat
  sideBase : Nat
  sideSpace : Nat
  frozen : Nat
  wgMask : Nat
deriving DecidableEq, Repr, Inhabited

/-- Decode a TENSOR record (Table 06-7). -/
def tensorOf (r : List Byte) : Tensor :=
  let w := u32 r 4
  { tag := u32 r 0, format := field w 3 0, kind := field w 6 4, fine := bit w 7, round := field w 9 8,
    ret := field w 11 10, ring := field w 13 12, hold := field w 31 16, layout := u32 r 8, spill := u32 r 12,
    stride := u48 r 0x10, chDim := field (u32 r 0x18) 2 0, wides := field (u32 r 0x18) 9 3, wideFirst := u32 r 0x1C,
    wideLayout := u32 r 0x20, zpLayout := u32 r 0x24, sideBase := u48 r 0x28, sideSpace := field (u16 r 0x2E) 3 0,
    frozen := u32 r 0x30, wgMask := u32 r 0x34 }

/-- A LAYER record, decoded. -/
structure Layer where
  id : Nat
  die : Nat
  shape : Nat
  roles : Nat
  useX : Nat
  useW : Nat
  useWT : Nat
  useG : Nat
  outY : Nat
  outDX : Nat
  outDW : Nat
  casc : Nat
  jet : Nat
deriving DecidableEq, Repr, Inhabited

/-- Decode a LAYER record (Table 06-8). -/
def layerOf (r : List Byte) : Layer :=
  let w := u32 r 4
  { id := u32 r 0, die := field w 1 0, shape := field w 4 2, roles := field w 31 16, useX := u32 r 8, useW := u32 r 12,
    useWT := u32 r 0x10, useG := u32 r 0x14, outY := u32 r 0x18, outDX := u32 r 0x1C, outDW := u32 r 0x20,
    casc := u32 r 0x24, jet := u32 r 0x28 }

/-- A GROUP record, decoded (Table 10-1). -/
structure GroupRec where
  gid : Nat
  axis : Nat
  levels : Nat
  rslots : Nat
  key : Nat
  minMembers : Nat
  stageBase : Nat
  stageLen : Nat
  pipeBase : Nat
  pipeLen : Nat
deriving DecidableEq, Repr, Inhabited

/-- Decode a GROUP record. -/
def groupOf (r : List Byte) : GroupRec :=
  let w := u32 r 0
  { gid := field w 15 0, axis := field w 18 16, levels := field w 23 20, rslots := field (u32 r 4) 10 0, key := u64 r 8,
    minMembers := max 1 (field (u32 r 0x10) 17 0), stageBase := u48 r 0x18, stageLen := u48 r 0x20, pipeBase := u48 r 0x28,
    pipeLen := u48 r 0x30 }

/-- A CASCADE record, decoded (Table 10-3). -/
structure CascRec where
  opc : Nat
  group : Nat
  when_ : Nat
  permb : Bool
  resv : Nat
  src : Nat
  dst : Nat
  aux : Nat
deriving DecidableEq, Repr, Inhabited

/-- Decode a CASCADE record. -/
def cascOf (r : List Byte) : CascRec :=
  let w := u32 r 0
  { opc := field w 7 0, group := field w 15 8, when_ := field w 17 16, permb := bit w 18, resv := field w 31 19,
    src := u32 r 4, dst := u32 r 8, aux := u32 r 12 }

/-- Records of a BED by number. -/
def bedTensor (b : List Byte) (i : Nat) : Tensor := tensorOf (recOf b 0x0203 i)
def bedLayout (b : List Byte) (i : Nat) : Layout := layoutOf (recOf b 0x0202 i)
def bedLayer (b : List Byte) (i : Nat) : Layer := layerOf (recOf b 0x0205 i)
def bedCasc (b : List Byte) (i : Nat) : CascRec := cascOf (recOf b 0x0209 i)
def bedGroup (b : List Byte) (i : Nat) : GroupRec := groupOf (recOf b 0x020A i)
def bedTensors (b : List Byte) : List Tensor := (recsOf b 0x0203).map tensorOf
def bedLayers (b : List Byte) : List Layer := (recsOf b 0x0205).map layerOf
def bedGroups (b : List Byte) : List GroupRec := (recsOf b 0x020A).map groupOf
/-- TENSOR of a USE record, PATH and ENGINE (Table 06-9). -/
def useTensor (b : List Byte) (u : Nat) : Nat := u32 (recOf b 0x0204 u) 0
def usePath (b : List Byte) (u : Nat) : Nat := field (u32 (recOf b 0x0204 u) 4) 0 0
def useEngine (b : List Byte) (u : Nat) : Nat := field (u32 (recOf b 0x0204 u) 4) 1 1
def useCopy (b : List Byte) (u : Nat) : Nat := u32 (recOf b 0x0204 u) 8
/-- Whether a USE reads its operand transposed: the panel passes the transpose unit (R147, R165). -/
def useTranspose (b : List Byte) (u : Nat) : Bool := bit (u32 (recOf b 0x0204 u) 4) 2
/-- JOB fields (Table 06-6). -/
def jobSeed (b : List Byte) : Nat := u64 (recOf b 0x0201 0) 0
def jobAhead (b : List Byte) : Nat := field (u32 (recOf b 0x0201 0) 8) 1 0
def jobProv (b : List Byte) : Bool := bit (u32 (recOf b 0x0201 0) 8) 2
def jobStrict (b : List Byte) : Bool := bit (u32 (recOf b 0x0201 0) 8) 3
def jobResidency (b : List Byte) : Nat := field (u32 (recOf b 0x0201 0) 8) 15 8
def jobRecipe (b : List Byte) : Nat := field (u32 (recOf b 0x0201 0) 8) 20 16
def jobMbs (b : List Byte) : Nat := u16 (recOf b 0x0201 0) 12

/-- Place of a layer in the topological order of the layer graph, ties by LAYER_ID (R188). -/
def topo (b : List Byte) : Nat → List Nat → List Nat → List Nat
  | 0, _, done => done
  | k + 1, left, done =>
    let ready := left.filter fun i =>
      let x := useTensor b (bedLayer b i).useX
      !(left.any fun j => (bedLayer b j).id != (bedLayer b i).id && (bedLayer b j).outY == x)
    let ids := (ready.map fun i => (bedLayer b i).id)
    match ids with
    | [] => done ++ (left.map fun i => (bedLayer b i).id).eraseDups
    | a :: t =>
      let m := t.foldl min a
      topo b k (left.filter fun i => (bedLayer b i).id != m) (done ++ [m])

/-- LAYER_IDs in topological order. -/
def layerOrder (b : List Byte) : List Nat := topo b (secCount b 0x0205) (List.range (secCount b 0x0205)) []

/-- LAYER_IDs of the layers at the last RESIDENCY positions (R188, R190). -/
def residentIds (b : List Byte) : List Nat :=
  let ids := layerOrder b
  ids.drop (ids.length - jobResidency b)

/-! ### The PLAN in effect (R41, R157, R160) -/

/-- PLAN in effect, if an image. -/
def State.plan (s : State) : Option (List Byte) := s.comp.loader.plan

/-- PARTITION record of a partition in a PLAN. -/
def planRec (p : List Byte) (pt : Nat) : Option (List Byte) := (recsOf p 0x0102).find? fun r => field (u8 r 0) 3 0 == pt

/-- Resources of a partition. -/
structure PtRes where
  tag : Nat
  rslots : Nat
  cap : Nat
  recipes : Nat
  /-- Bit masks as Table 06-3 gives. -/
  roles : Nat
  pools : Nat
  hbm : Nat
  ports : Nat
deriving DecidableEq, Repr, Inhabited

/-- Fields of a PARTITION record. -/
def ptResOf (r : List Byte) : PtRes :=
  { tag := u32 r 4, rslots := field (u16 r 8) 10 0, cap := u16 r 12, recipes := u32 r 0x10, roles := u64 r 0x18,
    pools := uN 32 r 0x20, hbm := uN 48 r 0x40, ports := u48 r 0x70 }

/-- Usable roles as a mask, bit 16 × die + role: those that an array holds (R26). -/
def State.usableRoles (s : State) : Nat :=
  (List.range 64).foldl (fun m i => if (s.arrayOf (i / 16) (i % 16)).isSome then m + 2 ^ i else m) 0

/-- HBM channels in service as a mask: licensed stacks, less the channels out of service (R8, R421). -/
def State.hbmInService (s : State) : Nat :=
  let lic := field (s.reg Reg.globalLicstat) 3 3
  (List.range 384).foldl (fun m c =>
    let stack := c / 32
    if (lic = 0 ∧ stack % 3 = 2) ∨ s.boot.channelsOut.contains c then m else m + 2 ^ c) 0

/-- Whether a partition is defined, and its resources: the PLAN in effect, or everything to PT0 (R41). -/
def State.ptRes (s : State) (pt : Nat) : Option PtRes :=
  match s.plan with
  | some p => (planRec p pt).map ptResOf
  | none =>
    if pt = 0 then
      let ports24 := bit (s.reg Reg.globalLicstat) 1
      some { tag := 0, rslots := 0, cap := 0, recipes := 0
             roles := s.usableRoles, pools := 2 ^ 256 - 1, hbm := s.hbmInService
             ports := (List.range (if ports24 then 24 else 8)).foldl (fun m p => m + 2 ^ (2 * p)) 0 }
    else none

/-- Partitions defined. -/
def State.defined (s : State) (pt : Nat) : Bool := (s.ptRes pt).isSome
/-- Owner of an item of a mask of PtRes. -/
def State.ownerBy (s : State) (f : PtRes → Nat) (i : Nat) : Option Nat :=
  (List.range 16).find? fun pt => ((s.ptRes pt).map fun r => bit (f r) i).getD false
/-- Partition that owns a role of a die. -/
def State.roleOwner (s : State) (die role : Nat) : Option Nat := s.ownerBy PtRes.roles (16 * die + role)
/-- Partition that owns an array's role. -/
def State.arrayOwner (s : State) (i : Nat) : Option Nat :=
  ((vget s.arrays i).role).bind fun r => s.roleOwner (i / 18) r
/-- Partition that owns a port or half, bit 2p + h. -/
def State.portOwner (s : State) (p h : Nat) : Option Nat := s.ownerBy PtRes.ports (2 * p + h)
/-- PORT_SPLIT of the PLAN in effect (R156). -/
def State.split (s : State) (p : Nat) : Bool :=
  match s.plan with | some im => bit (u32 (recOf im 0x0101 0) 0) p | none => false
/-- Whether a partition resets or its compute does (R45). -/
def State.resetting (s : State) (pt : Nat) : Bool := s.boot.computeResetting || s.boot.ptResetting.getLsbD pt

/-- Recipe entry of a table for a kind in a PLAN (R160). -/
def recipeEntry (p : List Byte) (table kind : Nat) : Nat :=
  match (recsOf p 0x0103).find? fun r => field (u32 r 0) 4 0 == table with
  | some r => u32 r (4 + 4 * kind)
  | none => 0

/-! ### Spaces (R131) -/

/-- Pools or channels of a partition, ascending. -/
def State.spaceUnits (s : State) (pt space : Nat) : List Nat :=
  match s.ptRes pt with
  | some r => if space = 0 then bitsOf 256 r.pools else bitsOf 384 r.hbm
  | none => []

/-- Bytes of a space of a partition. -/
def State.spaceSize (s : State) (pt space : Nat) : Nat :=
  (s.spaceUnits pt space).length * (if space = 0 then 2 ^ 23 else 2 ^ 31)

/-- Physical key of an address of a space; none outside the space. -/
def State.phys (s : State) (pt space a : Nat) : Option Nat :=
  let sz := if space = 0 then 2 ^ 23 else 2 ^ 31
  ((s.spaceUnits pt space)[a / sz]?).map fun u => if space = 0 then u * 2 ^ 23 + a % sz else hbmBase + u * 2 ^ 31 + a % sz

/-- Die of an address of a space (R24): 64 pools and 96 HBM pseudo-channels belong to each. -/
def State.dieOf (s : State) (pt space a : Nat) : Option Nat :=
  ((s.spaceUnits pt space)[a / (if space = 0 then 2 ^ 23 else 2 ^ 31)]?).map fun u => if space = 0 then u / 64 else u / 96

/-- Whether [a, a + n) lies inside a space. -/
def State.inSpace (s : State) (pt space : Nat) (a : Int) (n : Int) : Bool :=
  decide (0 ≤ a) && decide (a + n ≤ (s.spaceSize pt space : Int))

/-- Read n bytes of a space; bytes outside read zero, which no checked access reaches. -/
def State.readSpace (s : State) (pt space a n : Nat) : List Byte :=
  (List.range n).map fun i => match s.phys pt space (a + i) with | some k => Memory.read s.mem k | none => 0#8

/-- Whether any byte of a range is poisoned. -/
def State.poisonSpace (s : State) (pt space a n : Nat) : Bool :=
  !s.poison.isEmpty && (List.range n).any fun i =>
    match s.phys pt space (a + i) with | some k => s.poisoned k | none => false

/-- Write bytes of a space; a range that crosses no unit is written in one piece, so that whole granules lose their poison
(R343, R344). -/
def State.writeSpace (s : State) (pt space a : Nat) (bs : List Byte) : State :=
  match s.phys pt space a, s.phys pt space (a + (bs.length - 1)) with
  | some k, some k' =>
    if k + (bs.length - 1) = k' then s.writeMem k bs
    else forEach bs.zipIdx (fun b s => match s.phys pt space (a + b.2) with | some k => s.writeMem k [b.1] | none => s) s
  | _, _ => forEach bs.zipIdx (fun b s => match s.phys pt space (a + b.2) with | some k => s.writeMem k [b.1] | none => s) s

end Sys2Proof.Machine
end

