-- ==== Sys2Proof/Machine/Formats.lean ====
section
/-! DEFINITION. Formats.lean: decoding, rounding and encoding of elements, the stochastic-rounding generator, fine codes and
fit rungs (R55, R56, R82 to R99), and binary32 of the Jet units (R211). -/
namespace Sys2Proof.Machine

/-! ### Codes (R55, R56, Table 02-2, Table 03-1) -/

/-- Fraction width, bias and exponent width of a floating-point format; FP6 is format 6. -/
def fmtBits (f : Nat) : Nat × Nat × Nat :=
  match f with
  | 0 => (3, 7, 4)
  | 1 => (2, 15, 5)
  | 2 => (10, 15, 5)
  | 3 => (7, 127, 8)
  | _ => (2, 3, 3)

/-- Exponent of the smallest subnormal. -/
def fmtSub (f : Nat) : Int := 1 - ((fmtBits f).2.1 : Int) - ((fmtBits f).1 : Int)

/-- Largest finite magnitude as m × 2^e (Table 03-1). -/
def fmtMax (f : Nat) : Nat × Int :=
  match f with
  | 0 => (14, 5)
  | 1 => (6, 14)
  | 2 => (2047, 5)
  | _ => (255, 120)

/-- Top binade T (Table 03-1). -/
def fmtTop (f : Nat) : Int :=
  match f with
  | 0 => 8
  | 1 => 16
  | 2 => 15
  | _ => 127

/-- Decode a floating-point code to significand and exponent; none for a poison code (R55, R56). -/
def decodeFp (f code : Nat) : Option (Int × Int) :=
  let (mb, bias, ew) := fmtBits f
  let fr := field code (mb - 1) 0
  let ex := field code (mb + ew - 1) mb
  let neg := bit code (mb + ew)
  let poison :=
    match f with
    | 0 | 1 => field code 6 0 == 0x7F
    | 2 | 3 => ex == 2 ^ ew - 1
    | _ => false
  if poison then none
  else
    let mag := if ex = 0 then fr else 2 ^ mb + fr
    let e : Int := (if ex = 0 then 1 else (ex : Int)) - bias - mb
    some (if neg then -(mag : Int) else mag, e)

/-- Poison code written (R84). -/
def poisonCode (f : Nat) : Nat := if f = 2 ∨ f = 3 then 0x7FFF else 0x7F

/-! ### Exact values -/

/-- The exact value z × 2^e. -/
def exactZ (z : Int) (e : Int) : Exact := { neg := decide (z < 0), m := z.natAbs, e := e }

/-- Whether an exact value is zero. -/
def Exact.isZero (x : Exact) : Bool := x.m == 0 && !x.sticky

/-- ⌊log₂⌋ of the magnitude. -/
def Exact.lg (x : Exact) : Option Int := if x.m = 0 then none else some ((Nat.log2 x.m : Int) + x.e)

/-- The value of a drained word B × 2^L / g (R52, R72): with g = 255 the magnitude's quotient with 24 further bits and a sticky
bit. -/
def drainValue (b : Int) (l : Int) (grid : Bool) : Exact :=
  if grid then
    let n := b.natAbs * 2 ^ 24
    { neg := decide (b < 0), m := n / 255, e := l - 24, sticky := n % 255 != 0 }
  else exactZ b l

/-- An integer shifted by a signed power of two, truncated toward minus infinity (R62, R66, R223). -/
def shiftFloor (z : Int) (sh : Int) : Int := if 0 ≤ sh then z * (2 ^ sh.toNat : Nat) else z / ((2 ^ (-sh).toNat : Nat) : Int)

/-- Fit magnitudes a ≤ b given as m × 2^e. -/
def magLe (a : Nat) (ea : Int) (b : Nat) (eb : Int) : Bool :=
  let e := min ea eb
  decide (a * 2 ^ (ea - e).toNat ≤ b * 2 ^ (eb - e).toNat)

/-! ### Rounding (R93 to R97) -/

/-- rotl64 of R96. -/
def rotl64 (x : BitVec 64) (n : Nat) : BitVec 64 := (x <<< n) ||| (x >>> (64 - n))

/-- One round of the generator (R96). -/
def genRound (p : BitVec 64 × BitVec 64) : BitVec 64 × BitVec 64 :=
  let x := p.1 + p.2
  let y := rotl64 p.2 27 ^^^ x
  (rotl64 x 13 * 0xD1B54A32D192ED03#64, y)

/-- The 32 random bits of an element (R96, R97). -/
def genBits (seed tag step index : Nat) : Nat :=
  let x := BitVec.ofNat 64 seed ^^^ BitVec.ofNat 64 ((tag % 2 ^ 32) * 2 ^ 32 + step % 2 ^ 32)
  let y := BitVec.ofNat 64 index ^^^ 0x9E3779B97F4A7C15#64
  let (x, y) := genRound (genRound (genRound (genRound (x, y))))
  ((x ^^^ y) >>> (32 : Nat)).toNat

/-- Rounding modes: 0 nearest even, 1 toward zero, 2 stochastic (Table 06-7). The result is N and the exponent of q (R94, R95):
magnitude m × 2^e in code units. -/
def roundMag (mb : Nat) (sub : Int) (mode bits : Nat) (m : Nat) (e : Int) (sticky : Bool) : Nat × Int :=
  let qe := if m = 0 then sub else max ((Nat.log2 m : Int) + e - mb) sub
  if qe ≤ e then (m * 2 ^ (e - qe).toNat, qe)
  else
    let r := (qe - e).toNat
    let n := m / 2 ^ r
    let d := m % 2 ^ r
    let up :=
      if mode = 0 then decide (2 ^ r < 2 * d) || (2 * d == 2 ^ r && (sticky || n % 2 == 1))
      else if mode = 1 then false
      else
        let w := min r 24
        decide (bits / 2 ^ (32 - w) < d / 2 ^ (r - w))
    (if up then n + 1 else n, qe)

/-- Round an exact value at c and k in a format (R93 to R95). A g = 255 quotient below zero has the floor Q as its bits under
stochastic rounding (R72; entry 30). -/
def roundTo (f : Nat) (c : Int) (k mode bits : Nat) (x : Exact) : Nat × Int :=
  let (m, st) := if mode = 2 ∧ x.neg ∧ x.sticky then (x.m + 1, false) else (x.m, x.sticky)
  roundMag (fmtBits f).1 (fmtSub f) mode bits m (x.e + k - c) st

/-- Whether a rounded magnitude lies above the largest finite value. -/
def tooLarge (f : Nat) (r : Nat × Int) : Bool := !magLe r.1 r.2 (fmtMax f).1 (fmtMax f).2

/-- Code of a rounded magnitude that fits, with its sign. -/
def encodeFp (f : Nat) (neg : Bool) (r : Nat × Int) : Nat :=
  let (mb, _, ew) := fmtBits f
  let (n, qe) := if r.1 = 2 ^ (mb + 1) then (2 ^ mb, r.2 + 1) else r
  let body := if n < 2 ^ mb then n else at_ mb (qe - fmtSub f + 1).toNat + (n - 2 ^ mb)
  body + at_ (mb + ew) (b2n neg)

/-- Code of the largest finite value with a sign. -/
def maxCode (f : Nat) (neg : Bool) : Nat :=
  (match f with | 0 => 0x7E | 1 => 0x7E | 2 => 0x7BFF | _ => 0x7F7F) +
    b2n neg * (if f = 2 ∨ f = 3 then 0x8000 else 0x80)

/-- Code stored for an exact value: poison, or the rounded value with the sign of the exact value; an exact zero is +0 (R84). The
second answer says that it was clamped to the largest finite value (R140, R227). -/
def storeCode (f : Nat) (c : Int) (k mode bits : Nat) (x : Exact) : Nat × Bool :=
  if x.poison then (poisonCode f, false)
  else if x.isZero then (0, false)
  else
    let r := roundTo f c k mode bits x
    if tooLarge f r then (maxCode f x.neg, true) else (encodeFp f x.neg r, false)

/-- Whether an element overflows a format at k = 0 (R98). -/
def overflows (f : Nat) (c : Int) (mode bits : Nat) (x : Exact) : Bool :=
  !x.poison && tooLarge f (roundTo f c 0 mode bits x)

/-- Fit rung of an element at or above the current rung (R99); 4 when BF16 overflows (R101). -/
def fitRung (rung : Nat) (c : Int) (mode bits : Nat) (x : Exact) : Nat :=
  ((List.range 4).find? fun r => decide (rung ≤ r) && !overflows r c mode bits x).getD 4

/-- Fine code of a block by its largest exact magnitude (R91). -/
def fineCode (f : Nat) (c : Int) (xs : List Exact) : Nat :=
  let lgs := (xs.filter fun x => !x.poison).filterMap Exact.lg
  match lgs with
  | [] => 0
  | l :: t => (min 15 (fmtTop f - (t.foldl max l - c))).toNat

/-- Fine code of a block after R92: one less when an element rounds above the largest finite value. -/
def blockCode (f : Nat) (c : Int) (mode : Nat) (xs : List (Exact × Nat)) : Nat :=
  let k := fineCode f c (xs.map (·.1))
  if 0 < k ∧ xs.any (fun x => !x.1.poison && tooLarge f (roundTo f c k mode x.2 x.1)) then k - 1 else k

/-- ⌊log₂⌋ of the largest magnitude of a list (R88). -/
def maxLg (xs : List Exact) : Option Int :=
  (xs.filter fun x => !x.poison).foldl (fun b x => match b, x.lg with
    | none, l => l
    | some a, some l => some (max a l)
    | some a, none => some a) none

/-! ### binary32 (R211) -/

/-- Sign, magnitude and exponent of a finite binary32 pattern. -/
def f32Exact (v : JVal) : Exact :=
  let ex := field v.bits 30 23
  let fr := field v.bits 22 0
  { neg := bit v.bits 31, m := if ex = 0 then fr else 2 ^ 23 + fr, e := (if ex = 0 then 1 else (ex : Int)) - 150
    poison := v.poison }

/-- Round to nearest even into binary32: none when the rounded magnitude exceeds the largest finite value (R211). -/
def f32Round (neg : Bool) (m : Nat) (e : Int) (sticky : Bool) : Option Nat :=
  let r := roundMag 23 (-149) 0 0 m e sticky
  let (n, qe) := if r.1 = 2 ^ 24 then (2 ^ 23, r.2 + 1) else r
  if 104 < qe ∧ 2 ^ 23 ≤ n then none
  else
    let body := if n < 2 ^ 23 then n else at_ 23 (qe + 150).toNat + (n - 2 ^ 23)
    some (body + at_ 31 (b2n neg))

end Sys2Proof.Machine
end

