-- ==== Sys2Proof/Machine/Operands.lean ====
section
/-! DEFINITION. Operands.lean: tensor instances and the operand elements read from them: sharding, fill, quantised records, wide
channels, coarse scales, rungs and ring slots (R85 to R90, R102, R108 to R121, R134 to R137, R164, R189, R193). -/
namespace Sys2Proof.Machine

/-- An operand element (R55, R114, R120): significand, exponent, fine code, side entry, poison. -/
structure OpElem where
  s : Int := 0
  e : Int := 0
  k : Nat := 0
  side : Bool := false
  poison : Bool := false
  /-- A side entry that is an FP16 code: an escape or a wide channel (R123). -/
  half : Bool := false
deriving DecidableEq, Repr, Inhabited

/-! ### Sharding (R134, R135) -/

/-- Size and coordinate of a group axis of a partition: one member at 0 while no group over it is formed. -/
def State.axisOf (s : State) (pt axis : Nat) : Nat × Nat :=
  match (s.part pt).bed with
  | none => (1, 0)
  | some b =>
    match (s.comp.casc.groups.toList.find? fun g => g.st == 2 && g.pt == pt && (bedGroup b g.record).axis == axis) with
    | some g => (max 1 g.members.length, g.rank)
    | none => (1, 0)

/-- Used local extent of a dimension (Table 05-3). -/
def usedDim (sh : Nat × Nat × Nat) (glob P p : Nat) : Nat :=
  match sh.1 with
  | 0 => glob
  | 1 => let c := cdiv glob P; min c (glob - p * c)
  | _ => (List.range (glob / sh.2.2 + 1)).foldl (fun n j => if j % P = p then n + min sh.2.2 (glob - j * sh.2.2) else n) 0

/-- Global index of a local index of one dimension (Table 05-3). -/
def globalDim (sh : Nat × Nat × Nat) (glob P p l : Nat) : Nat :=
  match sh.1 with
  | 0 => l
  | 1 => p * cdiv glob P + l
  | _ => (l / sh.2.2 * P + p) * sh.2.2 + l % sh.2.2

/-- Used extents of every dimension. -/
def State.usedExt (s : State) (pt : Nat) (l : Layout) : List Nat :=
  (l.shard.zip l.globalExt).map fun d => let a := s.axisOf pt d.1.2.1; usedDim d.1 d.2 a.1 a.2

/-- Global index tuple of a local one. -/
def State.globalIx (s : State) (pt : Nat) (l : Layout) (ix : List Nat) : List Nat :=
  ((l.shard.zip l.globalExt).zip ix).map fun d =>
    let a := s.axisOf pt d.1.1.2.1; globalDim d.1.1 d.1.2 a.1 a.2 d.2

/-- Row-major number of an index tuple. -/
def rowMajor (ext ix : List Nat) : Nat := (ext.zip ix).foldl (fun n p => n * p.1 + p.2) 0

/-- Index tuple of a row-major number. -/
def unRow : List Nat → Nat → List Nat
  | [], _ => []
  | _ :: t, n => let w := prodN t; (n / w) :: unRow t (n % w)

/-- index48 of a local index tuple (R135). -/
def State.index48 (s : State) (pt : Nat) (l : Layout) (ix : List Nat) : Nat := rowMajor l.globalExt (s.globalIx pt l ix)

/-! ### Job state of tensors (R89, R90, R102 to R104, R189, R193) -/

/-- Whether a tensor has a micro-batch dimension (R135). -/
def mbKind (k : Nat) : Bool := k == 1 || k == 2 || k == 6

/-! ### Masks (R166, R191, A9) -/

/-- Number of mask units of a layout and the unit of a local index tuple (R166): GRAIN 0 rows, 1 blocks, 2 elements. -/
def maskUnit (l : Layout) (grain : Nat) (ix : List Nat) : Nat :=
  let r := l.rank
  match grain with
  | 0 => nth ix 0 0
  | 1 =>
    let ext := l.extent.zipIdx.map fun p => if r ≤ p.2 + 2 then cdiv p.1 128 else p.1
    rowMajor ext (ix.zipIdx.map fun p => if r ≤ p.2 + 2 then p.1 / 128 else p.1)
  | _ => rowMajor l.extent ix

/-- Number of units (R166). -/
def maskUnits (l : Layout) (grain : Nat) : Nat :=
  match grain with
  | 0 => nth l.extent 0 0
  | 1 => prodN (l.extent.zipIdx.map fun p => if l.rank ≤ p.2 + 2 then cdiv p.1 128 else p.1)
  | _ => prodN l.extent

/-- Bit of a MASK record for an element, from the bitmap read at load (R166). -/
def Part.maskBit (p : Part) (b : List Byte) (rec_ : Nat) (l : Layout) (ix : List Nat) : Bool :=
  if rec_ = none32 then false
  else
    let g := field (u32 (recOf b 0x0207 rec_) 4) 2 1
    match p.masks.find? fun m => m.1 == rec_ with
    | some (_, bm) => let u := maskUnit l g ix; bit (u8 bm (u / 8)) (u % 8)
    | none => false

/-- Whether an element of a weight is frozen. -/
def Part.frozen (p : Part) (b : List Byte) (t : Nat) (ix : List Nat) : Bool :=
  let T := bedTensor b t
  p.maskBit b T.frozen (bedLayout b T.layout) ix

/-- All local index tuples of an extent. -/
def allIx (ext : List Nat) : List (List Nat) := (List.range (prodN ext)).map (unRow ext)

/-- Whether every element of a set is frozen. -/
def Part.allFrozen (p : Part) (b : List Byte) (t : Nat) (keep : List Nat → Bool) : Bool :=
  let T := bedTensor b t
  T.frozen != none32 && (allIx (bedLayout b T.layout).extent).all fun ix => !keep ix || p.frozen b t ix

/-- Whether the gradient of an element is masked: its WG_MASK, a wholly frozen row of dimension 0, or a wholly frozen 128 × 128
block (R191, A9). -/
def Part.masked (p : Part) (b : List Byte) (t : Nat) (ix : List Nat) : Bool :=
  let T := bedTensor b t
  let l := bedLayout b T.layout
  p.maskBit b T.wgMask l ix ||
    (T.frozen != none32 &&
      (p.allFrozen b t (fun y => nth y 0 0 == nth ix 0 0) ||
        (decide (2 ≤ l.rank) && p.allFrozen b t fun y => maskUnit l 1 y == maskUnit l 1 ix)))

/-- A weight whose frozen mask covers every element is held at depth 1 and no update writes it (A6). -/
def Part.heldWeight (p : Part) (b : List Byte) (t : Nat) : Bool := p.allFrozen b t fun _ => true

/-! ### Rings and slots (R189, R193, A6) -/

/-- Weight whose ring a tensor follows (R193): itself for KIND 0, the weight of the program that names a moment. -/
def ringWeight (b : List Byte) (t : Nat) : Option Nat :=
  let T := bedTensor b t
  if T.kind = 0 then some t
  else if T.kind = 4 ∨ T.kind = 5 then
    ((recsOf b 0x0208).find? fun p => u32 p 8 == t || u32 p 12 == t).map fun p => u32 p 4
  else none

/-- RING of a tensor as the BED states it (R168, R193). -/
def ringOf (b : List Byte) (t : Nat) : Nat :=
  match ringWeight b t with | some w => max 1 (bedTensor b w).ring | none => 1

/-- Depth of a tensor's ring in force: a weight whose frozen mask covers every element is held at depth 1, and its moments with it (A6,
R193). -/
def Part.ring (p : Part) (b : List Byte) (t : Nat) : Nat :=
  match ringWeight b t with | some w => if p.heldWeight b w then 1 else ringOf b t | none => 1

/-- Slot of a tensor for a version or step (R189, R193). -/
def Part.slot (p : Part) (b : List Byte) (t v : Nat) : Nat :=
  let T := bedTensor b t
  if T.kind = 0 ∨ T.kind = 4 ∨ T.kind = 5 then v % p.ring b t
  else if T.kind = 1 ∨ T.kind = 6 then v % (1 + jobAhead b)
  else 0

/-- Job entry of a tensor. -/
def Part.job (p : Part) (t : Nat) : Option TensorJob := p.jobs.find? fun j => j.tensor == t

/-- Coarse scale before clamping of a tensor for a step (R89). -/
def State.coarseRaw (s : State) (pt t step : Nat) : Int :=
  match (s.part pt).bed, s.plan with
  | some b, some pl =>
    let T := bedTensor b t
    let r := recipeEntry pl (jobRecipe b) T.kind
    let cfix := sN 8 (field r 11 4)
    if !bit r 3 then cfix
    else
      let n := if field r 17 12 = 0 then 64 else field r 17 12
      let lag := field r 23 22
      let xs := ((((s.part pt).job t).map (·.xs)).getD []).filter fun x => decide (x.1 + lag ≤ step ∧ step < x.1 + lag + n)
      match (xs.filterMap (·.2)) with
      | [] => cfix
      | x :: t' => t'.foldl max x - fmtTop T.format + field r 21 18
  | _, _ => 0

/-- Coarse scale of a tensor for a step, clamped to [−128, 127] (R89). -/
def State.coarse (s : State) (pt t step : Nat) : Int := max (-128) (min 127 (s.coarseRaw pt t step))

/-- Rung of a tensor in a step, from the rung it had and the step of its last spill or move (R102). -/
def rungAfter (T : Tensor) (rung : Nat) (since : Option Nat) (step : Nat) : Nat :=
  match since with
  | none => rung
  | some s0 =>
    if T.ret = 0 ∨ step ≤ s0 + T.hold then rung
    else if T.ret = 1 then T.format
    else max T.format (rung - (step - s0 - 1) / T.hold)

/-- Current rung of a tensor for a step: what an uncommitted step up to it has decided, else the job state (R99, R102, R103). -/
def State.rungAt (s : State) (pt t step : Nat) : Nat :=
  let p := s.part pt
  let T := match p.bed with | some b => bedTensor b t | none => default
  let own := (p.steps.filter fun x => decide (x.num ≤ step)).reverse.findSome? fun x =>
    (x.rungs.find? fun r => r.1 == t).map fun r => (x.num, r.2)
  match own with
  | some (n, r) => rungAfter T r (some n) step
  | none => match p.job t with
    | some j => rungAfter T j.rung j.since step
    | none => T.format

/-- Coarse scale and rung that a stored instance carries (R90): uncommitted first, then committed. A version that no update has written
carries what its slot does; one that nothing is kept of carries the scale of its step, a weight or a moment at its base rung. -/
def State.instScale (s : State) (pt t v : Nat) : Int × Nat :=
  let p := s.part pt
  let hit := fun (x : SlotScale) => x.tensor == t && x.version == v
  match (p.steps.flatMap (·.scales)).find? hit with
  | some x => (x.c, x.rung)
  | none => match p.scales.find? hit with
    | some x => (x.c, x.rung)
    | none =>
      let T := match p.bed with | some b => bedTensor b t | none => default
      let slot := match p.bed with | some b => p.slot b t v | none => 0
      if T.kind = 0 ∨ T.kind = 4 ∨ T.kind = 5 then
        match p.scales.find? fun x => x.tensor == t && x.slot == slot && decide (x.version ≤ v) with
        | some x => (x.c, x.rung)
        | none => (s.coarse pt t v, T.format)
      else (s.coarse pt t v, s.rungAt pt t v)

/-- A tensor instance as a reader sees it. -/
structure View where
  pt : Nat
  ten : Tensor
  lay : Layout
  fmt : Nat
  off : Nat
  c : Int
  used : List Nat
deriving DecidableEq, Repr, Inhabited

/-- View of a tensor at a version or step with given scale and rung (R164, R189, R193): SPILL_LAYOUT at the 16-bit rungs. -/
def State.viewAt (s : State) (pt : Nat) (b : List Byte) (t v : Nat) (c : Int) (rung : Nat) : View :=
  let T := bedTensor b t
  let li := if outFmt T.format ∧ T.format < 2 ∧ 2 ≤ rung ∧ T.spill ≠ none32 then T.spill else T.layout
  let l := bedLayout b li
  ⟨pt, T, l, rung, (s.part pt).slot b t v * T.stride, c, s.usedExt pt l⟩

/-- View of the instance a reader decodes (R90). -/
def State.view (s : State) (pt : Nat) (b : List Byte) (t v : Nat) : View :=
  let (c, r) := s.instScale pt t v
  s.viewAt pt b t v c r

/-- View of an operand as the array reads it through its USE record (R146, R165): the tensor itself on the fused path, the copy in
COPY_LAYOUT, at the format and the coarse scale of the tensor, on the other. -/
def State.useView (s : State) (pt : Nat) (b : List Byte) (use step : Nat) : View :=
  let v := s.view pt b (useTensor b use) step
  if usePath b use = 0 ∨ useCopy b use = none32 then v
  else
    let l := bedLayout b (useCopy b use)
    { v with lay := l, off := 0, fmt := l.format, used := s.usedExt pt l }

/-- Floor f of an operand tensor (Table 02-2). -/
def View.floor (w : View) : Int :=
  match w.fmt with
  | 0 => -9
  | 1 => -16
  | 2 => -24
  | 3 => 0
  | 6 => if w.ten.wides = 0 then -4 else -24
  | 7 => -24
  | _ => if w.ten.wides = 0 then 0 else -24

/-! ### Reading one element (R111 to R121, R131, R136, R137) -/

/-- Whether a local index tuple is in bounds (R136). -/
def View.inb (w : View) (ix : List Nat) : Bool := (w.used.zip ix).all fun p => decide (p.2 < p.1)

/-- Element offset of an index tuple. -/
def View.o (w : View) (ix : List Nat) : Int := w.lay.offset (ix.map Int.ofNat)

/-- Byte address of a relative place, as a space address. -/
def addrOf (base off : Nat) (d : Int) : Nat := ((base : Int) + off + d).toNat

/-- Place of an index tuple among the wide channels, if it lies in one (R120). The channel is the tensor's local index along CH_DIM, as
the places of the zero-point vector are: the manual does not say which index a sharded CH_DIM takes (DESIGN CHOICE: entry 66). -/
def widePlace (b : List Byte) (T : Tensor) (ix : List Nat) : Option Nat :=
  let ch := nth ix T.chDim 0
  ((List.range T.wides).find? fun i => u32 (recOf b 0x0206 (T.wideFirst + i)) 0 == ch)

/-- A floating-point code as an element. -/
def fpElem (f code k : Nat) (side : Bool) : OpElem :=
  match decodeFp f code with
  | some (sg, e) => ⟨sg, e, k, side, false, side && f == 2⟩
  | none => ⟨0, 0, k, side, true, side && f == 2⟩

/-- Main grid of Bell-4 (Table 04-4). -/
def bellGrid (code : Nat) : Int :=
  let g : Int := nth [0, 16, 36, 60, 88, 124, 172, 255] (code % 8) 0
  if code < 8 then g else -g

/-- Largest number of escapes of a block (R115). -/
def escMax (b : Nat) : Nat := max 1 (b / 32)

/-- Local indices of the block that holds an element, by position within it (R132). -/
def View.blockIx (w : View) (ix : List Nat) : List (Nat × List Nat) :=
  let be := w.lay.bext
  let base := (ix.zip be).map fun p => p.1 / p.2 * p.2
  (List.range (prodN be)).map fun n =>
    let t := (unRow be n).zip base |>.map fun p => p.1 + p.2
    ((w.o t % (w.lay.bsize : Int)).toNat, t)

/-- Address of the record of an element and its header word. -/
def State.recHead (s : State) (w : View) (o : Int) : Nat × Nat :=
  let a := addrOf w.lay.base w.off (o / (w.lay.bsize : Int) * recordSize w.fmt w.lay.bsize)
  (a, u32 (s.readSpace w.pt w.lay.space a 4) 0)

/-- Packed code of a position of a record (R111). -/
def State.packed (s : State) (w : View) (a j : Nat) : Nat :=
  if w.fmt = 6 then field (uN 3 (s.readSpace w.pt w.lay.space (a + 4 + 3 * (j / 4)) 3) 0) (6 * (j % 4) + 5) (6 * (j % 4))
  else field (u8 (s.readSpace w.pt w.lay.space (a + 4 + j / 2) 1) 0) (4 * (j % 2) + 3) (4 * (j % 2))

/-- Number of escapes among the in-bounds main-lane positions of a Bell-4 block (R112, R121). -/
def State.escapes (s : State) (b : List Byte) (w : View) (a : Nat) (ix : List Nat) (upto : Nat) : Nat :=
  ((w.blockIx ix).filter fun p =>
    decide (p.1 < upto) && w.inb p.2 && (widePlace b w.ten p.2).isNone && s.packed w a p.1 == 8).length

/-- Address of a byte of the side area of an element's block (R114, R116). -/
def State.sideAddr (s : State) (w : View) (o : Int) (h d : Nat) : Nat :=
  let first := w.lay.span.1 / recordSize w.fmt w.lay.bsize
  let g := ((o / (w.lay.bsize : Int) - first) / 1024).toNat
  let ent := u48 (s.readSpace w.pt w.ten.sideSpace (w.ten.sideBase + 8 * g) 6) 0
  w.ten.sideBase + ent + 8 * field h 31 16 + d

/-- Whether a block record is malformed (Table 04-7). -/
def State.malformed (s : State) (b : List Byte) (w : View) (ix : List Nat) : Bool :=
  let (a, h) := s.recHead w (w.o ix)
  let q43 := bit h 4
  let esc := field h 15 8
  if bit h 5 then false
  else if w.fmt ≠ 7 then q43 || esc != 0
  else
    let d := s.sideAddr w (w.o ix) h 0
    let n := if q43 then w.lay.bsize else 2 * esc
    (if q43 then esc != 0 else decide (escMax w.lay.bsize < esc) || esc != s.escapes b w a ix w.lay.bsize) ||
      (n != 0 && !s.inSpace w.pt w.ten.sideSpace d n)

/-- Zero point of an element (R118): the vector is indexed by the channel. -/
def State.zeroPoint (s : State) (b : List Byte) (w : View) (ix : List Nat) : Nat :=
  let l := bedLayout b w.ten.zpLayout
  let o := nth l.stride 0 0 * ((nth ix w.ten.chDim 0 : Nat) : Int)
  u8 (s.readSpace w.pt l.space (addrOf l.base 0 o) 1) 0

/-- Fine code of an element of an element-addressed tensor (R85, R86). -/
def State.fineAt (s : State) (w : View) (o : Int) : Nat :=
  if !w.ten.fine ∨ w.fmt = 3 ∨ !w.lay.scaled then 0
  else field (u8 (s.readSpace w.pt w.lay.space (addrOf w.lay.scaleBase w.off (o / (w.lay.bsize : Int))) 1) 0) 3 0

/-- Raw code of an element of an element-addressed format, and whether its memory or its block's scale-plane byte reads as poison
(Table 05-9). -/
def State.rawAt (s : State) (w : View) (o : Int) : Nat × Bool :=
  let n := elemBytes w.fmt
  let a := addrOf w.lay.base w.off (o * n)
  (leNat (s.readSpace w.pt w.lay.space a n), s.poisonSpace w.pt w.lay.space a n ||
    (w.ten.fine && w.fmt != 3 && w.lay.scaled && s.poisonSpace w.pt w.lay.space (addrOf w.lay.scaleBase w.off (o / (w.lay.bsize : Int))) 1))

/-- Read one operand element (R55, R56, R111 to R121, R137): a code read as poison poisons its element. The manual gives the side list
no length: its extent is taken to be the partition's memory space (DESIGN CHOICE: entry 67). -/
def State.readElem (s : State) (b : List Byte) (w : View) (ix : List Nat) : OpElem :=
  if !w.inb ix then
    match w.lay.fill with
    | 0 => {}
    | 1 => if w.fmt = 4 then { s := (w.lay.fillcode % 256 : Nat) } else
        fpElem w.fmt (if elemBytes w.fmt = 1 then w.lay.fillcode % 256 else w.lay.fillcode) 0 false
    | _ => { poison := true }
  else
    let o := w.o ix
    match (if quantFmt w.fmt then widePlace b w.ten ix else none) with
    | some p =>
      let l := bedLayout b w.ten.wideLayout
      let ix' := setNth ix w.ten.chDim p
      let a := addrOf l.base 0 (2 * l.offset (ix'.map Int.ofNat))
      if s.poisonSpace w.pt l.space a 2 then { poison := true, side := true }
      else fpElem 2 (u16 (s.readSpace w.pt l.space a 2) 0) 0 true
    | none =>
      if recordFmt w.fmt then
        let (a, h) := s.recHead w o
        let j := (o % (w.lay.bsize : Int)).toNat
        let k := if w.ten.fine then field h 3 0 else 0
        if bit h 5 ∨ s.malformed b w ix ∨ s.poisonSpace w.pt w.lay.space a (recordSize w.fmt w.lay.bsize) then
          { k := k, poison := true }
        else if w.fmt = 7 ∧ bit h 4 then
          let d := s.sideAddr w o h j
          if s.inSpace w.pt w.ten.sideSpace d 1 then fpElem 0 (u8 (s.readSpace w.pt w.ten.sideSpace d 1) 0) k true
          else { k := k, poison := true, side := true }
        else
          let code := s.packed w a j
          if w.fmt = 6 then fpElem 6 code k false
          else if w.fmt = 5 then { s := (code : Int) - s.zeroPoint b w ix, k := k }
          else if code = 8 then
            let d := s.sideAddr w o h (2 * s.escapes b w a ix j)
            if s.inSpace w.pt w.ten.sideSpace d 2 then fpElem 2 (u16 (s.readSpace w.pt w.ten.sideSpace d 2) 0) k true
            else { k := k, poison := true, side := true }
          else { s := bellGrid code, k := k }
      else
        let (code, bad) := s.rawAt w o
        let k := s.fineAt w o
        if bad then { k := k, poison := true }
        else if w.fmt = 4 then { s := (code : Int) - s.zeroPoint b w ix, k := k }
        else fpElem w.fmt code k false

/-- Exact value of an element with the instance's coarse scale (R85); a Bell-4 grid value is a 255th part (R113), which no
reader but a product takes. -/
def OpElem.exact (x : OpElem) (c : Int) : Exact := { exactZ x.s (x.e + c - x.k) with poison := x.poison }

/-! ### Matrix views (R182) -/

/-- Dimensions of a view that fold into rows: all but the last, without the micro-batch dimension when there is one. -/
def View.rowDims (w : View) : List Nat :=
  let d := w.used.take (w.used.length - 1)
  if mbKind w.ten.kind then d.drop 1 else d

/-- Row count and column count of a view as a matrix. -/
def View.rows (w : View) : Nat := prodN w.rowDims
def View.cols (w : View) : Nat := nth w.used (w.used.length - 1) 0

/-- Index tuple of row r, column c of micro-batch mb. -/
def View.tuple (w : View) (mb r c : Nat) : List Nat :=
  (if mbKind w.ten.kind then [mb] else []) ++ unRow w.rowDims r ++ [c]

/-! ### Writing elements of a tensor instance (R84, R86, R91, R92) -/

/-- Store one code of an element-addressed instance. -/
def State.storeElem (s : State) (w : View) (ix : List Nat) (code : Nat) : State :=
  let n := elemBytes w.fmt
  s.writeSpace w.pt w.lay.space (addrOf w.lay.base w.off (w.o ix * n)) (leBytes n code)

/-- Store the fine code of the block of an element. -/
def State.storeFine (s : State) (w : View) (ix : List Nat) (k : Nat) : State :=
  if !w.ten.fine ∨ w.fmt = 3 ∨ !w.lay.scaled then s
  else s.writeSpace w.pt w.lay.space (addrOf w.lay.scaleBase w.off (w.o ix / (w.lay.bsize : Int))) [BitVec.ofNat 8 k]

/-- Keys of bytes of a space. -/
def State.keysAt (s : State) (pt space a n : Nat) : List Nat := (List.range n).filterMap fun i => s.phys pt space (a + i)

/-- Keys of the bytes of elements of an element-addressed instance, their fine codes included. -/
def State.elemKeys (s : State) (w : View) (ixs : List (List Nat)) : List Nat :=
  ixs.flatMap fun ix =>
    s.keysAt w.pt w.lay.space (addrOf w.lay.base w.off (w.o ix * elemBytes w.fmt)) (elemBytes w.fmt) ++
      (if !w.ten.fine ∨ w.fmt = 3 ∨ !w.lay.scaled then []
       else s.keysAt w.pt w.lay.space (addrOf w.lay.scaleBase w.off (w.o ix / (w.lay.bsize : Int))) 1)

/-- An output stands as whole writes: granules whose every byte it has rewritten are re-encoded and lose their poison (R343, R344,
R349). -/
def State.reencode (s : State) (keys : List Nat) : State :=
  { s with poison := s.poison.filter fun g => let sp := granuleSpan g; !(List.range sp.2).all fun i => keys.contains (sp.1 + i) }

/-- Re-encode what elements of an instance cover; without poison there is nothing to do. -/
def State.reencodeElems (s : State) (w : View) (ixs : List (List Nat)) : State :=
  if s.poison.isEmpty then s else s.reencode (s.elemKeys w ixs)

/-- Rounding mode of a tensor (Table 06-7). -/
def roundMode (T : Tensor) : Nat := min 2 T.round

/-- In-bounds index tuples of the block of an element, in block element order. -/
def View.blockIn (w : View) (ix : List Nat) : List (List Nat) :=
  (sortBy (fun a c => decide (a.1 ≤ c.1)) ((w.blockIx ix).filter fun p => w.inb p.2)).map (·.2)

end Sys2Proof.Machine
end

