-- ==== Sys2Proof/Machine/Flags.lean ====
section
/-! DEFINITION. Flags.lean: the headroom test, deficits, residues and MTOP of Basin words, and the status registers that repeats,
mismatches and poison set (R54, R60 to R65, R77 to R81, R126). -/
namespace Sys2Proof.Machine

/-- A 128-bit word read as a signed integer (R54). -/
def wrap128 (z : Int) : Int := sN 128 (toBits 128 z)

/-- Position of the most significant bit of a magnitude; 0 for zero (Table 02-1). -/
def msb (z : Int) : Nat := Nat.log2 z.natAbs

/-- Residue modulo 255 of an integer (R77). -/
def res255 (z : Int) : Nat := (z % 255).toNat

/-- The residue of a drained word: the byte sum of its pattern less its sign bit, modulo 255 (R77). -/
def wordRes (b : Int) : Nat :=
  let u := toBits 128 b
  (sumZ ((List.range 16).map fun i => (field u (8 * i + 7) (8 * i) : Int)) - (if b < 0 then 1 else 0)) % 255 |>.toNat

/-- Whether a complete sum is accepted (R61). -/
def headroomOk (m n : Nat) : Bool := decide (m + clog2 n ≤ 126)

/-- Deficit of a sum that fails (R62). -/
def deficit (m n : Nat) : Nat := m + clog2 n - 126

/-- Enter one product in exact mode (R54, R56, R58, R62, R77, R78): the product, whether it is a side product of a g = 255 tile,
and the deficit in force. -/
def Basin.enter (w : Basin) (p : Int) (side255 : Bool) (d : Nat) : Basin :=
  let q := if side255 then 255 * p else p
  let q' := if d = 0 then q else shiftFloor q (-d)
  { w with
    b := wrap128 (w.b + q')
    mtop := if q = 0 then w.mtop else max w.mtop (msb q)
    res := (w.res + res255 q') % 255
    sideMul := if side255 then (w.sideMul + wordRes p) % 255 else w.sideMul
    sideOps := if side255 then (w.sideOps + res255 p) % 255 else w.sideOps
    rep := d }

/-- Enter one anchored product: its integer after truncation at L (R66, R78). -/
def Basin.enterAnchored (w : Basin) (q : Int) (anchor : Int) : Basin :=
  { w with
    b := wrap128 (w.b + q)
    mtop := if q = 0 then w.mtop else max w.mtop (msb q)
    res := (w.res + res255 q) % 255
    anchor := anchor }

/-- Sum of two words of one element (R54, R64). -/
def Basin.plus (a b : Basin) : Basin :=
  { b := wrap128 (a.b + b.b), mtop := max a.mtop b.mtop, res := (a.res + b.res) % 255, poison := a.poison || b.poison,
    anchor := max a.anchor b.anchor, rep := max a.rep b.rep, sideMul := (a.sideMul + b.sideMul) % 255,
    sideOps := (a.sideOps + b.sideOps) % 255 }

/-- Sum of the words that tasks have contributed to one element (R64). -/
def wordAt (l : List (Nat × Task × Basin)) (ix : Nat) : Basin :=
  match (l.filter fun x => x.1 == ix).map (·.2.2) with
  | [] => {}
  | h :: t => t.foldl Basin.plus h

/-- The contribution of a task to one element, in place of an earlier one of the same task. -/
def putWord (l : List (Nat × Task × Basin)) (x : Nat × Task × Basin) : List (Nat × Task × Basin) :=
  x :: l.filter fun y => !(y.1 == x.1 && y.2.1 == x.2.1)

/-- Forget the contributions to some elements. -/
def dropWords (l : List (Nat × Task × Basin)) (ixs : List Nat) : List (Nat × Task × Basin) := l.filter fun y => !ixs.contains y.1

/-- Log a repeat at the array that repeats (R65, Table 02-11, Table 02-12): scope 0 tile, 1 cross-chip, 2 row statistics, whose repeats
have tile scope. -/
def State.logRepeat (s : State) (die arr scope d m n : Nat) : State :=
  let s := s.orReg (Reg.basinHrstat die arr) (2 ^ scope)
  let s := if scope = 1 then s.bump (Reg.basinXhrcnt die arr) 1 else s.bump (Reg.basinHrcnt die arr) 1
  s.put (Reg.basinHrlast die arr) (min 255 d + at_ 8 (min 127 m) + at_ 15 (scope % 2) + at_ 16 (min 63 (clog2 n)))

/-- Code of a residue comparison (Table 13-6). -/
def checkCode : Check → Nat
  | .main => 1
  | .side => 2
  | .mult => 3

/-- Comparisons that are made of an element's word (R77, R78, R126): RES always, the side accumulators on a tile with g = 255, each
product before truncation in anchored mode and in a repeat. -/
def checkMade (grid anchored repeated : Bool) : Check → Bool
  | .main => true
  | .side => grid
  | .mult => anchored || repeated

/-- Register effects of a residue mismatch (R79, Table 02-13): RESPE keeps the first since all three bits were clear. -/
def State.logResidue (s : State) (die arr row col : Nat) (word : Bool) (c : Check) : State :=
  let s := if s.reg (Reg.basinResstat die arr) % 8 = 0 then
      s.put (Reg.basinRespe die arr) (row + at_ 8 col + at_ 16 (b2n word)) else s
  (s.orReg (Reg.basinResstat die arr) (2 ^ (checkCode c - 1))).bump (Reg.basinRescnt die arr) 1

/-- Elements that drain as poison are counted (R79, Table 02-8). -/
def State.logPoison (s : State) (die arr n : Nat) : State := if n = 0 then s else s.bump (Reg.basinPoison die arr) n

/-- Products entered are counted modulo 2^64 (Table 02-8). -/
def State.logMacs (s : State) (die arr n : Nat) : State :=
  s.put64 (Reg.basinMacsLo die arr) ((s.reg64 (Reg.basinMacsLo die arr) + n) % 2 ^ 64)

/-! ### Row statistics (R69 to R71)

The Basin keeps Σx in word 0 and Σx² in word 1 of a row's element. -/

/-- An element of a row as a significand and its exponent with scales (R58, R70). -/
def OpElem.placed (x : OpElem) (c : Int) : Int × Int := (x.s, x.e + c - x.k)

/-- Anchors of Σx and Σx² of a row of n elements of a BF16 tensor, each sum with its own (R66, R69). -/
def rowAnchors (c : Int) (xs : List OpElem) : Option Int × Option Int :=
  let top := fun (l : List Int) => match l with | [] => none | h :: t => some (t.foldl max h + (clog2 xs.length : Int))
  let live := ((xs.filter fun x => !x.poison).map fun x => x.placed c).filter fun y => y.1 != 0
  (top (live.map fun y => (msb y.1 : Int) + y.2), top (live.map fun y => (msb (y.1 * y.1) : Int) + 2 * y.2))

/-- Σx and Σx² of a row of elements (R69, R70): exact at f with the deficit d₁ in force and d₂ = 2 d₁, or anchored. -/
def rowSums (f c : Int) (anchored : Bool) (d : Nat) (xs : List OpElem) : Basin × Basin :=
  let an := rowAnchors c xs
  let base := fun (a : Option Int) => ({ anchor := a.getD 0 } : Basin)
  xs.foldl (fun w x =>
    if x.poison then ({ w.1 with poison := true }, { w.2 with poison := true })
    else if anchored then
      let y := x.placed c
      (match an.1 with | some a => w.1.enterAnchored (shiftFloor y.1 (y.2 - (a - 120))) a | none => w.1,
       match an.2 with | some a => w.2.enterAnchored (shiftFloor (y.1 * y.1) (2 * y.2 - (a - 120))) a | none => w.2)
    else
      let t := (x.e - f + (15 - (x.k : Int))).toNat
      (w.1.enter (x.s * (2 ^ t : Nat)) false d, w.2.enter (x.s * x.s * (2 ^ (2 * t) : Nat)) false (2 * d))) (base an.1, base an.2)

/-- Deficit d₁ of a row's two sums (R70): 0 when both pass; d₂ is twice as much. -/
def rowDeficit (w : Basin × Basin) (n : Nat) : Nat :=
  if w.1.poison || w.2.poison || n == 0 then 0
  else
    let need := fun (x : Basin) => if headroomOk x.mtop n then 0 else deficit x.mtop n
    max (need w.1) (cdiv (need w.2) 2)

/-- LSB exponents of the two sums of a row (R66, R70). -/
def rowLsb (f c : Int) (anchored : Bool) (w : Basin × Basin) : Int × Int :=
  if anchored then (w.1.anchor - 120, w.2.anchor - 120) else (f + c - 15 + w.1.rep, 2 * (f + c - 15) + w.2.rep)

/-- A quotient z × 2^e / d to 64 bits below its leading one, with a sticky bit (R71, R224). -/
def quotient (z : Int) (d : Nat) (e : Int) : Exact :=
  let p := 64 + Nat.log2 d + 1
  let m := z.natAbs * 2 ^ p
  { neg := decide (z < 0), m := m / d, e := e - p, sticky := m % d != 0 }

/-- Numerator n S₂ 2^L₂ − S₁² 2^(2 L₁) of the variance as an integer and its exponent (R71). -/
def varNumerator (s1 s2 : Int) (l1 l2 : Int) (n : Nat) : Int × Int :=
  let e := min l2 (2 * l1)
  (n * s2 * (2 ^ (l2 - e).toNat : Nat) - s1 * s1 * (2 ^ (2 * l1 - e).toNat : Nat), e)

/-- Mean and variance of a row as exact quotients, and whether the numerator was below zero, which yields +0 (R71). -/
def rowResults (w : Basin × Basin) (l1 l2 : Int) (n : Nat) : Exact × Exact × Bool :=
  if w.1.poison || w.2.poison then ({ poison := true }, { poison := true }, false)
  else if n = 0 then ({}, {}, false)
  else
    let v := varNumerator w.1.b w.2.b l1 l2 n
    (quotient w.1.b n l1, if v.1 < 0 then {} else quotient v.1 (n * n) v.2, decide (v.1 < 0))

end Sys2Proof.Machine
end

