-- ==== Sys2Proof/Machine/Basin.lean ====
section
/-! DEFINITION. Basin.lean: tasks, their tiles, what enters the Basin words of a tile, masks and fold maps (R57 to R75, R122 to
R125, R166, R182 to R184, R191). -/
namespace Sys2Proof.Machine

/-! ### Tasks of a layer (R183) -/

/-- Shape of a tile (Table 02-5). -/
def tileDims (shape : Nat) : Nat × Nat :=
  match shape with
  | 0 => (256, 256)
  | 1 => (128, 512)
  | 2 => (512, 128)
  | 3 => (64, 1024)
  | _ => (1024, 64)

/-- Logical element at physical (i, j) (Table 02-5). -/
def unfoldPE (shape i j : Nat) : Nat × Nat :=
  match shape with
  | 0 => (i, j)
  | 1 => (i % 128, j + 256 * (i / 128))
  | 2 => (i + 256 * (j / 128), j % 128)
  | 3 => (i % 64, j + 256 * (i / 64))
  | _ => (i + 256 * (j / 64), j % 64)

/-- LAYER records of a LAYER_ID in ascending DIE order, by record number. -/
def layerRecs (b : List Byte) (id : Nat) : List Nat :=
  let l := (List.range (secCount b 0x0205)).filter fun i => (bedLayer b i).id == id
  (List.range 4).flatMap fun d => l.filter fun i => (bedLayer b i).die == d

/-- Operands of a product: LAYER, the TENSOR records read. -/
def opTensors (b : List Byte) (L : Layer) (prod : Nat) : Nat × Nat :=
  match prod with
  | 0 => (useTensor b L.useX, useTensor b L.useW)
  | 1 => (useTensor b L.useG, useTensor b L.useWT)
  | _ => (useTensor b L.useX, useTensor b L.useG)

/-- Output of a product, or none. -/
def outTensor (L : Layer) (prod : Nat) : Nat := match prod with | 0 => L.outY | 1 => L.outDX | _ => L.outDW

/-- Column tiles [lo, hi) of N that a LAYER record owns (R183). -/
def ownTiles (b : List Byte) (li n : Nat) : Nat × Nat :=
  let L := bedLayer b li
  let rs := layerRecs b L.id
  let d := (rs.findIdx? (· == li)).getD 0
  let t := cdiv n (tileDims L.shape).2
  (t * d / rs.length, t * (d + 1) / rs.length)

/-- Rows, columns of the output of a product on the module, and the K and N of the weight. -/
def State.prodDims (s : State) (pt : Nat) (b : List Byte) (step li prod : Nat) : Nat × Nat × Nat × Nat :=
  let L := bedLayer b li
  let w := s.view pt b (useTensor b L.useW) step
  let x := s.view pt b (useTensor b L.useX) step
  match prod with
  | 0 => (x.rows, w.cols, w.rows, w.cols)
  | 1 => ((s.view pt b (useTensor b L.useG) step).rows, w.rows, w.rows, w.cols)
  | _ => (w.rows, w.cols, w.rows, w.cols)

/-- Tasks of a LAYER record in row-major tile order (R183): product, every micro-batch. -/
def State.layerTasks (s : State) (pt : Nat) (b : List Byte) (step li prod : Nat) : List Task :=
  let L := bedLayer b li
  if outTensor L prod = none32 then []
  else
    let (rows, cols, _, n) := s.prodDims pt b step li prod
    let (mt, nt) := tileDims L.shape
    let (lo, hi) := ownTiles b li n
    let js := if prod = 1 then (if lo < hi then List.range (cdiv cols nt) else []) else (List.range (hi - lo)).map (· + lo)
    (List.range (jobMbs b)).flatMap fun mb =>
      (List.range (cdiv rows mt)).flatMap fun ti => js.map fun tj => ⟨prod, li, mb, ti, tj⟩

/-- Tasks of a step. -/
def State.allTasks (s : State) (pt : Nat) (b : List Byte) (step : Nat) : List Task :=
  (List.range (secCount b 0x0205)).flatMap fun li =>
    s.layerTasks pt b step li 0 ++ s.layerTasks pt b step li 1 ++ s.layerTasks pt b step li 2

/-- Role a task is dealt to (R183): its place among its product's tiles of one micro-batch, round the roles of the record. The tasks
of an unbound role are dealt to the record's other roles, or to the partition's lowest role on the die (R432). -/
def State.taskRole (s : State) (pt : Nat) (b : List Byte) (step : Nat) (t : Task) : Nat :=
  let L := bedLayer b t.layer
  let roles := bitsOf 16 L.roles
  let mine := (s.layerTasks pt b step t.layer t.prod).filter fun x => x.mb == t.mb
  let q := (mine.findIdx? (· == t)).getD 0
  let r := nth roles (q % max 1 roles.length) 0
  if (s.arrayOf L.die r).isSome then r
  else
    let left := roles.filter fun r => (s.arrayOf L.die r).isSome
    let own := (List.range 16).filter fun r => s.roleOwner L.die r == some pt && (s.arrayOf L.die r).isSome
    if left.isEmpty then own.headD r else nth left (q / max 1 roles.length % left.length) r

/-! ### What enters an element (R55 to R66, R182, R191) -/

/-- Contraction indices of a product of a LAYER record (R74, R182, R183): K for FWD, the record's own columns for DX, the rows of a
micro-batch for DW. -/
def State.contraction (s : State) (pt : Nat) (b : List Byte) (step li prod : Nat) : List Nat :=
  let L := bedLayer b li
  match prod with
  | 0 => List.range (s.view pt b (useTensor b L.useW) step).rows
  | 1 =>
    let n := (s.view pt b (useTensor b L.useWT) step).cols
    let (lo, hi) := ownTiles b li n
    let nt := (tileDims L.shape).2
    (List.range (min n (hi * nt) - lo * nt)).map (· + lo * nt)
  | _ => List.range (s.view pt b (useTensor b L.useX) step).rows

/-- Views that the two operands of a product are read through, of the operand as it reaches the array (R146, R182). The products of R182
to R185 fix which index of the stored tensor is contracted; USE.TRANSPOSE orients the staged panel and its time (entry 61). -/
def State.opViews (s : State) (pt : Nat) (b : List Byte) (step li prod : Nat) : View × View :=
  let L := bedLayer b li
  let v := fun (u : Nat) => s.useView pt b u step
  match prod with
  | 0 => (v L.useX, v L.useW)
  | 1 => (v L.useG, v L.useWT)
  | _ => (v L.useX, v L.useG)

/-- Left operand at output row r and contraction index κ. -/
def View.left (w : View) (prod mb r k : Nat) : List Nat := if prod = 2 then w.tuple mb k r else w.tuple mb r k

/-- Right operand at contraction index κ and output column c. -/
def View.right (w : View) (prod mb k c : Nat) : List Nat := if prod = 1 then w.tuple mb c k else w.tuple mb k c

/-- Operand pairs of one contribution to an output element: product of LAYER record li, micro-batch, output row and column. -/
def State.opPairs (s : State) (pt : Nat) (b : List Byte) (step li prod mb r c : Nat) : List (OpElem × OpElem) :=
  let (a, v) := s.opViews pt b step li prod
  (s.contraction pt b step li prod).map fun k => (s.readElem b a (a.left prod mb r k), s.readElem b v (v.right prod mb k c))

/-- How a product is placed: floors, coarse scales, anchored, g = 255, products per cycle (R57, R59, R66). -/
structure Place where
  fa : Int
  fb : Int
  ca : Int
  cb : Int
  anchored : Bool
  grid : Bool
  quarter : Bool
deriving DecidableEq, Repr, Inhabited

/-- Placement of a product of a LAYER record. -/
def State.place (s : State) (pt : Nat) (b : List Byte) (step li prod : Nat) : Place :=
  let (a, v) := s.opViews pt b step li prod
  let is := fun f => a.fmt == f || v.fmt == f
  ⟨a.floor, v.floor, a.c, v.c, is 3, is 7, is 2 || is 3⟩

/-- LSB exponent in exact mode (R57). -/
def Place.lsb (p : Place) : Int := p.fa + p.fb + p.ca + p.cb - 30

/-- Exact integer P of a product in exact mode (R58). -/
def Place.product (p : Place) (x : OpElem × OpElem) : Int :=
  x.1.s * x.2.s * (2 ^ ((x.1.e - p.fa) + (15 - x.1.k) + (x.2.e - p.fb) + (15 - x.2.k)).toNat : Nat)

/-- MSB exponent of a nonzero product in anchored mode (R66). -/
def Place.anchorExp (p : Place) (x : OpElem × OpElem) : Option Int :=
  let z := x.1.s * x.2.s
  if x.1.poison ∨ x.2.poison ∨ z = 0 then none
  else some ((msb z : Int) + x.1.e + x.2.e + p.ca - x.1.k + p.cb - x.2.k)

/-- Enter a list of products into a word (R56, R58, R66). -/
def Place.accumulate (p : Place) (d : Nat) (anchor : Option Int) (l : List (OpElem × OpElem)) : Basin :=
  l.foldl (fun w x =>
    if x.1.poison ∨ x.2.poison then { w with poison := true }
    else if p.anchored then
      match anchor with
      | none => w
      | some al => w.enterAnchored (shiftFloor (x.1.s * x.2.s)
          (x.1.e + x.2.e + p.ca - x.1.k + p.cb - x.2.k - (al - 120))) al
    else w.enter (p.product x) (p.grid && (x.1.side || x.2.side)) d) { anchor := if p.anchored then anchor.getD 0 else 0 }

/-- Every contribution to an output element of a tensor on this module, as (LAYER record, micro-batch) (R183 to R185). -/
def contribs (b : List Byte) (li prod mb : Nat) : List (Nat × Nat) :=
  let L := bedLayer b li
  match prod with
  | 0 => [(li, mb)]
  | 1 => ((List.range (secCount b 0x0205)).filter fun i => (bedLayer b i).outDX == L.outDX).map fun i => (i, mb)
  | _ => (List.range (jobMbs b)).map fun m => (li, m)

/-- Weight index tuple of an element of DW. -/
def View.wIx (w : View) (r c : Nat) : List Nat := unRow w.rowDims r ++ [c]

/-- Whether an output element is masked (R191). -/
def State.elemMasked (s : State) (pt : Nat) (b : List Byte) (step li prod r c : Nat) : Bool :=
  prod == 2 &&
    (let t := useTensor b (bedLayer b li).useW
     (s.part pt).masked b t ((s.view pt b t step).wIx r c))

/-- Count n of the reduction scope of an output element (R60, R184): the weight's K for FWD, every column for DX, every row of
every micro-batch of the global batch for DW, 0 for a masked element. -/
def State.scopeN (s : State) (pt : Nat) (b : List Byte) (step li prod mb r c : Nat) : Nat :=
  let L := bedLayer b li
  match prod with
  | 0 => (s.view pt b (useTensor b L.useW) step).rows
  | 1 =>
    let ids := ((contribs b li 1 mb).map fun x => (bedLayer b x.1).id).eraseDups
    sumN (ids.map fun id => match layerRecs b id with
      | i :: _ => (s.view pt b (useTensor b (bedLayer b i).useW) step).cols
      | [] => 0)
  | _ =>
    if s.elemMasked pt b step li prod r c then 0
    else
      let x := (s.view pt b (useTensor b L.useX) step)
      let d := x.lay.globalExt.take (x.lay.globalExt.length - 1)
      prodN (if mbKind x.ten.kind then d.drop 1 else d) * jobMbs b

/-- Largest MSB exponent over the module's part of an element's scope (R66). -/
def State.localM (s : State) (pt : Nat) (b : List Byte) (step li prod mb r c : Nat) : Option Int :=
  (contribs b li prod mb).foldl (fun m x =>
    let p := s.place pt b step x.1 prod
    (s.opPairs pt b step x.1 prod x.2 r c).foldl (fun m y => match m, p.anchorExp y with
      | none, e => e
      | some a, some e => some (max a e)
      | some a, none => some a) m) none

/-- View of a product's output. -/
def State.outView (s : State) (pt : Nat) (b : List Byte) (step : Nat) (L : Layer) (prod : Nat) : View :=
  let t := outTensor L prod
  s.viewAt pt b t step (s.coarse pt t step) (s.rungAt pt t step)

/-- index48 of an output element (R135): DW elements are numbered in the weight's global shape. -/
def State.outIx (s : State) (pt : Nat) (b : List Byte) (step : Nat) (t : Task) (r c : Nat) : Nat :=
  let L := bedLayer b t.layer
  if t.prod = 2 then
    let w := s.view pt b (useTensor b L.useW) step
    s.index48 pt w.lay (w.wIx r c)
  else
    let v := s.outView pt b step L t.prod
    s.index48 pt v.lay (v.tuple t.mb r c)

/-- Whether the scope of a task's elements lies within one array, so the array tests it (R63, R64, R184). -/
def State.scopeLocal (_s : State) (b : List Byte) (t : Task) : Bool :=
  t.prod == 0 || (t.prod == 1 && (contribs b t.layer 1 t.mb).length == 1)

/-- Output row and column of a physical place of a task's tile, if the place holds an element. -/
def State.tileElem (s : State) (pt : Nat) (b : List Byte) (step : Nat) (t : Task) (i j : Nat) : Option (Nat × Nat) :=
  let L := bedLayer b t.layer
  let (rows, cols, _, n) := s.prodDims pt b step t.layer t.prod
  let (mt, nt) := tileDims L.shape
  let (r, c) := unfoldPE L.shape i j
  let (gr, gc) := (t.ti * mt + r, t.tj * nt + c)
  let lim := if t.prod = 1 then cols else min n (((ownTiles b t.layer n).2) * nt)
  if gr < rows ∧ gc < lim then some (gr, gc) else none

/-- Anchor of an element (R66): from the group's reduction when there is one, else from the module's own contributions. -/
def anchorOf (m : Option Int) (n : Nat) : Option Int := m.map fun x => x + clog2 n

/-- The words of a tile, column by column (R58, R66, R73): deficits by index48, anchors by index48. -/
def State.tileWords (s : State) (pt : Nat) (b : List Byte) (step : Nat) (t : Task) (defs : Nat → Nat)
    (anchors : Option (List (Nat × Int))) : List Basin :=
  let p := s.place pt b step t.layer t.prod
  (List.range 256).flatMap fun j => (List.range 256).map fun i =>
    match s.tileElem pt b step t i j with
    | none => {}
    | some (r, c) =>
      if s.elemMasked pt b step t.layer t.prod r c then {}
      else
        let ix := s.outIx pt b step t r c
        let m := match anchors with
          | some l => (l.find? fun x => x.1 == ix).map (·.2)
          | none => if p.anchored then s.localM pt b step t.layer t.prod t.mb r c else none
        p.accumulate (defs ix) (anchorOf m (s.scopeN pt b step t.layer t.prod t.mb r c))
          (s.opPairs pt b step t.layer t.prod t.mb r c)

/-- Side slices of a tile over output rows and columns (R122, R123): for each contraction index at which an operand element is a side
entry, the A cycles its slice takes: 4 when it holds an FP16 entry, else 1. -/
def State.sideSlices (s : State) (pt : Nat) (b : List Byte) (step : Nat) (t : Task) (rows cols : List Nat) : List Nat :=
  let (a, v) := s.opViews pt b step t.layer t.prod
  if !(quantFmt a.fmt || quantFmt v.fmt) then []
  else (s.contraction pt b step t.layer t.prod).filterMap fun k =>
    let es := (if quantFmt a.fmt then rows.map fun r => s.readElem b a (a.left t.prod t.mb r k) else []) ++
      (if quantFmt v.fmt then cols.map fun c => s.readElem b v (v.right t.prod t.mb k c) else [])
    if es.any (·.half) then some 4 else if es.any (·.side) then some 1 else none

/-- Side time σ of S side slices (R123). -/
def sideTime (slices : List Nat) : Nat :=
  if slices.isEmpty then 0 else sumN slices + 16 * (cdiv slices.length 16 - 1)

/-- Products a tile enters (Table 02-8). -/
def State.tileMacs (s : State) (pt : Nat) (b : List Byte) (step : Nat) (t : Task) : Nat :=
  sumN ((List.range 256).flatMap fun j => (List.range 256).map fun i =>
    match s.tileElem pt b step t i j with
    | none => 0
    | some (r, c) => if s.elemMasked pt b step t.layer t.prod r c then 0 else
        ((s.opPairs pt b step t.layer t.prod t.mb r c).filter fun x => !x.1.poison && !x.2.poison).length)

end Sys2Proof.Machine
end

