-- ==== Sys2Proof/Machine/Moves.lean ====
section
/-! DEFINITION. Moves.lean: what the Sluice moves: the records held for an operation, blocks, lists, element and record moves,
collisions and exact addition, whole Bell-4 regions (R132 to R148). -/
namespace Sys2Proof.Machine

/-! ### Records held for an operation (R173) -/

/-- What is held of the records of an operation's layout (R173): the LAYOUT record, the TENSOR record that names it, its number, and that
tensor's SPILL_LAYOUT record. The number is none for a layout that no tensor names. Where several TENSOR records name one layout, in
either field, the first is taken (DESIGN CHOICE: entry 63). -/
def opRecord (b : List Byte) (layout : Nat) : List Byte :=
  let t := (List.range (secCount b 0x0203)).find? fun i => let T := bedTensor b i; T.layout == layout || T.spill == layout
  slice (recOf b 0x0202 layout) 0 192 ++ (match t with
    | some i => slice (recOf b 0x0203 i) 0 64 ++ leBytes 4 i ++ slice (recOf b 0x0202 (bedTensor b i).layout) 0 192 ++
        slice (recOf b 0x0202 (bedTensor b i).spill) 0 192
    | none => List.replicate 64 0#8 ++ leBytes 4 none32)

/-- Number of the TENSOR record held, none32 for none. -/
def heldTensor (r : List Byte) : Nat := u32 r 256

/-- Coarse scale and rung that slot 0 of a tensor carries: those of the latest instance stored there, else those of the next step
(R90). -/
def State.slotScale (s : State) (pt : Nat) (t : Nat) : Int × Nat :=
  let p := s.part pt
  let l := (p.steps.flatMap (·.scales) ++ p.scales).filter fun x => x.tensor == t && x.slot == 0
  match l.foldl (fun (m : Option SlotScale) x => match m with
      | none => some x
      | some y => if y.version < x.version then some x else some y) none with
  | some x => (x.c, x.rung)
  | none => s.instScale pt t (p.commit + 1)

/-- Coarse scale and rung with which an operation reads or writes a layout held for it (R90, A7): those of the tensor that the layout
holds; a layout that no tensor names has coarse scale 0 and its own format. -/
def State.opScale (s : State) (pt : Nat) (r : List Byte) : Int × Nat :=
  if heldTensor r = none32 then (0, (layoutOf r).format)
  else
    let T := tensorOf (r.drop 192)
    if outFmt T.format then s.slotScale pt (heldTensor r) else ((s.slotScale pt (heldTensor r)).1, T.format)

/-- View of a layout held for an operation with the coarse scale and rung it carries: a tensor at a 16-bit rung stands in its
SPILL_LAYOUT and at an 8-bit one in its LAYOUT (R164, A7); the rung decides the element format. -/
def State.opView (s : State) (pt : Nat) (r : List Byte) (c : Int) (fmt : Nat) : View :=
  let T := tensorOf (r.drop 192)
  let named := heldTensor r != none32 && outFmt T.format && decide (T.format < 2) && T.spill != none32
  let lay := if !named then layoutOf r else if 2 ≤ fmt then layoutOf (r.drop 452) else layoutOf (r.drop 260)
  { pt := pt, ten := T, lay := lay, fmt := fmt, off := 0, c := c, used := s.usedExt pt lay }

/-! ### Blocks and lists (R132, R140, R141) -/

/-- Block counts of a layout by dimension. -/
def Layout.blocks (l : Layout) : List Nat := (l.extent.zip l.bext).map fun p => cdiv p.1 p.2

/-- Local indices of the block at a coordinate, in block element order; indices may lie outside the tensor. -/
def Layout.blockTuples (l : Layout) (coord : List Int) : List (List Int) :=
  let be := l.bext
  let base := (coord.zip be).map fun p => p.1 * (p.2 : Int)
  let ts := (List.range (prodN be)).map fun n => ((unRow be n).zip base).map fun p => (p.1 : Int) + p.2
  (sortBy (fun a c => decide (a.1 ≤ c.1)) (ts.map fun t => ((l.offset t) % (l.bsize : Int), t))).map (·.2)

/-- A tuple as local indices, if none is negative. -/
def natTuple (t : List Int) : Option (List Nat) := if t.all fun x => decide (0 ≤ x) then some (t.map Int.toNat) else none

/-- Bytes of a list entry (R141). -/
def entrySize (rank : Nat) : Nat := cdiv (4 * rank) 8 * 8

/-- Entry i of a list as it stands in memory. -/
def State.listEntry (s : State) (pt : Nat) (a : Nat × Nat) (rank i : Nat) : List Int :=
  let bs := s.readSpace pt a.2 (a.1 + 16 + entrySize rank * i) (4 * rank)
  (List.range rank).map fun d => sN 32 (u32 bs (4 * d))

/-- Whether entry i of a list is poisoned (R347). -/
def State.entryBad (s : State) (pt : Nat) (a : Nat × Nat) (rank i : Nat) : Bool :=
  s.poisonSpace pt a.2 (a.1 + 16 + entrySize rank * i) (4 * rank)

/-- Status of a list header against a descriptor of a rank: 0, 6 LIST_RANGE or 7 LIST_RANK (R141). -/
def State.listStatus (s : State) (pt : Nat) (a : Nat × Nat) (rank count hrank : Nat) : Nat :=
  if !s.inSpace pt a.2 a.1 (16 + entrySize rank * count) then 6 else if hrank ≠ rank then 7 else 0

/-- COUNT and RANK of a list header. -/
def State.listHead (s : State) (pt : Nat) (a : Nat × Nat) : Nat × Nat :=
  let h := s.readSpace pt a.2 a.1 16
  (u32 h 0, field (u32 h 4) 3 0)

/-! ### Elements an operation moves -/

/-- One element an operation moves: where it goes and comes from, none outside every index. -/
structure Move where
  dst : Option (List Nat)
  src : Option (List Nat)
  /-- The list entry was poisoned: the element is written as poison (R348). -/
  pois : Bool := false
deriving DecidableEq, Repr, Inhabited

/-- Block pairs of an operation as (destination coordinate, source coordinate), none for a block outside the dense descriptor
(R140). The mark is a poisoned list entry, which writes poison to the destination of a GATHER; a SCATTER's poisoned entry drops its
source block (R348). -/
def State.blockPairs (s : State) (pt op : Nat) (src dst : View) (list : Nat × Nat) (count : Nat) :
    List (Option (List Int) × Option (List Int) × Bool) :=
  let dense := fun (l : Layout) (i : Nat) =>
    if i < prodN l.blocks then some ((unRow l.blocks i).map Int.ofNat) else none
  match op with
  | 4 => (List.range count).map fun i => 
      (dense dst.lay i, some (s.listEntry pt list src.lay.rank i), s.entryBad pt list src.lay.rank i)
  | 5 => ((List.range count).filter fun i => !s.entryBad pt list dst.lay.rank i).map fun i =>
      (some (s.listEntry pt list dst.lay.rank i), dense src.lay i, false)
  | _ => (List.range (prodN src.lay.blocks)).map fun i => (dense dst.lay i, dense src.lay i, false)

/-- Element moves of an operation. -/
def State.movesOf (s : State) (pt op : Nat) (src dst : View) (list : Nat × Nat) (count : Nat) : List Move :=
  if op = 3 then (allIx src.lay.extent).map fun ix => ⟨some ix, some ix, false⟩
  else (s.blockPairs pt op src dst list count).flatMap fun p =>
    let d := match p.1 with
      | some c => (dst.lay.blockTuples c).map natTuple
      | none => List.replicate dst.lay.bsize none
    let f := match p.2.1 with
      | some c => (src.lay.blockTuples c).map natTuple
      | none => List.replicate src.lay.bsize none
    (d.zip f).map fun x => ⟨x.1, if p.2.2 then none else x.2, p.2.2⟩

/-- Whether an optional tuple is in bounds. -/
def View.has (w : View) (ix : Option (List Nat)) : Bool := match ix with | some t => w.inb t | none => false

/-- Operand element of an optional source; outside it is the fill (R137). -/
def State.readMove (s : State) (b : List Byte) (w : View) (ix : Option (List Nat)) : OpElem :=
  match ix with
  | some t => s.readElem b w t
  | none => s.readElem b w w.used

/-- Code of an optional source when bits pass unchanged, none for poison. -/
def State.rawMove (s : State) (w : View) (ix : Option (List Nat)) : Option Nat :=
  let fill := match w.lay.fill with | 0 => some 0 | 1 => some (w.lay.fillcode % 256 ^ elemBytes w.fmt) | _ => none
  match ix with
  | some t => if w.inb t then (let r := s.rawAt w (w.o t); if r.2 then none else some r.1) else fill
  | none => fill

/-- Exact sum of contributors (R144): exact sources add at their common exponent; BF16 sources are anchored. -/
def exactSum (src : View) (xs : List OpElem) : Exact :=
  if xs.any (·.poison) then { poison := true }
  else
    let vs := xs.map fun x => (x.s, x.e + src.c - x.k)
    if src.fmt = 3 then
      match (vs.filter fun v => v.1 != 0).map fun v => (msb v.1 : Int) + v.2 with
      | [] => {}
      | h :: t =>
        let al := t.foldl max h + clog2 xs.length
        exactZ (sumZ (vs.map fun v => shiftFloor v.1 (v.2 - (al - 120)))) (al - 120)
    else
      match vs.map (·.2) with
      | [] => {}
      | h :: t =>
        let e := t.foldl min h
        exactZ (sumZ (vs.map fun v => v.1 * (2 ^ (v.2 - e).toNat : Nat))) e

/-- Granules of 64 bytes that the elements of a tensor lie in, with BASE at a given address (R147). -/
def granulesAt (w : View) (base : Nat) (ixs : List (List Nat)) : Nat :=
  if recordFmt w.fmt then
    let r := recordSize w.fmt w.lay.bsize
    let at0 := (ixs.map fun t => addrOf base w.off (w.o t / (w.lay.bsize : Int) * r)).eraseDups
    ((at0.flatMap fun a => (List.range ((a + r - 1) / 64 + 1 - a / 64)).map (· + a / 64)).eraseDups).length
  else ((ixs.map fun t => addrOf base w.off (w.o t * elemBytes w.fmt) / 64).eraseDups).length

/-- Granules fetched by an operation (R147). -/
def granulesOf (w : View) (ixs : List (List Nat)) : Nat := granulesAt w w.lay.base ixs

/-- Consecutive windows of n entries of a list. -/
def windows {α : Type} (n : Nat) : Nat → List α → List (List α)
  | 0, _ => []
  | k + 1, l => if l.isEmpty then [] else l.take n :: windows n k (l.drop n)

/-- Passes of an operation over its list (R144): under ADD_EXACT one for every 4,096 / B destination blocks, after an anchor pass for a BF16
source. -/
def passesOf (src dst : View) : Nat :=
  if dst.lay.coll = 1 then cdiv (prodN dst.lay.blocks) (4096 / max 1 dst.lay.bsize) + (if src.fmt = 3 then 1 else 0) else 1

/-- Pass of an ADD_EXACT operation that rounds a destination block, in ascending order of the lowest index48 of each block (R144). -/
def State.passAt (s : State) (dst : View) (ix48 : Nat) : Nat :=
  let low := (allIx dst.used).foldl (fun (l : List (Int × Nat)) t =>
    let o := dst.o t / (dst.lay.bsize : Int)
    let n := s.index48 dst.pt dst.lay t
    match l.find? fun x => x.1 == o with
    | some y => if n < y.2 then (o, n) :: l.filter fun x => x.1 != o else l
    | none => (o, n) :: l) []
  let mine := (((allIx dst.used).find? fun t => s.index48 dst.pt dst.lay t == ix48).map fun t => dst.o t / (dst.lay.bsize : Int)).bind fun o =>
    low.find? fun x => x.1 == o
  match mine with
  | some m => (low.filter fun x => decide (x.2 < m.2)).length / max 1 (4096 / max 1 dst.lay.bsize)
  | none => 0

/-- Granules of the scale plane that hold the fine codes of elements (R147). -/
def fineGranules (w : View) (ixs : List (List Nat)) : Nat :=
  if !w.ten.fine ∨ w.fmt = 3 ∨ !w.lay.scaled ∨ recordFmt w.fmt then 0
  else ((ixs.map fun t => addrOf w.lay.scaleBase w.off (w.o t / (w.lay.bsize : Int)) / 64).eraseDups).length

/-- A partition has moved bytes through a shared unit in this estimator window (R455). -/
def State.moveBytes (s : State) (unit pt n : Nat) : State :=
  s.modPower fun p =>
    { p with moved :=
        if p.moved.any fun x => x.1 == unit && x.2.1 == pt then
          p.moved.map fun x => if x.1 = unit ∧ x.2.1 = pt then (unit, pt, x.2.2 + n) else x
        else p.moved ++ [(unit, pt, n)] }

/-- SLUICE_BYTES of an engine counts n granules that it fetched for a partition (R151). -/
def State.countBytes (s : State) (pt die eng n : Nat) : State :=
  (s.moveBytes (2 * die + eng) pt (64 * n)).put64 (Reg.sluiceBytesLo die eng) ((s.reg64 (Reg.sluiceBytesLo die eng) + 64 * n) % 2 ^ 64)

/-- Fetches that coalescing saves: entries of a window that repeat a coordinate (R142). -/
def coalesced : Nat → List (List Int) → Nat
  | 0, _ => 0
  | k + 1, l => if l.isEmpty then 0 else
      ((l.take 4096).length - (l.take 4096).eraseDups.length) + coalesced k (l.drop 4096)

/-- Code of an exact value in a destination format and whether it was clamped, none for poison (R84, R93, R140). INT8 is no output
format, and R93 does not say how a value is rounded into it: the code is free (entry 64). -/
def moveCode (f : Nat) (c : Int) (k mode bits : Nat) (x : Exact) : Option Nat × Bool :=
  if x.poison then (none, false)
  else if outFmt f then (let r := storeCode f c k mode bits x; (some r.1, r.2))
  else (some (Config.intCode x.neg x.m (x.e + k - c) % 256), false)

/-- Write a code, or poison: the poison code of an output format (R84); where the format has none, the memory of the element is
poisoned (R347; entry 64). -/
def State.putCode (s : State) (w : View) (ix : List Nat) (code : Option Nat) : State :=
  s.storeElem w ix (code.getD (if outFmt w.fmt then poisonCode w.fmt else 0))

/-- Move the elements of an operation between element-addressed tensors, or from a quantised source into an output format (R137,
R138, R140, R143, R144). A fill read takes the order value 0 under KEEP_LAST (DESIGN CHOICE: entry 33). bad: destination index48 whose
collision accumulator mismatches. -/
def State.moveElems (s : State) (b : List Byte) (die eng : Nat) (src dst : View) (moves : List Move) (step : Nat)
    (whole : Bool) (bad : Option Nat) : State :=
  let pt := dst.pt
  let oobr := (moves.filter fun m => !m.pois && !src.has m.src).length
  let live := moves.filter fun m => dst.has m.dst
  let oobw := moves.length - live.length
  let s := if oobr = 0 then s else s.bump (Reg.sluiceOobr die eng pt) oobr
  let s := if oobw = 0 then s else s.bump (Reg.sluiceOobw die eng pt) oobw
  let add := dst.lay.coll == 1
  let agree := !add && src.fmt == dst.fmt && src.c == dst.c && ((!src.ten.fine && !dst.ten.fine) || (src.ten.fine && dst.ten.fine && whole))
  let key := fun (m : Move) => dst.o (m.dst.getD [])
  let order := fun (m : Move) => ((m.src.map fun t => s.index48 pt src.lay t).getD 0 : Nat)
  let places := (live.map key).eraseDups
  let s := if dst.lay.coll = 2 ∧ places.length < live.length then s.bump (Reg.sluiceDyncoll die eng pt) (live.length - places.length) else s
  -- the winner at each place, and its exact value
  let win := places.filterMap fun o =>
    let ms := live.filter fun m => key m == o
    let top := ms.foldl (fun (a : Option Move) m => match a with
      | none => some m
      | some y => if order y ≤ order m then some m else some y) none
    top.map fun m =>
      let ix := m.dst.getD []
      let x := if add then exactSum src (ms.map fun y => s.readMove b src y.src) else (s.readMove b src m.src).exact src.c
      let x := if m.pois ∨ (add ∧ ms.any fun y => y.pois) then { x with poison := true } else x
      let x := if bad = some (s.index48 pt dst.lay ix) then { x with poison := true } else x
      (ix, m, x)
  let pois := if add then (win.filter fun w => w.2.2.poison).length else 0
  let s := if pois = 0 then s else s.bump (Reg.sluicePoison die eng pt) pois
  let blocks := if dst.ten.fine then (win.map fun w => dst.o w.1 / (dst.lay.bsize : Int)).eraseDups else []
  let mode := roundMode dst.ten
  let seed := jobSeed b
  let bits := fun (ix : List Nat) => genBits seed dst.ten.tag step (s.index48 pt dst.lay ix)
  let kOf := fun (o : Int) =>
    if agree then
      match win.find? fun w => dst.o w.1 / (dst.lay.bsize : Int) == o / (dst.lay.bsize : Int) && src.has w.2.1.src with
      | some w => s.fineAt src (src.o (w.2.1.src.getD []))
      | none => 0
    else
      let mine := win.filter fun w => dst.o w.1 / (dst.lay.bsize : Int) == o / (dst.lay.bsize : Int)
      blockCode dst.fmt dst.c mode (mine.map fun w => (w.2.2, bits w.1))
  let s0 := s
  let codeOf := fun (k : Nat) (w : List Nat × Move × Exact) =>
    if agree then (if w.2.1.pois then none else s0.rawMove src w.2.1.src, false) else moveCode dst.fmt dst.c k mode (bits w.1) w.2.2
  let s := forEach win (fun w s =>
    let k := if dst.ten.fine ∧ dst.fmt ≠ 3 then kOf (dst.o w.1) else 0
    let (code, clamp) := codeOf k w
    let s := s.putCode dst w.1 code
    if clamp then s.bump (Reg.sluiceClamp die eng pt) 1 else s) s
  let s := forEach blocks (fun o s =>
    match win.find? fun w => dst.o w.1 / (dst.lay.bsize : Int) == o with
    | some w => s.storeFine dst w.1 (kOf (dst.o w.1))
    | none => s) s
  let s := s.reencodeElems dst (win.map (·.1))
  if outFmt dst.fmt then s
  else forEach (win.filter fun w => (codeOf 0 w).1.isNone) (fun w s =>
    forEach (s.keysAt pt dst.lay.space (addrOf dst.lay.base dst.off (dst.o w.1 * elemBytes dst.fmt)) (elemBytes dst.fmt)).eraseDups
      (fun k s => s.poisonAt k) s) s

/-- A packed code put at a position of a record (R111). -/
def setPacked (f : Nat) (rec_ : List Byte) (j code : Nat) : List Byte :=
  if f = 6 then
    let o := 4 + 3 * (j / 4)
    splice rec_ o (leBytes 3 (setField (uN 3 rec_ o) (6 * (j % 4) + 5) (6 * (j % 4)) code))
  else
    let o := 4 + j / 2
    splice rec_ o (leBytes 1 (setField (u8 rec_ o) (4 * (j % 2) + 3) (4 * (j % 2)) code))

/-- One record an operation writes: its destination tuples in block element order with their sources, and a poisoned list entry. -/
structure RecMove where
  elems : List (Option (List Nat) × Option (List Nat))
  pois : Bool := false
deriving DecidableEq, Repr, Inhabited

/-- Records that an operation writes (R140): a COPY keeps each element's tuple; a GATHER or SCATTER maps blocks in block element
order. -/
def State.recMoves (s : State) (pt op : Nat) (src dst : View) (list : Nat × Nat) (count : Nat) : List RecMove :=
  if op = 3 then (List.range (prodN dst.lay.blocks)).map fun i =>
    { elems := (dst.lay.blockTuples ((unRow dst.lay.blocks i).map Int.ofNat)).map fun t => (natTuple t, natTuple t) }
  else (s.blockPairs pt op src dst list count).map fun p =>
    let d := match p.1 with | some c => (dst.lay.blockTuples c).map natTuple | none => List.replicate dst.lay.bsize none
    let f := match p.2.1 with | some c => (src.lay.blockTuples c).map natTuple | none => List.replicate src.lay.bsize none
    ⟨d.zip f, p.2.2⟩

/-- Global block index of the block of an element (R143). -/
def State.blockIx48 (s : State) (w : View) (ix : List Nat) : Nat :=
  let l := w.lay
  rowMajor ((l.globalExt.zip l.bext).map fun p => cdiv p.1 p.2) (((s.globalIx w.pt l ix).zip l.bext).map fun p => p.1 / p.2)

/-- Move records between tensors of one record format (R137, R138, R140, R143): of several records written to one block, that whose source
block has the highest global block index stands. Elements outside the destination are dropped and counted, and keep their codes;
elements outside the source read as fill and are counted. A record with a poisoned source byte, a poisoned list entry or a POISON
fill is written with its header's POISON set (R109, R347, R348; entry 33). -/
def State.moveRecords (s : State) (die eng : Nat) (src dst : View) (recs : List RecMove) : State :=
  let pt := dst.pt
  let size := recordSize src.fmt src.lay.bsize
  let count := fun (p : Option (List Nat) × Option (List Nat) → Bool) (m : RecMove) => (m.elems.filter p).length
  let oobr := sumN ((recs.filter fun m => !m.pois).map (count fun e => !src.has e.2))
  let oobw := sumN (recs.map (count fun e => !dst.has e.1))
  let s := if oobr = 0 then s else s.bump (Reg.sluiceOobr die eng pt) oobr
  let s := if oobw = 0 then s else s.bump (Reg.sluiceOobw die eng pt) oobw
  let live := recs.filter fun m => m.elems.any fun e => dst.has e.1
  let key := fun (m : RecMove) => ((m.elems.findSome? fun e => if dst.has e.1 then e.1 else none).map fun t => dst.o t / (dst.lay.bsize : Int)).getD 0
  let order := fun (m : RecMove) => ((m.elems.findSome? fun e => if src.has e.2 then e.2 else none).map fun t => s.blockIx48 src t).getD 0
  let places := (live.map key).eraseDups
  let s := if dst.lay.coll = 2 ∧ places.length < live.length then
      s.bump (Reg.sluiceDyncoll die eng pt) (sumN (live.map (count fun e => dst.has e.1)) -
        sumN (places.map fun o => ((live.find? fun m => key m == o).map (count fun e => dst.has e.1)).getD 0)) else s
  let s0 := s
  forEach places (fun o s =>
    match (live.filter fun m => key m == o).foldl (fun (a : Option RecMove) m => match a with
        | none => some m
        | some y => if order y ≤ order m then some m else some y) none with
    | none => s
    | some m =>
      let z := addrOf dst.lay.base dst.off (o * size)
      let heads := (m.elems.filterMap fun e => match e.2 with
        | some t => if src.inb t then some (s0.recHead src (src.o t)) else none
        | none => none).eraseDups
      let bad := m.pois || heads.any (fun h => s0.poisonSpace pt src.lay.space h.1 size) || (src.lay.fill == 2 && m.elems.any fun e => !src.has e.2)
      let head := ((heads.head?).map (·.2)).getD 0
      let old := if m.elems.all fun e => dst.has e.1 then List.replicate size 0#8 else s0.readSpace pt dst.lay.space z size
      let bytes := m.elems.zipIdx.foldl (fun r e =>
        if !dst.has e.1.1 then r
        else setPacked dst.fmt r e.2 (match e.1.2 with
          | some t => if src.inb t then
              (let w := src.o t; s0.packed src (s0.recHead src w).1 (w % (src.lay.bsize : Int)).toNat) else 0
          | none => 0)) (splice old 0 (leBytes 4 (if bad then head ||| 32 else head)))
      (s.writeSpace pt dst.lay.space z bytes).reencode (if s.poison.isEmpty then [] else s.keysAt pt dst.lay.space z size)) s

/-- Write the bytes read from a region to another, poison with them (R347). -/
def State.moveRegion (s : State) (pt : Nat) (src dst : Nat × Nat) (bs : List Byte) : State :=
  let marks := if s.poison.isEmpty then [] else (List.range bs.length).filter fun i => s.poisonSpace pt src.1 (src.2 + i) 1
  let s := s.writeSpace pt dst.1 dst.2 bs
  let s := if s.poison.isEmpty then s else s.reencode (s.keysAt pt dst.1 dst.2 bs.length)
  forEach marks (fun i s => match s.phys pt dst.1 (dst.2 + i) with | some k => s.poisonAt k | none => s) s

/-- Copy one Bell-4 record into a copy of the operand that keeps its geometry; its side list stays the tensor's (R146). -/
def State.bellRecord (s : State) (src dst : View) (m : RecMove) : State :=
  match m.elems.findSome? fun e => match e.1, e.2 with
    | some d, some f => if dst.inb d ∧ src.inb f then some (d, f) else none
    | _, _ => none with
  | none => s
  | some (d, f) =>
    let size := recordSize src.fmt src.lay.bsize
    let a := addrOf src.lay.base src.off (src.o f / (src.lay.bsize : Int) * size)
    let z := addrOf dst.lay.base dst.off (dst.o d / (dst.lay.bsize : Int) * size)
    s.moveRegion dst.pt (src.lay.space, a) (dst.lay.space, z) (s.readSpace dst.pt src.lay.space a size)

/-- Bytes of the group index and the side list of a Bell-4 tensor, as its group index and headers give them (R115, R116). -/
def State.sideLen (s : State) (w : View) : Nat :=
  let blocks := (List.range (prodN w.lay.blocks)).map fun i => w.lay.blockTuples ((unRow w.lay.blocks i).map Int.ofNat)
  let ends := blocks.map fun ts =>
    let o := w.lay.offset (ts.headD [])
    let h := (s.recHead w o).2
    let n := if bit h 4 then w.lay.bsize else 2 * field h 15 8
    s.sideAddr w o h n - w.ten.sideBase
  ends.foldl max (8 * cdiv blocks.length 1024)

/-- Copy a Bell-4 region verbatim (R133): records, group index and side list. -/
def State.moveBell (s : State) (src dst : View) : State :=
  let pt := dst.pt
  let (lo, hi) := src.lay.span
  let recs := s.readSpace pt src.lay.space (addrOf src.lay.base 0 lo) (hi - lo).toNat
  let side := s.readSpace pt src.ten.sideSpace src.ten.sideBase (s.sideLen src)
  (s.moveRegion pt (src.lay.space, addrOf src.lay.base 0 lo) (dst.lay.space, addrOf dst.lay.base 0 lo) recs).moveRegion pt
    (src.ten.sideSpace, src.ten.sideBase) (dst.ten.sideSpace, dst.ten.sideBase) side

/-- Error of an engine: ERRSTAT bit, first cause in ERRINFO (Table 05-12). -/
def State.sluiceError (s : State) (die eng bit_ cause pt : Nat) : State :=
  let s := if s.reg (Reg.sluiceErrstat die eng) % 8 = 0 then s.put (Reg.sluiceErrinfo die eng) (cause + at_ 4 pt) else s
  s.orReg (Reg.sluiceErrstat die eng) (2 ^ bit_)

/-- Whether a source element's bytes, its record's or its block's scale-plane byte lie in poisoned memory (R347). -/
def State.srcBad (s : State) (w : View) (t : List Nat) : Bool :=
  let o := w.o t
  let B := (w.lay.bsize : Int)
  if recordFmt w.fmt then
    let r := recordSize w.fmt w.lay.bsize
    s.poisonSpace w.pt w.lay.space (addrOf w.lay.base w.off (o / B * r)) r
  else
    s.poisonSpace w.pt w.lay.space (addrOf w.lay.base w.off (o * elemBytes w.fmt)) (elemBytes w.fmt) ||
      (w.lay.scaled && s.poisonSpace w.pt w.lay.space (addrOf w.lay.scaleBase w.off (o / B)) 1)


end Sys2Proof.Machine
end

