-- ==== Sys2Proof/Machine/WeirCore.lean ====
section
/-! DEFINITION. WeirCore.lean: submission and completion queues, Weir entries, completion of descriptors, promises and fences
(R237, R246 to R251, R331 to R334). -/
namespace Sys2Proof.Machine

/-! ### Descriptor fields (Table 09-1) -/

def dOp (d : List Byte) : Nat := u8 d 0
def dFence (d : List Byte) : Nat := field (u32 d 0) 10 8
def dRemote (d : List Byte) : Bool := bit (u32 d 0) 11
def dTag (d : List Byte) : Nat := u32 d 4
def dDeadline (d : List Byte) : Nat := u64 d 8
def dStep (d : List Byte) : Nat := u48 d 0x10
def dMb (d : List Byte) : Nat := u16 d 0x16
/-- Completion queue that the submission queue named when the descriptor entered the Weir's queue (R333): it stands behind the 64
bytes. -/
def dCq (d : List Byte) : Nat := u8 d 64
/-- Address word of a parameter: address and space code (R234). -/
def dAddr (d : List Byte) (o : Nat) : Nat × Nat := (u48 d o, field (u16 d (o + 6)) 3 0)

/-- Admitted descriptors of a partition, in admission order. -/
def State.admsOf (s : State) (pt : Nat) : List Adm := s.comp.weir.adms.filter fun a => a.pt == pt

/-- Change an admitted descriptor. -/
def State.modAdm (s : State) (pt admno : Nat) (f : Adm → Adm) : State :=
  s.modWeir fun w => { w with adms := w.adms.map fun a => if a.pt == pt && a.admno == admno then f a else a }

/-- An admitted descriptor. -/
def State.adm (s : State) (pt admno : Nat) : Option Adm :=
  s.comp.weir.adms.find? fun a => a.pt == pt && a.admno == admno

/-! ### Queues (R331 to R334) -/

/-- Post the held entries of one completion queue while there is room (R333, R334). -/
def State.drainHold : Nat → State → Nat → Nat → State
  | 0, s, _, _ => s
  | k + 1, s, pt, cq =>
    match (vget s.queues pt).hold.find? fun h => h.cq == cq with
    | none => s
    | some h =>
      let id : RingId := .cq (Fin.ofNat 16 pt) (Fin.ofNat 8 cq)
      if !s.ringRoom id then s
      else
        let head := (vget (vget s.queues pt).sq h.sq).ring.head
        let s := s.modQ pt fun q => { q with hold := q.hold.erase h }
        let s := s.ringPost id (fun ph => h.bytes ++ List.replicate 24 0#8 ++
          packLE [(4, head % 65536 + at_ 16 h.sq), (4, b2n ph)]) .entry
        State.drainHold k s pt cq

/-- A Weir entry goes to the completion queue of its descriptor (R333). -/
def State.weirEntry (s : State) (pt sq cq : Nat) (bytes : List Byte) : State :=
  let s := s.modQ pt fun q => { q with hold := q.hold ++ [⟨cq, sq, bytes⟩] }
  s.drainHold ((vget s.queues pt).hold.length) pt cq

/-- Descriptors of a partition that are fetched and undecided, or admitted and incomplete (R333). -/
def State.owed (s : State) (pt : Nat) : Nat :=
  (s.comp.weir.heads.filter fun h => h.1 == pt).length + (s.admsOf pt).length +
    sumN ((s.rill.outst.filterMap fun o => match o.purpose with | .fetch p _ n => if p = pt then some n else none | _ => none) ++
      (s.rill.waiting.filterMap fun o => match o.purpose with | .fetch p _ n => if p = pt then some n else none | _ => none))

/-- Whether a fetch of a submission queue awaits its answer. -/
def State.fetching (s : State) (pt sq : Nat) : Bool :=
  let hit := fun (p : Purpose) => match p with | .fetch a b _ => a == pt && b == sq | _ => false
  s.rill.outst.any (fun o => hit o.purpose) || s.rill.waiting.any fun o => hit o.purpose

/-- Fetch the next slots of a submission queue (R332, R333): up to 64, one MEM_RD. -/
def State.pumpFetch (s : State) (pt sq : Nat) : State :=
  let id : RingId := .sq (Fin.ofNat 16 pt) (Fin.ofNat 8 sq)
  let cq : RingId := .cq (Fin.ofNat 16 pt) (Fin.ofNat 8 (field (s.reg (Reg.qwSqCtl pt sq)) 10 8))
  let r := s.ring id
  let size := s.ringSize id
  let have_ := (r.tail + size - r.head) % size
  let room := (8192 - (vget s.queues pt).hold.length) / 2 - s.owed pt
  let addr := s.reg64 (ringBaseLo id) + 64 * r.head
  let n := min (min have_ 64) (min (min (size - r.head) room) ((4096 - addr % 4096) / 64))
  if !s.ringOn id ∨ (s.ringOn cq ∧ !s.ringRoom cq) ∨ s.fetching pt sq ∨ n = 0 then s
  else s.memRdAll (some pt) addr (64 * n) fun _ => .fetch pt sq n

/-- Fetch again wherever room has come. -/
def State.pumpFetches (s : State) (pt : Nat) : State := forEach (List.range 8) (fun n s => s.pumpFetch pt n) s

/-! ### Charges and completion (R246 to R248) -/

/-- An event of Table 09-6 is charged to a descriptor: the first stays. -/
def State.chargeAdm (s : State) (pt admno cause detail : Nat) : State :=
  s.modAdm pt admno fun a => if a.cause.isNone then { a with cause := some (cause, detail) } else a

/-- Charge the STEP descriptor of a step. -/
def State.chargeStep (s : State) (pt step cause detail : Nat) : State :=
  s.modWeir fun w =>
    { w with adms := w.adms.map fun a =>
        if a.pt == pt && dOp a.desc == 1 && dStep a.desc == step && a.cause.isNone then
          { a with cause := some (cause, detail) } else a }

/-- Whether two byte ranges of spaces overlap. -/
def rangesMeet (a b : Nat × Int × Int) : Bool := a.1 == b.1 && decide (a.2.1 < b.2.2 ∧ b.2.1 < a.2.2)

/-- Whether the destination ranges of two operations overlap (R149). -/
def Adm.meets (a x : Adm) : Bool := x.ranges.any fun r => a.ranges.any fun q => rangesMeet r q

/-- Admitted, incomplete descriptors of the partition that were admitted before a given one, in admission order: ADMNO wraps (R237). -/
def State.earlier (s : State) (a : Adm) : List Adm := (s.admsOf a.pt).takeWhile fun x => x.admno != a.admno

/-- Version of the weights that an admitted SNAPSHOT reads (R205). -/
def Adm.version (a : Adm) : Nat := a.rank % 2 ^ 48

/-- Tensors that an admitted SNAPSHOT lists. -/
def Adm.listed (a : Adm) : List Nat := (List.range (min 4096 (u32 a.src 0))).map fun i => u32 a.src (0x40 + 4 * i)

/-- Whether the update of a STEP descriptor waits for the slot that a snapshot reads (R194, R206). -/
def Part.versionWait (p : Part) (a x : Adm) : Bool :=
  dOp a.desc == 1 && dOp x.desc == 7 &&
    (match p.bed with
      | some b => x.listed.any fun t => dStep a.desc + 1 == x.version + p.ring b t
      | none => false)

/-- Whether a later descriptor waits for an earlier one (R248): a fence, an overlap order (R149), a version wait (R194), a STEP order
(R244). -/
def State.waitsFor (s : State) (a x : Adm) : Bool :=
  (dFence a.desc == 1 && a.sq == x.sq) || dFence a.desc == 2 ||
    (dFence a.desc == 3 && dOp x.desc == 1 && decide (dStep x.desc ≤ dStep a.desc)) ||
    (dOp a.desc == 1 && dOp x.desc == 1) || a.meets x || (s.part a.pt).versionWait a x

/-- Charge PRIOR_LATE to every later descriptor that waits for one (R248). -/
def State.chargeWaiting (s : State) (x : Adm) : State :=
  let l := (((s.admsOf x.pt).dropWhile fun a => a.admno != x.admno).drop 1).filter fun a => s.waitsFor a x
  forEach l (fun a s => s.chargeAdm x.pt a.admno 0x0E x.admno) s

/-- Statuses that break no promise (R247, R313, R350). -/
def exempt (status : Nat) : Bool := [1, 2, 3, 4, 5, 0xD, 0xE, 0xF].contains status

/-- Entry of Table 09-3. -/
def entryBytes (tag entry : Nat) (late : Bool) (cause code admno queue ta tb : Nat) : List Byte :=
  packLE [(4, tag), (4, entry + at_ 2 (b2n late) + at_ 8 cause + at_ 16 code), (4, admno), (4, queue), (8, ta), (8, tb)]

/-- A descriptor completes with a status: its entry, LATE with its cause, MISSED_PROMISE (R246 to R248). -/
def State.completeOne (s : State) (pt admno status : Nat) : State :=
  match s.adm pt admno with
  | none => s
  | some a =>
    let late := !exempt status && decide (a.promise < s.time)
    let now := s.time / 225
    let s := if late then s.chargeWaiting a else s
    let s := s.modWeir fun w =>
      { w with
        adms := w.adms.filter fun x => !(x.pt == pt && x.admno == admno)
        -- its reservations end with the current quantum
        resv := (w.resv.filter fun r => !(r.pt == pt && r.admno == admno && decide (now < r.from_))).map fun r =>
          if r.pt == pt && r.admno == admno then { r with to_ := min r.to_ (now + 1) } else r }
    let (cause, detail) := match a.cause with
      | some (4, uid) => (4, ((s.fault.named.find? fun p => p.1 == uid).map (·.2)).getD 0)
      | some c => c
      | none => (0x0F, 0)
    let s :=
      if late then
        let s := s.bump (Reg.weirPtMissed pt) 1
        let s := if a.cause.isNone then
            s.record { ptRec pt 0 0x16 4 0x0C 0 with admno := admno, detail1 := admno } else s
        (s.ptEvent pt 5 (packLE [(4, dTag a.desc), (4, admno), (4, pt + at_ 8 cause + at_ 16 (dOp a.desc)), (4, detail),
          (8, a.promise), (8, s.time)]))
      else s
    let s := s.weirEntry pt a.sq (dCq a.desc)
      (entryBytes (dTag a.desc) 2 late (if late then cause else 0) status admno a.sq a.promise s.time)
    let s := if late then s.fire (0x80 + 8 * pt + 2) else s
    let s := if dOp a.desc = 1 ∧ status ≠ 0 then s.fire (0x80 + 8 * pt + 1) else s
    s.pumpFetches pt

/-- Whether every QWT transfer of a descriptor is settled (R251, R312): acknowledged, and not of an uncommitted step. A STEP sends on the
flows of its groups, a SNAPSHOT on its own; a FENCE waits for every flow of the partition, and no other opcode sends. -/
def State.remoteDone (s : State) (a : Adm) : Bool :=
  let mine := s.comp.fab.tx.filter fun f => f.pt == a.pt &&
    (match dOp a.desc with | 1 => f.user == 0 | 7 => f.user == 1 && f.key == a.admno | 0x0A => true | _ => false)
  mine.all fun f => f.unacked.isEmpty && f.prov.isEmpty

/-- Whether the start condition of a descriptor's fence holds (Table 09-7). -/
def State.fenceOk (s : State) (a : Adm) : Bool :=
  match dFence a.desc with
  | 1 => !(s.earlier a).any fun x => x.sq == a.sq
  | 2 => (s.earlier a).isEmpty
  | 3 => decide (dStep a.desc ≤ (s.part a.pt).commit)
  | _ => true

/-- Complete the FENCE descriptors whose fences and remote conditions hold (R251). -/
def State.settleFences : Nat → State → Nat → State
  | 0, s, _ => s
  | k + 1, s, pt =>
    match (s.admsOf pt).find? fun a => dOp a.desc == 0x0A && s.fenceOk a && (!dRemote a.desc || s.remoteDone a) with
    | none => s
    | some a => State.settleFences k (s.completeOne pt a.admno 0) pt

/-- A descriptor completes, and the fences it satisfies with it. A descriptor with REMOTE waits for its transfers (R251). -/
def State.complete (s : State) (pt admno status : Nat) : State :=
  match s.adm pt admno with
  | none => s
  | some a =>
    if dRemote a.desc ∧ !exempt status ∧ !s.remoteDone a then s.modAdm pt admno fun a => { a with sent := true, status := status }
    else
      let s := s.completeOne pt admno status
      s.settleFences (s.admsOf pt).length pt

/-- Descriptors that only waited for their remote condition complete (R251). -/
def State.settleRemote (s : State) (pt : Nat) : State :=
  let l := (s.admsOf pt).filter fun a => a.sent && dRemote a.desc && a.left == 0 && dOp a.desc != 0x0A && s.remoteDone a
  let s := forEach l (fun a s => s.completeOne pt a.admno a.status) s
  s.settleFences (s.admsOf pt).length pt

/-- The STEP descriptor of a step completes. -/
def State.completeStep (s : State) (pt step status : Nat) : State :=
  match (s.admsOf pt).find? fun a => dOp a.desc == 1 && dStep a.desc == step with
  | none => s
  | some a => s.complete pt a.admno status

/-- Admission number of a step's descriptor, 0 if none. -/
def State.stepAdm (s : State) (pt step : Nat) : Nat :=
  (((s.admsOf pt).find? fun a => dOp a.desc == 1 && dStep a.desc == step).map (·.admno)).getD 0

/-- An error record of a step (R355). -/
def State.stepRec (s : State) (pt step : Nat) (r : Rec) : State :=
  s.record { r with pt := some pt, step := some step, admno := s.stepAdm pt step }

/-- A pool word or HBM sector: the Sluice operation's byte ranges (R139, R149). -/
def layoutRange (r : List Byte) : Nat × Int × Int :=
  let l := layoutOf r
  (l.space, (l.base : Int) + l.span.1, (l.base : Int) + l.span.2)

/-- Whether the STEP descriptor of a step lets its first task start (R249, R251): its planned start has come and its fence holds. -/
def State.stepMayStart (s : State) (pt step : Nat) : Bool :=
  match (s.admsOf pt).find? fun a => dOp a.desc == 1 && dStep a.desc == step with
  | some a => decide (225 * a.startQ ≤ s.time) && s.fenceOk a
  | none => true

end Sys2Proof.Machine
end

