-- ==== Sys2Proof/Machine/Instances.lean ====
section
/-! DEFINITION. Instances.lean: output instances of a step, the readiness scheduler, the drain of columns, rounding, undo and
failure of steps (R183 to R191, R196 to R203, R349, R352, R353). -/
namespace Sys2Proof.Machine

/-! ### Steps -/

/-- A step of a partition. -/
def State.stepSt (s : State) (pt num : Nat) : Option StepSt := (s.part pt).steps.find? fun x => x.num == num

/-- Change a step. -/
def State.modStep (s : State) (pt num : Nat) (f : StepSt → StepSt) : State :=
  s.modPart pt fun p => { p with steps := p.steps.map fun x => if x.num == num then f x else x }

/-- Steps that may run: the oldest uncommitted one and the RUNAHEAD after it (R201). -/
def State.active (s : State) (pt : Nat) : List StepSt :=
  match (s.part pt).bed with
  | none => []
  | some b => ((s.part pt).steps.filter fun x => x.st != 6).take (1 + jobAhead b)

/-- The oldest uncommitted step. -/
def State.oldest (s : State) (pt : Nat) : Option StepSt := (s.part pt).steps.find? fun x => x.st != 6

/-- Instance of a tensor in a step. -/
def StepSt.inst (x : StepSt) (t mb : Nat) : Inst :=
  (x.insts.find? fun i => i.tensor == t && i.mb == mb).getD { tensor := t, mb := mb }

/-- Deficit in force for an element of an instance, 0 for none (R62). -/
def Inst.def_ (i : Inst) (ix : Nat) : Nat := ((i.defs.find? fun d => d.1 == ix).map (·.2)).getD 0

/-- Set an instance. -/
def StepSt.setInst (x : StepSt) (i : Inst) : StepSt :=
  { x with insts := i :: x.insts.filter fun y => !(y.tensor == i.tensor && y.mb == i.mb) }

/-- Micro-batch key of a tensor's instance (R135). -/
def instMb (b : List Byte) (t mb : Nat) : Nat := if mbKind (bedTensor b t).kind then mb else 0xFFFF

/-- Whether a LAYER record or a Cascade instruction produces a tensor (R186, R260). -/
def produced (b : List Byte) (t : Nat) : Bool :=
  (bedLayers b).any (fun l => l.outY == t || l.outDX == t || l.outDW == t) ||
    (List.range (secCount b 0x0209)).any fun i => let c := bedCasc b i; c.opc != 0 && c.dst == t

/-! ### Versions and panels (R187, R193) -/

/-- JETPROG that stores a tensor, by LAYER record (R165, R213). -/
def updaterOf (b : List Byte) (t : Nat) : Option Nat :=
  (List.range (secCount b 0x0205)).find? fun i =>
    let j := (bedLayer b i).jet
    j != none32 && (let r := recOf b 0x0208 j; u32 r 4 == t || u32 r 8 == t || u32 r 12 == t)

/-- CASCADE record whose instruction writes a tensor (R260). -/
def cascWriter (b : List Byte) (t : Nat) : Option Nat :=
  (List.range (secCount b 0x0209)).find? fun i => let c := bedCasc b i; c.opc != 0 && c.dst == t

/-- Whether a Cascade instruction has completed for a step and micro-batch (R260). -/
def State.cascDone (s : State) (pt : Nat) (b : List Byte) (step record mb : Nat) : Bool :=
  s.comp.casc.runs.any fun r => r.pt == pt && r.step == step && r.record == record && r.phase == 4 &&
    r.mb == (if (bedCasc b record).permb then mb else 0xFFFF)

/-- Whether version v of a weight is present (R193, R195): one that an update writes, one that ALL_GATHER brings (R272), or one that
nothing writes. -/
def State.present (s : State) (pt : Nat) (b : List Byte) (t v : Nat) : Bool :=
  let p := s.part pt
  let applying := p.steps.any fun x => x.st == 6 && x.upds.any fun u => u.pass != 4 && u32 (recOf b 0x0208 u.prog) 4 == t
  let old := p.first == some v || decide (v ≤ p.commit + 1)
  match updaterOf b t, cascWriter b t with
  | none, none => true
  | none, some r => old || (decide (1 ≤ jobAhead b) && s.cascDone pt b (v - 1) r 0xFFFF)
  | some li, _ =>
    p.heldWeight b t || (!applying && (old || (decide (1 ≤ jobAhead b) && (match s.stepSt pt (v - 1) with
      | some x => x.upds.any fun u => u.layerId == (bedLayer b li).id && u.pass == 4
      | none => false))))

/-- Whether an element of an operand is ready (R187). -/
def State.elemReady (s : State) (pt : Nat) (b : List Byte) (step t mb : Nat) (v : View) (ix : List Nat) : Bool :=
  match s.stepSt pt step with
  | none => false
  | some x =>
    if (bedTensor b t).kind = 0 then s.present pt b t step
    else if produced b t then
      match cascWriter b t with
      | some r => s.cascDone pt b step r mb
      | none => !v.inb ix || (x.inst t (instMb b t mb)).done.testBit (rowMajor v.used ix)
    else (s.part pt).seeds.any fun y => y.1 == step && y.2.1 == t && (y.2.2 == mb || y.2.2 == 0xFFFF)

/-- Whether the operands of one contribution are ready, for the rows and columns of a tile. -/
def State.contribReady (s : State) (pt : Nat) (b : List Byte) (step li prod mb : Nat) (rows cols : List Nat) : Bool :=
  let L := bedLayer b li
  let x := useTensor b L.useX
  let g := useTensor b L.useG
  let w := useTensor b (if prod = 1 then L.useWT else L.useW)
  let vx := s.view pt b x step
  let vg := s.view pt b g step
  let rowsOk := fun (t : Nat) (v : View) => rows.all fun r => (List.range v.cols).all fun c =>
    s.elemReady pt b step t mb v (v.tuple mb r c)
  let colsOk := fun (t : Nat) (v : View) (cs : List Nat) => cs.all fun c => (List.range v.rows).all fun r =>
    s.elemReady pt b step t mb v (v.tuple mb r c)
  match prod with
  | 0 => rowsOk x vx && s.present pt b w step
  | 1 => rowsOk g vg && s.present pt b w step
  | _ => colsOk x vx rows && colsOk g vg cols

/-- Members of the group of a CASCADE record of a partition, and its slot. -/
def State.groupAt (s : State) (pt rec_ : Nat) : Option Nat :=
  (List.range 256).find? fun i => let g := vget s.comp.casc.groups i; g.st == 2 && g.pt == pt && g.record == rec_

/-- Whether DW sums of a layer leave the module: a Cascade program over a group of more than one member (R184, R268). -/
def State.leaves (s : State) (pt : Nat) (b : List Byte) (L : Layer) : Bool :=
  L.casc != none32 && (match s.groupAt pt (bedCasc b L.casc).group with
    | some i => decide (1 < (vget s.comp.casc.groups i).members.length)
    | none => false)

/-- Anchors that the group has agreed for a layer's DW elements, when the scope leaves the module (R68, R271): the outer answer is
none while they are not agreed. -/
def State.groupAnchors (s : State) (pt : Nat) (b : List Byte) (step : Nat) (t : Task) : Option (Option (List (Nat × Int))) :=
  let L := bedLayer b t.layer
  if t.prod = 2 ∧ s.leaves pt b L ∧ (s.place pt b step t.layer 2).anchored then
    (s.comp.casc.runs.find? fun r => r.pt == pt && r.step == step && r.record == L.casc && r.phase != 1 && !r.anchors.isEmpty).map
      fun r => some r.anchors
  else some none

/-- Rows and columns of the output that a task's tile covers. -/
def State.tileRange (s : State) (pt : Nat) (b : List Byte) (step : Nat) (t : Task) : List Nat × List Nat :=
  let (rows, cols, _, _) := s.prodDims pt b step t.layer t.prod
  let (mt, nt) := tileDims (bedLayer b t.layer).shape
  ((List.range (min mt (rows - t.ti * mt))).map (· + t.ti * mt), (List.range (min nt (cols - t.tj * nt))).map (· + t.tj * nt))

/-- Whether every operand panel of a task is ready (R187); an anchored scope needs every contribution's operands (R68). -/
def State.panelsReady (s : State) (pt : Nat) (b : List Byte) (step : Nat) (t : Task) : Bool :=
  let (rs, cs) := s.tileRange pt b step t
  let all := if (s.place pt b step t.layer t.prod).anchored then contribs b t.layer t.prod t.mb else [(t.layer, t.mb)]
  all.all (fun x => s.contribReady pt b step x.1 t.prod x.2 rs cs) && (s.groupAnchors pt b step t).isSome

/-- Whether every group of a partition's BED is formed (R258). -/
def State.groupsFormed (s : State) (pt : Nat) (b : List Byte) : Bool :=
  (List.range (secCount b 0x020A)).all fun i => (s.groupAt pt i).isSome

/-- Tasks of a step that run on an array now. -/
def State.running (s : State) (pt step : Nat) : List Task :=
  s.arrays.toList.flatMap fun a => (a.tiles.filter fun x => x.pt == pt && x.step == step && !x.discard).map (·.task)

/-- Drop the runs and waits of some programs, by partition, step and LAYER_ID, from a Jet unit; the next run that waits takes it. -/
def JetSt.forget (j : JetSt) (p : Nat → Nat → Nat → Bool) : JetSt :=
  let left := (j.run.toList ++ j.queue).filter fun r => !p r.pt r.step r.layerId
  let keep := fun (w : JetWait) => !p w.pt w.step w.layerId
  { j with run := left.head?, queue := left.drop 1, statWait := j.statWait.filter keep, scalarWait := j.scalarWait.filter keep }

/-- Drop the Jet work of some programs (R202, R207). -/
def State.forgetJets (s : State) (p : Nat → Nat → Nat → Bool) : State :=
  s.modComp fun c => { c with jets := c.jets.map fun (j : JetSt) => j.forget p }

/-- A weight-gradient tile whose elements are all masked, which is not scheduled (R191). -/
def State.whollyMasked (s : State) (pt : Nat) (b : List Byte) (step : Nat) (t : Task) : Bool :=
  t.prod == 2 &&
    (let (rs, cs) := s.tileRange pt b step t
     rs.all fun r => cs.all fun c => s.elemMasked pt b step t.layer 2 r c)

/-- Tasks of a step not yet chosen (R187, R191): those never drained, and those to recompute. -/
def State.openTasks (s : State) (pt : Nat) (b : List Byte) (x : StepSt) : List Task :=
  let run := s.running pt x.num
  (s.allTasks pt b x.num).filter fun t =>
    !run.contains t && (x.again.contains t || !(x.done.contains t || x.skipped.contains t)) &&
      (x.st != 0 || !s.whollyMasked pt b x.num t)

/-- Scheduler key (R188). -/
def schedKey (b : List Byte) (order : List Nat) (x : StepSt) (t : Task) : List Nat :=
  let pos := (order.findIdx? (· == (bedLayer b t.layer).id)).getD 0
  let cls := if x.again.contains t ∨ x.replay then 0 else match t.prod with | 1 => 1 | 2 => 2 | _ => 3
  [x.num, cls, t.mb, if t.prod = 0 then pos else order.length - pos, t.ti, t.tj]

/-- Lexicographic order. -/
def lexLt : List Nat → List Nat → Bool
  | a :: x, b :: y => decide (a < b) || (a == b && lexLt x y)
  | _, _ => false

/-- PHASE_ID of the PHASE record that names a product and layer (R167, R452). -/
def phaseOf (b : List Byte) (prod layer : Nat) : Option Nat :=
  ((recsOf b 0x020B).find? fun r => field (u16 r 0) 9 8 == prod && u32 r 4 == layer).map fun r => u8 r 0

/-- A die enters the phase of a PHASE record when it starts a task the record names (R452). -/
def State.notePhase (s : State) (pt : Nat) (b : List Byte) (die prod layer : Nat) : State :=
  match phaseOf b prod layer with
  | none => s
  | some ph => s.modPower fun p => { p with phases := (pt, die, ph) :: p.phases.filter fun x => !(x.1 == pt && x.2.1 == die) }

/-- Phase of a task on a die: that of the record that names it, else the one the die is in, else the single phase 0 (R452). -/
def State.taskPhase (s : State) (pt : Nat) (b : List Byte) (die prod layer : Nat) : Nat :=
  (phaseOf b prod layer).getD (((s.power.phases.find? fun x => x.1 == pt && x.2.1 == die).map fun x => x.2.2).getD 0)

/-- Ready tasks of a die: partition, step, task, array, key (R187). -/
def State.readyTasks (s : State) (die : Nat) (needRole : Bool) : List (Nat × Nat × Task × Nat × List Nat) :=
  (List.range 16).flatMap fun pt =>
    match (s.part pt).bed with
    | none => []
    | some b =>
      let order := layerOrder b
      if !s.groupsFormed pt b ∨ s.resetting pt ∨ !s.boot.ready then []
      else ((s.active pt).filter fun x => decide (x.st ≤ 2) && (x.st != 0 || s.stepMayStart pt x.num)).flatMap fun x =>
        ((s.openTasks pt b x).filter fun t => (bedLayer b t.layer).die == die && (x.st != 2 || x.again.contains t)).filterMap fun t =>
          match s.arrayOf die (s.taskRole pt b x.num t) with
          | none => none
          | some a =>
            let A := vget s.arrays (arrIx die a)
            let tst := vget s.tests (arrIx die a)
            -- a due test lets no newer step start on the role; a test in place lets none (R431)
            let held := (tst.waiting && x.num != ((s.oldest pt).map (·.num)).getD x.num) || tst.st == 2
            if (!needRole ∨ (A.tiles.length < 2 ∧ A.stats.isNone ∧ !A.stall ∧ !held)) ∧ s.panelsReady pt b x.num t then
              some (pt, x.num, t, a, schedKey b order x t) else none

/-! ### Accepting and rounding elements (R61, R64, R84, R91 to R99, R214) -/

/-- Least LSB exponent over the contributions of an exact scope, and whether any has g = 255. -/
def State.scopeLsb (s : State) (pt : Nat) (b : List Byte) (step li prod mb : Nat) : Int × Bool :=
  let ps := (contribs b li prod mb).map fun x => s.place pt b step x.1 prod
  match ps with
  | [] => (0, false)
  | p :: t => (t.foldl (fun m q => min m q.lsb) p.lsb, ps.any (·.grid))

/-- A contribution's word in the scope's units. -/
def alignWord (p : Place) (l : Int × Bool) (w : Basin) : Basin :=
  if p.anchored then w
  else
    let w := if l.2 ∧ !p.grid then { w with b := wrap128 (255 * w.b), mtop := if w.mtop = 0 then 0 else w.mtop + 8 } else w
    let sh := (p.lsb - l.1).toNat
    if sh = 0 then w else { w with b := wrap128 (w.b * (2 ^ sh : Nat)), mtop := if w.mtop = 0 then 0 else w.mtop + sh }

/-- 2-bit sign code of an accepted value (R214). -/
def signCode (x : Exact) : Nat := if x.poison then 2 else if x.isZero then 0 else if x.neg then 3 else 1

/-- Write the sign code of a gradient element into the plane of every program that has one for the tensor (R214). -/
def State.writeSigns (s : State) (pt : Nat) (b : List Byte) (t n : Nat) (x : Exact) : State :=
  forEach (recsOf b 0x0208) (fun r s =>
    let base := u48 r 0x18
    if u32 r 0x10 = t ∧ base ≠ none48 then
      let old := u8 (s.readSpace pt 0 (base + n / 4) 1) 0
      s.writeSpace pt 0 (base + n / 4) [BitVec.ofNat 8 (setField old (2 * (n % 4) + 1) (2 * (n % 4)) (signCode x))]
    else s) s

/-- Sign plane bytes whose every element is rounded are whole writes (R214, R343). -/
def State.reencodeSigns (s : State) (pt : Nat) (b : List Byte) (t total done : Nat) : State :=
  if s.poison.isEmpty then s
  else
    let bytes := (List.range (cdiv total 4)).filter fun i => (List.range (min 4 (total - 4 * i))).all fun j => done.testBit (4 * i + j)
    s.reencode ((recsOf b 0x0208).flatMap fun r =>
      let base := u48 r 0x18
      if u32 r 0x10 = t ∧ base ≠ none48 then bytes.flatMap fun i => s.keysAt pt 0 (base + i) 1 else [])

/-- Register the scale and rung that an instance of a step carries (R90). -/
def State.noteScale (s : State) (pt : Nat) (b : List Byte) (t step ver : Nat) (c : Int) (rung : Nat) : State :=
  s.modStep pt step fun x =>
    { x with scales := ⟨t, (s.part pt).slot b t ver, ver, c, rung⟩ :: x.scales.filter fun y => !(y.tensor == t && y.version == ver) }

/-- A clamped coarse scale places an informational record (Table 03-6). -/
def State.noteClamp (s : State) (pt t step : Nat) : State :=
  let raw := s.coarseRaw pt t step
  if raw = s.coarse pt t step then s
  else match (s.part pt).bed with
    | some b => s.stepRec pt step { unitRec 0 0x12 0 7 0 with layer := (bedTensor b t).tag, detail1 := toBits 16 raw }
    | none => s

/-- Larger of two exponents, none being that of zero. -/
def maxXs (a b : Option Int) : Option Int :=
  match a, b with | none, e => e | some a, some e => some (max a e) | some a, none => some a

/-- Round every block that a set of completed elements of a tensor completes (R91 to R99): codes, fine codes, fit rung, X_s. A block that
spans micro-batches waits for the elements of all of them. -/
def State.roundBlocks (s : State) (pt : Nat) (b : List Byte) (step t : Nat) (v : View) (ixs : List (List Nat)) : State :=
  let T := v.ten
  let mode := roundMode T
  let seed := jobSeed b
  let fine := T.fine && v.fmt != 3
  let mbOf := fun (ix : List Nat) => if mbKind T.kind then ix.headD 0 else 0xFFFF
  let firsts := (ixs.map fun ix => if fine then v.blockIn ix else [ix]).eraseDups
  let s := forEach firsts (fun blk s =>
    match s.stepSt pt step with
    | none => s
    | some x =>
      let keys := blk.map fun ix => s.index48 pt v.lay ix
      let vals := (blk.zip keys).filterMap fun k => ((x.inst t (mbOf k.1)).vals.find? fun y => y.1 == k.2).map (·.2)
      if vals.length < blk.length then s
      else
        let bits := keys.map fun k => genBits seed T.tag step k
        let k := if fine then blockCode v.fmt v.c mode (vals.zip bits) else 0
        let s := forEach ((blk.zip vals).zip bits) (fun y s =>
          s.storeElem v y.1.1 (storeCode v.fmt v.c k mode y.2 y.1.2).1) s
        let s := match blk with | ix :: _ => s.storeFine v ix k | [] => s
        let s := if T.kind = 3 then
            forEach (blk.zip vals) (fun y s => s.writeSigns pt b t (rowMajor v.used y.1) y.2) s
          else s
        let fit := ((vals.zip bits).map fun y => fitRung v.fmt v.c mode y.2 y.1).foldl max 0
        let xs := maxLg vals
        forEach blk (fun ix s => s.modStep pt step fun x =>
          let i := x.inst t (mbOf ix)
          x.setInst { i with
            fit := max i.fit fit, xs := maxXs i.xs xs, done := i.done ||| 2 ^ rowMajor v.used ix }) s) s
  if s.poison.isEmpty then s
  else
    let done := fun (mb : Nat) => ((s.stepSt pt step).map fun x => (x.inst t mb).done).getD 0
    let s' := s.reencodeElems v ((allIx v.used).filter fun ix => (done (mbOf ix)).testBit (rowMajor v.used ix))
    if T.kind = 3 then s'.reencodeSigns pt b t (prodN v.used) (done 0xFFFF) else s'

/-- A complete element is accepted with its exact value, or asks for its repeat (R61, R62, R64, R65): the answer says whether it was
accepted. rep is the deficit of the repeat that its word comes from, 0 for none; a repeat is final. -/
def State.acceptElem (s : State) (pt : Nat) (b : List Byte) (step : Nat) (t : Task) (ix n : Nat) (w : Basin) (lsb : Int)
    (grid : Bool) (rep : Nat) : Bool × State :=
  let L := bedLayer b t.layer
  let out := outTensor L t.prod
  let mb := instMb b out t.mb
  if w.poison ∨ rep ≠ 0 ∨ n = 0 ∨ headroomOk w.mtop n then
    let v := if w.poison then { poison := true } else drainValue w.b (lsb + rep) grid
    (true, s.modStep pt step fun x =>
      let i := x.inst out mb
      x.setInst { i with vals := (ix, v) :: i.vals.filter fun y => y.1 != ix })
  else
    let d := deficit w.mtop n
    let s := s.stepRec pt step { unitRec 0 0x10 (L.die) 1 0 with layer := (bedTensor b out).tag, detail1 := d, mb := some t.mb
                                                                 detail0 := t.ti + at_ 16 t.tj }
    let s := s.chargeStep pt step 1 L.id
    (false, s.modStep pt step fun x =>
      let i := x.inst out mb
      x.setInst { i with
        defs := (ix, d) :: i.defs.filter fun y => y.1 != ix
        racc := dropWords i.racc [ix] })

/-- Tasks that contribute to an output element (R183). -/
def State.coverTasks (s : State) (pt : Nat) (b : List Byte) (step : Nat) (t : Task) (r c : Nat) : List Task :=
  (contribs b t.layer t.prod t.mb).filterMap fun x =>
    let (mt, nt) := tileDims (bedLayer b x.1).shape
    let y : Task := ⟨t.prod, x.1, x.2, r / mt, c / nt⟩
    if (s.layerTasks pt b step x.1 t.prod).contains y then some y else none

/-- Elements of a finished task whose every contribution has drained: they are tested and rounded here, or left for Cascade when
the scope leaves the module (R64, R184, R187). -/
def State.settleElems (s : State) (pt : Nat) (b : List Byte) (step : Nat) (t : Task) : State :=
  let L := bedLayer b t.layer
  let out := outTensor L t.prod
  let mb := instMb b out t.mb
  if t.prod = 2 ∧ s.leaves pt b L then s
  else
    let v := s.outView pt b step L t.prod
    let (rs, cs) := s.tileRange pt b step t
    let (lsb, grid) := s.scopeLsb pt b step t.layer t.prod t.mb
    let anch := (s.place pt b step t.layer t.prod).anchored
    let (s, oks) := (rs.flatMap fun r => cs.map fun c => (r, c)).foldl (fun (a : State × List (List Nat)) rc =>
      let (s, oks) := a
      match s.stepSt pt step with
      | none => a
      | some x =>
        let cov := s.coverTasks pt b step t rc.1 rc.2
        if cov.all (fun y => (x.done.contains y || x.skipped.contains y) && !x.again.contains y) then
          let ix := s.outIx pt b step t rc.1 rc.2
          let i := x.inst out mb
          let d := i.def_ ix
          let w := wordAt (if d = 0 then i.acc else i.racc) ix
          let n := s.scopeN pt b step t.layer t.prod t.mb rc.1 rc.2
          let (ok, s) := s.acceptElem pt b step t ix n w (if anch then w.anchor - 120 else lsb) grid (if d = 0 then w.rep else d)
          if ok then (s, v.tuple t.mb rc.1 rc.2 :: oks)
          else
            -- every contributing tile is recomputed with truncation by d (R64)
            (s.modStep pt step fun x => { x with again := (x.again ++ cov.filter fun y => !x.skipped.contains y).eraseDups }, oks)
        else a) (s, [])
    let s := s.noteScale pt b out step step v.c v.fmt
    s.roundBlocks pt b step out v oks

/-- Merge the words of a drained tile into its instance and settle what it completes (R64): a cross-chip recompute gives the repeated
words of the elements with a deficit, every other drain the words of its task. -/
def State.finishTile (s : State) (b : List Byte) (T : Tile) : State :=
  let t := T.task
  match s.stepSt T.pt T.step with
  | none => s
  | some x =>
    let L := bedLayer b t.layer
    let out := outTensor L t.prod
    let mb := instMb b out t.mb
    let p := s.place T.pt b T.step t.layer t.prod
    let l := s.scopeLsb T.pt b T.step t.layer t.prod t.mb
    let i := x.inst out mb
    let words := (List.range 65536).filterMap fun q =>
      match s.tileElem T.pt b T.step t (q % 256) (q / 256) with
      | none => none
      | some (r, c) =>
        let ix := s.outIx T.pt b T.step t r c
        if T.cross ∧ i.def_ ix = 0 then none else some (ix, t, alignWord p l (nth T.words q {}))
    let i := if T.cross then { i with racc := words.foldl putWord i.racc } else { i with acc := words.foldl putWord i.acc }
    let s := s.modStep T.pt T.step fun x =>
      { (x.setInst i) with
        done := if x.done.contains t then x.done else t :: x.done
        again := x.again.filter fun y => y != t }
    s.settleElems T.pt b T.step t

/-! ### Failure, undo and replay (R202, R203, R349, R352) -/

/-- Undo a step and every later one at the member (R202): what stands in ring slots and activation slots is replaced when they run
again. Later steps that had run lose work and are counted (R203). -/
def State.undoFrom (s : State) (pt step : Nat) : State :=
  let p := s.part pt
  let later := (p.steps.filter fun x => decide (step < x.num) && x.st != 0 && x.st != 6).length
  let s := if later = 0 then s else s.bump (Reg.dieUndocnt 0 pt) later
  let s := s.modPart pt fun p =>
    { p with steps := p.steps.map fun x =>
        if x.num < step ∨ x.st = 6 then x
        else { x with
          st := if x.num = step then 5 else 0
          undone := false
          done := [], skipped := [], again := [], insts := [], upds := [], scales := [], rungs := [], xs := []
          settled := false, both := false, fail := 0 } }
  let mine := fun (q n : Nat) => q == pt && decide (step ≤ n)
  let drop := fun (T : Tile) => if mine T.pt T.step then { T with discard := true } else T
  let s : State :=
    { s with
      arrays := s.arrays.map fun (a : ArraySt) =>
        { a with tiles := a.tiles.map drop, stats := a.stats.filter fun q => !mine q.pt q.step } }
  let s := s.forgetJets fun q n _ => mine q n
  s.modCasc fun c =>
    { c with
      runs := c.runs.map fun r =>
        if mine r.pt r.step then { r with anchors := [], phase := 0, defs := [], on := false } else r
      rounds := c.rounds.map fun r =>
        if mine (vget c.groups r.slot).pt r.step then { r with own := none } else r }

/-- End a step without replay (R101, R203, R226, R349, R352): its descriptor takes the status, later ones PRIOR_FAILED, its scalar
set unlocks after a numeric failure or a strict abort (Table 08-5), and the next STEP carries its number. -/
def State.endStep (s : State) (pt step status : Nat) : State :=
  let s := if status = 0x0E ∨ status = 0x0F then s.bump (Reg.faultPtLost pt) 1 else s
  let s := s.undoFrom pt step
  let later := ((s.part pt).steps.filter fun x => decide (step < x.num)).map (·.num)
  let s := s.modPart pt fun p =>
    { p with
      steps := p.steps.filter fun x => decide (x.num < step)
      rerun := some step
      lastStep := some (step - 1)
      -- the host may supply version t₀ afresh (R204)
      ringInit := p.ringInit && p.first != some step
      sets := p.sets.map fun x => if x.step = step ∧ (status = 2 ∨ status = 4) then { x with locked := false } else x }
  let s := s.completeStep pt step status
  forEach later (fun n s => s.completeStep pt n 3) s

/-- The step fails from a detected error and will be replayed (R203, R351). -/
def State.failReplay (s : State) (pt step : Nat) (uid : Option Nat) : State :=
  match s.stepSt pt step with
  | none => s
  | some x =>
    if x.st = 6 then s
    else
      let n := x.replays + 1
      let layer := (((s.fault.queue.find? fun r => some r.uid == uid)).map (·.layer)).getD x.errLayer
      let s := s.undoFrom pt step
      let s := s.modStep pt step fun x =>
        { x with replays := n, causes := x.causes ++ uid.toList, errLayer := layer }
      s.chargeStep pt step 4 (uid.getD none48)

/-- uid of the record placed last. -/
def State.lastUid (s : State) : Nat := s.fault.uid - 1

/-- A step has consumed poison: it replays when a recoverable record has been detected, else ends DATA_LOST (R349). -/
def State.consumed (s : State) (pt step tag : Nat) : State :=
  if s.fault.recov.contains pt then s.failReplay pt step none
  else
    let nm := (s.fault.commRec.find? fun x => x.1 == pt).map (·.2)
    let s := s.stepRec pt step { unitRec 3 0x18 0 7 0 with layer := tag, names := nm }
    s.endStep pt step 0x0E

/-- Numeric failure of a step (R101). -/
def State.numericFail (s : State) (pt step : Nat) : State := s.endStep pt step 2

/-- Event NUMERIC_OVERFLOW (Table 12-8). -/
def State.overflowEvent (s : State) (pt step tag : Nat) : State := s.ptEvent pt 2 (packLE [(4, tag), (4, 0), (8, step)])

/-! ### TASK_CHOOSE, FUSED_FILL_COMPLETE, COLUMN_DRAIN, TILE_REPEAT, BASIN_STALL_END -/

/-- Words of a tile enter its Basin words (R58, R64): in a cross-chip recompute the deficits of its instance are in force. -/
def State.fillTile (s : State) (b : List Byte) (T : Tile) : Tile :=
  let out := outTensor (bedLayer b T.task.layer) T.task.prod
  let i := match s.stepSt T.pt T.step with
    | some x => x.inst out (instMb b out T.task.mb)
    | none => default
  let own := fun (ix : Nat) => if T.cross then i.def_ ix else 0
  { T with words := s.tileWords T.pt b T.step T.task own ((s.groupAnchors T.pt b T.step T.task).getD none) }

/-- A stored instance keeps its scale and rung with the partition's job state (R90, R104): the slot's former entry goes. -/
def State.noteScaleP (s : State) (pt : Nat) (b : List Byte) (t v : Nat) (c : Int) (rung : Nat) : State :=
  s.modPart pt fun p =>
    { p with scales := ⟨t, p.slot b t v, v, c, rung⟩ :: p.scales.filter fun y => !(y.tensor == t && y.slot == p.slot b t v) }

/-- The host's version t₀ of a weight or moment, and the copy of its slot to every other slot of its ring, with scale and rung (R90,
R193). -/
def State.ringCopy (s : State) (pt : Nat) (b : List Byte) (t t0 : Nat) : State :=
  let n := (s.part pt).ring b t
  let v := s.view pt b t t0
  let (lo, hi) := v.lay.span
  let (slo, shi) := v.lay.scaleSpan
  forEach (List.range n) (fun k s =>
    let s := s.noteScaleP pt b t (t0 + k) v.c v.fmt
    if k = 0 then s
    else
      let dest := (s.part pt).slot b t (t0 + k) * v.ten.stride
      let s := s.moveRegion pt (v.lay.space, addrOf v.lay.base v.off lo) (v.lay.space, addrOf v.lay.base dest lo)
        (s.readSpace pt v.lay.space (addrOf v.lay.base v.off lo) (hi - lo).toNat)
      if v.lay.scaled then
        s.moveRegion pt (v.lay.space, addrOf v.lay.scaleBase v.off slo) (v.lay.space, addrOf v.lay.scaleBase dest slo)
          (s.readSpace pt v.lay.space (addrOf v.lay.scaleBase v.off slo) (shi - slo).toNat)
      else s) s

/-- Every ring's initialisation copy, once, as step t₀ starts and so before its first update (R193). -/
def State.initRings (s : State) (pt : Nat) (b : List Byte) (step : Nat) : State :=
  let p := s.part pt
  if p.ringInit ∨ p.first ≠ some step then s
  else
    let ts := (List.range (secCount b 0x0203)).filter fun t => (ringWeight b t).isSome
    (forEach ts (fun t s => s.ringCopy pt b t step) s).modPart pt fun p => { p with ringInit := true }

/-- First task of a step: RUNNING, wholly masked DW tiles skipped, service chosen (R191, R196, R274). -/
def State.startStep (s : State) (pt : Nat) (b : List Byte) (step : Nat) : State :=
  match s.stepSt pt step with
  | none => s
  | some x =>
    if x.st ≠ 0 then s
    else
      let skip := (s.allTasks pt b step).filter fun t => s.whollyMasked pt b step t
      let ctl := s.reg (Reg.cascadePtCtl pt)
      let careful := bit ctl 0 || bit ctl 1 || x.careful || s.comp.casc.groups.toList.any fun g => g.pt == pt && g.fresh
      let s := s.put (Reg.cascadePtCtl pt) (setField ctl 0 0 0)
      let s := if skip.isEmpty then s else s.bump (Reg.dieMaskskip 0 pt) skip.length
      let s := s.initRings pt b step
      let s := s.modStep pt step fun x => { x with st := 1, skipped := skip, careful := careful }
      let s := s.modFault fun f => { f with recov := f.recov.filter fun p => p != pt }
      let s := s.modCasc fun c =>
        { c with groups := c.groups.map fun g => if g.pt == pt && g.st == 2 then { g with careful := careful, fresh := false } else g }
      let outs := (((List.range (secCount b 0x0203)).filter fun t => produced b t))
      let s := forEach outs (fun t s => s.noteClamp pt t step) s
      forEach (skip.filter fun t => t.mb == 0) (fun t s => s.settleElems pt b step t) s

/-- Whether a byte range of a space meets a weight's region, its ring slots included (R204, Table 07-8). -/
def State.tied (s : State) (pt : Nat) (r : Nat × Int × Int) : Bool :=
  match (s.part pt).bed with
  | none => false
  | some b => (List.range (secCount b 0x0203)).any fun t =>
      let T := bedTensor b t
      T.kind == 0 && (let (sp, lo, hi) := layoutRange (recOf b 0x0202 T.layout)
        rangesMeet (sp, lo, hi + (ringOf b t - 1) * T.stride) r)

/-- The copy of a COPY operand into its destination layout (R146): a stand-alone COPY of the operand by the engine that the USE record
names, which the array then reads. A weight's region takes no such write (R168). -/
def State.copyOperand (s : State) (pt : Nat) (b : List Byte) (die step use : Nat) : State :=
  if usePath b use = 0 ∨ useCopy b use = none32 then s
  else
    let v := s.view pt b (useTensor b use) step
    let d := s.useView pt b use step
    let eng := useEngine b use
    if s.tied pt (layoutRange (recOf b 0x0202 (useCopy b use))) then s
    else
      let s := s.countBytes pt die eng (granulesOf v (allIx v.used) + fineGranules v (allIx v.used))
      if recordFmt v.fmt ∧ v.fmt = d.fmt then
        if v.fmt = 7 then
          forEach ((s.recMoves pt 3 v d (0, 0) 0).filter fun m => m.elems.any fun e => v.has e.2 && d.has e.1) (fun m s => s.bellRecord v d m) s
        else s.moveRecords die eng v d (s.recMoves pt 3 v d (0, 0) 0)
      else
        s.moveElems b die eng v d ((allIx v.lay.extent).map fun ix => ⟨some ix, some ix, false⟩) step (v.lay.bshape == d.lay.bshape) none

/-- USE records of a product's operands (R146). -/
def opUses (L : Layer) (prod : Nat) : List Nat :=
  match prod with | 0 => [L.useX, L.useW] | 1 => [L.useG, L.useWT] | _ => [L.useX, L.useG]

/-- Records of malformed blocks that an operand read meets (R128): tensor tag, block index and the slot that the instance stands in. -/
def State.noteMalformed (s : State) (pt : Nat) (b : List Byte) (die step : Nat) (t : Task) (w : View) (ixs : List (List Nat)) : State :=
  if !recordFmt w.fmt then s
  else
    let B := (w.lay.bsize : Int)
    let firsts := ixs.foldl (fun (l : List (Int × List Nat)) ix => if l.any (fun y => y.1 == w.o ix / B) then l else l ++ [(w.o ix / B, ix)]) []
    forEach (firsts.filter fun y => s.malformed b w y.2) (fun y s =>
      s.stepRec pt step { unitRec 0 0x0C die 3 0 with
        layer := w.ten.tag, mb := some t.mb, detail1 := toBits 32 y.1, detail2 := w.off / max 1 w.ten.stride }) s

/-- Panel that a task reads through one of its operand USEs: the view and the index tuples of its elements (R146, R182). -/
def State.panel (s : State) (pt : Nat) (b : List Byte) (step : Nat) (t : Task) (use : Nat) : View × List (List Nat) :=
  let (a, v) := s.opViews pt b step t.layer t.prod
  let (rs, cs) := s.tileRange pt b step t
  let ks := s.contraction pt b step t.layer t.prod
  if use = (opUses (bedLayer b t.layer) t.prod).headD none32 then (a, rs.flatMap fun r => ks.map fun k => a.left t.prod t.mb r k)
  else (v, ks.flatMap fun k => cs.map fun c => v.right t.prod t.mb k c)

/-- Fill reads that a fused load of a tile's panels makes, and the granules it fetches, count in the registers of the engine that each
USE record names (R137, R151). -/
def State.countFused (s : State) (pt : Nat) (b : List Byte) (die step : Nat) (t : Task) (uses : List Nat) : State :=
  forEach uses (fun u s =>
    let (w, ixs) := s.panel pt b step t u
    let got := ixs.filter w.inb
    let s := s.countBytes pt die (useEngine b u) (granulesOf w got + fineGranules w got)
    let oob := ixs.length - got.length
    let s := if oob = 0 then s else s.bump (Reg.sluiceOobr die (useEngine b u) pt) oob
    s.noteMalformed pt b die step t w got) s

/-- TASK_CHOOSE (R188): the ready task with the smallest key starts on its role's array. Equal keys of two partitions on one die go to the
lower-numbered partition (DESIGN CHOICE: entry 65). -/
def execTaskChoose (die : Die) (s : State) : Host.Outcome State Fault Refusal := s.clocked <|
  let cand := s.readyTasks die true
  let best := cand.foldl (fun (m : Option (Nat × Nat × Task × Nat × List Nat)) x => match m with
    | none => some x
    | some y => if lexLt x.2.2.2.2 y.2.2.2.2 then some x else some y) none
  .next (match best with
    | none => s
    | some (pt, step, t, a, _) =>
      match (s.part pt).bed with
      | none => s
      | some b =>
        let s := (s.startStep pt b step).notePhase pt b die t.prod t.layer
        let L := bedLayer b t.layer
        let uses := opUses L t.prod
        let ai := arrIx die a
        let s := forEach uses (fun u s => s.copyOperand pt b die step u) s
        let fused := uses.filter fun u => usePath b u == 0
        let s := s.countFused pt b die step t fused
        let s := forEach fused (fun u s =>
          s.modEng (2 * die + useEngine b u) fun e => { e with fills := e.fills ++ [(ai, pt)] }) s
        let A := vget s.arrays ai
        let x := s.stepSt pt step
        let T : Tile := {
          pt := pt, step := step, task := t, fills := fused.length
          word := A.nextWord
          cross := (x.map fun x => x.again.contains t && x.done.contains t &&
            !(x.inst (outTensor L t.prod) (instMb b (outTensor L t.prod) t.mb)).defs.isEmpty).getD false }
        let T := if T.fills = 0 then s.fillTile b T else T
        let q := if (s.place pt b step t.layer t.prod).quarter then 4 else 1
        let kt := (s.contraction pt b step t.layer t.prod).length
        let (rs, cs) := s.tileRange pt b step t
        let sigma := sideTime (s.sideSlices pt b step t rs cs)
        let s := s.modArr ai fun A =>
          { A with
            tiles := A.tiles ++ [T], nextWord := !A.nextWord
            stall := A.stall || (!A.tiles.isEmpty && decide (q * kt + sigma < 256)) }
        let s := if T.cross then
            let i := (x.map fun x => x.inst (outTensor L t.prod) (instMb b (outTensor L t.prod) t.mb)).getD default
            -- the largest deficit of the tile, and the count of its element (Table 02-12)
            let top := (rs.flatMap fun r => cs.map fun c => (r, c)).foldl (fun (m : Nat × Nat × Nat) rc =>
              let d := i.def_ (s.outIx pt b step t rc.1 rc.2)
              if m.1 < d then (d, rc.1, rc.2) else m) (0, 0, 0)
            let n := s.scopeN pt b step t.layer t.prod t.mb top.2.1 top.2.2
            s.logRepeat die a 1 top.1 (top.1 + 126 - clog2 n) n
          else s
        let s := s.logMacs die a (s.tileMacs pt b step t)
        s.put64 (Reg.dieTilesLo die) ((s.reg64 (Reg.dieTilesLo die) + 1) % 2 ^ 64))

/-- FUSED_FILL_COMPLETE (R146): the running fill of an engine ends; a tile whose panels are all staged accumulates. -/
def execFusedFillComplete (die : Die) (eng : Engine) (s : State) : Host.Outcome State Fault Refusal := s.clocked <|
  let e := vget s.comp.engines (2 * die + eng)
  .next (match e.fills with
    | [] => s
    | (ai, _) :: rest =>
      let s := s.modEng (2 * die + eng) fun e => { e with fills := rest }
      let A := vget s.arrays ai
      match A.tiles.findIdx? fun T => T.fills != 0 with
      | none => s
      | some i =>
        let T := nth A.tiles i {  pt := 0, step := 0, task := ⟨0, 0, 0, 0, 0⟩, word := false }
        let T := { T with fills := T.fills - 1 }
        let T := match (s.part T.pt).bed with
          | some b => if T.fills = 0 ∧ !T.discard then s.fillTile b T else T
          | none => T
        s.modArr ai fun A => { A with tiles := setNth A.tiles i T })

/-! ### The drain's consumer and row statistics (R69 to R71, R75, R273) -/

/-- Elements of DW sums that wait in the staging region of a group of a partition (R268, R273): those drained and neither accepted here nor
in a chunk that its receiver has confirmed. -/
def State.stagedSums (s : State) (pt : Nat) (b : List Byte) (rec_ : Nat) : Nat :=
  let gid := (bedGroup b rec_).gid
  sumN ((s.part pt).steps.map fun x =>
    let outs := ((bedLayers b).filter fun L => L.casc != none32 && (bedCasc b L.casc).group == rec_).map (·.outDW) |>.eraseDups
    sumN (outs.map fun t =>
      let i := x.inst t 0xFFFF
      let sent := s.comp.casc.sent.filter fun y => y.pt == pt && y.confirmed && y.chunk.gid == gid && y.chunk.step == x.num && decide (y.chunk.kind < 2)
      (((i.acc.map (·.1)).eraseDups).filter fun ix => !(i.vals.any fun v => v.1 == ix) &&
        !(sent.any fun y => (List.range y.chunk.count).any fun j => y.chunk.first + j * y.chunk.estride == ix)).length))

/-- Whether the consumer of a drain refuses a column (R75, R273): the staging region of the group that a DW tile's sums leave through has no
room for it, at 17 bytes an element (Table 10-4). Nothing in the manual makes pools or a Jet unit refuse. -/
def State.drainRefused (s : State) (b : List Byte) (T : Tile) : Bool :=
  let L := bedLayer b T.task.layer
  T.task.prod == 2 && !T.cross && s.leaves T.pt b L &&
    (let r := (bedCasc b L.casc).group
     let new := ((List.range 256).filterMap fun i => s.tileElem T.pt b T.step T.task i T.col).length
     decide ((bedGroup b r).stageLen < 17 * (s.stagedSums T.pt b r + new)) && s.stagedSums T.pt b r != 0)

/-- Sums of every row of a tensor's micro-batch with given deficits (R69, R70). -/
def State.statWords (s : State) (b : List Byte) (q : RowStat) : List (Basin × Basin) :=
  let v := s.view q.pt b q.tensor q.step
  (List.range v.rows).map fun r =>
    rowSums v.floor v.c (v.fmt == 3) (nth q.defs r 0) ((List.range v.cols).map fun c => s.readElem b v (v.tuple q.mb r c))

/-- An array that holds no tile enters the row-statistics mode over the rows of a tensor (R69): QE43, QE52, FP16 and BF16 inputs. No
record of a BED and no row of the table names such a region (entry 62). -/
def State.startRowStat (s : State) (die arr pt step tensor mb op mean var : Nat) : State :=
  match (s.part pt).bed with
  | none => s
  | some b =>
    let A := vget s.arrays (arrIx die arr)
    let v := s.view pt b tensor step
    if !A.tiles.isEmpty ∨ A.stats.isSome ∨ !outFmt v.fmt then s
    else
      let q : RowStat := { pt := pt, step := step, tensor := tensor, mb := mb, op := op, mean := mean, var := var }
      (s.logMacs die arr (v.rows * v.cols)).modArr (arrIx die arr) fun A => { A with stats := some { q with words := s.statWords b q } }

/-- Rows in the physical column j of a statistics pass, row r of the region at processing element (r mod 256, ⌊r / 256⌋). -/
def RowStat.column (q : RowStat) : List Nat := (List.range 256).filterMap fun i => let r := 256 * q.col + i; if r < q.words.length then some r else none

/-- Results of a statistics pass, rounded once in the format of the tensors that take them; a variance numerator below zero yields +0 and is
counted (R71). -/
def State.finishStats (s : State) (b : List Byte) (die arr : Nat) (q : RowStat) : State :=
  let v := s.view q.pt b q.tensor q.step
  let res := q.words.map fun w => let l := rowLsb v.floor v.c (v.fmt == 3) w; rowResults w l.1 l.2 v.cols
  let clamps := (res.filter fun r => r.2.2).length
  let s := if clamps = 0 ∨ q.op / 2 % 2 = 0 then s else s.bump (Reg.basinVarclamp die arr) clamps
  let put := fun (t : Nat) (xs : List Exact) (s : State) =>
    if t = none32 then s
    else
      let w := s.viewAt q.pt b t q.step (s.coarse q.pt t q.step) (s.rungAt q.pt t q.step)
      let mb := instMb b t q.mb
      let n := if mbKind w.ten.kind then prodN (w.used.drop 1) else prodN w.used
      let ixs := (List.range (min n xs.length)).map fun r => if mbKind w.ten.kind then q.mb :: unRow (w.used.drop 1) r else unRow w.used r
      let s := s.modStep q.pt q.step fun x =>
        let i := x.inst t mb
        let vals := ixs.zip xs |>.map fun y => (s.index48 q.pt w.lay y.1, y.2)
        x.setInst { i with vals := vals ++ i.vals.filter fun y => !vals.any fun z => z.1 == y.1 }
      (s.noteScale q.pt b t q.step q.step w.c w.fmt).roundBlocks q.pt b q.step t w ixs
  let s := put q.mean (res.map (·.1)) s
  let s := put q.var (res.map (·.2.1)) s
  s.modArr (arrIx die arr) fun A => { A with stats := none }

/-- A column of a statistics pass drains: both sums of every row are tested, and the last column ends the pass or asks for its repeat
(R61, R70). -/
def State.drainStats (s : State) (die arr : Nat) : State :=
  match (vget s.arrays (arrIx die arr)).stats with
  | none => s
  | some q =>
    match (s.part q.pt).bed with
    | none => s.modArr (arrIx die arr) fun A => { A with stats := none }
    | some b =>
      if q.again then s
      else
        let v := s.view q.pt b q.tensor q.step
        let rows := q.column
        let s := if q.rep then s else s.logPoison die arr (rows.filter fun r => (nth q.words r ({}, {})).1.poison).length
        let ds := if q.rep ∨ v.fmt = 3 then [] else rows.map fun r => rowDeficit (nth q.words r ({}, {})) v.cols
        let q := { q with defs := if q.rep then q.defs else q.defs ++ ds, col := q.col + 1 }
        if 256 * q.col < q.words.length then s.modArr (arrIx die arr) fun A => { A with stats := some q }
        else if !q.rep && q.defs.any (· != 0) then s.modArr (arrIx die arr) fun A => { A with stats := some { q with again := true } }
        else s.finishStats b die arr q

/-- The repeat of a statistics pass: both sums of a failing row with d₁ and d₂ = 2 d₁ (R70), logged as Table 02-11 gives. -/
def State.repeatStats (s : State) (die arr : Nat) : State :=
  match (vget s.arrays (arrIx die arr)).stats with
  | none => s
  | some q =>
    match (s.part q.pt).bed with
    | none => s
    | some b =>
      if !q.again then s
      else
        let v := s.view q.pt b q.tensor q.step
        let top := (q.defs.zipIdx).foldl (fun (m : Nat × Nat) x => if m.1 < x.1 then x else m) (0, 0)
        let m := (nth q.words top.2 ({}, {})).2.mtop
        let s := s.logRepeat die arr 2 (2 * top.1) m v.cols
        let s := s.logMacs die arr (v.rows * v.cols)
        s.modArr (arrIx die arr) fun A => { A with stats := some { q with words := s.statWords b q, again := false, rep := true, col := 0 } }

/-- Key of a place where an error was met, for confirmation (R353): array, row, column, word. -/
def peKey (die arr row col : Nat) (word : Bool) : Nat := row + 256 * col + 65536 * (b2n word) + 131072 * arrIx die arr

/-- Mismatches of one element found at drain (R79, Table 04-7): registers, one error record, which names the first comparison of MAIN, SIDE
and MULT that mismatched, tracking, and the failure of the step. -/
def State.residueHit (s : State) (b : List Byte) (die arr row col : Nat) (T : Tile) (cs : List Check) : State :=
  let s := forEach cs (fun c s => s.logResidue die arr row col T.word c) s
  let c := (([.main, .side, .mult] : List Check).find? fun c => cs.contains c).getD .main
  let k0 := (s.contraction T.pt b T.step T.task.layer T.task.prod).headD 0
  let key := peKey die arr row col T.word
  let conf := (s.stepSt T.pt T.step).any fun x => x.replay && x.errs.contains key
  let s := s.stepRec T.pt T.step { unitRec 2 0x01 die 1 arr with
    layer := (bedLayer b T.task.layer).id, mb := some T.task.mb, confirmed := conf
    detail0 := T.task.ti + at_ 16 T.task.tj + at_ 32 k0, detail1 := row + at_ 8 col + at_ 16 (b2n T.word) + at_ 17 (checkCode c) }
  let s := s.modStep T.pt T.step fun x => { x with errs := setInsert key x.errs }
  let (hit, s) := s.track 1 die arr 0 (if conf then 0 else 1) 0
  let s := if hit ∨ conf then s.candidate 1 die arr 0 conf false else s
  if hit ∨ conf then s.modArr (arrIx die arr) fun A => { A with moveAway := true } else s

/-- COLUMN_DRAIN (R61, R63, R73, R77, R79): the next physical column of the draining tile is tested and compared; a column that its
consumer refuses stalls the array (R75). -/
def execColumnDrain (die : Die) (arr : ArrayIx) (hits : List PeHit) (s : State) : Host.Outcome State Fault Refusal := s.clocked <|
  let ai := arrIx die arr
  let A := vget s.arrays ai
  .next (match A.tiles with
    | [] => s.drainStats die arr
    | T :: rest =>
      match (s.part T.pt).bed with
      | none => s.modArr ai fun A => { A with tiles := rest }
      | some b =>
        if T.discard then s.modArr ai fun A => { A with tiles := rest }
        else if T.fills ≠ 0 ∨ T.again ∨ 256 ≤ T.col then s
        else if s.drainRefused b T then s.modArr ai fun A => { A with stall := true, refused := true }
        else
          let rowsIn := (List.range 256).filterMap fun i =>
            (s.tileElem T.pt b T.step T.task i T.col).map fun rc => (i, rc.1, rc.2)
          let p := s.place T.pt b T.step T.task.layer T.task.prod
          let loc := s.scopeLocal b T.task && !T.cross
          let fails := if !loc ∨ T.rep then [] else rowsIn.filterMap fun x =>
            let w := nth T.words (256 * T.col + x.1) {}
            let n := s.scopeN T.pt b T.step T.task.layer T.task.prod T.task.mb x.2.1 x.2.2
            if w.poison ∨ n = 0 ∨ headroomOk w.mtop n then none else some (256 * T.col + x.1, deficit w.mtop n, w.mtop)
          -- an element that is poisoned or fails the test is not compared (R77, Table 02-7)
          let hs := hits.filter fun h =>
            rowsIn.any (fun x => x.1 == h.row.val) && !(fails.any fun f => f.1 == 256 * T.col + h.row.val) &&
              !(nth T.words (256 * T.col + h.row.val) {}).poison && checkMade p.grid p.anchored (T.rep || T.cross) h.check
          let uid := s.fault.uid
          let s := forEach ((hs.map (·.row.val)).eraseDups) (fun r s =>
            s.residueHit b die arr r T.col T ((hs.filter fun h => h.row.val == r).map (·.check)).eraseDups) s
          let words := hs.foldl (fun ws h => modNth ws (256 * T.col + h.row.val) fun w => { w with poison := true }) T.words
          -- an element counts once: in a repeat only what the repeat itself has poisoned
          let pois := (rowsIn.filter fun x =>
            (nth words (256 * T.col + x.1) {}).poison && (!(T.rep || T.cross) || hs.any fun h => h.row.val == x.1)).length
          let s := s.logPoison die arr pois
          let T' : Tile := { T with words := words, col := T.col + 1, deficits := T.deficits ++ fails }
          let s := if T'.col < 256 then s.modArr ai fun A => { A with tiles := T' :: rest }
            else if loc ∧ !T'.deficits.isEmpty ∧ !T.rep then
              s.modArr ai fun A => { A with tiles := { T' with again := true } :: rest }
            else (s.modArr ai fun A => { A with tiles := rest }).finishTile b T'
          if hs.isEmpty then s else s.failReplay T.pt T.step (some uid))

/-- TILE_REPEAT (R62, R63, R65): the tile is recomputed in the next accumulation slot with each failing element truncated by its own d. -/
def execTileRepeat (die : Die) (arr : ArrayIx) (s : State) : Host.Outcome State Fault Refusal := s.clocked <|
  let ai := arrIx die arr
  let A := vget s.arrays ai
  .next (match A.tiles with
    | [] => s.repeatStats die arr
    | T :: rest =>
      match (s.part T.pt).bed with
      | none => s
      | some b =>
        if !T.again then s
        else
          let t := T.task
          let ixOf := fun (q : Nat) => (s.tileElem T.pt b T.step t (q % 256) (q / 256)).map fun rc => s.outIx T.pt b T.step t rc.1 rc.2
          let defs := T.deficits.filterMap fun d => (ixOf d.1).map fun ix => (ix, d.2.1)
          let words := s.tileWords T.pt b T.step t (fun ix => ((defs.find? fun d => d.1 == ix).map (·.2)).getD 0)
            ((s.groupAnchors T.pt b T.step t).getD none)
          let top := T.deficits.foldl (fun (m : Nat × Nat × Nat) d => if m.2.1 < d.2.1 then d else m) (0, 0, 0)
          let n := match s.tileElem T.pt b T.step t (top.1 % 256) (top.1 / 256) with
            | some (r, c) => s.scopeN T.pt b T.step t.layer t.prod t.mb r c
            | none => 0
          let s := s.logRepeat die arr 0 top.2.1 top.2.2 n
          let s := s.logMacs die arr (s.tileMacs T.pt b T.step t)
          let s := s.chargeStep T.pt T.step 1 (bedLayer b t.layer).id
          s.modArr ai fun A =>
            { A with
              nextWord := !A.nextWord
              tiles := { T with again := false, rep := true, col := 0, words := words, word := A.nextWord } :: rest })

/-- BASIN_STALL_END (R75): the array resumes once the other Basin word is free, or its drain's consumer accepts data. -/
def execBasinStallEnd (die : Die) (arr : ArrayIx) (s : State) : Host.Outcome State Fault Refusal :=
  let A := vget s.arrays (arrIx die arr)
  let refuses := match A.tiles with
    | T :: _ => (match (s.part T.pt).bed with | some b => !T.discard && s.drainRefused b T | none => false)
    | [] => false
  .next (if A.stall ∧ (if A.refused then !refuses else decide (A.tiles.length ≤ 1)) then
      s.modArr (arrIx die arr) fun A => { A with stall := false, refused := false }
    else s)

end Sys2Proof.Machine
end

