-- ==== Sys2Proof/Machine/FabCore.lean ====
section
/-! DEFINITION. FabCore.lean: ports, addresses, routing, adverts and the sending side of QWT (R287 to R315). -/
namespace Sys2Proof.Machine

/-! ### Position and addresses (R296, R297) -/

/-- Position as PARTNER_p of Table 11-7: RACK [15:0], TRAY [23:16], SLOT [31:24]. -/
def posWord (rack tray slot : Nat) : Nat := rack % 65536 + at_ 16 (tray % 256) + at_ 24 (slot % 256)

/-- This module's position. -/
def State.myPos (s : State) : Nat :=
  let w := s.reg Reg.fabricPos
  posWord (field w 26 16) (field w 7 4) (field w 1 0)

/-- Whether FABRIC_POS.LOCK is set. -/
def State.posLocked (s : State) : Bool := bit (s.reg Reg.fabricPos) 31

/-- Interface identifier (Table 11-4). -/
def iid (pos endpoint : Nat) : Nat :=
  at_ 48 (field pos 15 0) + at_ 40 (field pos 23 16) + at_ 32 (field pos 31 24) + endpoint

/-- Address of an endpoint of this module. -/
def State.addr (s : State) (endpoint : Nat) : BitVec 128 :=
  BitVec.ofNat 128 (at_ 64 (s.reg64 Reg.fabricPrefixLo) + iid s.myPos endpoint)

/-- Address of an endpoint at another position. -/
def State.addrAt (s : State) (pos endpoint : Nat) : BitVec 128 :=
  BitVec.ofNat 128 (at_ 64 (s.reg64 Reg.fabricPrefixLo) + iid pos endpoint)

/-- Link-local address of every port. -/
def State.linkLocal (s : State) : BitVec 128 := BitVec.ofNat 128 (at_ 112 0xFE80 + iid s.myPos 0xF0)

/-- Parts of an address: prefix, position, endpoint. -/
def addrPrefix (a : BitVec 128) : Nat := a.toNat / 2 ^ 64
def addrPos (a : BitVec 128) : Nat := posWord (field a.toNat 63 48) (field a.toNat 47 40) (field a.toNat 39 32)
def addrEnd (a : BitVec 128) : Nat := field a.toNat 7 0
/-- Whether an address lies inside the fabric prefix. -/
def State.inPrefix (s : State) (a : BitVec 128) : Bool := addrPrefix a == s.reg64 Reg.fabricPrefixLo
/-- Whether an address names this module's position. -/
def State.isMine (s : State) (a : BitVec 128) : Bool := s.inPrefix a && addrPos a == s.myPos

/-! ### Ports (R287, R291, R294) -/

/-- A port. -/
def State.port (s : State) (p : Nat) : PortSt := vget s.comp.fab.ports p
/-- A port's half; an unsplit port uses half 0. -/
def State.half (s : State) (p h : Nat) : HalfSt := vget (s.port p).halves h
/-- Change a half. -/
def State.modHalf (s : State) (p h : Nat) (f : HalfSt → HalfSt) : State :=
  s.modPort p fun x => { x with halves := vmod x.halves h f }
/-- Halves a port has. -/
def State.halfIxs (s : State) (p : Nat) : List Nat := if s.split p then [0, 1] else [0]
/-- Whether a port is held disabled by the licence (R287). -/
def State.portHeld (s : State) (p : Nat) : Bool := !bit (s.reg Reg.globalLicstat) 1 && decide (8 ≤ p)
/-- Rate of a half in Gb/s. -/
def HalfSt.rate (h : HalfSt) : Nat := if h.st = 2 then 200 * h.width else 0
/-- Trained rate of a port in Gb/s. -/
def State.portRate (s : State) (p : Nat) : Nat := (s.halfIxs p).foldl (fun n h => n + (s.half p h).rate) 0
/-- Whether a port is up. -/
def State.portUp (s : State) (p : Nat) : Bool := decide (0 < s.portRate p)
/-- Ports up. -/
def State.portsUp (s : State) : List Nat := (List.range 24).filter s.portUp
/-- Sum of the trained rates (FABRIC_INJECT). -/
def State.inject (s : State) : Nat := sumN ((List.range 24).map s.portRate)

/-- Ports of a partition. -/
def State.ownPorts (s : State) (pt : Nat) : List Nat :=
  match s.ptRes pt with
  | some r => (List.range 24).filter fun p => bit r.ports (2 * p) || bit r.ports (2 * p + 1)
  | none => []

/-- Current quantum (R235). -/
def State.quantum (s : State) : Nat := s.time / 225
/-- Resource number of the egress of a port's half (Table 09-4b). -/
def resPort (p h : Nat) : Nat := 464 + 2 * p + h
/-- WEIR_TRANSIT.PERCENT. -/
def State.transitPct (s : State) : Nat := min 100 (field (s.reg Reg.weirTransit) 6 0)
/-- Egress of a half that the Weir may reserve in a quantum, in bytes (R294). -/
def State.portCap (s : State) (p h : Nat) : Nat := (s.half p h).rate * 125 * (100 - s.transitPct) / 100

/-- Charge a cause to the admitted stages whose reservations of a port's egress satisfy a test (R294, R301, R302). -/
def State.chargePort (s : State) (p cause : Nat) (hit : Resv → Bool) : State :=
  s.modWeir fun w =>
    { w with adms := w.adms.map fun a =>
        if a.cause.isNone && w.resv.any (fun r => r.pt == a.pt && r.admno == a.admno &&
            (r.res == resPort p 0 || r.res == resPort p 1) && hit r) then { a with cause := some (cause, p) } else a }

/-- The stages that hold egress of a port in the current quantum meet contention (R301, R302). -/
def State.contend (s : State) (p : Nat) : State :=
  s.chargePort p 0x0A fun r => decide (r.from_ ≤ s.quantum ∧ s.quantum < r.to_)

/-- Whether a reservation and those of its resource made before it stay within a capacity in every quantum it still has. -/
def Resv.fits (l : List Resv) (cap now : Nat) (r : Resv) : Bool :=
  let before := (l.takeWhile (· != r)).filter (·.res == r.res)
  let first := max now r.from_
  ((first :: before.map (·.from_)).filter fun q => decide (first ≤ q ∧ q < r.to_)).all fun q =>
    decide (r.amount + sumN ((before.filter fun x => decide (x.from_ ≤ q ∧ q < x.to_)).map (·.amount)) ≤ cap)

/-- The stages that no longer fit a half's egress are charged LINK_DEGRADED (R294). -/
def State.degrade (s : State) (p h : Nat) : State :=
  let l := s.comp.weir.resv
  s.chargePort p 9 fun r => r.res == resPort p h && !r.fits l (s.portCap p h) s.quantum

/-! ### Headers on the wire (R11, R286 to R288, R305, R306) -/

/-- MAC address of a port or half (R288). -/
def State.mac (s : State) (p h : Nat) : List Byte := beBytes 2 0x0252 ++ beBytes 3 s.nv.factory.serial ++ beBytes 1 (2 * p + h)

/-- Destination MAC address of an IPv6 packet: the multicast form (RFC 2464, PRESUMED: entry 82), else the next hop's. -/
def nextMac (p : Nat) (dst : BitVec 128) : List Byte :=
  beBytes 6 (if field dst.toNat 127 120 = 0xFF then at_ 32 0x3333 + dst.toNat % 2 ^ 32 else Config.nextHopMac p dst)

/-- Ethernet header: every frame is sent untagged (Table 11-1). -/
def etherHeader (dst src : List Byte) (etherType : Nat) : List Byte := dst ++ src ++ beBytes 2 etherType

/-- IPv6 header in network order. -/
def ipv6Header (tc label len next hop : Nat) (src dst : BitVec 128) : List Byte :=
  beBytes 4 (at_ 28 6 + at_ 20 tc + label) ++ beBytes 2 len ++ beBytes 1 next ++ beBytes 1 hop ++ beBytes 16 src.toNat ++ beBytes 16 dst.toNat

/-- Sum of the 16-bit words of a string in network order, padded with a zero byte. -/
def sum16 : List Byte → Nat
  | [] => 0
  | [a] => 256 * a.toNat
  | a :: b :: t => 256 * a.toNat + b.toNat + sum16 t

/-- Checksum of an upper-layer packet with its pseudo-header (RFC 8200, RFC 1071; PRESUMED: entry 82). -/
def upperChecksum (src dst : BitVec 128) (next : Nat) (l : List Byte) : Nat :=
  let n := sum16 (beBytes 16 src.toNat ++ beBytes 16 dst.toNat ++ beBytes 4 l.length ++ beBytes 4 next ++ l)
  let n := n % 65536 + n / 65536
  let n := n % 65536 + n / 65536
  if n = 65535 ∧ next = 17 then 65535 else 65535 - n

/-- The QWT header, eight words in network order (Table 11-5). -/
def qwtHeader (k : Packet) : List Byte :=
  [at_ 28 k.ver + at_ 24 k.typ + at_ 23 (b2n k.prov) + at_ 22 (b2n k.ece) + at_ 21 (b2n k.first) + at_ 20 (b2n k.last) +
    at_ 19 (b2n k.isOpen) + at_ 18 (b2n k.retx) + k.payload.length, k.tag.toNat, k.flowId.toNat, k.psn.toNat, k.word4.toNat,
    k.word5.toNat, k.word6.toNat, at_ 24 k.cls + at_ 16 k.nackCode].flatMap (beBytes 4)

/-- The IPv6 packet that carries a QWT packet over UDP (R305). -/
def qwtWire (k : Packet) : List Byte :=
  let l := qwtHeader k ++ k.payload
  let udp := fun (sum : Nat) =>
    beBytes 2 (49152 + k.flowLabel.toNat % 16384) ++ beBytes 2 47212 ++ beBytes 2 (8 + l.length) ++ beBytes 2 sum ++ l
  ipv6Header (4 * k.dscp + (if k.ce then 3 else 2)) k.flowLabel.toNat (8 + l.length) 17 k.hopLimit k.srcAddr k.dstAddr ++
    udp (upperChecksum k.srcAddr k.dstAddr 17 (udp 0))

/-- An IPv6 packet as it stands in a frame. -/
def ipWire (k : IpPacket) : List Byte :=
  ipv6Header k.trafficClass k.flowLabel.toNat k.payload.length k.nextHeader k.hopLimit k.srcAddr k.dstAddr ++ k.payload

/-- ECN field of an IPv6 packet. -/
def ipEcn (k : IpPacket) : Nat := k.trafficClass % 4
/-- Bytes of the frame that brought a packet, destination address to FCS. -/
def ipFrameBytes (k : IpPacket) : Nat := 58 + 4 * k.vlans + k.payload.length
/-- Whether a packet is QWT: UDP to port 47,212 (R305). -/
def ipIsQwt (k : IpPacket) : Bool := k.nextHeader == 17 && beNat (slice k.payload 2 2) == 47212
/-- TENANT_TAG of a QWT packet (Table 11-5). -/
def ipTag (k : IpPacket) : Nat := beNat (slice k.payload 12 4)
/-- Whether a packet has an extension header (IANA's numbers; PRESUMED: entry 82). -/
def ipExtension (k : IpPacket) : Bool := [0, 43, 44, 50, 51, 60, 135, 139, 140].contains k.nextHeader
/-- Whether a packet is multicast. -/
def ipMulticast (k : IpPacket) : Bool := field k.dstAddr.toNat 127 120 == 0xFF

/-- An ICMPv6 message (RFC 4443); a neighbour advertisement goes out with hop limit 255 (RFC 4861; PRESUMED: entry 82). -/
def icmpWire (dscp type code : Nat) (src dst : BitVec 128) (body : List Byte) : List Byte :=
  let m := fun (sum : Nat) => beBytes 1 type ++ beBytes 1 code ++ beBytes 2 sum ++ body
  ipv6Header (4 * dscp) 0 (4 + body.length) 58 (if type = 136 then 255 else 64) src dst ++ m (upperChecksum src dst 58 (m 0))

/-! ### Frames (R301, R302, R305) -/

/-- Bytes of a frame, destination address to FCS. -/
def PortMsg.bytes : PortMsg → Nat
  | .qwt _ p => 98 + p.payload.length
  | .transit _ p => 58 + p.payload.length
  | .icmp _ _ _ _ _ b => 62 + b.length
  | .lldp _ _ b => 18 + b.length

/-- Egress class (R301): 0 MGMT; 1 RESERVED, the QWT that the module originates; 2 TRANSIT. -/
def PortMsg.cls : PortMsg → Nat
  | .qwt _ k => if k.typ = 3 then 0 else 1
  | .transit _ _ => 2
  | _ => 0

/-- Half by which a frame leaves a split port: its own; else one that is up, of the sending partition before another (DESIGN CHOICE, entry
79). -/
def State.outHalf (s : State) (p : Nat) (m : PortMsg) : Nat :=
  let up := (s.halfIxs p).filter fun h => (s.half p h).st == 2
  match m with
  | .lldp _ h _ => h
  | .qwt _ k => ((up.filter fun h => s.portOwner p h == some (addrEnd k.srcAddr)) ++ up).headD 0
  | _ => up.headD 0

/-- A frame as it leaves a port (R11, R286, R288). LLDP goes to the nearest bridge (IEEE 802.1AB; PRESUMED: entry 82). -/
def State.frame (s : State) (p : Nat) (m : PortMsg) : TxFrame :=
  let src := s.mac p (s.outHalf p m)
  let ip := fun (dst : BitVec 128) (l : List Byte) => etherHeader (nextMac p dst) src 0x86DD ++ l
  ⟨m, match m with
    | .qwt _ k => ip k.dstAddr (qwtWire k)
    | .transit _ k => ip k.dstAddr (ipWire k)
    | .icmp _ t c a d b => ip d (icmpWire (field (s.reg Reg.fabricDscp) 5 0) t c a d b)
    | .lldp _ _ b => etherHeader (beBytes 6 0x0180C200000E) src 0x88CC ++ b⟩

/-- Mark a frame CE. -/
def PortMsg.mark : PortMsg → PortMsg
  | .qwt p k => .qwt p { k with ce := true }
  | .transit p k => .transit p { k with trafficClass := 4 * (k.trafficClass / 4) + 3 }
  | m => m

/-- Whether a frame is capable of ECN: QWT is sent ECT(0), transit by its field. -/
def PortMsg.ect : PortMsg → Bool
  | .qwt _ _ => true
  | .transit _ k => ipEcn k == 1 || ipEcn k == 2
  | _ => false

/-- Bytes that a port moves in a quantum at its trained rate. -/
def State.portQuantum (s : State) (p : Nat) : Nat := 125 * s.portRate p

/-- Bytes that a port has started in its quantum. -/
def PortSt.started (x : PortSt) : Nat := x.ahead + x.used.1 + x.used.2.1 + x.used.2.2

/-- The frame that egress takes next (R301): MGMT first while it is within 1 % of the rate; RESERVED and TRANSIT by weight, an idle share to
the other. -/
def PortSt.nextFrame (x : PortSt) (cap pct : Nat) : Option PortMsg :=
  let first := fun (c : Nat) => x.queue.find? fun m => m.cls == c
  match if 100 * x.used.1 < cap then first 0 else none with
  | some m => some m
  | none => match first 1, first 2 with
    | some r, some t => some (if x.used.2.1 * pct ≤ x.used.2.2 * (100 - pct) then r else t)
    | some r, none => some r
    | none, t => t

/-- A frame that starts: it leaves the queue and is counted in its class. -/
def PortSt.start (x : PortSt) (m : PortMsg) : PortSt :=
  let q := x.queue.erase m
  let (a, r, t) := x.used
  let n := m.bytes
  { x with
    queue := q, backlog := x.backlog && q.any fun y => y.cls == 1
    used := (if m.cls = 0 then a + n else a, if m.cls = 1 then r + n else r, if m.cls = 2 then t + n else t) }

/-- A new quantum at a port (R301): RESERVED that waited throughout the last one and got less than its share has met contention. -/
def State.rollPort (s : State) (p : Nat) : State :=
  let x := s.port p
  if x.quantum = s.quantum then s
  else
    let cap := s.portQuantum p
    let s := if x.backlog ∧ 100 * x.used.2.1 < (cap - x.used.1) * (100 - s.transitPct) then s.contend p else s
    s.modPort p fun x =>
      { x with quantum := s.quantum, ahead := x.started - cap * (s.quantum - x.quantum), used := (0, 0, 0)
               backlog := x.queue.any fun y => y.cls == 1 }

/-- Egress starts the frames that the port's rate has room for by now; a frame that has started is completed (R301). -/
def State.serve : Nat → State → Nat → State
  | 0, s, _ => s
  | n + 1, s, p =>
    let x := s.port p
    if x.pausedTo.isSome ∨ s.portQuantum p * (s.time % 225 + 1) / 225 ≤ x.started then s
    else match x.nextFrame (s.portQuantum p) s.transitPct with
      | none => s
      | some m => State.serve n { s.modPort p (·.start m) with portTx := s.portTx ++ [s.frame p m] } p

/-- A port serves the frames that wait. -/
def State.servePort (s : State) (p : Nat) : State := (s.rollPort p).serve (s.port p).queue.length p

/-- Send a frame from a port: it joins the queue, within the buffer limits and with the ECN marking of R302, and goes when egress takes it. A
pause that holds the module's own QWT is contention. -/
def State.emit (s : State) (p : Nat) (m : PortMsg) : State :=
  let q := sumN ((s.port p).queue.map PortMsg.bytes)
  let all := sumN ((List.range 24).map fun i => sumN ((s.port i).queue.map PortMsg.bytes))
  if 2 ^ 23 < q + m.bytes ∨ 2 ^ 26 < all + m.bytes then s.bump (Reg.fabricPortDrop p) 1
  else
    let mk := m.ect && decide (s.reg Reg.fabricEcnth < q)
    let s := if mk then s.bump (Reg.fabricPortEcnmark p) 1 else s
    let s := s.rollPort p
    let s := s.modPort p fun x => { x with queue := x.queue ++ [if mk then m.mark else m] }
    let s := if (s.port p).pausedTo.isSome ∧ m.cls = 1 then s.contend p else s
    s.servePort p

/-! ### Routing (R299, R300) -/

/-- Port set of a routing entry; VALID clear makes it empty. -/
def routeMask (w : Nat) : Nat := if bit w 30 then field w 23 0 else 0

/-- Port set a destination takes. -/
def State.routeSet (s : State) (a : BitVec 128) : Nat :=
  let pos := addrPos a
  let (r, t, l) := (field pos 15 0, field pos 23 16, field pos 31 24)
  if !s.inPrefix a then routeMask (s.reg Reg.fabricRtDefault)
  else if r = field s.myPos 15 0 then (if t < 16 ∧ l < 4 then routeMask (s.reg (Reg.fabricRtLocal (4 * t + l))) else 0)
  else if r < 2048 then routeMask (s.reg (Reg.fabricRtRack r)) else 0

/-- The port chosen among those of a set that are up. -/
def State.pickPort (s : State) (ports : List Nat) (src dst : BitVec 128) (label : BitVec 20) : Option Nat :=
  let up := ports.filter s.portUp
  if up.isEmpty then none else some (nth up (Config.portPick dst src label % up.length) 0)

/-- Port for a packet a partition originates (R300): the route's set among its ports, else any of its ports that is up. -/
def State.ownRoute (s : State) (pt : Nat) (src dst : BitVec 128) (label : BitVec 20) : Option Nat :=
  let own := s.ownPorts pt
  let r := s.routeSet dst
  let c := (own.filter fun p => bit r p).filter s.portUp
  s.pickPort (if c.isEmpty then own else c) src dst label

/-! ### QWT packets (R304 to R306) -/

/-- Flow label of a flow. -/
def flowLabelOf (fid : Nat) : BitVec 20 := BitVec.ofNat 20 ((fid ^^^ (fid / 4096)) % 2 ^ 20)

/-- A packet from a partition's endpoint, to be filled. -/
def State.qwt (s : State) (pt : Nat) (dst : BitVec 128) (fid typ : Nat) : Packet :=
  { srcAddr := s.addr pt, dstAddr := dst, hopLimit := 64, flowLabel := flowLabelOf fid, dscp := field (s.reg Reg.fabricDscp) 5 0
    ce := false, checksumOk := true
    ver := 1, typ := typ, prov := false, ece := false, first := false, last := false, isOpen := false, retx := false
    tag := wd (((s.ptRes pt).map (·.tag)).getD 0), flowId := wd fid, psn := 0, word4 := 0, word5 := 0, word6 := 0
    cls := 0, nackCode := 0, payload := [] }

/-- Whether a partition takes part in QWT: PT0 of the default assignment has tag 0 and does not (R41). -/
def State.hasTag (s : State) (pt : Nat) : Bool := ((s.ptRes pt).map fun r => r.tag != 0).getD false

/-- Send a packet a partition originates, while the position is locked and the router serves (R296, R316). The source filter passes
only the partition's own address and tag (R304). -/
def State.originate (s : State) (pt : Nat) (k : Packet) : State :=
  if !s.posLocked ∨ s.boot.routerRest ∨ !s.hasTag pt then s
  else if k.srcAddr ≠ s.addr pt ∨ (s.ptRes pt).map (fun r => wd r.tag) ≠ some k.tag then s.bump Reg.fabricSrcfilt 1
  else match s.ownRoute pt k.srcAddr k.dstAddr k.flowLabel with
    | some p => s.emit p (.qwt p k)
    | none => s.bump Reg.fabricNoroute 1

/-- A sending flow by number. -/
def State.txFlow (s : State) (fid : Nat) : Option TxFlow := s.comp.fab.tx.find? fun f => f.fid == fid

/-- Change a sending flow. -/
def State.modTx (s : State) (fid : Nat) (f : TxFlow → TxFlow) : State :=
  s.modFab fun x => { x with tx := x.tx.map fun t => if t.fid == fid then f t else t }

/-- Open a sending flow (R307, R308); none when the module holds 4,096. -/
def State.openFlow (s : State) (pt : Nat) (dst : BitVec 128) (user key : Nat) : Option Nat × State :=
  if 4096 ≤ s.comp.fab.tx.length then (none, s)
  else
    let fid := s.comp.fab.nextFlow
    let p := (s.ownRoute pt (s.addr pt) dst (flowLabelOf fid)).getD 0
    let f : TxFlow := { fid := fid, pt := pt, dst := dst, user := user, key := key, port := p, since := s.time,
                        rate := 1000 * s.portRate p, raisedAt := s.time }
    (some fid, s.modFab fun x => { x with tx := x.tx ++ [f], nextFlow := (fid + 1) % 2 ^ 32 })

/-- Release sending flows. -/
def State.closeFlows (s : State) (p : TxFlow → Bool) : State :=
  s.modFab fun x => { x with tx := x.tx.filter fun f => !p f }

/-- Cut a message into payloads of at most 9,118 bytes with their offsets. -/
def segments : Nat → List Byte → Nat → List (Nat × List Byte)
  | 0, _, _ => []
  | k + 1, l, o =>
    if l.length ≤ 9118 then [(o, l)] else (o, l.take 9118) :: segments k (l.drop 9118) (o + 9118)

/-- Send one message on a flow (R307, R312): its packets are numbered and kept until acknowledged. -/
def State.sendMsg (s : State) (fid cls : Nat) (prov : Option Nat) (bytes : List Byte) : State :=
  match s.txFlow fid with
  | none => s
  | some f =>
    let segs := segments (bytes.length / 9118 + 1) bytes 0
    let n := segs.length
    let ks := segs.zipIdx.map fun x =>
      { s.qwt f.pt f.dst fid 0 with
        prov := prov.isSome, first := x.2 == 0, last := x.2 + 1 == n, isOpen := f.next + x.2 == 0
        psn := wd (f.next + x.2), word4 := wd f.msg, word5 := wd x.1.1, word6 := wd bytes.length, cls := cls, payload := x.1.2 }
    let s := s.modTx fid fun f =>
      { f with
        next := (f.next + n) % 2 ^ 32, msg := (f.msg + 1) % 2 ^ 32, unacked := f.unacked ++ ks
        since := if f.unacked.isEmpty then s.time else f.since
        prov := match prov with | some st => f.prov ++ [(f.msg, st)] | none => f.prov }
    forEach ks (fun k s => s.originate f.pt k) s

/-! ### Adverts (R314, R315) -/

/-- Advert payload of this module. -/
def State.advertBody (s : State) (seq : Nat) : List Byte :=
  let ents := s.comp.casc.groups.toList.filter fun g => g.st == 1 || g.st == 2
  let num := s.reg Reg.globalNumrev
  let partners := (List.range 24).flatMap fun p => leBytes 4 (if s.portUp p then s.reg (Reg.fabricPortPartnerpos p) else none32)
  packLE [(8, s.nv.factory.serial), (4, s.myPos), (4, seq), (4, field num 15 0 + at_ 16 (b2n s.comp.fab.withdrawn)),
    (4, s.inject / 10 + at_ 16 ents.length), (8, 0)] ++ partners ++
  ents.flatMap fun g =>
    let r := match (s.part g.pt).bed with | some b => bedGroup b g.record | none => default
    packLE [(4, ((s.ptRes g.pt).map (·.tag)).getD 0), (8, r.key), (4, g.pt + at_ 4 r.levels)]

/-- The discovery group ff05::b86c. -/
def advertGroup : BitVec 128 := BitVec.ofNat 128 (at_ 112 0xFF05 + 0xB86C)

/-- Whether the module sends and floods adverts: the position is locked, the router serves, and pair F0/F1, which runs discovery, is not
out (R33, R296, R316, Table 18-1). -/
def State.discovers (s : State) : Bool := s.posLocked && !s.boot.routerRest && (vget s.pairs 0).st == 2

/-- Send a new advert on every trained port (R315). -/
def State.sendAdvert (s : State) : State :=
  if !s.discovers then s
  else
    let seq := (s.comp.fab.advSeq + 1) % 2 ^ 32
    let k : Packet := { s.qwt 0 advertGroup 0 3 with srcAddr := s.addr 0xF0, hopLimit := 255, tag := 0, payload := s.advertBody seq }
    let s := s.modFab fun f => { f with advSeq := seq, advertAt := s.time }
    forEach s.portsUp (fun p s => s.emit p (.qwt p k)) s

/-- Fields of a stored advert. -/
def Advert.pos (a : Advert) : Nat := u32 a.body 8
def Advert.withdrawn (a : Advert) : Bool := bit (u32 a.body 0x10) 16
def Advert.partners (a : Advert) : List Nat :=
  ((List.range 24).map fun p => u32 a.body (0x20 + 4 * p)).filter fun x => x != none32
/-- Group entries as (tag, key, pt, levels). -/
def Advert.entries (a : Advert) : List (Nat × Nat × Nat × Nat) :=
  (List.range (min 256 (field (u32 a.body 0x14) 31 16))).map fun e =>
    let o := 0x80 + 16 * e
    (u32 a.body o, u64 a.body (o + 4), field (u32 a.body (o + 12)) 3 0, field (u32 a.body (o + 12)) 7 4)

/-- Distances in hops from a position over the advertised links, by rounds. -/
def bfs (links : List (Nat × List Nat)) : Nat → List Nat → Nat → List (Nat × Nat) → List (Nat × Nat)
  | 0, _, _, acc => acc
  | k + 1, front, d, acc =>
    let nx := (front.flatMap fun p => ((links.find? fun x => x.1 == p).map (·.2)).getD []).eraseDups.filter fun q =>
      !acc.any fun a => a.1 == q
    if nx.isEmpty then acc else bfs links k nx (d + 1) (acc ++ nx.map fun q => (q, d + 1))

/-- Port set on shortest paths toward any of some positions, from the partners of the ports that are up (R300); modules that have
withdrawn are passed by where another path exists (R316). -/
def State.pathPorts (s : State) (dests : List Nat) : Nat :=
  let adv := s.comp.fab.adverts
  let links := adv.map fun a => (a.pos, a.partners)
  let ports := s.portsUp.filterMap fun p =>
    let q := s.reg (Reg.fabricPortPartnerpos p)
    if q = none32 then none else some (p, q)
  let away := (adv.filter (·.withdrawn)).map Advert.pos
  let mask := fun (ps : List (Nat × Nat)) (links : List (Nat × List Nat)) =>
    dests.foldl (fun m dst =>
      let ds := ps.filterMap fun pq =>
        ((bfs links (links.length + 1) [pq.2] 0 [(pq.2, 0)]).find? fun x => x.1 == dst).map fun x => (pq.1, x.2)
      match ds with
      | [] => m
      | h :: t =>
        let best := t.foldl (fun n x => min n x.2) h.2
        ds.foldl (fun m x => if x.2 = best then m ||| 2 ^ x.1 else m) m) 0
  let keep := mask (ports.filter fun x => !away.contains x.2 || dests.contains x.2)
    (links.filter fun x => !away.contains x.1 || dests.contains x.1)
  if keep ≠ 0 then keep else mask ports links

/-- Pair F0/F1 writes the routing entries that are not pinned, from the adverts it holds (R300). -/
def State.routes (s : State) : State :=
  let adv := s.comp.fab.adverts
  let mine := field s.myPos 15 0
  let set_ := fun (off mask : Nat) (s : State) =>
    if bit (s.reg off) 31 then s else s.put off (if mask = 0 then 0 else mask + at_ 30 1)
  let racks := ((adv.map fun a => field a.pos 15 0).filter fun r => decide (r < 2048 ∧ r ≠ mine)).eraseDups
  let old := (List.range 2048).filter fun r => s.reg (Reg.fabricRtRack r) != 0
  let s := forEach (old ++ racks.filter fun r => !old.contains r) (fun r s =>
    set_ (Reg.fabricRtRack r) (s.pathPorts ((adv.map Advert.pos).filter fun p => field p 15 0 == r)) s) s
  forEach (List.range 64) (fun i s =>
    set_ (Reg.fabricRtLocal i) (s.pathPorts ((adv.map Advert.pos).filter fun p =>
      field p 15 0 == mine && 4 * field p 23 16 + field p 31 24 == i && p != s.myPos)) s) s

end Sys2Proof.Machine
end

