-- ==== Sys2Proof/Machine/CascCore.lean ====
section
/-! DEFINITION. CascCore.lean: groups, chunks and their codes, the routes of a reduction, sending and retracting chunks, abandoning
a step, scalar rounds (R254 to R282). -/
namespace Sys2Proof.Machine

/-! ### Groups -/

/-- A group slot. -/
def State.group (s : State) (slot : Nat) : Group := vget s.comp.casc.groups slot

/-- GROUP record of a slot. -/
def State.groupRec (s : State) (slot : Nat) : GroupRec :=
  let g := s.group slot
  match (s.part g.pt).bed with | some b => bedGroup b g.record | none => default

/-- Slot of a group of a partition by GROUP_ID. -/
def State.slotOfGid (s : State) (pt gid : Nat) : Option Nat :=
  (List.range 256).find? fun i => let g := s.group i; g.st != 0 && g.pt == pt && g.gid == gid

/-- Change a group's STATE: the change fires the module's and the partition's source (Table 18-3). -/
def State.setGroupSt (s : State) (slot st : Nat) : State :=
  let g := s.group slot
  if g.st = st then s
  else ((s.modGroup slot fun g => { g with st := st, since := s.time }).fire 0x3A).fire (0x80 + 8 * g.pt + 4)

/-- Formed groups of a partition with more than one member, by slot. -/
def State.spanGroups (s : State) (pt : Nat) : List Nat :=
  (List.range 256).filter fun i => let g := s.group i; g.st == 2 && g.pt == pt && decide (1 < g.members.length)

/-! ### Virtual ranks (R269) -/

/-- Largest power of two not above P, as its exponent. -/
def pow2Below (P : Nat) : Nat := Nat.log2 P
/-- Folded members s = P − P′. -/
def folded (P : Nat) : Nat := P - 2 ^ pow2Below P
/-- Virtual rank that a member or an owner maps to. -/
def vOf (P r : Nat) : Nat := if r < 2 * folded P then r / 2 else r - folded P
/-- Whether a member is folded into the one before it. -/
def isFolded (P r : Nat) : Bool := decide (r < 2 * folded P) && r % 2 == 1
/-- Member of a virtual rank. -/
def rankOfV (P v : Nat) : Nat := if v < folded P then 2 * v else v + folded P
/-- Lowest bit in which two virtual ranks differ. -/
def lowDiff (P a b : Nat) : Option Nat := (List.range (pow2Below P)).find? fun k => bit a k != bit b k

/-! ### Levels (R270) -/

/-- Level between two positions: 0 tray, 1 rack, 2 between racks. -/
def posLevel (a b : Nat) : Nat := if a % 2 ^ 24 = b % 2 ^ 24 then 0 else if a % 2 ^ 16 = b % 2 ^ 16 then 1 else 2

/-- Pairs of partners of a step among P members: the fold and the unfold, or halving or doubling step k. -/
def stepPairs (P stage : Nat) : List (Nat × Nat) :=
  if stage = 0x40 ∨ stage = 0x41 then (List.range (folded P)).map fun i => (2 * i, 2 * i + 1)
  else ((List.range (2 ^ pow2Below P)).filter fun v => !bit v stage).map fun v => (rankOfV P v, rankOfV P (v ^^^ 2 ^ stage))

/-- Level of a step: the highest at which any pair of its partners differs. -/
def stepLevel (members : List Nat) (stage : Nat) : Nat :=
  ((stepPairs members.length stage).map fun p => posLevel (nth members p.1 0) (nth members p.2 0)).foldl max 0

/-- Steps of a reduction, and of a gather, in order. -/
def reduceStages (P : Nat) : List Nat :=
  (if folded P = 0 then [] else [0x40]) ++ List.range (pow2Below P) ++ (if folded P = 0 then [] else [0x41])
def gatherStages (P : Nat) : List Nat :=
  (if folded P = 0 then [] else [0x40]) ++ (List.range (pow2Below P)).reverse ++ (if folded P = 0 then [] else [0x41])

/-- Steps with the number of the maximal run of one level that each belongs to, from 1 (R274). -/
def stageRuns (members : List Nat) : List Nat → Nat → Option Nat → List (Nat × Nat)
  | [], _, _ => []
  | k :: l, n, prev =>
    let v := stepLevel members k
    let n := if prev = some v then n else n + 1
    (k, n) :: stageRuns members l n (some v)

/-- Run of a step. -/
def runOf (members stages : List Nat) (k : Nat) : Nat :=
  (((stageRuns members stages 0 none).find? fun x => x.1 == k).map (·.2)).getD 0

/-- Destinations of a gathered chunk of an owner at a member that holds it, as (STAGE, rank): a folded member gets the whole tensor (R269). -/
def gatherOut (P me owner : Nat) : List (Nat × Nat) :=
  let v := vOf P me
  let down := fun (n : Nat) => (List.range n).reverse.map fun k => (k, rankOfV P (v ^^^ 2 ^ k))
  let unfold := if me < 2 * folded P ∧ me % 2 = 0 then [(0x41, me + 1)] else []
  if isFolded P me then (if me = owner then [(0x40, me - 1)] else [])
  else match lowDiff P v (vOf P owner) with
    | some k => down k ++ unfold
    | none => down (pow2Below P) ++ unfold

/-- STAGE and rank by which a gathered chunk of an owner reaches a member; none at the owner (R269). -/
def gatherIn (P me owner : Nat) : Option (Nat × Nat) :=
  let v := vOf P me
  if me = owner then none
  else if isFolded P me then some (0x41, me - 1)
  else match lowDiff P v (vOf P owner) with
    | some k => some (k, rankOfV P (v ^^^ 2 ^ k))
    | none => some (0x40, owner)

/-- Aggregator of a member: the lowest rank with its rack and tray (R276). -/
def aggOf (members : List Nat) (r : Nat) : Nat :=
  (members.findIdx? fun p => p % 2 ^ 24 == nth members r 0 % 2 ^ 24).getD r

/-- What a member does with one chunk of a reduction: inputs that must have come, as (STAGE, rank), then where the result goes:
another member, or none when it is final here (R269, R276). The first item adds this member's own data; a second one takes its
single input as it is. -/
def reducePlan (members : List Nat) (inr : Bool) (me owner : Nat) : List (List (Nat × Nat) × Option (Nat × Nat)) :=
  let agg := fun r => if inr then aggOf members r else r
  let ns := (List.range members.length).filter fun r => agg r == r
  let ix := fun r => (ns.findIdx? (· == r)).getD 0
  if agg me ≠ me then
    ([], some (0x42, agg me)) :: (if owner = me then [([(0x43, agg me)], none)] else [])
  else
    let P := ns.length
    let i := ix me
    let oi := ix (agg owner)
    let set_ := ((List.range members.length).filter fun r => r != me && agg r == me).map fun r => (0x42, r)
    let out := if owner = me then none else some (0x43, owner)
    if isFolded P i then
      (set_, some (0x40, nth ns (i - 1) 0)) :: (if oi = i then [([(0x41, nth ns (i - 1) 0)], out)] else [])
    else
      let fold := if i < 2 * folded P then [(0x40, nth ns (i + 1) 0)] else []
      let v := vOf P i
      let ins := fun n => (List.range n).map fun k => (k, nth ns (rankOfV P (v ^^^ 2 ^ k)) 0)
      match lowDiff P v (vOf P oi) with
      | some k => [(set_ ++ fold ++ ins k, some (k, nth ns (rankOfV P (v ^^^ 2 ^ k)) 0))]
      | none => [(set_ ++ fold ++ ins (pow2Below P), if oi = i then out else some (0x41, nth ns oi 0))]

/-! ### Residues and Runnel blocks (R264 to R266) -/

/-- p = 2^61 − 1. -/
def p61 : Int := 2305843009213693951

/-- RESIDUE of a SUM or SUM_REPEAT chunk. -/
def sumResidue (vs : List Int) : Nat := ((sumZ (vs.zipIdx.map fun x => x.1 * ((x.2 : Int) + 1))) % p61).toNat

/-- RESIDUE of every other kind. -/
def wordResidue (l : List Byte) : Nat :=
  ((sumZ ((List.range (cdiv l.length 8)).map fun j => (u64 l (8 * j) : Int) * ((j : Int) + 1))) % p61).toNat

/-- Integer widths (Table 10-6). -/
def runnelWidths : List Nat := [8, 12, 16, 20, 24, 32, 48, 64]

/-- Whether a signed integer fits w bits. -/
def fitsBits (w : Nat) (v : Int) : Bool := decide (-(2 ^ (w - 1) : Nat) ≤ v ∧ v < (2 ^ (w - 1) : Nat))

/-- Trailing zeros of a nonzero integer, at most 127. -/
def trailing (v : Int) : Nat := ((List.range 128).find? fun k => v.natAbs.testBit k).getD 127

/-- Pack 16 integers of w bits (R12). -/
def packBits (w : Nat) (us : List Int) : List Byte :=
  leBytes (2 * w) (us.zipIdx.foldl (fun n u => n + toBits w u.1 * 2 ^ (w * u.2)) 0)

/-- Encode one block of 16 elements (R264, R265); careful service takes ESC form (R274). -/
def runnelBlock (careful repeat_ : Bool) (els : List RedElem) : List Byte :=
  let els := els ++ List.replicate (16 - els.length) (⟨0, 0, 0, false⟩ : RedElem)
  let vs : List Int := els.map fun e => if e.poison then 0 else e.v
  let pm := els.any (·.poison)
  let cr := repeat_ || els.any fun e => e.crest != 0
  let zero := !careful && vs.all (· == 0)
  let sh := if careful then 0 else ((vs.filter (· != 0)).map trailing).foldl min 127
  let us := vs.map fun (v : Int) => v / ((2 ^ sh : Nat) : Int)
  let wc := if careful then none else (List.range 8).find? fun c => us.all (fitsBits (nth runnelWidths c 8))
  let esc := !zero && wc.isNone
  let h := (if zero ∨ esc then 0 else wc.getD 0) + at_ 3 (b2n esc) + at_ 4 (b2n zero) + at_ 5 (b2n cr) + at_ 6 (b2n pm) +
    at_ 8 (if zero ∨ esc then 0 else sh)
  leBytes 2 h ++
    (if pm then leBytes 2 ((els.zipIdx.filter fun e => e.1.poison).foldl (fun m e => m + 2 ^ e.2) 0) else []) ++
    (if cr then els.map fun e => BitVec.ofNat 8 e.crest else []) ++
    (if zero then [] else if esc then vs.flatMap fun v => leBytes 16 (toBits 128 v) else packBits (nth runnelWidths (wc.getD 0) 8) us)

/-- Encode a payload of any number of elements. -/
def runnelEncode (careful repeat_ : Bool) : Nat → List RedElem → List Byte
  | 0, _ => []
  | k + 1, l => if l.isEmpty then [] else runnelBlock careful repeat_ (l.take 16) ++ runnelEncode careful repeat_ k (l.drop 16)

/-- Decode one block: its 16 elements as (V, crest, poison) and the bytes after it; none when malformed. -/
def runnelOpen (l : List Byte) : Option (List (Int × Nat × Bool) × List Byte) :=
  if l.length < 2 then none
  else
    let h := u16 l 0
    let (wc, esc, zero, cr, pm, sh) := (field h 2 0, bit h 3, bit h 4, bit h 5, bit h 6, field h 14 8)
    let w := nth runnelWidths wc 8
    let o1 := 2 + (if pm then 2 else 0)
    let o2 := o1 + (if cr then 16 else 0)
    let n := if zero then 0 else if esc then 256 else 2 * w
    if (esc ∧ (wc ≠ 0 ∨ sh ≠ 0)) ∨ l.length < o2 + n then none
    else
      let mask := if pm then u16 l 2 else 0
      let data := uN n l o2
      some ((List.range 16).map fun i =>
        let u : Int := if zero then 0 else if esc then sN 128 (data / 2 ^ (128 * i)) else sN w (data / 2 ^ (w * i))
        (u * (2 ^ sh : Nat), (if cr then u8 l (o1 + i) else 0), bit mask i), l.drop (o2 + n))

/-- Decode a payload of n elements; none when malformed. -/
def runnelDecode : Nat → Nat → List Byte → Option (List (Int × Nat × Bool))
  | 0, _, l => if l.any (· != 0) then none else some []
  | k + 1, n, l =>
    match runnelOpen l with
    | none => none
    | some (b, rest) =>
      match runnelDecode k (n - 16) rest with
      | none => none
      | some t => some (b.take n ++ t)

/-! ### Chunk and control bytes (Tables 10-5, 10-9) -/

/-- Bytes of a chunk. -/
def Chunk.bytes (c : Chunk) : List Byte :=
  packLE [(4, c.tag), (4, c.gid % 65536 + at_ 16 c.kind + at_ 20 (b2n c.prov) + at_ 21 (b2n c.careful) + at_ 24 c.stage),
    (6, c.step), (2, c.mb), (6, c.first), (2, c.count), (6, c.estride), (2, 0), (4, c.epoch), (2, toBits 16 c.lbase), (1, c.rev),
    (1, 0), (8, c.residue)] ++ c.payload

/-- Read a chunk. -/
def chunkOf (l : List Byte) : Chunk :=
  let w := u32 l 4
  { tag := u32 l 0, gid := field w 15 0, kind := field w 19 16, prov := bit w 20, careful := bit w 21, stage := field w 31 24
    step := u48 l 8, mb := u16 l 14, first := u48 l 0x10, count := u16 l 0x16, estride := u48 l 0x18, epoch := u32 l 0x20
    lbase := sN 16 (u16 l 0x24), rev := u8 l 0x26, residue := field (u64 l 0x28) 60 0, payload := l.drop 48 }

/-- Identity of a chunk: everything that names it but its revision and contents. -/
def Chunk.same (a b : Chunk) : Bool :=
  a.tag == b.tag && a.gid == b.gid && a.kind == b.kind && a.stage == b.stage && a.step == b.step && a.mb == b.mb &&
    a.first == b.first && a.count == b.count

/-- Identity as a chunk without contents, for the highest revision seen. -/
def Chunk.key (c : Chunk) : Chunk := { c with prov := false, careful := false, estride := 0, epoch := 0, lbase := 0, rev := 0,
                                               residue := 0, payload := [] }

/-- A control message. -/
def ctlBytes (typ gid epoch step mb tag rev stage cause first count : Nat) : List Byte :=
  packLE [(2, typ), (2, gid), (4, epoch), (6, step), (2, mb), (4, tag), (1, rev), (1, stage), (2, cause), (6, first), (2, count)]

/-- A control message about a chunk. -/
def Chunk.ctl (c : Chunk) (typ epoch : Nat) : List Byte := ctlBytes typ c.gid epoch c.step c.mb c.tag c.rev c.stage 0 c.first c.count

/-! ### Sending -/

/-- Address of a member of a group: its position, and the partition its advert names for the tag and key (R314). -/
def State.memberAddr (s : State) (slot rank : Nat) : BitVec 128 :=
  let g := s.group slot
  let pos := nth g.members rank 0
  let tag := ((s.ptRes g.pt).map (·.tag)).getD 0
  let key := (s.groupRec slot).key
  let ent := (s.comp.fab.adverts.find? fun a => a.pos == pos).bind fun a => a.entries.find? fun e => e.1 == tag && e.2.1 == key
  s.addrAt pos ((ent.map fun e => e.2.2.1).getD g.pt)

/-- Send a CASCADE message to a member (R307, R308). -/
def State.cascMsg (s : State) (slot rank : Nat) (prov : Option Nat) (bytes : List Byte) : State :=
  let a := s.memberAddr slot rank
  match s.comp.fab.tx.find? fun f => f.user == 0 && f.key == slot && f.dst == a with
  | some f => s.sendMsg f.fid 0 prov bytes
  | none => s

/-- Send a control message to every other member. -/
def State.cascAll (s : State) (slot : Nat) (bytes : List Byte) : State :=
  let g := s.group slot
  forEach ((List.range g.members.length).filter fun r => r != g.rank) (fun r s => s.cascMsg slot r none bytes) s

/-- Whether a step is the oldest uncommitted one of its partition. -/
def State.isOldest (s : State) (pt step : Nat) : Bool := ((s.oldest pt).map (·.num)).getD step == step

/-- Bytes of provisional chunks that stand in a member's Standpipe region: those sent with PROV = 1 whose step has not committed. -/
def State.piped (s : State) (pt gid rank : Nat) : Nat :=
  ((s.comp.casc.sent.filter fun x => x.pt == pt && x.dst == rank && x.chunk.gid == gid && x.chunk.prov && !x.held && !x.gone).map
    fun x => x.chunk.bytes.length).sum

/-- Whether a provisional chunk finds room in its receiver's Standpipe region, whose length every member's GROUP record gives alike
(R280). DESIGN CHOICE: entry 68. -/
def State.pipeRoom (s : State) (slot rank : Nat) (c : Chunk) : Bool :=
  let g := s.group slot
  decide (s.piped g.pt g.gid rank + c.bytes.length ≤ (s.groupRec slot).pipeLen)

/-- FIRST of a SCALAR chunk, by which control messages tell rounds of one step apart (DESIGN CHOICE: entry 50). -/
def roundHead (round ident : Nat) : Nat := round + at_ 16 ident

/-- Whether a chunk belongs to a formation round, which no step waits for. -/
def Chunk.forms (c : Chunk) : Bool := c.kind == 5 && c.first % 2 ^ 8 == 0

/-- A chunk of a group's slot passes its sequencer, and the reduction slots when it is reduced in the network (R455). -/
def State.moveChunk (s : State) (slot : Nat) (seq : Option Nat) (c : Chunk) : State :=
  let g := s.group slot
  let s := match seq with | some n => s.moveBytes (8 + n) g.pt c.bytes.length | none => s
  if g.inr ∧ !c.careful ∧ c.kind < 2 then s.moveBytes 16 g.pt c.bytes.length else s

/-- Send a chunk to a member (R280, R281): nothing when it has been sent with the same bits; RETRACT and the next revision when it
differs; held when its step must wait, or while its receiver's Standpipe region has no room. -/
def State.sendChunk (s : State) (slot rank : Nat) (seq : Option Nat) (c : Chunk) : State :=
  let g := s.group slot
  let old := s.comp.casc.sent.find? fun x => x.pt == g.pt && x.dst == rank && x.chunk.same c
  let run := !c.forms && !s.isOldest g.pt c.step
  let on := match (s.part g.pt).bed with | some b => jobProv b | none => false
  let c := { c with epoch := g.epoch, prov := run && on }
  let put := fun (s : State) (c : Chunk) (n : Nat) =>
    let s := s.modCasc fun x => { x with sent := x.sent.filter fun y => !(y.pt == g.pt && y.dst == rank && y.chunk.same c) }
    let wait := run && (!on || !s.pipeRoom slot rank c)
    let e : SentChunk := { pt := g.pt, dst := rank, chunk := c, seq := seq, recalls := n, held := wait, since := s.time }
    let s := s.modCasc fun x => { x with sent := x.sent ++ [e] }
    if wait then s else (s.moveChunk slot seq c).cascMsg slot rank (if c.prov then some c.step else none) c.bytes
  match old with
  | none => put s c 0
  | some o =>
    if !o.gone ∧ o.chunk.payload = c.payload ∧ o.chunk.lbase = c.lbase ∧ o.chunk.residue = c.residue ∧ o.chunk.careful = c.careful then s
    else if o.held then put s c o.recalls
    else
      let s := if o.gone then s else s.cascMsg slot rank none (o.chunk.ctl 2 g.epoch)
      put s { c with rev := (o.chunk.rev + 1) % 256 } o.recalls

/-- Retract a chunk sent (R281, R282). -/
def State.retractSent (s : State) (slot : Nat) (p : SentChunk → Bool) : State :=
  let g := s.group slot
  let l := s.comp.casc.sent.filter fun x => x.pt == g.pt && x.chunk.gid == g.gid && !x.gone && !x.held && p x
  let s := forEach l (fun x s => s.cascMsg slot x.dst none (x.chunk.ctl 2 g.epoch)) s
  s.modCasc fun c => { c with sent := c.sent.map fun x => if l.contains x then { x with gone := true, confirmed := false } else x }

/-- Chunks that waited are sent (R280, A1): those whose step has become the oldest, with PROV = 0, and provisional ones that their
receiver has room for. -/
def State.releaseHeld (s : State) (pt : Nat) : State :=
  let on := match (s.part pt).bed with | some b => jobProv b | none => false
  forEach (s.comp.casc.sent.filter fun x => x.pt == pt && x.held) (fun x s =>
    match s.slotOfGid pt x.chunk.gid with
    | none => s
    | some slot =>
      let old := s.isOldest pt x.chunk.step
      if !old ∧ !(on && s.pipeRoom slot x.dst x.chunk) then s
      else
        let c := { x.chunk with prov := !old }
        let s := s.modCasc fun z => { z with sent := z.sent.map fun y => if y == x then { y with held := false, chunk := c, since := s.time } else y }
        (s.moveChunk slot x.seq c).cascMsg slot x.dst (if old then none else some c.step) c.bytes) s

/-! ### Abandoning a step (R258, R282) -/

/-- The member abandons a step of a group: ABANDON to all partners, undo without counting a replay, the next epoch, one record
(R257, R258). A step is abandoned once. The arguments are the cause, the detecting member's position, which the message carries in TAG
and a forwarder leaves as it is (DESIGN CHOICE: entry 69), and the lost member's position with MEMBER_LOST's reason when this member
detected the loss. -/
def State.abandonStep (s : State) (slot step cause by_ : Nat) (lost : Option (Nat × Nat)) : State :=
  let g := s.group slot
  if g.st = 3 then s
  else
    let s := s.cascAll slot (ctlBytes 4 g.gid g.epoch step 0xFFFF by_ 0 0 cause 0 0)
    let s := s.stepRec g.pt step (match lost with
      | some (pos, why) => { unitRec 2 0x14 4 8 0 with layer := g.gid, detail1 := pos, detail2 := why }
      | none => { unitRec 2 0x15 4 8 0 with layer := g.gid, detail1 := by_, detail2 := cause })
    let s := s.chargeStep g.pt step (if cause = 1 then 5 else 4) (if cause = 1 then g.gid else s.lastUid)
    let s := s.undoFrom g.pt step
    let s := s.modStep g.pt step fun x => { x with careful := x.careful || cause == 2 }
    let s := s.modCasc fun c =>
      { c with
        sent := c.sent.filter fun x => !(x.pt == g.pt && x.chunk.gid == g.gid)
        runs := c.runs.filter fun r => !(r.pt == g.pt && r.slot == slot)
        rounds := c.rounds.filter fun r => r.slot != slot
        revs := c.revs.filter fun r => !(r.1 == g.pt && r.2.2.1.gid == g.gid) }
    let s := s.modGroup slot fun g => { g with epoch := (g.epoch + 1) % 2 ^ 32, lost := g.lost || cause == 1 }
    s.setGroupSt slot 3

/-- A member of a group is lost (R258): the oldest running step is abandoned; with none the group re-forms at once. Reasons: 1 link,
2 DEST_RESETTING, 3 timeout, 4 flow broken. -/
def State.memberLost (s : State) (slot pos why : Nat) : State :=
  let g := s.group slot
  if g.st ≠ 2 then s
  else match (s.part g.pt).steps.find? fun x => decide (1 ≤ x.st ∧ x.st ≤ 5) with
    | some x => s.abandonStep slot x.num 1 (nth g.members g.rank 0) (some (pos, why))
    | none =>
      let s := s.record { ptRec g.pt 2 0x14 4 8 0 with layer := g.gid, detail1 := pos, detail2 := why }
      (s.modGroup slot fun g => { g with told := false }).setGroupSt slot 1

/-! ### Scalar rounds (R275) -/

/-- A MAX entry and a SUM entry (Table 10-8). -/
def maxEntry (v : Int) : List Byte := packLE [(8, 1), (8, 0)] ++ leBytes 16 (toBits 128 v)
def sumEntry (a : StatAcc) : List Byte :=
  packLE [(1, 0), (1, a.mtop), (1, a.res), (5, 0), (8, a.n)] ++ leBytes 16 (toBits 128 a.sum)
/-- Value of an entry. -/
def entryVal (e : List Byte) : Int := sN 128 (uN 16 e 16)

/-- Combine two lists of entries, entry by entry. -/
def combineEntries (a b : List (List Byte)) : List (List Byte) :=
  a.zipIdx.map fun x =>
    let y := nth b x.2 x.1
    if x.2 ≥ b.length then x.1
    else if u8 x.1 0 = 1 then maxEntry (max (entryVal x.1) (entryVal y))
    else packLE [(1, 0), (1, max (u8 x.1 1) (u8 y 1)), (1, (u8 x.1 2 + u8 y 2) % 255), (5, 0), (8, u64 x.1 8 + u64 y 8)] ++
      leBytes 16 (toBits 128 (wrap128 (entryVal x.1 + entryVal y)))

/-- The oldest list received for a stage. -/
def RoundAcc.got (a : RoundAcc) (k : Nat) : Option (List (List Byte)) := (a.recv.find? fun r => r.1 == k).map (·.2.2)

/-- This member's list combined with those of some stages, once all of them have come. -/
def RoundAcc.upTo (a : RoundAcc) (ks : List Nat) : Option (List (List Byte)) :=
  ks.foldl (fun e k => match e, a.got k with | some e, some l => some (combineEntries e l) | _, _ => none) a.own

/-- Stages a member's result takes in: the fold when a member is folded into it, and every halving step. -/
def roundNeeds (P me : Nat) : List Nat := (if me < 2 * folded P then [0x40] else []) ++ List.range (pow2Below P)

/-- Messages a member sends in a scalar round: STAGE, rank, and the stages it must have received. -/
def roundSends (P me : Nat) : List (Nat × Nat × List Nat) :=
  if P ≤ 1 then []
  else if isFolded P me then [(0x40, me - 1, [])]
  else
    let f := if me < 2 * folded P then [0x40] else []
    let v := vOf P me
    ((List.range (pow2Below P)).map fun k => (k, rankOfV P (v ^^^ 2 ^ k), f ++ List.range k)) ++
      (if me < 2 * folded P then [(0x41, me + 1, roundNeeds P me)] else [])

/-- Result of a scalar round at a member, once every list it needs has come: a folded member takes the unfolded one. -/
def RoundAcc.result (a : RoundAcc) (P me : Nat) : Option (List (List Byte)) :=
  if isFolded P me then a.own.bind fun _ => a.got 0x41 else a.upTo (roundNeeds P me)

/-- Change a scalar round of a member, opening it. -/
def State.modRound (s : State) (slot round ident step : Nat) (f : RoundAcc → RoundAcc) : State :=
  let hit := fun (r : RoundAcc) => r.slot == slot && r.round == round && r.ident == ident && r.step == step
  s.modCasc fun c =>
    if c.rounds.any hit then { c with rounds := c.rounds.map fun r => if hit r then f r else r }
    else { c with rounds := c.rounds ++ [f { slot := slot, round := round, ident := ident, step := step }] }

/-- A scalar round of a member. -/
def State.round (s : State) (slot round ident step : Nat) : Option RoundAcc :=
  s.comp.casc.rounds.find? fun r => r.slot == slot && r.round == round && r.ident == ident && r.step == step

/-- Send what a scalar round is ready to send, and retract what rested on a list that has been retracted (R275, R281). -/
def State.pumpRound (s : State) (slot round ident step : Nat) : State :=
  let g := s.group slot
  let careful := (s.stepSt g.pt step).any (·.careful)
  forEach (roundSends g.members.length g.rank) (fun m s =>
    match s.round slot round ident step with
    | none => s
    | some a =>
      match a.upTo m.2.2 with
      | some es =>
        let body := packLE [(1, round), (1, es.length), (2, ident), (4, 0)] ++ es.flatMap id
        s.sendChunk slot m.2.1 none
          { tag := 0, gid := g.gid, kind := 5, prov := false, careful := careful, stage := m.1, step := step, mb := 0xFFFF
            first := roundHead round ident, count := max 1 es.length, estride := 0, epoch := g.epoch, lbase := 0, rev := 0
            residue := wordResidue body, payload := body }
      | none =>
        if a.own.isNone then s
        else s.retractSent slot fun x => x.dst == m.2.1 && x.chunk.kind == 5 && x.chunk.stage == m.1 && x.chunk.step == step &&
          x.chunk.first == roundHead round ident) s

/-- Groups over which a partition's round runs, in the order of their records: every group that spans modules, and for the statistics of
a layer those whose axis shards the layout of the program's weight (R197, R198, R224). -/
def State.roundGroups (s : State) (pt round ident : Nat) : List Nat :=
  match (s.part pt).bed with
  | none => []
  | some b =>
    let w := bedTensor b (u32 (recOf b 0x0208 (bedLayer b ident).jet) 4)
    let hit := fun (axis : Nat) => round != 1 || (bedLayout b w.layout).shard.any fun sh => sh.1 != 0 && sh.2.1 == axis
    (List.range (secCount b 0x020A)).filterMap fun r =>
      if hit (bedGroup b r).axis then (s.spanGroups pt).find? fun i => (s.group i).record == r else none

/-- Carry a round through its groups: each group's round is entered with the result of the one before. -/
def State.driveFrom (round ident step : Nat) : List Nat → Option (List (List Byte)) → State → State
  | [], _, s => s
  | slot :: rest, es, s =>
    let s := if es.isNone then s else s.modRound slot round ident step fun a =>
      { a with own := es, since := if a.own.isNone then s.time else a.since }
    let s := s.pumpRound slot round ident step
    let g := s.group slot
    State.driveFrom round ident step rest ((s.round slot round ident step).bind fun a => a.result g.members.length g.rank) s

/-- Go on with a round of a partition as far as the lists received allow. -/
def State.driveRound (s : State) (pt round ident step : Nat) : State :=
  let gs := s.roundGroups pt round ident
  State.driveFrom round ident step gs (gs.head?.bind fun g => (s.round g round ident step).bind (·.own)) s

/-- A member enters a scalar round of a partition with its own entries. -/
def State.enterRound (s : State) (pt round ident step : Nat) (es : List (List Byte)) : State :=
  State.driveFrom round ident step (s.roundGroups pt round ident) (some es) s

/-- Result of a partition's round that this member entered with some entries: none while a list is missing. -/
def State.roundResult (s : State) (pt round ident step : Nat) (es : List (List Byte)) : Option (List (List Byte)) :=
  match (s.roundGroups pt round ident).getLast? with
  | none => some es
  | some slot =>
    let g := s.group slot
    (s.round slot round ident step).bind fun a => a.result g.members.length g.rank

/-- A list received once for a stage gives way to the next. -/
def dropFirst (k : Nat) : List (Nat × Nat × List (List Byte)) → List (Nat × Nat × List (List Byte))
  | [] => []
  | r :: l => if r.1 = k then l else r :: dropFirst k l

/-- Leave a round of a group that has completed: one list of each stage is used up, and what was sent is sent anew, under the next
revision, when the round runs again. -/
def State.leaveGroup (s : State) (slot round ident step : Nat) : State :=
  let g := s.group slot
  let s := s.modRound slot round ident step fun a =>
    { a with own := none, recv := ((a.recv.map (·.1)).eraseDups).foldl (fun l k => dropFirst k l) a.recv }
  s.modCasc fun c =>
    { c with sent := c.sent.map fun x =>
        if x.pt == g.pt && x.chunk.gid == g.gid && x.chunk.kind == 5 && x.chunk.step == step && x.chunk.first == roundHead round ident then
          { x with gone := true } else x }

/-- Leave a round of a partition. -/
def State.leaveRound (s : State) (pt round ident step : Nat) : State :=
  forEach (s.roundGroups pt round ident) (fun slot s => s.leaveGroup slot round ident step) s

end Sys2Proof.Machine
end

