-- ==== Sys2Proof/Machine/Jet.lean ====
section
/-! DEFINITION. Jet.lean: update programs on the Jet units: lane arithmetic, passes, statistics, stores and the next version
(R193 to R195, R198, R209 to R231). -/
namespace Sys2Proof.Machine

/-! ### Program words (Tables 08-6, 08-7) -/

/-- Fields of an instruction word. -/
def jOp (w : Nat) : Nat := field w 31 27
def jDst (w : Nat) : Nat := field w 26 24
def jA (w : Nat) : Nat := field w 23 18
def jB (w : Nat) : Nat := field w 17 12
def jC (w : Nat) : Nat := field w 11 6
/-- Instruction words of a JETPROG record. -/
def progWords (r : List Byte) : List Nat := (List.range (min 32 (field (u32 r 0) 5 0))).map fun i => u32 r (0x40 + 4 * i)
/-- Index of the last LAYER_REDUCE (R220). -/
def lastReduce (ws : List Nat) : Option Nat := ((List.range ws.length).filter fun i => jOp (nth ws i 0) == 0x0A).getLast?
/-- Operand codes an instruction reads. -/
def jReads (w : Nat) : List Nat :=
  match jOp w with
  | 1 | 2 | 3 | 4 => [jA w, jB w]
  | 5 | 6 | 7 | 9 | 0x0A => [jA w]
  | 8 => [jA w, jB w, jC w]
  | 0x0B => [jA w, jB w]
  | _ => []
/-- Register an instruction writes. -/
def jWrites (w : Nat) : Option Nat := if 1 ≤ jOp w ∧ jOp w ≤ 9 then some (jDst w) else none

/-- Instructions on which a register value at an instruction depends (R220). -/
def depends (ws : List Nat) : Nat → Nat → Nat → List Nat
  | 0, _, _ => []
  | k + 1, i, reg =>
    match ((List.range i).filter fun j => jWrites (nth ws j 0) == some reg).getLast? with
    | none => []
    | some j => j :: (jReads (nth ws j 0)).flatMap fun o => if o < 8 then depends ws k j o else []

/-- Instructions a pass executes (R220, R221, R226): under FROZEN_STRICT the statistics pass also evaluates the predicates, and it
evaluates nothing else when the program holds no LAYER_REDUCE (DEDUCED: entry 70). -/
def passPcs (ws : List Nat) (pass : Nat) (strict : Bool) : List Nat :=
  if pass = 1 then
    let base := match lastReduce ws with | some l => List.range (l + 1) | none => []
    let stores := (List.range ws.length).filter fun i => jOp (nth ws i 0) == 0x0B
    let deps := if strict then stores.flatMap fun i =>
        i :: (if jB (nth ws i 0) < 8 then depends ws 32 i (jB (nth ws i 0)) else []) else []
    (List.range ws.length).filter fun i => base.contains i || deps.contains i
  else List.range ws.length

/-! ### Lane arithmetic (R211, Table 08-1) -/

/-- +0, +1.0, −1.0. -/
def jZero : JVal := {}
def jOne : JVal := { bits := 0x3F800000 }
def jMinus : JVal := { bits := 0xBF800000 }
/-- Whether a value is +0 or −0. -/
def JVal.isZero (v : JVal) : Bool := v.bits % 2 ^ 31 == 0
/-- Sign bit. -/
def JVal.neg (v : JVal) : Bool := bit v.bits 31
/-- Signed magnitude at exponent −149. -/
def JVal.toInt (v : JVal) : Int :=
  let x := f32Exact v
  let m := (x.m * 2 ^ (x.e + 149).toNat : Nat)
  if x.neg then -(m : Int) else m

/-- Exact z × 2^e rounded once; z = 0 gives the given zero. None is a numeric failure. -/
def jRound (z : Int) (e : Int) (zero : JVal) : Option JVal :=
  if z = 0 then some zero else (f32Round (decide (z < 0)) z.natAbs e false).map fun b => { bits := b }

/-- ADD. -/
def jAdd (a b : JVal) : Option JVal :=
  jRound (a.toInt + b.toInt) (-149) (if a.isZero && b.isZero && a.neg && b.neg then { bits := 0x80000000 } else jZero)
/-- SUB. -/
def jSub (a b : JVal) : Option JVal := jRound (a.toInt - b.toInt) (-149) jZero
/-- MUL: a zero result, exact or rounded, takes the exclusive OR of the signs. -/
def jMul (a b : JVal) : Option JVal :=
  let neg := a.neg != b.neg
  let x := f32Exact a
  let y := f32Exact b
  if x.m * y.m = 0 then some { bits := at_ 31 (b2n neg) }
  else (f32Round neg (x.m * y.m) (x.e + y.e) false).map fun b => { bits := b }
/-- MAX. -/
def jMax (a b : JVal) : Option JVal :=
  some (if a.toInt = b.toInt then (if a.neg then b else a) else if a.toInt < b.toInt then b else a)
/-- ABS. -/
def jAbs (a : JVal) : Option JVal := some { bits := a.bits % 2 ^ 31 }
/-- SIGN. -/
def jSign (a : JVal) : Option JVal := some (if a.isZero then jZero else if a.neg then jMinus else jOne)
/-- RSQRT of a positive value, correctly rounded; +0 otherwise. -/
def jRsqrt (a : JVal) : Option JVal :=
  if a.isZero ∨ a.neg then some jZero
  else
    let x := f32Exact a
    let (m, e) := if x.e % 2 = 0 then (x.m, x.e) else (2 * x.m, x.e - 1)
    let p : Nat := 64
    let q := Nat.sqrt (2 ^ (2 * p) / m)
    (f32Round false q (-(p : Int) - e / 2) (q * q * m != 2 ^ (2 * p))).map fun b => { bits := b }
/-- SCALE by 2^IMM; a zero result takes the sign of A. -/
def jScale (imm : Int) (a : JVal) : Option JVal :=
  let x := f32Exact a
  if x.m = 0 then some { bits := a.bits } else (f32Round a.neg x.m (x.e + imm) false).map fun b => { bits := b }

/-- A poisoned operand makes the result poisoned (R211). -/
def lift1 (f : JVal → Option JVal) (a : JVal) : Option JVal := if a.poison then some { poison := true } else f a
def lift2 (f : JVal → JVal → Option JVal) (a b : JVal) : Option JVal :=
  if a.poison ∨ b.poison then some { poison := true } else f a b
/-- SELECT. -/
def jSelect (a b c : JVal) : Option JVal :=
  if a.poison then some { poison := true } else some (if a.isZero then c else b)

/-! ### Updates of a step -/

/-- Update of a layer in a step. -/
def StepSt.upd (x : StepSt) (id : Nat) : Option Upd := x.upds.find? fun u => u.layerId == id

/-- Change an update. -/
def State.modUpd (s : State) (pt step id : Nat) (f : Upd → Upd) : State :=
  s.modStep pt step fun x => { x with upds := x.upds.map fun u => if u.layerId == id then f u else u }

/-- Jet units of a layer: roles of every LAYER record with the LAYER_ID, ascending die and role (R209). -/
def State.layerJets (s : State) (b : List Byte) (id : Nat) : List Nat :=
  (layerRecs b id).flatMap fun li =>
    let L := bedLayer b li
    (bitsOf 16 L.roles).filterMap fun r => (s.arrayOf L.die r).map fun a => arrIx L.die a

/-- Weight of a program and its view at version t. -/
def progW (b : List Byte) (prog : Nat) : Nat := u32 (recOf b 0x0208 prog) 4

/-- A Jet unit takes a run, or the run waits until the unit is free: JET_LAYER names the running program's layer. -/
def State.jetTake (s : State) (ji : Nat) (r : JetRun) : State :=
  if (vget s.comp.jets ji).run.isSome then s.modJet ji fun x => { x with queue := x.queue ++ [r] }
  else (s.put (Reg.jetLayer (ji / 18) (ji % 18)) r.layerId).modJet ji fun x => { x with run := some r }

/-- A Jet unit has finished its run, and takes the next that waits. -/
def State.jetFree (s : State) (ji : Nat) : State :=
  let q := (vget s.comp.jets ji).queue
  let s := s.modJet ji fun x => { x with run := none, queue := [] }
  forEach q (fun r s => s.jetTake ji r) s

/-- A Jet unit that has run its vectors of a statistics pass waits for the statistics (R232). -/
def State.statWaits (s : State) (ji pt step id : Nat) : State := s.modJet ji fun x => { x with statWait := x.statWait ++ [⟨pt, step, id⟩] }

/-- Start a pass of an update on its Jet units (R209, R220): a unit that another program holds runs it afterwards. -/
def State.startPass (s : State) (pt step : Nat) (b : List Byte) (u : Upd) (pass : Nat) : State :=
  let jets := s.layerJets b u.layerId
  let v := s.view pt b (progW b u.prog) step
  let nv := cdiv (prodN v.used) 256
  let ws := progWords (recOf b 0x0208 u.prog)
  let pc0 := ((passPcs ws pass (jobStrict b)).head?).getD 0
  let s := s.modUpd pt step u.layerId fun u => { u with
    pass := pass
    -- an in-place apply pass writes the bits that the verify pass computed (R221)
    stored := if pass = 1 ∨ (pass = 3 ∧ (s.part pt).ring b (progW b u.prog) = 1) then u.stored else [] }
  forEach jets.zipIdx (fun j s =>
    let vecs := (List.range nv).filter fun v => v % jets.length == j.2
    let mine := fun (w : JetWait) => w.pt == pt && w.step == step && w.layerId == u.layerId
    let s := s.modJet j.1 fun x => { x with statWait := x.statWait.filter fun w => !mine w }
    if vecs.isEmpty then (if pass = 1 ∧ (lastReduce ws).isSome then s.statWaits j.1 pt step u.layerId else s)
    else s.jetTake j.1 ⟨pt, step, u.prog, u.layerId, pass, vecs, pc0, Vector.replicate 8 []⟩) s

/-- An event of a pass on a Jet unit: ERRSTAT bit, first error in ERRINFO (R220, Table 08-17): 0 RESIDUE, 1 FROZEN_ABORT, 2
OVERFLOW, 3 POISON_IN. -/
def State.jetError (s : State) (ji cause pc lane : Nat) : State :=
  let (d, a) := (ji / 18, ji % 18)
  let s := if s.reg (Reg.jetErrstat d a) % 16 = 0 then
      s.put (Reg.jetErrinfo d a) (pc + at_ 8 lane + at_ 16 (cause + 1)) else s
  s.orReg (Reg.jetErrstat d a) (2 ^ cause)

/-- A failing event raises the update's rank (R220). The apply pass of a committed step cannot fail it (R195). -/
def State.updFail (s : State) (r : JetRun) (rank : Nat) : State :=
  if (s.stepSt r.pt r.step).any fun x => x.st == 6 then s
  else s.modUpd r.pt r.step r.layerId fun u => { u with fail := max u.fail rank }

/-! ### The next version (R225, R227) -/

/-- Jet unit that runs a lane (R209). -/
def jetOfElem (jets : List Nat) (n : Nat) : Nat := nth jets (n / 256 % max 1 jets.length) 0

/-- Write version t + 1 of one tensor of a program from the values stored (R225, R227, R90). An element that no STORE writes, rounded again
at a changed rung or scale, and beyond the format outside a block that mixes stored and unstored elements, has no outcome in the manual: the
largest finite value is written, without a fit rung and without a count in JET_CLAMP (DESIGN CHOICE: entry 71). -/
def State.writeVersion (s : State) (pt step : Nat) (b : List Byte) (u : Upd) (target t : Nat) (apply_ : Bool) : State :=
  let T := bedTensor b t
  let old := s.view pt b t step
  let new := s.viewAt pt b t (step + 1) (s.coarse pt t step) (s.rungAt pt t step)
  let same := old.c == new.c && old.fmt == new.fmt
  let jets := s.layerJets b u.layerId
  let seed := jobSeed b
  let fine := T.fine && new.fmt != 3
  let stOf := fun (n : Nat) => (u.stored.find? fun y => y.1 == target && y.2.1 == n).map (·.2.2)
  let modeOf := fun (r : Nat) => if r = 0 then roundMode T else r - 1
  let blocks := if fine then ((allIx new.used).map fun ix => new.blockIn ix).eraseDups else (allIx new.used).map fun ix => [ix]
  let s := if apply_ then (s.noteClamp pt t step).noteScale pt b t step (step + 1) new.c new.fmt else s
  let s := forEach blocks (fun blk s =>
    let items := blk.map fun ix =>
      let n := rowMajor new.used ix
      let k48 := s.index48 pt new.lay ix
      let bits := genBits seed T.tag step k48
      match stOf n with
      | some (v, r) => (ix, n, f32Exact v, modeOf r, bits, true)
      | none => (ix, n, (s.readElem b old ix).exact old.c, roundMode T, bits, false)
    let stored := items.filter fun i => i.2.2.2.2.2
    let mixed := fine && !stored.isEmpty && decide (stored.length < items.length)
    let k :=
      if !fine then 0
      else if mixed ∨ (stored.isEmpty ∧ same) then (match blk with | ix :: _ => s.fineAt old (old.o ix) | [] => 0)
      else blockCode new.fmt new.c (match items with | i :: _ => i.2.2.2.1 | [] => 0) (items.map fun i => (i.2.2.1, i.2.2.2.2.1))
    let fit := stored.foldl (fun m i => max m (fitRung new.fmt new.c i.2.2.2.1 i.2.2.2.2.1 i.2.2.1)) 0
    let xs := maxLg (stored.map fun i => i.2.2.1)
    let s := s.modStep pt step fun x =>
      let i := x.inst t 0xFFFF
      x.setInst { i with
        fit := max i.fit fit
        xs := maxXs i.xs xs }
    if !apply_ then s
    else
      let s := forEach items (fun i s =>
        let (ix, n, v, mode, bits, st) := i
        if !st ∧ same then
          let (code, bad) := s.rawAt old (old.o ix)
          s.storeElem new ix (if bad then poisonCode new.fmt else code)
        else
          let (code, clamp) := storeCode new.fmt new.c k mode bits v
          let s := s.storeElem new ix code
          if clamp ∧ mixed then
            let j := jetOfElem jets n
            s.bump (Reg.jetClamp (j / 18) (j % 18)) 1
          else s) s
      match blk with | ix :: _ => s.storeFine new ix k | [] => s) s
  if apply_ then s.reencodeElems new (allIx new.used) else s

/-- Write or only judge version t + 1 of every tensor a program names (R221, R225, R227). -/
def State.writeVersions (s : State) (pt step : Nat) (b : List Byte) (u : Upd) (apply_ : Bool) : State :=
  let r := recOf b 0x0208 u.prog
  let ts := [(0, u32 r 4), (1, u32 r 8), (2, u32 r 12)].filter fun x => x.2 != none32
  forEach ts (fun x s => s.writeVersion pt step b u x.1 x.2 apply_) s

/-- Whether a snapshot has still to read a version of a weight or its moments (R194, R206). -/
def State.snapHolds (s : State) (pt : Nat) (b : List Byte) (w version : Nat) : Bool :=
  (s.admsOf pt).any fun a =>
    dOp a.desc == 7 && a.version == version && a.listed.any (fun t => ringWeight b t == some w) &&
      (!a.started || s.comp.engines.toList.any fun e => e.run.any fun r => r.pt == pt && r.admno == a.admno)

/-- Scales that a committed step leaves with the partition's job state (R90, R104). -/
def Part.keepScales (p : Part) (l : List SlotScale) : List SlotScale :=
  l ++ p.scales.filter fun y => !l.any fun z => z.tensor == y.tensor && z.slot == y.slot

/-- A step that had committed and waited for its apply passes leaves once the last has finished, and the scales of the versions it
wrote stay (R90, R195). -/
def State.retireApplied (s : State) (pt : Nat) : State :=
  s.modPart pt fun p =>
    let done := fun (x : StepSt) => x.st == 6 && x.upds.all fun u => u.pass == 4
    { p with
      scales := p.keepScales ((p.steps.filter done).flatMap (·.scales))
      steps := p.steps.filter fun x => !done x }

/-- Integer that orders binary32 patterns as MAX does, +0 above −0, and its inverse: a MAX statistic travels as it (entry 31). -/
def maxKey (bits : Nat) : Int := if bit bits 31 then -((bits % 2 ^ 31 : Nat) : Int) - 1 else (bits : Int)
def unMaxKey (k : Int) : Nat := if k < 0 then 2 ^ 31 + (-k - 1).toNat else k.toNat

/-- Entries of a layer's statistics, one per T slot: MAX statistics by a MAX entry (R275, R223). -/
def Upd.statList (u : Upd) (b : List Byte) : List (List Byte) :=
  let ws := progWords (recOf b 0x0208 u.prog)
  (List.range 4).map fun t =>
    let a := (u.stats.find? fun x => x.slot == t).getD { slot := t }
    match ws.find? fun w => jOp w == 0x0A && field w 25 24 == t with
    | some w => if field w 17 16 = 2 then maxEntry ((a.max.map maxKey).getD (-(2 ^ 40))) else sumEntry a
    | none => sumEntry a

/-- Whether a Jet unit still runs, or has yet to run, a pass of an update. -/
def State.passRuns (s : State) (pt step id : Nat) : Bool :=
  s.comp.jets.toList.any fun j => (j.run.toList ++ j.queue).any fun r => r.pt == pt && r.step == step && r.layerId == id

/-- The pass an update goes on with after its statistics: verify in place, else apply (R195, R220, R221). -/
def Part.nextPass (p : Part) (b : List Byte) (prog : Nat) : Nat := if p.ring b (progW b prog) = 1 then 2 else 3

/-- The end of a verify or an apply pass (R221, R225, R195). -/
def State.closePass (s : State) (pt step : Nat) (b : List Byte) (u : Upd) : State :=
  if u.pass = 2 then (s.writeVersions pt step b u false).modUpd pt step u.layerId fun u => { u with pass := 6 }
  else ((s.writeVersions pt step b u true).modUpd pt step u.layerId fun u => { u with pass := 4 }).retireApplied pt

/-- Start the pass that follows the statistics; a layer of no vectors ends it at once. -/
def State.startNext (s : State) (pt step : Nat) (b : List Byte) (u : Upd) : State :=
  let pass := (s.part pt).nextPass b u.prog
  let s := s.startPass pt step b u pass
  if s.passRuns pt step u.layerId then s else s.closePass pt step b { u with pass := pass }

/-- The end of a pass on every Jet unit of a layer (R220, R221, R224). -/
def State.endPass (s : State) (pt step : Nat) (b : List Byte) (id : Nat) : State :=
  match (s.stepSt pt step).bind (·.upd id) with
  | none => s
  | some u =>
    if u.fail ≠ 0 then
      let s := s.forgetJets fun q n l => q == pt && n == step && l == id
      let s := s.modUpd pt step id fun u => { u with pass := 4 }
      s.modStep pt step fun x => { x with fail := max x.fail u.fail }
    else if u.pass ≠ 1 then s.closePass pt step b u
    else if (lastReduce (progWords (recOf b 0x0208 u.prog))).isNone then s.startNext pt step b u
    else
      (s.modUpd pt step id fun u => { u with pass := 5 }).enterRound pt 1 (((layerRecs b id).head?).getD 0) step (u.statList b)

/-- A step whose commit round has passed starts the apply passes of its in-place updates, each once no snapshot has still to read the
version it replaces (R195, R206). -/
def State.startApply (s : State) (pt : Nat) : State :=
  match (s.part pt).bed, (s.part pt).steps.find? fun x => x.st == 6 with
  | some b, some x =>
    forEach (x.upds.filter fun u => u.pass == 6 && !s.snapHolds pt b (progW b u.prog) x.num) (fun u s =>
      let s := s.startPass pt x.num b u 3
      if s.passRuns pt x.num u.layerId then s else s.endPass pt x.num b u.layerId) s
  | _, _ => s

/-! ### One instruction (R211, R220, R229) -/

/-- Lane value of an operand code (R212, R219): the outer none is a decoded value beyond binary32. -/
def State.laneVal (s : State) (b : List Byte) (r : JetRun) (u : Upd) (code n lane : Nat) : Option JVal :=
  let pr := recOf b 0x0208 r.prog
  let stream := fun (t : Nat) =>
    let v := s.view r.pt b t r.step
    let e := (s.readElem b v (unRow v.used n)).exact v.c
    if e.poison then some ({ poison := true } : JVal)
    else if e.m = 0 then some jZero
    else (f32Round e.neg e.m e.e false).map fun x => ({ bits := x } : JVal)
  let wt := u32 pr 4
  let wix := unRow (s.view r.pt b wt r.step).used n
  if code < 8 then some (nth (vget r.regs code) lane {})
  else if code < 16 then some { bits := nth u.slots (code - 8) 0 }
  else if code = 0x10 then stream wt
  else if code = 0x11 then stream (u32 pr 8)
  else if code = 0x12 then stream (u32 pr 12)
  else if code = 0x13 then
    let a := u48 pr 0x18 + n / 4
    let c := field (u8 (s.readSpace r.pt 0 a 1) 0) (2 * (n % 4) + 1) (2 * (n % 4))
    some (if s.poisonSpace r.pt 0 a 1 ∨ c = 2 then { poison := true } else if c = 1 then jOne else if c = 3 then jMinus else jZero)
  else if code = 0x14 then some (if (s.part r.pt).frozen b wt wix then jOne else jZero)
  else if code = 0x15 then some (if (s.part r.pt).masked b wt wix then jOne else jZero)
  else if 0x18 ≤ code ∧ code ≤ 0x1B then some (((u.tvals.find? fun x => x.1 == code - 0x18).map (·.2)).getD {})
  else if code = 0x21 then some jOne
  else if code = 0x22 then some jMinus
  else some jZero

/-- The instruction at the head of a Jet unit, when its word is the expected one: run, update, BED, word. -/
def State.jetHead (s : State) (die arr : Nat) (word : Nat) : Option (JetRun × Upd × List Byte) :=
  match (vget s.comp.jets (arrIx die arr)).run with
  | none => none
  | some r =>
    match (s.part r.pt).bed, (s.stepSt r.pt r.step).bind (·.upd r.layerId) with
    | some b, some u => if nth (progWords (recOf b 0x0208 r.prog)) r.pc 0xFFFFFFFF = word then some (r, u, b) else none
    | _, _ => none

/-- Elements of the vector at the head of a run that are active lanes, as (lane, element). -/
def State.lanes (s : State) (b : List Byte) (r : JetRun) : List (Nat × Nat) :=
  let e := prodN (s.view r.pt b (progW b r.prog) r.step).used
  let v := r.vecs.headD 0
  ((List.range 256).map fun j => (j, 256 * v + j)).filter fun x => decide (x.2 < e)

/-- Move a Jet unit to its next instruction, vector or the end of the pass. -/
def State.jetAdvance (s : State) (die arr : Nat) (b : List Byte) (r : JetRun) : State :=
  let ji := arrIx die arr
  let ws := progWords (recOf b 0x0208 r.prog)
  let pcs := passPcs ws r.pass (jobStrict b)
  let s := s.modJet ji fun x => { x with lastPc := r.pc }
  match pcs.find? fun p => decide (r.pc < p) with
  | some p => s.modJet ji fun x => { x with run := some { r with pc := p } }
  | none =>
    let s := s.put64 (Reg.jetVecsLo die arr) ((s.reg64 (Reg.jetVecsLo die arr) + 1) % 2 ^ 64)
    match r.vecs with
    | _ :: v :: rest =>
      s.modJet ji fun x => { x with run := some { r with vecs := v :: rest, pc := pcs.headD 0, regs := Vector.replicate 8 [] } }
    | _ =>
      let s := if r.pass = 1 ∧ (lastReduce ws).isSome then s.statWaits ji r.pt r.step r.layerId else s
      let s := s.jetFree ji
      if s.passRuns r.pt r.step r.layerId then s else s.endPass r.pt r.step b r.layerId

/-- Lanes whose residue check mismatches (R229): the lane is poisoned by the caller; here the registers, the record, and what
follows. In the apply pass of an in-place weight the vector is recomputed (R195); else the step replays. -/
def State.jetHits (s : State) (die arr : Nat) (b : List Byte) (r : JetRun) (hits : List Nat) : State :=
  let ji := arrIx die arr
  let uid := s.fault.uid
  let s := forEach hits (fun l s =>
    let s := (s.jetError ji 0 r.pc l).bump (Reg.jetRescnt die arr) 1
    let key := 2 ^ 30 + l + 256 * r.pc + 8192 * ji
    let conf := (s.stepSt r.pt r.step).any fun x => x.replay && x.errs.contains key
    let s := s.stepRec r.pt r.step { unitRec 2 0x02 die 2 arr with
      layer := r.layerId, confirmed := conf, detail1 := r.vecs.headD 0, detail2 := r.pc + at_ 8 l }
    let s := s.modStep r.pt r.step fun x => { x with errs := setInsert key x.errs }
    let (hit, s) := s.track 1 die arr 0 (if conf then 0 else 1) 0
    let s := if hit ∨ conf then s.candidate 1 die arr 0 conf false else s
    if hit ∨ conf then s.modArr ji fun A => { A with moveAway := true } else s) s
  if r.pass = 3 ∧ (s.part r.pt).ring b (progW b r.prog) = 1 then
    let ws := progWords (recOf b 0x0208 r.prog)
    s.modJet ji fun x =>
      { x with run := some { r with pc := (passPcs ws 3 (jobStrict b)).headD 0, regs := Vector.replicate 8 [] } }
  else s.failReplay r.pt r.step (some uid)

/-- The tensor whose poison a lane consumed (R349): the first poisoned one of the weight, its moments and the gradient, whose tag the
DATA_LOST record names. -/
def State.noteLost (s : State) (b : List Byte) (r : JetRun) (n : Nat) : State :=
  match s.stepSt r.pt r.step with
  | none => s
  | some x =>
    if x.lostTag ≠ 0 then s
    else
      let pr := recOf b 0x0208 r.prog
      let hit := [(0x10, u32 pr 4), (0x11, u32 pr 8), (0x12, u32 pr 12), (0x13, u32 pr 0x10)].find? fun c =>
        c.2 != none32 && ((s.laneVal b r default c.1 n 0).getD {}).poison
      s.modStep r.pt r.step fun x => { x with lostTag := (hit.map fun c => (bedTensor b c.2).tag).getD 0 }

/-- Lanes whose result or decoded operand is beyond binary32: a numeric failure, and its event once for the update (R211, R212, R231). -/
def State.numericLanes (s : State) (ji : Nat) (b : List Byte) (r : JetRun) (u : Upd) (lanes : List Nat) : State :=
  let s' := forEach lanes (fun l s => (s.jetError ji 2 r.pc l).updFail r 4) s
  if lanes.isEmpty ∨ u.fail = 4 ∨ (s.stepSt r.pt r.step).any (fun x => x.st == 6) then s'
  else s'.overflowEvent r.pt r.step (bedTensor b (progW b r.prog)).tag

/-- Lanes, as (lane, element), that consume a poisoned value (R223, R225). -/
def State.poisonLanes (s : State) (ji : Nat) (b : List Byte) (r : JetRun) (lanes : List (Nat × Nat)) : State :=
  forEach lanes (fun l s => ((s.jetError ji 3 r.pc l.1).updFail r 2).noteLost b r l.2) s

/-- An arithmetic instruction: each active lane's result from its operands; a none result is a numeric failure (R211). -/
def State.jetArith (s : State) (die arr word : Nat) (codes : List Nat) (f : List JVal → Option JVal) (hits : List (Fin 256)) :
    State :=
  match s.jetHead die arr word with
  | none => s
  | some (r, u, b) =>
    let ji := arrIx die arr
    let res := (s.lanes b r).map fun x =>
      let vs := codes.map fun c => s.laneVal b r u c x.2 x.1
      (x.1, if vs.all Option.isSome then f (vs.map fun v => v.getD {}) else none)
    let bad := res.filter fun x => x.2.isNone
    let out := (List.range 256).map fun j => ((res.find? fun x => x.1 == j).bind (·.2)).getD {}
    let s := s.numericLanes ji b r u (bad.map (·.1))
    let hs := (hits.map (·.val)).filter fun h => (s.lanes b r).any fun x => x.1 == h
    let out := hs.foldl (fun o h => setNth o h { poison := true }) out
    let r := { r with regs := vmod r.regs (jDst word) fun _ => out }
    if hs.isEmpty then s.jetAdvance die arr b r else s.jetHits die arr b r hs

/-- Instruction word of a general row (Table 08-6). -/
def jWord (op dst a b c imm : Nat) : Nat := at_ 27 op + at_ 24 dst + at_ 18 a + at_ 12 b + at_ 6 c + imm

/-- NOP. -/
def execNop (die : Die) (arr : ArrayIx) (s : State) : Host.Outcome State Fault Refusal := s.clocked <|
  .next (match s.jetHead die arr 0 with
    | none => s
    | some (r, _, b) => s.jetAdvance die arr b r)

/-- ADD. -/
def execAdd (die : Die) (arr : ArrayIx) (dst : Fin 8) (a b : JOp) (hits : List (Fin 256)) (s : State) :
    Host.Outcome State Fault Refusal := s.clocked <|
  .next (s.jetArith die arr (jWord 1 dst a.toNat b.toNat 0 0) [a.toNat, b.toNat]
    (fun v => lift2 jAdd (nth v 0 {}) (nth v 1 {})) hits)

/-- SUB. -/
def execSub (die : Die) (arr : ArrayIx) (dst : Fin 8) (a b : JOp) (hits : List (Fin 256)) (s : State) :
    Host.Outcome State Fault Refusal := s.clocked <|
  .next (s.jetArith die arr (jWord 2 dst a.toNat b.toNat 0 0) [a.toNat, b.toNat]
    (fun v => lift2 jSub (nth v 0 {}) (nth v 1 {})) hits)

/-- MUL. -/
def execMul (die : Die) (arr : ArrayIx) (dst : Fin 8) (a b : JOp) (hits : List (Fin 256)) (s : State) :
    Host.Outcome State Fault Refusal := s.clocked <|
  .next (s.jetArith die arr (jWord 3 dst a.toNat b.toNat 0 0) [a.toNat, b.toNat]
    (fun v => lift2 jMul (nth v 0 {}) (nth v 1 {})) hits)

/-- MAX. -/
def execMax (die : Die) (arr : ArrayIx) (dst : Fin 8) (a b : JOp) (hits : List (Fin 256)) (s : State) :
    Host.Outcome State Fault Refusal := s.clocked <|
  .next (s.jetArith die arr (jWord 4 dst a.toNat b.toNat 0 0) [a.toNat, b.toNat]
    (fun v => lift2 jMax (nth v 0 {}) (nth v 1 {})) hits)

/-- ABS. -/
def execAbs (die : Die) (arr : ArrayIx) (dst : Fin 8) (a : JOp) (hits : List (Fin 256)) (s : State) :
    Host.Outcome State Fault Refusal := s.clocked <|
  .next (s.jetArith die arr (jWord 5 dst a.toNat 0 0 0) [a.toNat] (fun v => lift1 jAbs (nth v 0 {})) hits)

/-- SIGN. -/
def execSign (die : Die) (arr : ArrayIx) (dst : Fin 8) (a : JOp) (hits : List (Fin 256)) (s : State) :
    Host.Outcome State Fault Refusal := s.clocked <|
  .next (s.jetArith die arr (jWord 6 dst a.toNat 0 0 0) [a.toNat] (fun v => lift1 jSign (nth v 0 {})) hits)

/-- RSQRT: lanes that are not above zero are counted (Table 08-1). -/
def execRsqrt (die : Die) (arr : ArrayIx) (dst : Fin 8) (a : JOp) (hits : List (Fin 256)) (s : State) :
    Host.Outcome State Fault Refusal := s.clocked <|
  let w := jWord 7 dst a.toNat 0 0 0
  let z := match s.jetHead die arr w with
    | none => 0
    | some (r, u, b) => ((s.lanes b r).filter fun x => match s.laneVal b r u a.toNat x.2 x.1 with
        | some v => !v.poison && (v.isZero || v.neg)
        | none => false).length
  let s := if z = 0 then s else s.bump (Reg.jetRsqrtz die arr) z
  .next (s.jetArith die arr w [a.toNat] (fun v => lift1 jRsqrt (nth v 0 {})) hits)

/-- SELECT. -/
def execSelect (die : Die) (arr : ArrayIx) (dst : Fin 8) (a b c : JOp) (hits : List (Fin 256)) (s : State) :
    Host.Outcome State Fault Refusal := s.clocked <|
  .next (s.jetArith die arr (jWord 8 dst a.toNat b.toNat c.toNat 0) [a.toNat, b.toNat, c.toNat]
    (fun v => jSelect (nth v 0 {}) (nth v 1 {}) (nth v 2 {})) hits)

/-- SCALE. -/
def execScale (die : Die) (arr : ArrayIx) (dst : Fin 8) (a : JOp) (imm : BitVec 6) (hits : List (Fin 256)) (s : State) :
    Host.Outcome State Fault Refusal := s.clocked <|
  .next (s.jetArith die arr (jWord 9 dst a.toNat 0 0 imm.toNat) [a.toNat]
    (fun v => lift1 (jScale imm.toInt) (nth v 0 {})) hits)

/-- Enter a lane into a statistic (R223): SUM and SUMSQ truncate toward minus infinity at E, MAX keeps the largest with +0 above
−0. -/
def StatAcc.enter (a : StatAcc) (kind : Nat) (e : Int) (v : JVal) : StatAcc :=
  let x := f32Exact v
  let z : Int := if x.neg then -(x.m : Int) else x.m
  match kind with
  | 2 =>
    let m := match a.max with
      | none => v.bits
      | some y => ((jMax { bits := y } v).getD v).bits
    { a with max := some m, n := a.n + 1 }
  | k =>
    let q := if k = 0 then shiftFloor z (x.e - e) else shiftFloor (z * z) (2 * x.e - e)
    { a with sum := wrap128 (a.sum + q), mtop := if q = 0 then a.mtop else Nat.max a.mtop (msb q), res := (a.res + res255 q) % 255,
             n := a.n + 1 }

/-- LAYER_REDUCE (R223): every active lane whose F value is +0 enters the statistic; it does nothing in the other passes. -/
def execLayerReduce (die : Die) (arr : ArrayIx) (tslot : Fin 4) (a : JOp) (rkind : Fin 3) (divn : Bool) (elsb : BitVec 8)
    (hits : List (Fin 256)) (s : State) : Host.Outcome State Fault Refusal := s.clocked <|
  let w := at_ 27 0x0A + at_ 24 tslot.val + at_ 18 a.toNat + at_ 16 rkind.val + at_ 15 (b2n divn) + at_ 7 elsb.toNat
  .next (match s.jetHead die arr w with
    | none => s
    | some (r, u, b) =>
      if r.pass ≠ 1 ∨ u.tvals.any (fun t => t.1 == tslot.val) then s.jetAdvance die arr b r
      else
        let ji := arrIx die arr
        let wt := progW b r.prog
        let vw := s.view r.pt b wt r.step
        let ls := (s.lanes b r).filter fun x => !(s.part r.pt).frozen b wt (unRow vw.used x.2)
        let vs := ls.map fun x => (x.1, s.laneVal b r u a.toNat x.2 x.1)
        let d := ((u.trunc.find? fun t => t.1 == tslot.val).map (·.2)).getD 0
        let acc := (u.stats.find? fun t => t.slot == tslot.val).getD { slot := tslot }
        let acc := vs.foldl (fun acc v => match v.2 with
          | some x => if x.poison then { acc with n := acc.n + 1 } else acc.enter rkind (elsb.toInt + d) x
          | none => acc) acc
        let s := s.modUpd r.pt r.step r.layerId fun u =>
          { u with stats := acc :: u.stats.filter fun t => t.slot != tslot.val }
        let s := s.poisonLanes ji b r ((vs.filter fun v => (v.2.getD {}).poison).map fun v => (v.1, 256 * r.vecs.headD 0 + v.1))
        let s := s.numericLanes ji b r u ((vs.filter fun v => v.2.isNone).map (·.1))
        let hs := (hits.map (·.val)).filter fun h => ls.any fun x => x.1 == h
        if hs.isEmpty then s.jetAdvance die arr b r else s.jetHits die arr b r hs)

/-- STORE (R225, R226): lanes whose predicate is nonzero and that are not suppressed keep their values for version t + 1. -/
def execStore (die : Die) (arr : ArrayIx) (target : Fin 3) (a pred : JOp) (round : BitVec 2) (hits : List (Fin 256))
    (s : State) : Host.Outcome State Fault Refusal := s.clocked <|
  let w := at_ 27 0x0B + at_ 24 target.val + at_ 18 a.toNat + at_ 12 pred.toNat + at_ 10 round.toNat
  .next (match s.jetHead die arr w with
    | none => s
    | some (r, u, b) =>
      let ji := arrIx die arr
      let wt := progW b r.prog
      let vw := s.view r.pt b wt r.step
      let ls := s.lanes b r
      let ps := ls.map fun x => (x.1, x.2, s.laneVal b r u pred.toNat x.2 x.1)
      let s := s.numericLanes ji b r u ((ps.filter fun p => p.2.2.isNone).map (·.1))
      let s := s.poisonLanes ji b r ((ps.filter fun p => (p.2.2.getD {}).poison).map fun p => (p.1, p.2.1))
      let on := ps.filter fun p => match p.2.2 with | some v => !v.poison && !v.isZero | none => false
      let frz := on.filter fun p => (s.part r.pt).frozen b wt (unRow vw.used p.2.1)
      let s :=
        if jobStrict b then forEach frz (fun p s => (s.jetError ji 1 r.pc p.1).updFail r 3) s
        else if r.pass = 3 ∧ !frz.isEmpty then s.bump (Reg.jetFrozenst die arr) frz.length else s
      let s :=
        if r.pass = 1 ∨ (r.pass = 3 ∧ (s.part r.pt).ring b wt = 1) then s
        else
          let live := on.filter fun p => !(frz.any fun f => f.1 == p.1)
          let vals := live.map fun p => (p.1, p.2.1, s.laneVal b r u a.toNat p.2.1 p.1)
          let s := s.numericLanes ji b r (((s.stepSt r.pt r.step).bind (·.upd r.layerId)).getD u) ((vals.filter fun p => p.2.2.isNone).map (·.1))
          let s := s.poisonLanes ji b r ((vals.filter fun p => (p.2.2.getD {}).poison).map fun p => (p.1, p.2.1))
          let keep := vals.filterMap fun p => p.2.2.map fun v => (target.val, p.2.1, v, round.toNat)
          s.modUpd r.pt r.step r.layerId fun u => { u with stored := u.stored ++ keep }
      let hs := (hits.map (·.val)).filter fun h => ls.any fun x => x.1 == h
      if hs.isEmpty then s.jetAdvance die arr b r else s.jetHits die arr b r hs)

/-! ### UPDATE_START and STATISTICS_COMPLETE -/

/-- Whether the slot of version t + 1 is free (R194): its old version's step has committed and nothing refers to it. A weight updated in place
waits with its apply pass (R195, R206). -/
def State.slotFree (s : State) (pt : Nat) (b : List Byte) (w step : Nat) : Bool :=
  let p := s.part pt
  let n := p.ring b w
  let old := step + 1 - n
  n == 1 || ((decide (step + 1 < p.first.getD 0 + n) || decide (old ≤ p.commit)) && !s.snapHolds pt b w old &&
    !p.steps.any fun x => decide (x.num < step) && x.num == old && x.st != 6)

/-- Whether the gradients a layer's update reads are rounded at this member (R198). -/
def State.gradReady (s : State) (b : List Byte) (x : StepSt) (pt : Nat) (id : Nat) : Bool :=
  (layerRecs b id).all fun li =>
    let L := bedLayer b li
    L.outDW == none32 ||
      (let v := s.outView pt b x.num L 2
       let i := x.inst L.outDW 0xFFFF
       (List.range (prodN v.used)).all fun n => i.done.testBit n)

/-- The stall for a scalar set ends: it has come, or its step starts afresh (R217). -/
def State.endScalarWait (s : State) (pt step : Nat) : State :=
  s.modComp fun c => { c with jets := c.jets.map fun (j : JetSt) =>
    { j with scalarWait := j.scalarWait.filter fun w => !(w.pt == pt && w.step == step) } }

/-- UPDATE_START (R194, R198, R216, R217): the update of a layer starts, or its wait is recorded. -/
def execUpdateStart (pt : Pt) (layerId : Nat) (s : State) : Host.Outcome State Fault Refusal := s.clocked <|
  .next (match (s.part pt).bed with
    | none => s
    | some b =>
      let ahead := jobAhead b
      let cand := (s.active pt).find? fun x =>
        (match (layerRecs b layerId).head? with
          | some li => (bedLayer b li).jet != none32 && !(s.part pt).heldWeight b (progW b (bedLayer b li).jet)
          | none => false) &&
        ((x.upd layerId).map fun u => u.pass == 0).getD true &&
        (if ahead = 0 then x.st == 3 || (x.st == 1 && x.settled) else decide (1 ≤ x.st ∧ x.st ≤ 3)) && s.gradReady b x pt layerId
      match cand, (layerRecs b layerId).head? with
      | some x, some li =>
        let prog := (bedLayer b li).jet
        let jets := s.layerJets b layerId
        match (s.part pt).sets.find? fun z => z.step == x.num with
        | none =>
          let w : JetWait := ⟨pt, x.num, layerId⟩
          let s := forEach jets (fun j s => s.modJet j fun y =>
            { y with scalarWait := if y.scalarWait.contains w then y.scalarWait else y.scalarWait ++ [w] }) s
          let s := s.chargeStep pt x.num 3 (x.num % 2 ^ 32)
          if x.scalarTold then s
          else
            let s := s.modStep pt x.num fun x => { x with scalarTold := true }
            (s.ptEvent pt 4 (packLE [(8, x.num), (4, layerId)])).fire (0x80 + 8 * pt + 3)
        | some set =>
          let s := s.endScalarWait pt x.num
          if !s.slotFree pt b (progW b prog) x.num then
            let waited := ((x.upd layerId).map (·.waited)).getD false
            let s := if waited then s else s.bump (Reg.dieVerwait 0 pt) 1
            s.modStep pt x.num fun x =>
              { x with upds := ({ layerId := layerId, prog := prog, waited := true } : Upd) ::
                  x.upds.filter fun u => u.layerId != layerId }
          else
            let u : Upd := { layerId := layerId, prog := prog, slots := set.slots }
            let s := s.modPart pt fun p =>
              { p with sets := p.sets.map fun z => if z.step == x.num then { z with locked := true } else z }
            let s := s.modStep pt x.num fun x => { x with upds := u :: x.upds.filter fun u => u.layerId != layerId }
            let s := s.notePhase pt b (bedLayer b li).die 3 li
            let ws := progWords (recOf b 0x0208 prog)
            let stores := ws.any fun w => jOp w == 0x0B
            if (lastReduce ws).isSome ∨ (jobStrict b ∧ stores ∧ (s.part pt).nextPass b prog = 3) then
              let s := s.startPass pt x.num b u 1
              if s.passRuns pt x.num layerId then s else s.endPass pt x.num b layerId
            else s.startNext pt x.num b u
      | _, _ => s)

/-- A statistic as an entry of a scalar round gives it (R275, R224). -/
def statOf (slot : Nat) (e : List Byte) : StatAcc :=
  if u8 e 0 = 1 then
    { slot := slot, max := if entryVal e ≤ -(2 ^ 40) then none else some (unMaxKey (entryVal e)) }
  else { slot := slot, sum := entryVal e, mtop := u8 e 1, res := u8 e 2, n := u64 e 8 }

/-- Test and convert one statistic, or repeat it with its deficit (R224): the update with its T slot, the slots to repeat, and the state. -/
def State.settleStat (s : State) (pt step : Nat) (b : List Byte) (u : Upd) (again : List Nat) (c : StatAcc) (w : Nat) :
    Upd × List Nat × State :=
  let d0 := ((u.trunc.find? fun t => t.1 == c.slot).map (·.2)).getD 0
  if field w 17 16 = 2 then ({ u with tvals := (c.slot, { bits := c.max.getD 0 }) :: u.tvals }, again, s)
  else if d0 = 0 ∧ !headroomOk c.mtop c.n ∧ c.n ≠ 0 then
    let d := deficit c.mtop c.n
    let s := forEach (s.layerJets b u.layerId) (fun j s => s.bump (Reg.jetStatrep (j / 18) (j % 18)) 1) s
    let s := s.stepRec pt step { unitRec 0 0x13 0 7 0 with layer := u.layerId, detail1 := c.slot + at_ 8 d }
    ({ u with trunc := (c.slot, d) :: u.trunc }, c.slot :: again, s)
  else
    let e := sN 8 (field w 14 7) + (d0 : Int)
    let q := if bit w 15 ∧ c.n ≠ 0 then quotient c.sum c.n e else exactZ c.sum e
    match if c.n = 0 ∨ q.m = 0 then some 0 else f32Round q.neg q.m q.e q.sticky with
    | some bits => ({ u with tvals := (c.slot, { bits := bits }) :: u.tvals }, again, s)
    | none => ({ u with fail := 4 }, again, s)

/-- STATISTICS_COMPLETE (R224): once the lists of every group that shards the weight have come, each statistic is tested and converted, or
the pass repeats with its deficit. -/
def execStatisticsComplete (pt : Pt) (layerId : Nat) (s : State) : Host.Outcome State Fault Refusal := s.clocked <|
  .next (match (s.part pt).bed with
    | none => s
    | some b =>
      match (s.part pt).steps.find? fun x => ((x.upd layerId).map fun u => u.pass == 5).getD false with
      | none => s
      | some x =>
        let li := ((layerRecs b layerId).head?).getD 0
        match x.upd layerId with
        | none => s
        | some u =>
          match s.roundResult pt 1 li x.num (u.statList b) with
          | none => s
          | some es =>
            let s := s.leaveRound pt 1 li x.num
            let ws := progWords (recOf b 0x0208 u.prog)
            let slots := ((ws.filter fun w => jOp w == 0x0A).map fun w => (field w 25 24, w)).filter fun y =>
              !u.tvals.any fun t => t.1 == y.1
            let (u', again, s) := slots.foldl (fun (a : Upd × List Nat × State) y =>
              a.2.2.settleStat pt x.num b a.1 a.2.1 (statOf y.1 (nth es y.1 [])) y.2) (u, [], s)
            let u' := { u' with stats := u'.stats.filter fun t => !again.contains t.slot }
            let s := s.modUpd pt x.num layerId fun _ => u'
            if u'.fail = 4 then
              (s.overflowEvent pt x.num (bedTensor b (progW b u.prog)).tag).endPass pt x.num b layerId
            else if again.isEmpty then s.startNext pt x.num b u'
            else
              let s := (s.chargeStep pt x.num 1 layerId).startPass pt x.num b u' 1
              if s.passRuns pt x.num layerId then s else s.endPass pt x.num b layerId)

end Sys2Proof.Machine
end

