-- ==== Sys2Proof/Machine/Rounds.lean ====
section
/-! DEFINITION. Rounds.lean: step boundaries, settle and commit rounds, Spillway repeats, rung returns, commit, undo and replay
(R88, R99 to R104, R196 to R203, R222, R349 to R353, R431). -/
namespace Sys2Proof.Machine

/-! ### Step boundaries (R353, R369, R431) -/

/-- A free spare of a die: an array that holds no role, is in service and is not under test. -/
def State.freeSpare (s : State) (die : Nat) : Option Nat :=
  (List.range 18).find? fun a =>
    let x := vget s.arrays (arrIx die a)
    x.role.isNone && !x.retired && !x.out && (vget s.tests (arrIx die a)).st == 0

/-- Move the role of an array to another array of its die (R25, R353). -/
def State.moveRole (s : State) (i j : Nat) : State :=
  let r := (vget s.arrays i).role
  (s.modArr i fun x => { x with role := none, moveAway := false }).modArr j fun x => { x with role := r }

/-- A spare that has come free takes a role left unbound (R432). -/
def State.rebind (s : State) (die : Nat) : State :=
  match s.boot.unbound.find? fun r => r / 16 == die, s.freeSpare die with
  | some r, some a =>
    (s.modBoot fun b => { b with unbound := b.unbound.filter fun x => x != r }).modArr (arrIx die a) fun x => { x with role := some (r % 16) }
  | _, _ => s

/-- End the rotation of a test so that its spare is free again: the tested array takes its role back (Table 16-8). -/
def State.endRotation (s : State) (i : Nat) : State :=
  match (vget s.tests i).spare with
  | some j => ((s.moveRole j i).modTest i fun t => { t with st := 0, spare := none, waiting := false }).rebind (i / 18)
  | none => s

/-- What a step boundary of a partition does with one array: the role of a confirmed array or of a candidate moves to a spare, a test
that waits starts by rotation or in place, a tested array takes its role back. -/
def State.boundaryArray (s : State) (i : Nat) : State :=
  let die := i / 18
  let A := vget s.arrays i
  let T := vget s.tests i
  if A.moveAway ∧ A.role.isSome then
    let s := match s.freeSpare die, (List.range 18).find? fun a => (vget s.tests (arrIx die a)).spare.isSome with
      | none, some a => s.endRotation (arrIx die a)
      | _, _ => s
    -- the array stays out of binding for this power-on (Table 16-4)
    match s.freeSpare die with
    | some a => (s.moveRole i (arrIx die a)).modArr i fun x => { x with out := true }
    | none => s
  else if T.waiting ∧ T.st = 1 then s.endRotation i
  else if T.waiting ∧ T.forcing then
    -- the promises of the partition's admitted steps break through the test (Table 16-6)
    let code := 32 * die + i % 18
    let s := ((s.modTest i fun t => { t with st := 2, waiting := false, forcing := false, forced := true }).fire 0x17).bump Reg.testForcecnt 1
    match s.arrayOwner i with
    | some pt =>
      let l := (s.comp.weir.adms.filter fun a => a.pt == pt && dOp a.desc == 1).map (·.admno)
      (forEach l (fun n s => s.chargeAdm pt n 0x0C code) s).ptEvent pt 0x2B (leBytes 4 code)
    | none => s
  else if T.waiting ∧ A.role.isSome then
    match s.freeSpare die with
    | some a => (s.moveRole i (arrIx die a)).modTest i fun t =>
      { t with st := 2, waiting := false, forced := false, spare := some (arrIx die a) }
    | none => s
  else s

/-- A step boundary of a partition. -/
def State.boundary (s : State) (pt : Nat) : State :=
  forEach ((List.range 72).filter fun i =>
    (s.arrayOwner i == some pt) || (match (vget s.tests i).spare with | some j => s.arrayOwner j == some pt | none => false))
    (fun i s => s.boundaryArray i) s

/-! ### What a round carries (R197, R198, R222, R275) -/

/-- LAYER_IDs with an update that must finish in a step. -/
def State.updating (s : State) (pt : Nat) (b : List Byte) : List Nat :=
  ((List.range (secCount b 0x0205)).filter fun i =>
    let j := (bedLayer b i).jet
    j != none32 && !(s.part pt).heldWeight b (progW b j)).map (fun i => (bedLayer b i).id) |>.eraseDups

/-- Whether every update program of a step has finished, the apply passes of in-place updates apart (R195, R198). -/
def State.updatesDone (s : State) (pt : Nat) (b : List Byte) (x : StepSt) : Bool :=
  (s.updating pt b).all fun id => (x.upd id).any fun u => u.pass == 4 || u.pass == 6

/-- Tensors that update programs store. -/
def storedTensors (b : List Byte) : List Nat :=
  ((recsOf b 0x0208).flatMap fun r => [u32 r 4, u32 r 8, u32 r 12]).filter (· != none32) |>.eraseDups

/-- Output tensors: those that products and Cascade write. -/
def outTensors (b : List Byte) : List Nat := (List.range (secCount b 0x0203)).filter fun t => produced b t && outFmt (bedTensor b t).format

/-- Whether a tensor's recipe is RUNMAX (R88). -/
def State.runmax (s : State) (b : List Byte) (t : Nat) : Bool :=
  match s.plan with
  | some p => bit (recipeEntry p (jobRecipe b) (bedTensor b t).kind) 3
  | none => false

/-- Fit rung of a tensor in a step at this member. -/
def StepSt.fitOf (x : StepSt) (t : Nat) : Nat := ((x.insts.filter fun i => i.tensor == t).map (·.fit)).foldl max 0

/-- X_s of a tensor in a step at this member (R88): what its outputs and stores found, what its seeds brought, and, for a weight or moment
that no update stores, the values of the host's version t₀ in step t₀ (DESIGN CHOICE: entry 72). -/
def State.xsOf (s : State) (pt : Nat) (b : List Byte) (x : StepSt) (t : Nat) : Option Int :=
  let host :=
    if (ringWeight b t).isSome ∧ !(storedTensors b).contains t ∧ (s.part pt).first = some x.num then
      let v := s.view pt b t x.num
      maxLg ((allIx v.used).map fun ix => (s.readElem b v ix).exact v.c)
    else none
  (((x.insts.filter fun i => i.tensor == t).map (·.xs)) ++
    (((s.part pt).seedXs.filter fun y => y.1 == x.num && y.2.1 == t).map fun y => some y.2.2) ++ [host]).foldl maxXs none

/-- Undefined X_s in a MAX entry. -/
def noXs : Int := -(2 ^ 100)

/-- Tensors whose rungs a round judges: outputs at the settle round, stored tensors where it serves as the commit round. -/
def roundTensors (b : List Byte) (settle commit : Bool) : List Nat :=
  ((if settle then outTensors b else []) ++ (if commit then storedTensors b else [])).eraseDups

/-- Tensors whose X_s a round carries: every RUNMAX tensor of those it judges, and at the settle round those that only seeds or the host
write (R88, R197). -/
def State.xsTensors (s : State) (b : List Byte) (settle commit : Bool) : List Nat :=
  let rest := (List.range (secCount b 0x0203)).filter fun t => !(outTensors b).contains t && !(storedTensors b).contains t
  (roundTensors b settle commit ++ (if settle then rest else [])).filter fun t => s.runmax b t

/-- Entries of a round: the failure flag, every X_s, every fit rung. -/
def State.roundList (s : State) (pt : Nat) (b : List Byte) (x : StepSt) (settle commit : Bool) : List (List Byte) :=
  maxEntry (x.fail : Int) :: ((s.xsTensors b settle commit).map fun t => maxEntry ((s.xsOf pt b x t).getD noXs)) ++
    (roundTensors b settle commit).map fun t => maxEntry (x.fitOf t : Int)

/-- What a settle or commit round found: failure rank (R220), X_s and fit rung by TENSOR record. -/
structure RoundOut where
  fail : Nat
  xs : List (Nat × Int)
  fits : List (Nat × Nat)
deriving DecidableEq, Repr, Inhabited

/-- Outcome of a round over every member, once the lists of all have come (R197, R198, R222). -/
def State.roundOut (s : State) (pt : Nat) (b : List Byte) (x : StepSt) (round : Nat) (settle commit : Bool) : Option RoundOut :=
  (s.roundResult pt round 0 x.num (s.roundList pt b x settle commit)).map fun es =>
    let run := s.xsTensors b settle commit
    { fail := (entryVal (nth es 0 [])).toNat
      xs := run.zipIdx.filterMap fun t => let v := entryVal (nth es (1 + t.2) []); if v ≤ noXs then none else some (t.1, v)
      fits := (roundTensors b settle commit).zipIdx.map fun t => (t.1, (entryVal (nth es (1 + run.length + t.2) [])).toNat) }

/-! ### Settle round (R197) -/

/-- CASCADE records of a program from its first (R259). -/
def progRecs (b : List Byte) : Nat → Nat → List Nat
  | 0, _ => []
  | k + 1, i => if (bedCasc b i).opc = 0 then [] else i :: progRecs b k (i + 1)

/-- First records of the programs of a BED: those that layers name, and those that follow an END and no layer names (R260). -/
def programs (b : List Byte) : List (Nat × Option Nat) :=
  let n := secCount b 0x0209
  let named := (List.range (secCount b 0x0205)).filterMap fun li =>
    let c := (bedLayer b li).casc
    if c = none32 then none else some (c, some li)
  let starts := (List.range n).filter fun i => (i == 0 || (bedCasc b (i - 1)).opc == 0) && (bedCasc b i).opc != 0
  let free := starts.filter fun i => !named.any fun x => x.1 == i
  (named.foldl (fun l x => if l.any (fun y => y.1 == x.1) then l else l ++ [x]) []) ++ free.map fun i => (i, none)

/-- Instructions of a step as (record, LAYER record, micro-batch). -/
def instrsOf (b : List Byte) : List (Nat × Option Nat × Nat) :=
  (programs b).flatMap fun p => (progRecs b 64 p.1).flatMap fun r =>
    (if (bedCasc b r).permb then List.range (jobMbs b) else [0xFFFF]).map fun m => (r, p.2, m)

/-- A Cascade instruction's run. -/
def State.cascRun (s : State) (pt step record mb : Nat) : Option CascRun :=
  s.comp.casc.runs.find? fun r => r.pt == pt && r.step == step && r.record == record && r.mb == mb

/-- Whether the reductions of a step have rounded their results here and every contribution sent is confirmed (R197). -/
def State.cascSettled (s : State) (pt : Nat) (b : List Byte) (step : Nat) : Bool :=
  ((instrsOf b).all fun i =>
    let c := bedCasc b i.1
    !((c.opc == 1 || c.opc == 3) && (c.when_ == 0 || c.when_ == 2)) || (s.cascRun pt step i.1 i.2.2).any fun r => decide (3 ≤ r.phase)) &&
  s.comp.casc.sent.all fun x => x.pt != pt || x.chunk.step != step || x.chunk.kind == 5 || (x.confirmed && !x.gone && !x.held)

/-- Whether the settle round of a step may start here (R197); under A1 a run-ahead step's round waits for its turn. -/
def State.settleOk (s : State) (pt : Nat) (b : List Byte) (x : StepSt) : Bool :=
  x.st == 1 && x.again.isEmpty && (s.running pt x.num).isEmpty &&
    ((s.allTasks pt b x.num).all fun t => x.done.contains t || x.skipped.contains t) && s.cascSettled pt b x.num &&
    (jobProv b || (s.spanGroups pt).isEmpty || s.isOldest pt x.num)

/-- SETTLE_ROUND_START (R197). -/
def execSettleRoundStart (pt : Pt) (s : State) : Host.Outcome State Fault Refusal :=
  .next (match (s.part pt).bed with
    | none => s
    | some b =>
      match (s.active pt).find? (s.settleOk pt b) with
      | none => s
      | some x =>
        let both := s.updatesDone pt b x
        let s := s.modStep pt x.num fun x => { x with st := 2, both := both }
        match s.stepSt pt x.num with
        | some x => s.enterRound pt 2 0 x.num (s.roundList pt b x true both)
        | none => s)

/-! ### Failure and spills (R99 to R101, R200, R203, R220, R222) -/

/-- A round finds a failure flag: the highest rank decides (R220, Table 07-4). -/
def State.failRank (s : State) (pt step rank : Nat) : State :=
  match rank with
  | 4 => s.numericFail pt step
  | 3 => s.endStep pt step 4
  | 2 => s.consumed pt step (((s.stepSt pt step).map (·.lostTag)).getD 0)
  | _ => s.failReplay pt step none

/-- Dependent closure of some tensors (R200): products that write them, products that read them or an output in the closure. -/
def State.closure (s : State) (pt : Nat) (b : List Byte) (step : Nat) : Nat → List Nat → List Task → List Nat × List Task
  | 0, ts, tasks => (ts, tasks)
  | k + 1, ts, tasks =>
    let more := (s.allTasks pt b step).filter fun t =>
      let L := bedLayer b t.layer
      let o := opTensors b L t.prod
      !tasks.contains t && (ts.contains o.1 || ts.contains o.2 || ts.contains (outTensor L t.prod))
    if more.isEmpty then (ts, tasks)
    else State.closure s pt b step k ((ts ++ more.map fun t => outTensor (bedLayer b t.layer) t.prod).eraseDups) (tasks ++ more)

/-- An OUT_DW tensor, or another that a reduction writes, re-rounded from the exact sums that are held (R200): its instances keep their
values and round them again. -/
def State.reround (s : State) (pt : Nat) (b : List Byte) (step t : Nat) : State :=
  match s.stepSt pt step with
  | none => s
  | some x =>
    let vals := (x.insts.filter fun i => i.tensor == t).flatMap fun i => i.vals.map (·.1)
    let s := s.modStep pt step fun x =>
      { x with insts := x.insts.map fun i => if i.tensor == t then { i with done := 0, fit := 0, xs := none } else i }
    let v := s.viewAt pt b t step (s.coarse pt t step) (s.rungAt pt t step)
    let s := s.noteScale pt b t step step v.c v.fmt
    s.roundBlocks pt b step t v ((allIx v.used).filter fun ix => vals.contains (s.index48 pt v.lay ix))

/-- A product's weight gradient. -/
def isGrad (b : List Byte) (t : Nat) : Bool := (bedLayers b).any fun L => L.outDW == t

/-- TENSOR records that an update program stores or may store. -/
def progStores (b : List Byte) (prog : Nat) : List Nat :=
  let r := recOf b 0x0208 prog
  [u32 r 4, u32 r 8, u32 r 12].filter (· != none32)

/-- Drop the updates of some layers in a step, with the fit rungs and exponents that they found: they run again (R200, R207, R222). The
answer names the tensors of the versions t + 1 that had been written. -/
def State.dropUpdates (s : State) (pt : Nat) (b : List Byte) (step : Nat) (ids : List Nat) : State × List Nat :=
  let gone := (((s.stepSt pt step).map (·.upds)).getD []).filter fun u => ids.contains u.layerId
  let stores := (gone.flatMap fun u => progStores b u.prog).eraseDups
  let s := s.modStep pt step fun x =>
    { x with
      upds := x.upds.filter fun u => !ids.contains u.layerId
      insts := x.insts.filter fun i => !stores.contains i.tensor }
  (s.forgetJets fun q n l => q == pt && n == step && ids.contains l,
   ((gone.filter fun u => u.pass == 4).flatMap fun u => progStores b u.prog).eraseDups)

/-- Discard the work of a step that rests on some tensors' values or rungs, or on replaced versions of some weights (R103, R200, R203): the
tasks done or running of the dependent closure, the instances they wrote, the updates and Cascade instructions that the closure reaches.
The answer holds the tasks, the tensors of the versions whose updates run again, and whether any work was lost. -/
def State.dropWork (s : State) (pt : Nat) (b : List Byte) (step : Nat) (ts ws : List Nat) : State × List Task × List Nat × Bool :=
  match s.stepSt pt step with
  | none => (s, [], [], false)
  | some x =>
    let (cts, tasks) := s.closure pt b step ((secCount b 0x0205) * 3 + 1) ((ts.filter fun t => !isGrad b t) ++ ws) []
    let run := s.running pt step
    let hit := tasks.filter fun t => x.done.contains t || run.contains t
    let touched := (cts ++ ts).filter (isGrad b)
    let redo := ((bedLayers b).filter fun L =>
      touched.contains L.outDW || (L.jet != none32 && (progStores b L.jet).any ws.contains)).map (·.id) |>.eraseDups
    let lost := !hit.isEmpty || x.upds.any fun u => redo.contains u.layerId && u.pass != 0
    let (s, vs) := s.dropUpdates pt b step redo
    let outs := (hit.map fun t => outTensor (bedLayer b t.layer) t.prod).eraseDups
    let s := s.modStep pt step fun x =>
      { x with
        done := x.done.filter fun t => !hit.contains t
        insts := x.insts.filter fun i => !outs.contains i.tensor
        st := if lost && decide (2 ≤ x.st ∧ x.st ≤ 4) then 1 else x.st
        settled := x.settled && !lost, both := x.both && !lost }
    let s : State :=
      { s with arrays := s.arrays.map fun (a : ArraySt) =>
          { a with tiles := a.tiles.map fun T =>
              if T.pt == pt && T.step == step && hit.contains T.task then { T with discard := true } else T } }
    let s := s.modCasc fun c =>
      { c with
        runs := c.runs.map fun r =>
          let c := bedCasc b r.record
          if !(r.pt == pt && r.step == step) then r
          else if outs.contains c.src || ts.contains c.src || (match r.layer with | some l => outs.contains (bedLayer b l).outDW | none => false) then
            { r with anchors := [], phase := 0, defs := [], on := false }
          else if c.opc == 3 && ts.contains c.dst then { r with phase := min r.phase 3 }
          else r
        rounds := c.rounds.map fun r =>
          if lost && (vget c.groups r.slot).pt == pt && r.step == step then { r with own := none } else r }
    (s, hit, vs, lost)

/-- Discard, in the steps after one, every task that reads a replaced version or a tensor whose rung changes, and what follows from it; each
step that loses work is counted (R103, R203, R207). The list holds the steps in order; ws are the tensors whose versions of the first have
been replaced. -/
def State.dropLater (pt : Nat) (b : List Byte) (ts : List Nat) : List Nat → List Nat → State → State
  | [], _, s => s
  | n :: rest, ws, s =>
    let (s, _, vs, lost) := s.dropWork pt b n ts ws
    State.dropLater pt b ts rest vs (if lost then s.bump (Reg.dieUndocnt 0 pt) 1 else s)

/-- The run-ahead steps after a step lose what rests on changed rungs or replaced versions. -/
def State.undoDependants (s : State) (pt : Nat) (b : List Byte) (step : Nat) (ts ws : List Nat) : State :=
  State.dropLater pt b ts (((s.part pt).steps.filter fun x => decide (step < x.num) && x.st != 0 && x.st != 6).map (·.num)) ws s

/-- Do again in a step what rests on some tensors (R200): the closure's tasks take class 0, outputs of reductions round again, the updates
reached are redone; the answer holds the tasks and the tensors of replaced versions. -/
def State.redo (s : State) (pt : Nat) (b : List Byte) (step : Nat) (ts : List Nat) : State × List Task × List Nat :=
  let (s, hit, vs, _) := s.dropWork pt b step ts []
  let s := s.modStep pt step fun x => { x with again := (x.again ++ hit).eraseDups }
  (forEach (ts.filter fun t => isGrad b t || (cascWriter b t).isSome) (fun t s => s.reround pt b step t) s, hit, vs)

/-- Recompute the dependent closure of some tensors in a step (R200), each recomputed layer being counted; the answer names the tensors of
replaced versions. -/
def State.recompute (s : State) (pt : Nat) (b : List Byte) (step : Nat) (ts : List Nat) : State × List Nat :=
  let (s, hit, vs) := s.redo pt b step ts
  let layers := (hit.map fun t => (bedLayer b t.layer).id).eraseDups
  (if layers.isEmpty then s else s.bump (Reg.dieSpillrep 0 pt) layers.length, vs)

/-- The values of some tensors of a step have been replaced: what rests on them is done again, updates that had finished among it, and
run-ahead steps lose what they computed from the versions replaced (R203, R207). -/
def State.redoFrom (s : State) (pt : Nat) (b : List Byte) (step : Nat) (ts : List Nat) : State :=
  let (s, _, vs) := s.redo pt b step ts
  s.undoDependants pt b step [] vs

/-- Spills found by a round: rungs, records, charges (R99, R100). -/
def State.noteSpills (s : State) (pt : Nat) (b : List Byte) (step : Nat) (sp : List (Nat × Nat)) : State :=
  forEach sp (fun x s =>
    let old := s.rungAt pt x.1 step
    let tag := (bedTensor b x.1).tag
    let s := s.stepRec pt step { unitRec 0 0x11 0 7 0 with layer := tag, detail1 := old + at_ 4 x.2 }
    let s := s.chargeStep pt step 2 tag
    s.modStep pt step fun y => { y with rungs := x :: y.rungs.filter fun r => r.1 != x.1 }) s

/-- Redo every update program that stores a spilled tensor (R222); the answer names the tensors of replaced versions. -/
def State.redoUpdates (s : State) (pt : Nat) (b : List Byte) (step : Nat) (ts : List Nat) : State × List Nat :=
  let hit := (((s.stepSt pt step).map (·.upds)).getD []).filter fun u => (progStores b u.prog).any ts.contains
  let s := if hit.isEmpty then s else s.bump (Reg.dieSpillrep 0 pt) hit.length
  s.dropUpdates pt b step (hit.map (·.layerId))

/-- Spills of a step: records and rungs, the updates that store a spilled tensor and the dependent closure of the others done again, and
run-ahead steps relieved of what rests on them (R103, R200, R203, R222). -/
def State.spill (s : State) (pt : Nat) (b : List Byte) (step : Nat) (sp : List (Nat × Nat)) : State :=
  let ts := sp.map (·.1)
  let s := s.noteSpills pt b step sp
  let (s, ws) := s.redoUpdates pt b step ts
  let (s, vs) := s.recompute pt b step (ts.filter fun t => (outTensors b).contains t)
  s.undoDependants pt b step ts (ws ++ vs).eraseDups

/-- A tensor beyond BF16: NUMERIC_OVERFLOW and numeric failure (R101). -/
def State.overflowFail (s : State) (pt : Nat) (b : List Byte) (step t : Nat) : State :=
  (s.overflowEvent pt step (bedTensor b t).tag).numericFail pt step

/-! ### Commit (R198) -/

/-- Job entry of a tensor after the commit of a step: X_s, rung and hold (R88, R102 to R104). -/
def Part.commitJob (p : Part) (b : List Byte) (x : StepSt) (t : Nat) (run : Bool) : TensorJob :=
  let j := (p.job t).getD { tensor := t, rung := (bedTensor b t).format, since := none, xs := [] }
  let j := match x.rungs.find? fun r => r.1 == t with
    | some r => { j with rung := r.2, since := some x.num }
    | none => j
  if run then { j with xs := ((x.num, (x.xs.find? fun y => y.1 == t).map (·.2)) :: j.xs).take 128 } else j

/-- A step commits at this member (R198). -/
def State.commitStep (s : State) (pt : Nat) (b : List Byte) (step : Nat) : State :=
  match s.stepSt pt step with
  | none => s
  | some x =>
    let late := x.upds.filter fun u => u.pass == 6
    let ts := (List.range (secCount b 0x0203)).filter fun t =>
      x.rungs.any (fun r => r.1 == t) || s.runmax b t || ((s.part pt).job t).isSome
    let jobs := ts.map fun t => (s.part pt).commitJob b x t (s.runmax b t)
    let s := s.modPart pt fun p =>
      { p with
        jobs := jobs
        scales := p.keepScales x.scales
        commit := step
        steps := if late.isEmpty then p.steps.filter fun y => y.num != step
          else p.steps.map fun y => if y.num == step then { y with st := 6 } else y
        seeds := p.seeds.filter fun y => decide (step < y.1)
        seedXs := p.seedXs.filter fun y => decide (step < y.1)
        sets := p.sets.filter fun z => z.step != step }
    let s := s.put64 (Reg.dieCommitLo 0 pt) step
    let s := s.modCasc fun c =>
      { c with
        runs := c.runs.filter fun r => !(r.pt == pt && r.step == step)
        sent := c.sent.filter fun y => !(y.pt == pt && y.chunk.step == step)
        rounds := c.rounds.filter fun r => !(r.step == step && (vget c.groups r.slot).pt == pt) }
    let s := s.modFab fun f =>
      { f with tx := f.tx.map fun t => if t.pt == pt then { t with prov := t.prov.filter fun y => y.2 != step } else t }
    let s := s.ptEvent pt 1 (leBytes 8 step)
    let s := s.fire (0x80 + 8 * pt + 0)
    let s := s.completeStep pt step 0
    let s := s.settleRemote pt
    let s := s.releaseHeld pt
    (s.startApply pt).boundary pt

/-- What a round's outcome does: failure, numeric failure, spills or success (the answer tells). Ranks, spills and fits are judged
together: the cause without replay prevails (Table 07-8). -/
def State.judge (s : State) (pt : Nat) (b : List Byte) (step : Nat) (o : RoundOut) : Option State × List (Nat × Nat) :=
  let sp := o.fits.filter fun f => decide (s.rungAt pt f.1 step < f.2)
  match sp.find? fun f => decide (4 ≤ f.2) with
  | some f => (some (s.overflowFail pt b step f.1), [])
  | none => if o.fail ≠ 0 then (some (s.failRank pt step o.fail), []) else (none, sp)

/-- SETTLE_ROUND_COMPLETE (R197 to R200): the round ends once the lists of every member have come. -/
def execSettleRoundComplete (pt : Pt) (s : State) : Host.Outcome State Fault Refusal :=
  .next (match (s.part pt).bed, (s.part pt).steps.find? fun x => x.st == 2 && x.again.isEmpty with
    | some b, some x =>
      match s.roundOut pt b x 2 true x.both with
      | none => s
      | some o =>
        let s := s.leaveRound pt 2 0 x.num
        match s.judge pt b x.num o with
        | (some s, _) => s
        | (none, sp) =>
          if !sp.isEmpty then
            (s.spill pt b x.num sp).modStep pt x.num fun x => { x with st := 1, settled := false, both := false }
          else
            let s := s.modStep pt x.num fun x =>
              { x with settled := true, xs := o.xs, st := if x.both then 4 else 3 }
            if x.both ∧ s.isOldest pt x.num then s.commitStep pt b x.num else s
    | _, _ => s)

/-- COMMIT_ROUND_START (R198). -/
def execCommitRoundStart (pt : Pt) (s : State) : Host.Outcome State Fault Refusal :=
  .next (match (s.part pt).bed with
    | none => s
    | some b =>
      match (s.part pt).steps.find? fun x => x.st == 3 && s.updatesDone pt b x with
      | none => s
      | some x =>
        (s.modStep pt x.num fun x => { x with st := 4 }).enterRound pt 3 0 x.num (s.roundList pt b x false true))

/-- STEP_COMMIT (R196, R198, R222): the commit round of the oldest step passes, or finds a failure or a spill. -/
def execStepCommit (pt : Pt) (s : State) : Host.Outcome State Fault Refusal :=
  .next (match (s.part pt).bed, s.oldest pt with
    | some b, some x =>
      if x.st ≠ 4 then s
      else if x.both then s.commitStep pt b x.num
      else
        match s.roundOut pt b x 3 false true with
        | none => s
        | some o =>
          let s := s.leaveRound pt 3 0 x.num
          match s.judge pt b x.num o with
          | (some s, _) => s
          | (none, sp) =>
            if !sp.isEmpty then (s.spill pt b x.num sp).modStep pt x.num fun x => { x with st := 3 }
            else
              let s := s.modStep pt x.num fun x => { x with xs := o.xs ++ x.xs.filter fun y => !o.xs.any fun z => z.1 == y.1 }
              s.commitStep pt b x.num
    | _, _ => s)

/-- RUNG_RETURN (R102): once the hold of W steps has committed, the tensor moves down to its base rung or by one rung. -/
def execRungReturn (pt : Pt) (tensor : Nat) (s : State) : Host.Outcome State Fault Refusal :=
  .next (match (s.part pt).bed, (s.part pt).job tensor with
    | some b, some j =>
      let T := bedTensor b tensor
      match j.since with
      | none => s
      | some at0 =>
        if T.ret = 0 ∨ j.rung ≤ T.format ∨ (s.part pt).commit < at0 + T.hold then s
        else
          let down := if T.ret = 1 then T.format else j.rung - 1
          let j' : TensorJob := { j with rung := down, since := if down = T.format then none else some (at0 + T.hold) }
          s.modPart pt fun p => { p with jobs := p.jobs.map fun y => if y.tensor == tensor then j' else y }
    | _, _ => s)

/-! ### Undo and replay (R202, R351 to R353) -/

/-- Tiles of a partition that still drain although their step has been undone (R202). -/
def State.draining (s : State) (pt : Nat) : Bool := s.arrays.toList.any fun a => a.tiles.any fun T => T.pt == pt && T.discard

/-- UNDO_COMPLETE (R202, R258, R353): the tasks in flight have drained, and the partition stands at the boundary before the failed step;
role moves for confirmed errors are made, and an abandoned group goes back to FORMED, or forms anew when a member was lost. -/
def execUndoComplete (pt : Pt) (s : State) : Host.Outcome State Fault Refusal :=
  let groups := (List.range 256).filter fun i => let g := s.group i; g.st == 3 && g.pt == pt.val
  let failed := (s.part pt).steps.any fun x => x.st == 5 && !x.undone
  .next (if (!failed ∧ groups.isEmpty) ∨ s.draining pt then s
    else
      let s := s.modPart pt fun p => { p with steps := p.steps.map fun x => if x.st == 5 then { x with undone := true } else x }
      forEach groups (fun i s =>
        let g := s.group i
        let s := if g.lost then s.modGroup i fun g => { g with lost := false, told := false } else s
        s.setGroupSt i (if g.lost then 1 else 2)) (s.boundary pt))

/-- REPLAY_START (R196, R349, R352): once the undo has completed, the replay's first task may be chosen, or the step ends REPLAY_LIMIT. -/
def execReplayStart (pt : Pt) (s : State) : Host.Outcome State Fault Refusal :=
  .next (match (s.part pt).steps.find? fun x => x.st == 5 && x.undone with
    | none => s
    | some x =>
      let lim := field (s.reg Reg.faultCtl) 3 0
      if lim < x.replays then
        let last := x.causes.getLast?
        let s := s.stepRec pt x.num { unitRec 3 0x19 0 7 0 with layer := x.errLayer, names := last, detail2 := x.replays - 1 }
        s.endStep pt x.num 0x0F
      else
        let s := s.bump (Reg.dieReplaycnt 0 pt) 1
        let s := s.modFault fun f => { f with recov := f.recov.filter fun p => p != pt.val }
        s.modStep pt x.num fun x => { x with st := 0, replay := true })

end Sys2Proof.Machine
end

