-- ==== Sys2Proof/Machine/Fabric.lean ====
section
/-! DEFINITION. Fabric.lean: the commands of the fabric: QWT packets, adverts, router, neighbours, LLDP, port training
(R286 to R319). -/
namespace Sys2Proof.Machine

/-! ### Port state and training (R289 to R294) -/

/-- Change a half: a change of STATE or width raises PORT_WIDTH and the port's source; a change of rate updates the Weir's view and
sends an advert (R294, R319). -/
def State.setHalf (s : State) (p h : Nat) (f : HalfSt → HalfSt) : State :=
  let a := s.half p h
  let s := s.modHalf p h f
  let b := s.half p h
  if a.st = b.st ∧ a.width = b.width then s
  else
    let s := s.modEvent 0x21 (packLE [(4, p + at_ 5 h + at_ 6 (b2n (s.split p))), (4, a.rate), (4, b.rate)])
    let s := s.fire (0x20 + p)
    let s := if b.rate < a.rate then s.degrade p h else s
    if a.rate = b.rate then s else s.sendAdvert

/-- Physical lanes of a half in Ralhus mode: all ten, or five. -/
def State.laneMask (s : State) (p h : Nat) : Nat := if s.split p then (if h = 0 then 0x1F else 0x3E0) else 0x3FF
/-- Lanes of standard mode (R289). -/
def State.stdMask (s : State) (p h : Nat) : Nat := if s.split p then (if h = 0 then 0xF else 0xF0) else 0xFF
/-- Lanes that a half tests in stage 2, before its mode is known: those of either mode. -/
def State.testMask (s : State) (p h : Nat) : Nat := s.laneMask p h ||| s.stdMask p h
/-- Longest wait of a training stage in S cycles (Table 11-2). -/
def stageLimit (stage : Nat) : Nat := if stage = 1 then 112500 else if stage = 2 then 225000 else if stage = 3 then 22500 else 45000
/-- Lanes retired by fuse or marked bad (R369, R419). -/
def State.badLanes (s : State) (p : Nat) : Nat :=
  (List.range 10).foldl (fun m l => if s.boot.lanesBad.contains (16 * p + l) then m + 2 ^ l else m) 0

/-- Number of set bits below 10. -/
def count10 (m : Nat) : Nat := (bitsOf 10 m).length

/-- Width by usable lanes (Table 11-3). -/
def widthOf (split : Bool) (g : Nat) : Nat :=
  if !split ∧ 8 ≤ g then 8 else if 4 ≤ g then 4 else if 2 ≤ g then 2 else g

/-- The lowest n set lanes of a mask. -/
def lowLanes (m n : Nat) : Nat := ((bitsOf 10 m).take n).foldl (fun a l => a + 2 ^ l) 0

/-- A port that does not train tries again after 225,000,000 S cycles (R293). -/
def State.portFails (s : State) (p h st : Nat) : State :=
  s.setHalf p h fun x => { x with st := st, stage := 0, fast := false, width := 0, used := 0, retryAt := some (s.time + 225000000) }

/-- Start training of a half from a stage. -/
def State.trainHalf (s : State) (p h stage : Nat) (fast : Bool) : State :=
  s.setHalf p h fun x => { x with st := 1, stage := stage, fast := fast, width := 0, used := 0, retryAt := none, since := s.time }

/-- Whether a port may run: licensed and enabled. -/
def State.portOn (s : State) (p : Nat) : Bool := !s.portHeld p && bit (s.reg (Reg.fabricPortCtl p)) 0

/-- Train every half of a port from stage 1. -/
def State.trainPort (s : State) (p : Nat) : State :=
  if !s.portOn p then s else forEach (s.halfIxs p) (fun h s => s.trainHalf p h 1 false) s

/-- A half in training passes on to a stage. -/
def State.nextStage (s : State) (p h stage : Nat) (f : HalfSt → HalfSt) : State :=
  s.modHalf p h fun x => { f x with stage := stage, since := s.time }

/-- A training stage runs out of time: in the exchange window no training frames have come, and the partner is a standard switch (R289); any
other stage fails. -/
def State.stageTimeout (s : State) (p h : Nat) : State :=
  if (s.half p h).stage = 3 then s.nextStage p h 4 fun x => { x with std := true, partner := 0 } else s.portFails p h 3

/-- TRAINING_STAGE (R289 to R291, Table 11-2). A stage ends within its limit or is timed out at it. -/
def execTrainingStage (port : Port) (half : Bool) (result : StageEnd) (s : State) : Host.Outcome State Fault Refusal :=
  let p := port.val
  let h := b2n half
  let x := s.half p h
  let ends := x.since + stageLimit x.stage
  .next (if x.st ≠ 1 ∨ !(s.halfIxs p).contains h then s
    else match result with
      | .timeout => if s.time < ends then s else s.stageTimeout p h
      | .pass own partner frames psplit =>
        if ends < s.time ∨ (x.stage = 3 ∧ !frames ∧ ends = s.time) then s.stageTimeout p h
        else match x.stage with
        | 1 => s.nextStage p h 2 id
        | 2 => s.nextStage p h 3 fun x => { x with own := own.toNat &&& s.testMask p h &&& (0x3FF - (s.badLanes p ||| x.bad)) }
        | 3 =>
          if !frames then s
          else if psplit ≠ s.split p then s.portFails p h 4
          else s.nextStage p h 4 fun x => { x with std := false, partner := partner.toNat &&& s.laneMask p h }
        | _ =>
          let use := x.own &&& if x.std then s.stdMask p h else x.partner
          let g := count10 use
          let w := if x.std then (if use = s.stdMask p h then g else 0) else widthOf (s.split p) g
          if w = 0 then s.portFails p h 3
          else s.setHalf p h fun x => { x with st := 2, stage := 5, fast := false, width := w, used := lowLanes use w })

/-- A lane in service fails (R292): fast retrain from stage 2 with the lane marked bad. why: 1 lock lost, 2 FEC threshold. -/
def State.laneFails (s : State) (p lane why : Nat) : State :=
  let h := if s.split p ∧ (5 ≤ lane ∨ (lane = 4 ∧ (s.half p 1).std)) then 1 else 0
  let x := s.half p h
  if !((x.st == 2 && bit x.used lane) || (x.st == 1 && x.fast && !bit x.bad lane)) then s
  else
    let s := s.record { unitRec 1 0x1C 4 0x0B (16 * p + lane) with detail1 := lane, detail2 := why }
    let (hit, s) := s.track 4 4 (16 * p + lane) lane 5 0
    let s := if hit then s.candidate 4 4 (16 * p + lane) lane false false else s
    let s := s.bump (Reg.fabricPortRetrains p) 1
    let s := s.modHalf p h fun x => { x with bad := x.bad ||| 2 ^ lane }
    s.trainHalf p h 2 true

/-- LANE_FAIL. -/
def execLaneFail (port : Port) (lane : Fin 10) (s : State) : Host.Outcome State Fault Refusal := .next (s.laneFails port lane 1)

/-- FEC_WINDOW (R292): counters, and lanes above FABRIC_LANE_FAILTH fail. -/
def execFecWindow (port : Port) (corrected : Vector Nat 10) (uncorrectable : Nat) (s : State) :
    Host.Outcome State Fault Refusal :=
  let p := port.val
  let n := sumN corrected.toList
  let s := s.put64 (Reg.fabricPortFeccorrLo p) ((s.reg64 (Reg.fabricPortFeccorrLo p) + n) % 2 ^ 64)
  let s := if uncorrectable = 0 then s else s.bump (Reg.fabricPortFecunc p) uncorrectable
  let th := s.reg Reg.fabricLaneFailth
  .next (forEach ((List.range 10).filter fun l => decide (th < nth corrected.toList l 0)) (fun l s => s.laneFails p l 2) s)

/-- PORT_RETRY (R293). -/
def execPortRetry (port : Port) (s : State) : Host.Outcome State Fault Refusal :=
  .next (if !s.portOn port then s
    else forEach ((s.halfIxs port).filter fun h => let x := s.half port h; (x.st == 3 || x.st == 4) && s.due x.retryAt)
      (fun h s => s.trainHalf port h 1 false) s)

/-- FABRIC_PORT_CMD.RETRAIN (R292): a full retrain from stage 1 with every lane; ignored while the port trains. -/
def State.retrainPort (s : State) (p : Nat) : State :=
  if !s.portOn p then s
  else forEach ((s.halfIxs p).filter fun h => (s.half p h).st != 1) (fun h s =>
    (s.modHalf p h fun x => { x with bad := 0 }).trainHalf p h 1 false) s

/-- A write of FABRIC_PORT_CTL (R319): ENABLE 0 takes the port down with its lasers off, 1 lets it train again. -/
def State.writePortCtl (s : State) (p : Nat) (v : Nat) : State :=
  let was := bit (s.reg (Reg.fabricPortCtl p)) 0
  let s := s.put (Reg.fabricPortCtl p) (v % 32)
  let on := bit v 0
  if was ∧ !on then
    let s := forEach (s.halfIxs p) (fun h s => s.setHalf p h fun _ => {}) s
    s.modPort p fun x => { x with pausedTo := none, queue := [] }
  else if !was ∧ on then s.trainPort p else s

/-! ### Adverts and discovery (R296, R314 to R316) -/

/-- A write of FABRIC_POS with LOCK set (R296): the module sends its first advert. -/
def State.lockPos (s : State) (rack : Nat) : State :=
  let w := s.reg Reg.fabricPos
  (s.put Reg.fabricPos (setField w 26 16 rack % 2 ^ 31 + 2 ^ 31)).sendAdvert

/-- The routes follow a change of the adverts while pair F0/F1 runs (R300). -/
def State.followRoutes (s : State) : State := if (vget s.pairs 0).st = 2 then s.routes else s

/-- Whether a sequence number is newer than another, modulo 2^32. -/
def newer (a b : Nat) : Bool := let d := (a + 2 ^ 32 - b % 2 ^ 32) % 2 ^ 32; decide (0 < d ∧ d < 2 ^ 31)

/-- Two live adverts with one position and different serials set POSDUP, which stays set (R315): the module's own counts among them, so
an advert from its own position is looked at although the source filter then drops it (R304). -/
def State.seeDup (s : State) (ser pos : Nat) : State :=
  let other := (s.comp.fab.adverts.any fun a => a.serial != ser && u32 a.body 8 == pos) ||
    (s.posLocked && s.myPos == pos && ser != s.nv.factory.serial)
  if other then s.orReg Reg.fabricStat 0x200 else s

/-- Whether a QWT packet came in a frame above 9,216 bytes (Table 11-1). -/
def oversize (k : Packet) : Bool := decide (9216 < 98 + k.payload.length)

/-- ADVERT (R315). -/
def execAdvert (port : Port) (k : Packet) (s : State) : Host.Outcome State Fault Refusal :=
  let p := port.val
  .next (if s.boot.routerRest then s
    else if oversize k then s.bump (Reg.fabricPortDrop p) 1
    else if s.isMine k.srcAddr then
      let s := s.bump Reg.fabricSrcfilt 1
      if k.checksumOk ∧ k.ver = 1 ∧ k.typ = 3 ∧ 0x80 ≤ k.payload.length then s.seeDup (u64 k.payload 0) (u32 k.payload 8) else s
    else if !k.checksumOk ∨ k.ver ≠ 1 ∨ k.typ ≠ 3 ∨ k.payload.length < 0x80 then s.bump (Reg.fabricPortDrop p) 1
    else
      let b := k.payload
      let ser := u64 b 0
      let pos := u32 b 8
      let near := k.hopLimit == 255
      let changed := near && (s.reg (Reg.fabricPortPartnerpos p) != pos || s.reg64 (Reg.fabricPortPartnerLo p) != ser)
      let s := if near then (s.put64 (Reg.fabricPortPartnerLo p) ser).put (Reg.fabricPortPartnerpos p) pos else s
      let s := if changed then s.sendAdvert else s
      if ser = s.nv.factory.serial then s
      else
        let old := s.comp.fab.adverts.find? fun a => a.serial == ser
        let isNew := match old with | none => true | some a => newer (u32 b 0xC) a.seq
        if !isNew then s
        else
          let a : Advert := { serial := ser, seq := u32 b 0xC, body := b, at_ := s.time,
                              port := if near then some p else (old.bind (·.port)) }
          let s := s.modFab fun f => { f with adverts := f.adverts.filter (fun x => x.serial != ser) ++ [a] }
          let s := (s.seeDup ser pos).fire 0x38
          let s := s.followRoutes
          if !s.discovers ∨ k.hopLimit ≤ 1 then s
          else forEach (s.portsUp.filter fun q => q != p) (fun q s => s.emit q (.qwt q { k with hopLimit := k.hopLimit - 1 })) s)

/-- ADVERT_PERIOD (R315). -/
def execAdvertPeriod (s : State) : Host.Outcome State Fault Refusal :=
  .next (if s.posLocked ∧ s.comp.fab.advertAt + s.reg Reg.fabricDiscPeriod ≤ s.time then s.sendAdvert else s)

/-- ADVERT_EXPIRE (R315): an entry not refreshed within three periods leaves the table. -/
def execAdvertExpire (serial : BitVec 64) (s : State) : Host.Outcome State Fault Refusal :=
  .next (match s.comp.fab.adverts.find? fun a => a.serial == serial.toNat with
    | none => s
    | some a =>
      if s.time < a.at_ + 3 * s.reg Reg.fabricDiscPeriod then s
      else (s.modFab fun f => { f with adverts := f.adverts.filter fun x => x.serial != serial.toNat }).followRoutes)

/-! ### Receiving QWT (R303 to R311) -/

/-- Judge an arriving QWT packet of a type (R303 to R305): the partition it reaches, or what happens instead. -/
def State.accept (s : State) (p : Nat) (k : Packet) (typ : Nat) : Except State Nat :=
  if s.boot.routerRest then .error s
  else if oversize k then .error (s.bump (Reg.fabricPortDrop p) 1)
  else if s.isMine k.srcAddr then .error (s.bump Reg.fabricSrcfilt 1)
  else if !s.isMine k.dstAddr then .error s
  else if !k.checksumOk ∨ k.ver ≠ 1 ∨ k.typ ≠ typ ∨ (typ = 0 ∧ 1 < k.cls) ∨ 15 < addrEnd k.dstAddr then
    .error (s.bump (Reg.fabricPortDrop p) 1)
  else
    let pt := addrEnd k.dstAddr
    match s.ptRes pt with
    | none => .error (s.bump (Reg.fabricPortDrop p) 1)
    | some r => if s.hasTag pt ∧ wd r.tag = k.tag then .ok pt else .error (s.bump (Reg.fabricPortTagdrop p) 1)

/-- Answer a DATA packet with a NACK (R311). -/
def State.sendNack (s : State) (p pt : Nat) (k : Packet) (code : Nat) : State :=
  let s := if code = 1 then s.bump (Reg.fabricPortResetnak p) 1 else s
  s.originate pt { s.qwt pt k.srcAddr k.flowId.toNat 2 with word4 := k.psn, nackCode := code }

/-- A receiving flow. -/
def State.rxFlow (s : State) (src : BitVec 128) (fid pt : Nat) : Option RxFlow :=
  s.comp.fab.rx.find? fun f => f.src == src && f.fid == fid && f.pt == pt

/-- Change a receiving flow. -/
def State.modRx (s : State) (src : BitVec 128) (fid pt : Nat) (f : RxFlow → RxFlow) : State :=
  s.modFab fun x => { x with rx := x.rx.map fun r => if r.src == src && r.fid == fid && r.pt == pt then f r else r }

/-- Send an ACK of a receiving flow (R309, R310). -/
def State.sendAck (s : State) (f : RxFlow) : State :=
  let sack := (List.range 64).foldl (fun m i =>
    if f.buf.any fun k => k.psn.toNat == (f.expect + 1 + i) % 2 ^ 32 then m + 2 ^ i else m) 0
  let s := s.originate f.pt { s.qwt f.pt f.src f.fid 1 with ece := f.ce, word4 := wd f.expect, word5 := wd (sack / 2 ^ 32), word6 := wd sack }
  s.modRx f.src f.fid f.pt fun f => { f with unacked := 0, firstAt := none, ce := false }

/-- Deliver packets in PSN order: the expected one and those buffered behind it; a whole message goes to its user (R307). -/
def State.deliverRx : Nat → State → BitVec 128 → Nat → Nat → State
  | 0, s, _, _, _ => s
  | n + 1, s, src, fid, pt =>
    match s.rxFlow src fid pt with
    | none => s
    | some f =>
      match f.buf.find? fun k => k.psn.toNat == f.expect with
      | none => s
      | some k =>
        let msg := (if k.first then [] else f.msg) ++ k.payload
        let s := s.modRx src fid pt fun f =>
          { f with expect := (f.expect + 1) % 2 ^ 32, buf := f.buf.filter fun x => x.psn != k.psn, msg := if k.last then [] else msg }
        let s := if !k.last then s
          else if k.cls = 0 then s.modCasc fun c => { c with inbox := c.inbox ++ [(addrPos src, pt, msg)] }
          else s.modFab fun x => { x with peerIn := x.peerIn ++ [(pt, src, fid, msg)] }
        State.deliverRx n s src fid pt

/-- Whether a message finds its user (Table 11-6): the partition has a BED, and a CASCADE message's group is held. -/
def State.hasUser (s : State) (pt : Nat) (k : Packet) : Bool :=
  (s.part pt).bed.isSome &&
    (k.cls == 1 || !k.first ||
      (s.slotOfGid pt (if k.word6.toNat = 32 then u16 k.payload 2 else u16 k.payload 4)).isSome)

/-- DATA (R307 to R311). -/
def execData (port : Port) (k : Packet) (s : State) : Host.Outcome State Fault Refusal :=
  let p := port.val
  .next (match s.accept p k 0 with
    | .error s => s
    | .ok pt =>
      let fid := k.flowId.toNat
      if s.resetting pt then s.sendNack p pt k 1
      else
        let held := s.rxFlow k.srcAddr fid pt
        if held.isNone ∧ !k.isOpen then s.sendNack p pt k 3
        else if held.isNone ∧ 16384 ≤ s.comp.fab.rx.length then s.sendNack p pt k 5
        else if !s.hasUser pt k then s.sendNack p pt k 2
        else
          let s := if held.isSome then s
            else s.modFab fun f => { f with rx := f.rx ++ [{ src := k.srcAddr, fid := fid, pt := pt, port := p, lastAt := s.time }] }
          match s.rxFlow k.srcAddr fid pt with
          | none => s
          | some f =>
            let d := (k.psn.toNat + 2 ^ 32 - f.expect) % 2 ^ 32
            let dup := decide (2 ^ 31 ≤ d) || f.buf.any fun x => x.psn == k.psn
            let s := s.modRx f.src fid pt fun f => { f with lastAt := s.time, port := p, ce := f.ce || k.ce }
            if dup then
              match s.rxFlow f.src fid pt with | some f => s.sendAck f | none => s
            else if 255 < d then s.bump (Reg.fabricPortDrop p) 1
            else
              let s := s.modRx f.src fid pt fun f =>
                { f with buf := f.buf ++ [k], unacked := f.unacked + 1, firstAt := if f.firstAt.isNone then some s.time else f.firstAt }
              let s := s.deliverRx 257 f.src fid pt
              match s.rxFlow f.src fid pt with
              | some f => if 16 ≤ f.unacked then s.sendAck f else s
              | none => s)

/-- ACK_TIMER (R309). -/
def execAckTimer (src : BitVec 128) (flowId : Word) (s : State) : Host.Outcome State Fault Refusal :=
  .next (match s.comp.fab.rx.find? fun f => f.src == src && f.fid == flowId.toNat && s.due (f.firstAt.map (· + 450)) with
    | some f => s.sendAck f
    | none => s)

/-- IDLE_FLOW_EXPIRE (R308). -/
def execIdleFlowExpire (src : BitVec 128) (flowId : Word) (s : State) : Host.Outcome State Fault Refusal :=
  let lim := 64 * s.reg Reg.fabricQwtRto * s.reg Reg.fabricQwtRetry
  .next (s.modFab fun x =>
    { x with rx := x.rx.filter fun f => !(f.src == src && f.fid == flowId.toNat && decide (f.lastAt + lim ≤ s.time)) })

/-- PEERWRITE (R313): the oldest whole message is written into the receive window, or answered NO_TARGET. -/
def execPeerwrite (s : State) : Host.Outcome State Fault Refusal :=
  .next (match s.comp.fab.peerIn with
    | [] => s
    | (pt, src, fid, m) :: rest =>
      let s := s.modFab fun f => { f with peerIn := rest }
      let base : Nat := s.reg64 (Reg.fabricPtRxwinBaseLo pt) % 2 ^ 48
      let len0 : Nat := s.reg64 (Reg.fabricPtRxwinLenLo pt) % 2 ^ 48
      let len := if s.inSpace pt 1 base len0 then len0 else 0
      let off := u48 m 0
      let data := m.drop 8
      if 8 ≤ m.length ∧ off + data.length ≤ len ∧ len ≠ 0 then s.writeSpace pt 1 (base + off) data
      else match s.rxFlow src fid pt with
        | some f => s.originate pt { s.qwt pt src fid 2 with word4 := wd f.expect, nackCode := 4 }
        | none => s.originate pt { s.qwt pt src fid 2 with nackCode := 4 })

/-! ### The sender: ACK, NACK, timers (R309 to R313) -/

/-- A flow fails (R309, R311, R313): Cascade counts its partner as lost, a snapshot completes PEER_REFUSED. -/
def State.flowFails (s : State) (f : TxFlow) (why : Nat) : State :=
  let s := s.closeFlows fun x => x.fid == f.fid
  if f.user = 0 then s.memberLost f.key (addrPos f.dst) why
  else s.complete f.pt f.key 0x0D

/-- A snapshot whose flow has delivered everything completes and releases its flow (R308). -/
def State.flowIdle (s : State) (f : TxFlow) : State :=
  if f.user = 1 ∧ f.unacked.isEmpty ∧ ((s.adm f.pt f.key).map fun a => a.out.isEmpty && a.started).getD false then
    let s := s.closeFlows fun x => x.fid == f.fid
    let s := s.bump (Reg.dieSnapcnt 0 f.pt) 1
    s.complete f.pt f.key 0
  else s

/-- A sending flow that an arriving ACK or NACK names, once it passes the filters. -/
def State.ackFlow (s : State) (p : Nat) (k : Packet) (typ : Nat) : Except State TxFlow :=
  match s.accept p k typ with
  | .error s => .error s
  | .ok pt => match s.comp.fab.tx.find? fun f => f.fid == k.flowId.toNat && f.pt == pt && f.dst == k.srcAddr with
    | some f => .ok f
    | none => .error s

/-- ACK (R309, R310). -/
def execAck (port : Port) (k : Packet) (s : State) : Host.Outcome State Fault Refusal :=
  .next (match s.ackFlow port k 1 with
    | .error s => s
    | .ok f =>
      let a := k.word4.toNat
      let before := fun (x y : Nat) => let d := (y + 2 ^ 32 - x % 2 ^ 32) % 2 ^ 32; decide (0 < d ∧ d < 2 ^ 31)
      let progress := before f.acked a
      let acked := if progress then a else f.acked
      -- packets stay until their whole message is acknowledged
      let openMsgs := (f.unacked.filter fun x => !before x.psn.toNat acked).map (·.word4)
      let rest := f.unacked.filter fun x => openMsgs.contains x.word4
      let sack := k.word6.toNat + 2 ^ 32 * k.word5.toNat
      let got := fun (n : Nat) => let i := (n + 2 ^ 32 - (a + 1) % 2 ^ 32) % 2 ^ 32; decide (i < 64) && sack.testBit i
      let top := ((List.range 64).filter fun i => sack.testBit i).getLast?
      let holes := match top with
        | none => []
        | some t => rest.filter fun x =>
            let d := (x.psn.toNat + 2 ^ 32 - a % 2 ^ 32) % 2 ^ 32
            decide (d ≤ t) && !got x.psn.toNat
      let s := s.modTx f.fid fun f =>
        { f with acked := acked, unacked := rest, since := if progress then s.time else f.since
                 backoff := if progress then 1 else f.backoff, expiries := if progress then 0 else f.expiries }
      let s := forEach holes (fun x s => s.originate f.pt { x with retx := true }) s
      let cap := 1000 * s.portRate f.port
      let slow : Bool := match f.halvedAt with | none => true | some t => decide (t + 2250 ≤ s.time)
      let s := if k.ece ∧ slow then
          s.modTx f.fid fun f => { f with rate := max (f.rate / 2) (cap / 64), halvedAt := some s.time, raisedAt := s.time }
        else s
      match s.txFlow f.fid with
      | some f => (s.flowIdle f).settleRemote f.pt
      | none => s)

/-- NACK (R311): NO_FLOW reopens the flow and resends every unacknowledged message; any other code fails it. -/
def execNack (port : Port) (k : Packet) (s : State) : Host.Outcome State Fault Refusal :=
  .next (match s.ackFlow port k 2 with
    | .error s => s
    | .ok f =>
      if k.nackCode = 3 then
        let ks := f.unacked.zipIdx.map fun x => { x.1 with psn := wd x.2, isOpen := x.2 == 0, retx := true }
        let s := s.modTx f.fid fun f =>
          { f with unacked := ks, next := ks.length, acked := 0, since := s.time, backoff := 1, expiries := 0 }
        forEach ks (fun x s => s.originate f.pt x) s
      else s.flowFails f (if k.nackCode = 1 then 2 else 4))

/-- RTO_EXPIRE (R309). -/
def execRtoExpire (flowId : Word) (s : State) : Host.Outcome State Fault Refusal :=
  .next (match s.txFlow flowId.toNat with
    | none => s
    | some f =>
      let pend := f.unacked.filter fun x => decide ((x.psn.toNat + 2 ^ 32 - f.acked) % 2 ^ 32 < 2 ^ 31)
      match pend with
      | [] => s
      | x :: _ =>
        if s.time < f.since + s.reg Reg.fabricQwtRto * f.backoff then s
        else if s.reg Reg.fabricQwtRetry ≤ f.expiries + 1 then s.flowFails f 4
        else
          (s.modTx f.fid fun f =>
            { f with expiries := f.expiries + 1, backoff := min 64 (2 * f.backoff), since := s.time }).originate f.pt { x with retx := true })

/-- PACING_RAISE (R310). -/
def execPacingRaise (flowId : Word) (s : State) : Host.Outcome State Fault Refusal :=
  .next (match s.txFlow flowId.toNat with
    | none => s
    | some f =>
      let cap := 1000 * s.portRate f.port
      if s.time < f.raisedAt + 4500 then s
      else s.modTx f.fid fun f => { f with rate := min cap (f.rate + cap / 16), raisedAt := s.time })

/-! ### Router, neighbours, LLDP (R286, R298 to R302) -/

/-- Send an ICMPv6 error, at most 1,000 of a kind per second and port (R298). -/
def State.icmpError (s : State) (p : Nat) (te : Bool) (dst : BitVec 128) (body : List Byte) : State :=
  let (t0, a, b) := (s.port p).icmp
  let (t0, a, b) := if t0 + 225000000 ≤ s.time then (s.time, 0, 0) else (t0, a, b)
  let n := if te then a else b
  if 1000 ≤ n then s.modPort p fun x => { x with icmp := (t0, a, b) }
  else
    let s := s.modPort p fun x => { x with icmp := (t0, if te then a + 1 else a, if te then b else b + 1) }
    s.emit p (.icmp p (if te then 3 else 1) 0 (s.addr 0xF0) dst body)

/-- What an ICMPv6 error carries: four zero bytes and the packet it answers, up to 1,280 bytes with its headers (RFC 4443; PRESUMED: entry
82). -/
def errorBody (k : IpPacket) : List Byte := List.replicate 4 0#8 ++ (ipWire k).take 1232

/-- TRANSIT_FORWARD (R286, R296, R298, R299, R303, R304). One 802.1Q tag is removed on receipt; LLDP comes in as LLDP_RECEIVE. -/
def execTransitForward (port : Port) (k : IpPacket) (s : State) : Host.Outcome State Fault Refusal :=
  let p := port.val
  .next (if s.boot.routerRest then s
    else if 9216 < ipFrameBytes k ∨ 1 < k.vlans ∨ (k.etherType ≠ 0x86DD ∧ k.etherType ≠ 0x88CC) then s.bump (Reg.fabricPortDrop p) 1
    else if k.etherType = 0x88CC then s
    else if s.isMine k.srcAddr then s.bump Reg.fabricSrcfilt 1
    else if s.isMine k.dstAddr then
      let e := addrEnd k.dstAddr
      if e = 0xF0 then (if k.nextHeader = 58 then s else s.bump (Reg.fabricPortDrop p) 1)
      else if ipExtension k ∨ !ipIsQwt k ∨ 15 < e then s.bump (Reg.fabricPortDrop p) 1
      else match s.ptRes e with
        | none => s.bump (Reg.fabricPortDrop p) 1
        | some r => if s.hasTag e ∧ r.tag = ipTag k then s else s.bump (Reg.fabricPortTagdrop p) 1
    else if ipMulticast k then s
    else if !s.posLocked then s.bump (Reg.fabricPortDrop p) 1
    else if k.hopLimit ≤ 1 then s.icmpError p true k.srcAddr (errorBody k)
    else match s.pickPort (bitsOf 24 (s.routeSet k.dstAddr)) k.srcAddr k.dstAddr k.flowLabel with
      | none => (s.bump Reg.fabricNoroute 1).icmpError p false k.srcAddr (errorBody k)
      | some q => s.emit q (.transit q { k with vlans := 0, hopLimit := k.hopLimit - 1 }))

/-- A pause ends: egress goes on. -/
def State.resumePort (s : State) (p : Nat) : State := (s.modPort p fun x => { x with pausedTo := none }).servePort p

/-- One S cycle (R51): the ports serve the frames that wait (R301). -/
def State.clock (s : State) : State :=
  let s := s.tick
  if s.boot.routerRest then s else forEach ((List.range 24).filter fun p => !(s.port p).queue.isEmpty) (fun p s => s.servePort p) s

/-- PFC_FRAME (R302): a pause of time 0 ends a pause. -/
def execPfcFrame (port : Port) (prio : Fin 8) (sCycles : Nat) (s : State) : Host.Outcome State Fault Refusal :=
  let c := s.reg (Reg.fabricPortCtl port)
  .next (if !bit c 1 ∨ field c 4 2 ≠ prio.val then s
    else if sCycles = 0 then s.resumePort port
    else
      let s := s.modPort port fun x => { x with pausedTo := some (s.time + sCycles) }
      if (s.port port).queue.any (fun m => m.cls == 1) then s.contend port else s)

/-- PAUSE_END (R302). -/
def execPauseEnd (port : Port) (s : State) : Host.Outcome State Fault Refusal :=
  .next (if s.due (s.port port).pausedTo then s.resumePort port else s)

/-- PAUSE_FRAME (Table 11-1): discarded. -/
def execPauseFrame (_port : Port) (s : State) : Host.Outcome State Fault Refusal := .next s

/-- Addresses of the module on a port (R296 to R298): link-local always, the rest once the position is locked. -/
def State.ownAddr (s : State) (a : BitVec 128) : Bool :=
  a == s.linkLocal || (s.posLocked && s.isMine a && (addrEnd a == 0xF0 || s.defined (addrEnd a)) && decide (addrEnd a < 16 ∨ addrEnd a = 0xF0))

/-- Body of a neighbour advertisement (RFC 4861; PRESUMED: entry 82): flags S and O, the target, and the port's MAC address as an option. -/
def State.neighbourBody (s : State) (p : Nat) (solicited : Bool) (target : BitVec 128) : List Byte :=
  beBytes 4 (at_ 30 (b2n solicited) + at_ 29 1) ++ beBytes 16 target.toNat ++ beBytes 2 0x0201 ++ s.mac p (s.outHalf p (.icmp p 136 0 0 0 []))

/-- NEIGHBOUR_SOLICITATION (R298): answered by an advertisement, to all nodes when duplicate address detection asks. -/
def execNeighbourSolicitation (port : Port) (src target : BitVec 128) (s : State) : Host.Outcome State Fault Refusal :=
  .next (if s.ownAddr target ∧ !s.boot.routerRest then
      s.emit port (.icmp port 136 0 s.linkLocal (if src = 0 then BitVec.ofNat 128 (at_ 112 0xFF02 + 1) else src)
        (s.neighbourBody port (src != 0) target))
    else s)

/-- ECHO_REQUEST (R298). -/
def execEchoRequest (port : Port) (src dst : BitVec 128) (body : List Byte) (s : State) : Host.Outcome State Fault Refusal :=
  .next (if s.boot.routerRest then s
    else if 9216 < 62 + body.length then s.bump (Reg.fabricPortDrop port) 1
    else if s.isMine src then s.bump Reg.fabricSrcfilt 1
    else if s.ownAddr dst ∧ addrEnd dst = 0xF0 then s.emit port (.icmp port 129 0 dst src body) else s)

/-- LLDP_RECEIVE (R298). -/
def execLldpReceive (port : Port) (half : Bool) (tlvs : List Byte) (s : State) : Host.Outcome State Fault Refusal :=
  .next (if s.boot.routerRest then s
    else if 9216 < 18 + tlvs.length then s.bump (Reg.fabricPortDrop port) 1
    else (s.modPort port fun x => { x with lldp := x.lldp.filter (fun y => y.1 != half) ++ [(half, tlvs)] }).fire 0x39)

/-- Text of a port ID, as ASCII codes: P07, P07.0. -/
def portText (p : Nat) (split : Bool) (h : Nat) : List Byte :=
  ([0x50, 0x30 + p / 10, 0x30 + p % 10] ++ (if split then [0x2E, 0x30 + h] else [])).map (BitVec.ofNat 8)

/-- An LLDP TLV: type in 7 bits, length in 9, in network order. -/
def lldpTlv (t : Nat) (v : List Byte) : List Byte :=
  let w := at_ 9 t + v.length
  [BitVec.ofNat 8 (w / 256), BitVec.ofNat 8 w] ++ v

/-- Mandatory TLVs of a port or half (R298): chassis ID locally assigned, port ID text, TTL 120 s, end. -/
def State.lldpBody (s : State) (p h : Nat) : List Byte :=
  let ser := (List.range 8).map fun i => BitVec.ofNat 8 (s.nv.factory.serial / 2 ^ (8 * (7 - i)))
  lldpTlv 1 (7#8 :: ser) ++ lldpTlv 2 (7#8 :: portText p (s.split p) h) ++ lldpTlv 3 [0#8, 120#8] ++ lldpTlv 0 []

/-- LLDP_SEND (R298). -/
def execLldpSend (port : Port) (s : State) : Host.Outcome State Fault Refusal :=
  .next (if s.boot.routerRest ∨ s.time < (s.port port).lldpAt + 6750000000 then s
    else
      let s := s.modPort port fun x => { x with lldpAt := s.time }
      forEach ((s.halfIxs port).filter fun h => (s.half port h).st == 2) (fun h s => s.emit port (.lldp port h (s.lldpBody port h))) s)

end Sys2Proof.Machine
end

