-- ==== Sys2Proof/Machine/Sluice.lean ====
section
/-! DEFINITION. Sluice.lean: the operations that the Sluice engines run: COPY, GATHER, SCATTER, seeds and snapshots (R140, R149 to R151, R186, R204 to R206). -/
namespace Sys2Proof.Machine

/-! ### The running operation -/

/-- Engine of an admitted Sluice operation, 2 × die + engine. -/
def Adm.engine (b : List Byte) (a : Adm) : Nat :=
  match dOp a.desc with
  | 2 =>
    -- the engine that the seed tensor's reading USE names (R234): the first layer that reads it
    let t := u32 a.desc 0x18
    let hit := (List.range (secCount b 0x0205)).findSome? fun li =>
      let L := bedLayer b li
      ([L.useX, L.useW, L.useWT, L.useG].find? fun u => u != none32 && useTensor b u == t).map fun u => 2 * L.die + useEngine b u
    hit.getD 0
  | 7 => a.rank / 2 ^ 48 % 8
  | _ => let w := u32 a.desc 0x28; 2 * field w 1 0 + field w 2 2

/-- Whether an admitted descriptor is a Sluice operation: COPY, GATHER, SCATTER, SNAPSHOT, or a SEED from the partition's memory. -/
def Adm.onSluice (a : Adm) : Bool :=
  [3, 4, 5, 7].contains (dOp a.desc) || (dOp a.desc == 2 && (dAddr a.desc 0x20).2 != 2)

/-- Whether an operation may start now (R149, R240, R251). A committed step whose in-place apply passes have still to run (R195) holds
it back, since its STEP descriptor has completed and what starts after that sees its writes (R250); a snapshot of the version that an
apply pass waits to replace is not held back (R206). -/
def State.opReady (s : State) (a : Adm) : Bool :=
  !a.started && decide (225 * a.startQ ≤ s.time) && s.fenceOk a &&
    !((s.part a.pt).steps.any fun x => x.st == 6 && !(dOp a.desc == 7 && decide (a.version ≤ x.num))) && !(s.earlier a).any a.meets

/-- What a starting operation holds of its tensors (R90, R173, A7): a source carries the scale and rung of its instance; a destination tensor
stands at its current rung; a seed takes those of the step it serves. -/
def State.holdScales (s : State) (a : Adm) : Adm :=
  let p := s.part a.pt
  let held : List (Int × Nat × Nat) := match dOp a.desc with
    | 2 =>
      let t := u32 a.desc 0x18
      [(s.coarse a.pt t (dStep a.desc), s.rungAt a.pt t (dStep a.desc), p.slot a.bed t (dStep a.desc))]
    | 3 | 4 | 5 =>
      let x := s.opScale a.pt a.src
      let y := s.opScale a.pt a.dst
      let T := tensorOf (a.dst.drop 192)
      [(x.1, x.2, 0),
       (y.1, if heldTensor a.dst ≠ none32 ∧ outFmt T.format then s.rungAt a.pt (heldTensor a.dst) (p.commit + 1) else y.2, 0)]
    | 7 => a.listed.map fun t => let x := s.instScale a.pt t a.version; (x.1, x.2, p.slot a.bed t a.version)
    | _ => []
  { a with started := true, held := held }

/-- View of tensor t of the BED an operation was admitted under, with what the operation holds at place i. -/
def State.heldView (s : State) (a : Adm) (i t : Nat) : View :=
  let h := nth a.held i (0, 0, 0)
  let v := s.viewAt a.pt a.bed t 0 h.1 h.2.1
  { v with off := h.2.2 * v.ten.stride }

/-- The destination tensor of an operation that has written carries the scale and rung it was written with (R90). -/
def State.noteOp (s : State) (a : Adm) : State :=
  let t := heldTensor a.dst
  if a.stale ∨ t = none32 then s
  else
    let p := s.part a.pt
    let l := (p.steps.flatMap (·.scales) ++ p.scales).filter fun x => x.tensor == t && x.slot == 0
    let top := l.foldl (fun n x => max n x.version) 0
    let f := fun (x : SlotScale) => if x.tensor == t && x.slot == 0 && x.version == top then { x with c := (nth a.held 1 default).1, rung := (nth a.held 1 default).2.1 } else x
    s.modPart a.pt fun p =>
      { p with scales := p.scales.map f, steps := p.steps.map fun x => { x with scales := x.scales.map f } }

/-- SLUICE_START (R140, R141): the earliest admitted operation of the engine that may start does; a list header that fails ends it. -/
def execSluiceStart (die : Die) (eng : Engine) (s : State) : Host.Outcome State Fault Refusal := s.clocked <|
  let ei := 2 * die.val + eng.val
  let cand := s.comp.weir.adms.filter fun a =>
    a.onSluice && a.engine a.bed == ei && s.opReady a
  let best := cand.foldl (fun (m : Option Adm) a => match m with
    | none => some a
    | some y => if a.startQ < y.startQ then some a else some y) none
  .next (match (vget s.comp.engines ei).run, best with
    | none, some a =>
      let op := dOp a.desc
      let listed := op == 4 || op == 5
      let ad := dAddr a.desc 0x20
      let rank := (layoutOf (if op = 4 then a.src else a.dst)).rank
      let st := if listed then s.listStatus a.pt ad rank a.count (a.rank % 16) else 0
      if listed ∧ st ≠ 0 then
        let s := s.sluiceError die eng 0 (st - 5) a.pt
        let s := s.record { ptRec a.pt 0 0x0D die 3 eng with
          admno := a.admno, detail1 := ad.1 % 2 ^ 32, detail2 := ad.1 / 2 ^ 32 + at_ 16 ad.2 }
        s.complete a.pt a.admno st
      else if listed ∧ a.count = 0 then s.complete a.pt a.admno 0
      else
        (s.modAdm a.pt a.admno s.holdScales).modEng ei fun e => { e with run := some ⟨a.pt, a.admno⟩ }
    | _, _ => s)

/-- Poisoned entries of the list of a GATHER or SCATTER (R348). -/
def State.badEntries (s : State) (a : Adm) : Nat :=
  let op := dOp a.desc
  if s.poison.isEmpty ∨ ¬ (op = 4 ∨ op = 5) then 0
  else
    let rank := (layoutOf (if op = 4 then a.src else a.dst)).rank
    ((List.range a.count).filter (s.entryBad a.pt (dAddr a.desc 0x20) rank)).length

/-- Views of the source and the destination of a COPY, GATHER or SCATTER. -/
def State.opSrc (s : State) (a : Adm) : View := s.opView a.pt a.src (nth a.held 0 default).1 (nth a.held 0 default).2.1
def State.opDst (s : State) (a : Adm) : View := s.opView a.pt a.dst (nth a.held 1 default).1 (nth a.held 1 default).2.1

/-- Granules that an engine fetches for a COPY, GATHER or SCATTER (R142, R147, R151): in every pass the list, and in every window of 4,096
entries each distinct source block once with its scale-plane bytes. -/
def State.moveGranules (src dst : View) (op count list rank : Nat) (moves : List Move) : Nat :=
  let per := if op = 3 then max 1 moves.length else 4096 * max 1 dst.lay.bsize
  let data := sumN ((windows per (moves.length / per + 1) moves).map fun l =>
    let got := (l.filterMap fun m => if src.has m.src then m.src else none).eraseDups
    granulesOf src got + fineGranules src got)
  let n := 16 + entrySize rank * count
  passesOf src dst * (data + if op = 3 ∨ count = 0 then 0 else (list + n + 63) / 64 - list / 64)

/-- The effect of a COPY, GATHER or SCATTER (R140). -/
def State.runMove (s : State) (b : List Byte) (die eng : Nat) (a : Adm) (bad : Option Nat) : State :=
  let op := dOp a.desc
  let src := s.opSrc a
  let dst := s.opDst a
  let ad := dAddr a.desc 0x20
  let step := Config.opStep a.pt a.admno
  let ents := if op = 3 then [] else (List.range a.count).map fun i =>
    s.listEntry a.pt ad (if op = 4 then src else dst).lay.rank i
  let sv := if op = 4 then coalesced (a.count / 4096 + 1) ents else 0
  let s := if sv = 0 then s else s.bump (Reg.sluiceCoalesce die eng a.pt) sv
  let lost := s.badEntries a
  let s := if op = 5 ∧ lost ≠ 0 then s.bump (Reg.sluiceOobw die eng a.pt) (lost * src.lay.bsize) else s
  let moves := s.movesOf a.pt op src dst ad a.count
  let got := (moves.filterMap fun m => if src.has m.src then m.src else none).eraseDups
  let s := s.countBytes a.pt die eng (State.moveGranules src dst op a.count ad.1 (if op = 4 then src else dst).lay.rank moves)
  let s := if !s.poison.isEmpty && got.any (s.srcBad src) then s.sluiceError die eng 2 4 a.pt else s
  if recordFmt src.fmt ∧ src.fmt = dst.fmt then
    if src.fmt = 7 then s.moveBell src dst else s.moveRecords die eng src dst (s.recMoves a.pt op src dst ad a.count)
  else s.moveElems b die eng src dst moves step (op != 3 || src.lay.bshape == dst.lay.bshape) bad

/-- Elements a SEED writes (R186): the slice of its micro-batch, or the whole tensor. -/
def seedIxs (v : View) (mb : Nat) : List (List Nat) :=
  (allIx v.lay.extent).filter fun ix => !mbKind v.ten.kind || nth ix 0 0 == mb

/-- Distances from BASE of the elements or records that hold given elements. -/
def View.places (v : View) (ixs : List (List Nat)) : List Int :=
  if recordFmt v.fmt then ((ixs.map fun ix => v.o ix / (v.lay.bsize : Int)).eraseDups).map (· * recordSize v.fmt v.lay.bsize)
  else ((ixs.map fun ix => v.o ix).eraseDups).map (· * elemBytes v.fmt)

/-- Bytes of one element or record. -/
def View.unit (v : View) : Nat := if recordFmt v.fmt then recordSize v.fmt v.lay.bsize else elemBytes v.fmt

/-- Whether a byte that an element or record of a SEED reads is poisoned: its own bytes, or its block's scale-plane byte. -/
def seedBad (v : View) (get : Int → Byte × Bool) (o : Int) : Bool :=
  ((List.range v.unit).any fun i => (get (o + (i : Nat))).2) ||
    (v.lay.scaled && !recordFmt v.fmt && (get ((v.lay.scaleBase : Int) - v.lay.base + o / (v.unit : Int) / (v.lay.bsize : Int))).2)

/-- View of the tensor that a SEED which has started writes: the slot of its step, with the scale and rung it holds. -/
def State.seedView (s : State) (a : Adm) : View := s.heldView a 0 (u32 a.desc 0x18)

/-- What a finished SEED leaves for its step (R88, R90, R186): the scale and rung it carries, the largest exponent it brought, and that it is
written. -/
def State.noteSeed (s : State) (a : Adm) (v : View) (ixs : List (List Nat)) : State :=
  if a.stale then s
  else
    let t := u32 a.desc 0x18
    let step := dStep a.desc
    let s := s.noteScaleP a.pt a.bed t step v.c v.fmt
    let xs := maxLg (ixs.map fun ix => (s.readElem a.bed v ix).exact v.c)
    s.modPart a.pt fun p =>
      { p with
        seeds := (step, t, if mbKind v.ten.kind then dMb a.desc else 0xFFFF) :: p.seeds
        seedXs := match xs with | some x => (step, t, x) :: p.seedXs | none => p.seedXs }

/-- The effect of a SEED (R186): the slice of its micro-batch, or the whole tensor, in the slot of its step. get gives the byte at a
distance from the source address, poison included. A poisoned element is written as its format's poison code (R84); where the format
has none, its memory is poisoned. -/
def State.runSeed (s : State) (a : Adm) (get : Int → Byte × Bool) : State :=
  let mb := dMb a.desc
  let v := s.seedView a
  let n := v.unit
  let ixs := seedIxs v mb
  let places := v.places ixs
  let s := if s.poison.isEmpty then s else s.reencode (places.flatMap fun o => s.keysAt a.pt v.lay.space (addrOf v.lay.base v.off o) n)
  let s := forEach places (fun o s =>
    let bad := seedBad v get o
    let bs := if bad ∧ outFmt v.fmt then leBytes n (poisonCode v.fmt) else (List.range n).map fun i => (get (o + (i : Nat))).1
    let s := s.writeSpace a.pt v.lay.space (addrOf v.lay.base v.off o) bs
    if bad ∧ !outFmt v.fmt then
      match s.phys a.pt v.lay.space (addrOf v.lay.base v.off o) with | some k => s.poisonAt k | none => s
    else s) s
  let s := if !v.lay.scaled then s
    else forEach ((ixs.map fun ix => v.o ix / (v.lay.bsize : Int)).eraseDups) (fun o s =>
      s.writeSpace a.pt v.lay.space (addrOf v.lay.scaleBase v.off o) [(get ((v.lay.scaleBase : Int) - v.lay.base + o)).1]) s
  s.noteSeed a v ixs

/-- Header and bytes of one tensor of a snapshot (Table 07-7). -/
def State.snapTensor (s : State) (a : Adm) (i t : Nat) : List Byte :=
  let v := s.heldView a i t
  let pt := a.pt
  let (lo, hi) := v.lay.span
  let (slo, shi) := if v.lay.scaled then v.lay.scaleSpan else (0, 0)
  packLE [(4, v.ten.tag), (2, v.fmt + at_ 4 v.ten.kind), (1, toBits 8 v.c), (1, 0), (8, a.version), (8, (hi - lo).toNat), (4, (shi - slo).toNat), (4, 0)] ++
    s.readSpace pt v.lay.space (addrOf v.lay.base v.off lo) (hi - lo).toNat ++
    (if v.lay.scaled then s.readSpace pt v.lay.space (addrOf v.lay.scaleBase v.off slo) (shi - slo).toNat else [])

/-- Granules that a snapshot reads of its tensors and their scale planes (R147). -/
def State.snapGranules (s : State) (a : Adm) : Nat :=
  sumN (a.listed.zipIdx.map fun t =>
    let v := s.heldView a t.2 t.1
    let run := fun (base : Nat) (x : Int × Int) => (addrOf base v.off x.2 + 63) / 64 - addrOf base v.off x.1 / 64
    run v.lay.base v.lay.span + (if v.lay.scaled then run v.lay.scaleBase v.lay.scaleSpan else 0))

/-- PEERWRITE messages of a snapshot: a window offset word and up to 1 MiB of data each (R313; entry 34). -/
def peerCut : Nat → Nat → List Byte → List (List Byte)
  | 0, _, _ => []
  | k + 1, off, l =>
    if l.isEmpty then [] else (leBytes 8 (off % 2 ^ 48) ++ l.take 1048576) :: peerCut k (off + 1048576) (l.drop 1048576)

/-- The effect of a SNAPSHOT (R205, R206, R313): the copy leaves for a host window or a peer; the descriptor completes when it has
been acknowledged. -/
def State.runSnapshot (s : State) (a : Adm) : State :=
  let blk := a.src
  let dest := bit (u32 blk 4) 0
  let data := a.listed.zipIdx.flatMap fun t => s.snapTensor a t.2 t.1
  let da := u64 blk 0x10
  let s := s.modAdm a.pt a.admno fun a => { a with left := data.length, out := [] }
  if dest then
    match s.comp.fab.tx.find? fun f => f.user == 1 && f.pt == a.pt && f.key == a.admno with
    | none => s
    | some f =>
      let s := forEach (peerCut (data.length / 1048576 + 1) (da % 2 ^ 48) data) (fun m s => s.sendMsg f.fid 1 none m) s
      match s.txFlow f.fid with | some f => s.flowIdle f | none => s
  else
    match s.windowForm (some a.pt) true da data.length with
    | none => s.complete a.pt a.admno 0x0C
    | some h => s.memWrAll (data.length / 64 + 2) (some a.pt) h data (.dmaOut a.pt a.admno)

/-- SLUICE_COMPLETE (R140 to R151): the running operation of an engine has moved its data. residueAt names a destination index48 whose
collision accumulator mismatches at drain (R144). -/
def execSluiceComplete (die : Die) (eng : Engine) (residueAt : Option Nat) (s : State) : Host.Outcome State Fault Refusal := s.clocked <|
  let ei := 2 * die.val + eng.val
  .next (match (vget s.comp.engines ei).run with
    | none => s
    | some r =>
      let s := s.modEng ei fun e => { e with run := none }
      match s.adm r.pt r.admno with
      | some a =>
        let b := a.bed
        match dOp a.desc with
        | 7 => ((s.countBytes a.pt die eng (s.snapGranules a)).runSnapshot a).startApply a.pt
        | 2 =>
          let ad := dAddr a.desc 0x20
          let get : Int → Byte × Bool := fun d =>
            let x := ((ad.1 : Int) + d).toNat
            ((s.readSpace a.pt ad.2 x 1).headD 0#8, s.poisonSpace a.pt ad.2 x 1)
          let v := s.seedView a
          let ixs := seedIxs v (dMb a.desc)
          -- the source lies as the tensor does, with BASE at the source address (R186)
          let w := { v with off := 0, lay := { v.lay with base := ad.1, scaleBase := ((ad.1 : Int) + v.lay.scaleBase - v.lay.base).toNat } }
          let s := s.countBytes a.pt die eng (granulesOf w ixs + fineGranules w ixs)
          let s := if (v.places ixs).any fun o => seedBad v get o then s.sluiceError die eng 2 4 a.pt else s
          let s := s.runSeed a get
          s.complete a.pt a.admno 0
        | _ =>
          let bad := if (layoutOf a.dst).coll = 1 then residueAt else none
          let lost := s.badEntries a
          let s := (s.runMove b die eng a bad).noteOp a
          -- a poisoned list entry fails a step as consumed poison does (R348): the oldest one that has started
          let s := match s.oldest a.pt with
            | some x => if lost = 0 ∨ x.st = 0 then s else s.consumed a.pt x.num (tensorOf (a.src.drop 192)).tag
            | none => s
          match bad with
          | none => s.complete a.pt a.admno 0
          | some ix =>
            let s := s.sluiceError die eng 1 3 a.pt
            let s := s.record { ptRec a.pt 2 0x03 die 3 eng with
              admno := a.admno, layer := (tensorOf (a.dst.drop 192)).tag, detail1 := ix % 2 ^ 32
              detail2 := ix / 2 ^ 32 % 2 ^ 16 + at_ 16 (s.passAt (s.opDst a) ix % 256) }
            let s := match s.oldest a.pt with
              | some x => if x.st = 0 then s else s.failReplay a.pt x.num (some s.lastUid)
              | none => s
            s.complete a.pt a.admno 0
      | none => s)

end Sys2Proof.Machine
end

