-- ==== Sys2Proof/Machine/CascSums.lean ====
section
/-! DEFINITION. CascSums.lean: division of tensors into chunks, reductions, gathers and all-to-all of a Cascade instruction (R259 to
R278). -/
namespace Sys2Proof.Machine

/-! ### Chunks of a tensor (R134, R263) -/

/-- A chunk: index48 of its first element, count, distance, final owner, its number along c, and the die of its owner that holds its elements
in DST. -/
structure ChunkDesc where
  first : Nat
  count : Nat
  estride : Nat
  owner : Nat
  no : Nat := 0
  die : Nat := 0
deriving DecidableEq, Repr, Inhabited

/-- index48 of the elements of a chunk. -/
def ChunkDesc.ixs (d : ChunkDesc) : List Nat := (List.range d.count).map fun i => d.first + i * d.estride

/-- Owner of a global index of a sharded dimension (Table 05-3). -/
def ownerDim (sh : Nat × Nat × Nat) (glob P g : Nat) : Nat :=
  if sh.1 = 1 then g / max 1 (cdiv glob P) else g / max 1 sh.2.2 % max 1 P

/-- Local index of a global one, where the member at coordinate p holds it. -/
def localDim (sh : Nat × Nat × Nat) (glob P p g : Nat) : Option Nat :=
  match sh.1 with
  | 0 => if g < glob then some g else none
  | 1 => let c := cdiv glob P; if p * c ≤ g ∧ g < min glob ((p + 1) * c) then some (g - p * c) else none
  | _ => let w := max 1 sh.2.2; if g / w % max 1 P = p ∧ g < glob then some (g / w / max 1 P * w + g % w) else none

/-- Local index tuple of a global one at this member. -/
def State.localIx (s : State) (pt : Nat) (l : Layout) (g : List Nat) : Option (List Nat) :=
  (((l.shard.zip l.globalExt).zip g).map fun d =>
    let a := s.axisOf pt d.1.1.2.1; localDim d.1.1 d.1.2 a.1 a.2 d.2).mapM id

/-- Local index tuple of an index48. -/
def State.localOf (s : State) (pt : Nat) (l : Layout) (ix : Nat) : Option (List Nat) := s.localIx pt l (unRow l.globalExt ix)

/-- Every tuple that takes one entry of each list, the last varying fastest. -/
def cart : List (List Nat) → List (List Nat)
  | [] => [[]]
  | h :: t => h.flatMap fun x => (cart t).map (x :: ·)

/-- Cut rising numbers into runs of consecutive ones with one key. -/
def cutRuns (key : Nat → List Nat) (l : List Nat) : List (List Nat) :=
  (l.foldl (fun acc g => match acc with
    | (h :: t) :: rest => if g = h + 1 ∧ key g = key h then (g :: h :: t) :: rest else [g] :: acc
    | _ => [g] :: acc) []).reverse.map List.reverse

/-- Die on which the owner of an element holds it in the owner's shard of a tensor: every member's partition places the shard as this one
does (DESIGN CHOICE: entry 36). -/
def State.ownerDie (s : State) (v : View) (axis owner : Nat) (t : List Nat) : Nat :=
  let loc := (((v.lay.shard.zip v.lay.globalExt).zip t).map fun d =>
    let a := s.axisOf v.pt d.1.1.2.1
    localDim d.1.1 d.1.2 a.1 (if d.1.1.2.1 = axis then owner else a.2) d.2).mapM id
  ((loc.bind fun ix => s.dieOf v.pt v.lay.space (addrOf v.lay.base v.off (v.lay.offset (ix.map Int.ofNat) * (elemBytes v.fmt : Int))))).getD 0

/-- Chunks that the members of a group divide an instruction's DST into (R263): cut at every 256 indices along c, between two owners and
between two dies of one owner. The owner of a chunk of ALL_REDUCE is the number of its blocks modulo P, so that no block has two owners (DESIGN
CHOICE: entry 37). -/
def State.chunksOf (s : State) (pt : Nat) (b : List Byte) (c : CascRec) (step mb P : Nat) : List ChunkDesc :=
  let T := bedTensor b c.dst
  let l := bedLayout b T.layout
  let axis := (bedGroup b c.group).axis
  let held := if c.opc = 2 then c.src else c.dst
  let ls := bedLayout b (bedTensor b held).layout
  let hv := s.viewAt pt b held step (s.coarse pt held step) (s.rungAt pt held step)
  let cd := l.rank - 2
  let dims := (List.range l.rank).map fun d =>
    let sh := nth l.shard d (0, 0, 0)
    let glob := nth l.globalExt d 1
    let a := s.axisOf pt sh.2.1
    if d = 0 ∧ mbKind T.kind ∧ mb ≠ 0xFFFF then [mb]
    else if sh.1 = 0 ∨ sh.2.1 = axis then List.range glob
    else (List.range (usedDim sh glob a.1 a.2)).map (globalDim sh glob a.1 a.2)
  let blocks := (l.globalExt.zip l.bext).zipIdx.map fun x => if x.2 = cd then cdiv x.1.1 256 else cdiv x.1.1 x.1.2
  let blockNo := fun (t : List Nat) => rowMajor blocks ((t.zip l.bext).zipIdx.map fun x => if x.2 = cd then x.1.1 / 256 else x.1.1 / x.1.2)
  let owner := fun (t : List Nat) => if c.opc = 3 then blockNo t % max 1 P else
    (((ls.shard.zip ls.globalExt).zip t).findSome? fun d =>
      if d.1.1.1 ≠ 0 ∧ d.1.1.2.1 = axis then some (ownerDim d.1.1 d.1.2 P d.2) else none).getD 0
  let st := prodN (l.globalExt.drop (cd + 1))
  (cart (setNth dims cd [0])).flatMap fun t =>
    (cutRuns (fun g => let t := setNth t cd g; [g / 256, owner t, s.ownerDie hv axis (owner t) t]) (nth dims cd [])).map fun r =>
      let t0 := setNth t cd (r.headD 0)
      { first := rowMajor l.globalExt t0, count := r.length, estride := st, owner := owner t0, no := r.headD 0 / 256
        die := s.ownerDie hv axis (owner t0) t0 }

/-! ### One instruction at one member -/

/-- What an instruction's run needs to know: where it runs, its group, its placement. -/
structure CascCtx where
  pt : Nat
  b : List Byte
  step : Nat
  record : Nat
  mb : Nat
  layer : Option Nat
  slot : Nat
  c : CascRec
  members : List Nat
  me : Nat
  careful : Bool
  inr : Bool
  /-- Version that a weight or moment is read and written at (R193). -/
  ver : Nat
  chunks : List ChunkDesc
deriving DecidableEq, Repr, Inhabited

/-- Version or step at which an instruction reads or writes a tensor. -/
def tensorVer (b : List Byte) (t step : Nat) : Nat :=
  let k := (bedTensor b t).kind
  if k = 0 ∨ k = 4 ∨ k = 5 then step + 1 else step

/-- Context of an instruction. -/
def State.cascCtx (s : State) (pt : Nat) (b : List Byte) (step record mb : Nat) (layer : Option Nat) (slot : Nat) : CascCtx :=
  let c := bedCasc b record
  let g := s.group slot
  { pt := pt, b := b, step := step, record := record, mb := mb, layer := layer, slot := slot, c := c, members := g.members
    me := g.rank, careful := (s.stepSt pt step).any (·.careful), inr := g.inr && !(s.stepSt pt step).any (·.careful)
    ver := tensorVer b c.dst step
    chunks := if c.opc = 4 then [] else s.chunksOf pt b c (tensorVer b c.dst step) mb g.members.length }

/-- The run. -/
def State.crun (s : State) (k : CascCtx) : CascRun :=
  (s.cascRun k.pt k.step k.record k.mb).getD
    { pt := k.pt, record := k.record, layer := k.layer, slot := k.slot, step := k.step, mb := k.mb }

/-- Change a run, opening it. -/
def State.modRun (s : State) (k : CascCtx) (f : CascRun → CascRun) : State :=
  let hit := fun (r : CascRun) => r.pt == k.pt && r.step == k.step && r.record == k.record && r.mb == k.mb
  s.modCasc fun c =>
    if c.runs.any hit then { c with runs := c.runs.map fun r => if hit r then f r else r }
    else { c with runs := c.runs ++ [f { pt := k.pt, record := k.record, layer := k.layer, slot := k.slot, step := k.step, mb := k.mb }] }

/-- View of SRC, and of DST. -/
def State.srcView (s : State) (k : CascCtx) : View := s.view k.pt k.b k.c.src (tensorVer k.b k.c.src k.step)
def State.dstView (s : State) (k : CascCtx) : View :=
  if k.c.opc = 2 ∨ k.c.opc = 4 then
    let v := s.srcView k
    s.viewAt k.pt k.b k.c.dst k.ver v.c v.fmt
  else s.viewAt k.pt k.b k.c.dst k.ver (s.coarse k.pt k.c.dst k.step) (s.rungAt k.pt k.c.dst k.step)

/-- LAYER record whose DW stream a program reads. -/
def CascCtx.li (k : CascCtx) : Nat := k.layer.getD 0
/-- Whether the instruction reads the DW stream. -/
def CascCtx.dw (k : CascCtx) : Bool := k.c.src == none32
/-- The DW task that stands for a layer's elements. -/
def CascCtx.task (k : CascCtx) : Task := ⟨2, k.li, 0, 0, 0⟩

/-- Whether the reduction is anchored (R68, R271). -/
def State.cascAnchored (s : State) (k : CascCtx) : Bool :=
  if k.dw then (s.place k.pt k.b k.step k.li 2).anchored else (s.srcView k).fmt == 3

/-- LBASE and whether values are 255th parts (R262, R264): an anchored chunk has LBASE 0 (DESIGN CHOICE: entry 38). -/
def State.cascBase (s : State) (k : CascCtx) : Int × Bool :=
  if s.cascAnchored k then (0, false)
  else if k.dw then s.scopeLsb k.pt k.b k.step k.li 2 0
  else let v := s.srcView k; (v.floor + v.c - 15, v.fmt == 7)

/-- Row and column of a DW element in the weight's matrix at this member. -/
def State.dwPlace (s : State) (k : CascCtx) (ix : Nat) : Option (Nat × Nat) :=
  let w := s.view k.pt k.b (useTensor k.b (bedLayer k.b k.li).useW) k.step
  (s.localOf k.pt w.lay ix).map fun t => (rowMajor w.rowDims (t.take (t.length - 1)), t.getLast?.getD 0)

/-- Count n of an element of the reduction (R60, R267): DW's scope, or P for a tensor. -/
def State.redCount (s : State) (k : CascCtx) (ix : Nat) : Nat :=
  if k.dw then (match s.dwPlace k ix with
    | some rc => s.scopeN k.pt k.b k.step k.li 2 0 rc.1 rc.2
    | none => 0)
  else k.members.length

/-- Largest exponent of an element's products here, none for no nonzero product (R66, R271). -/
def State.ownM (s : State) (k : CascCtx) (ix : Nat) : Option Int :=
  if k.dw then (s.dwPlace k ix).bind fun rc =>
    if s.elemMasked k.pt k.b k.step k.li 2 rc.1 rc.2 then none else s.localM k.pt k.b k.step k.li 2 0 rc.1 rc.2
  else
    let v := s.srcView k
    (s.localOf k.pt v.lay ix).bind fun t =>
      let x := s.readElem k.b v t
      if x.poison ∨ x.s = 0 then none else some ((msb x.s : Int) + x.e + v.c - x.k)

/-- Anchor of an element from the M agreed. -/
def State.redAnchor (s : State) (k : CascCtx) (ix : Nat) : Option Int :=
  ((s.crun k).anchors.find? fun a => a.1 == ix).map fun a => a.2 + clog2 (s.redCount k ix)

/-- Deficit in force for an element of a run. -/
def CascRun.def_ (r : CascRun) (ix : Nat) : Nat := ((r.defs.find? fun d => d.1 == ix).map (·.2)).getD 0

/-- This member's word of an element: of its drains, or under a deficit of their repeat (R64, R271). -/
def State.ownWord (s : State) (k : CascCtx) (rep : Bool) (ix : Nat) : Basin :=
  let d := if rep then (s.crun k).def_ ix else 0
  if k.dw then
    let out := (bedLayer k.b k.li).outDW
    match s.stepSt k.pt k.step with
    | some x => let i := x.inst out 0xFFFF; wordAt (if d = 0 then i.acc else i.racc) ix
    | none => {}
  else
    let v := s.srcView k
    match s.localOf k.pt v.lay ix with
    | none => {}
    | some t =>
      let x := s.readElem k.b v t
      if x.poison then { poison := true }
      else if v.fmt = 3 then
        match s.redAnchor k ix with
        | some al => ({} : Basin).enterAnchored (shiftFloor x.s (x.e + v.c - x.k - (al - 120) - d)) al
        | none => {}
      else ({} : Basin).enter (x.s * (2 ^ ((x.e - v.floor) + (15 - x.k)).toNat : Nat)) (v.fmt == 7 && x.side) d

/-- This member's contribution to an element (R266, R267). -/
def State.ownElem (s : State) (k : CascCtx) (rep : Bool) (ix : Nat) : RedElem :=
  let w := s.ownWord k rep ix
  ⟨ix, w.b, if rep then (s.crun k).def_ ix else if w.rep ≠ 0 ∨ w.mtop = 0 then 0 else deficit w.mtop (s.redCount k ix), w.poison⟩

/-- Sum of two members' elements (R266, R267). -/
def RedElem.plus (a b : RedElem) : RedElem := ⟨a.ix, wrap128 (a.v + b.v), max a.crest b.crest, a.poison || b.poison⟩

/-- Elements of a received sum. -/
def Chunk.elems (c : Chunk) : List RedElem :=
  match runnelDecode (cdiv c.count 16) c.count c.payload with
  | none => []
  | some l => l.zipIdx.map fun x => ⟨c.first + x.2 * c.estride, x.1.1, x.1.2.1, x.1.2.2⟩

/-- A chunk received in a run. -/
def CascRun.got (r : CascRun) (kind stage rank : Nat) (d : ChunkDesc) : Option Chunk :=
  (r.recv.find? fun x => x.1 == rank && x.2.kind == kind && x.2.stage == stage && x.2.first == d.first && x.2.count == d.count).map (·.2)

/-- Whether some tasks of a step have drained and none of them is to be recomputed. -/
def State.drained (s : State) (pt step : Nat) (ts : List Task) : Bool :=
  match s.stepSt pt step with
  | none => false
  | some x =>
    let run := s.running pt step
    ts.all fun t => (x.done.contains t || x.skipped.contains t) && !x.again.contains t && !run.contains t

/-- Whether this member's words of a chunk are complete: the sums of a layer's drain are streamed chunk by chunk (R273). -/
def State.chunkDrained (s : State) (k : CascCtx) (d : ChunkDesc) : Bool :=
  !k.dw || s.drained k.pt k.step
    (((d.ixs.filterMap (s.dwPlace k)).flatMap fun rc => s.coverTasks k.pt k.b k.step k.task rc.1 rc.2).eraseDups)

/-- A chunk to be sent by a run. -/
def State.outChunk (s : State) (k : CascCtx) (d : ChunkDesc) (kind stage : Nat) (payload : List Byte) (residue : Nat) : Chunk :=
  let _ := s
  { tag := (bedTensor k.b k.c.dst).tag, gid := (bedGroup k.b k.c.group).gid, kind := kind, prov := false, careful := k.careful
    stage := stage, step := k.step, mb := k.mb, first := d.first, count := d.count, estride := d.estride, epoch := 0
    lbase := if kind < 2 then (s.cascBase k).1 else 0, rev := 0, residue := residue, payload := payload }

/-! ### Owners (R271) -/

/-- Forget the deficits of some elements, with the words of their repeat (R281). -/
def State.clearDefs (s : State) (k : CascCtx) (ixs : List Nat) : State :=
  let s := s.modRun k fun r => { r with defs := r.defs.filter fun x => !ixs.contains x.1 }
  if !k.dw then s
  else s.modStep k.pt k.step fun x =>
    let i := x.inst (bedLayer k.b k.li).outDW 0xFFFF
    x.setInst { i with defs := i.defs.filter fun y => !ixs.contains y.1, racc := dropWords i.racc ixs }

/-- Members of a layer recompute the tiles of deficient elements (R64, R271). -/
def State.applyDefs (s : State) (k : CascCtx) (ds : List (Nat × Nat)) : State :=
  let s := (s.clearDefs k (ds.map (·.1))).modRun k fun r => { r with defs := ds ++ r.defs }
  if !k.dw then s
  else
    let cover := (ds.filterMap fun d => s.dwPlace k d.1).flatMap fun rc => s.coverTasks k.pt k.b k.step k.task rc.1 rc.2
    s.modStep k.pt k.step fun x =>
      let i := x.inst (bedLayer k.b k.li).outDW 0xFFFF
      let x := x.setInst { i with defs := ds ++ i.defs }
      { x with again := (x.again ++ cover.filter fun t => !x.skipped.contains t).eraseDups }

/-- Values of elements that had been accepted are taken back, and what rests on them is done again (R207, R281). -/
def State.dropVals (s : State) (k : CascCtx) (ixs : List Nat) : State :=
  let mb := instMb k.b k.c.dst k.mb
  if (s.stepSt k.pt k.step).any (fun x => (x.inst k.c.dst mb).vals.any fun v => ixs.contains v.1) then
    let s := s.modStep k.pt k.step fun x =>
      let i := x.inst k.c.dst mb
      x.setInst { i with vals := i.vals.filter fun v => !ixs.contains v.1 }
    s.redoFrom k.pt k.b k.step [k.c.dst]
  else s

/-- Array that stands for the owner of a chunk in the array registers: that of the layer's lowest role (entry 39). -/
def State.ownerArray (s : State) (k : CascCtx) : Nat × Nat :=
  let L := bedLayer k.b k.li
  (L.die, (s.arrayOf L.die ((bitsOf 16 L.roles).headD 0)).getD 0)

/-- The values of elements that are final here (R271): accepted ones are kept, and their blocks rounded as they complete. -/
def State.acceptSum (s : State) (k : CascCtx) (es : List RedElem) (rep : Bool) : State :=
  let v := s.dstView k
  let (lb, grid) := s.cascBase k
  let anch := s.cascAnchored k
  let mb := instMb k.b k.c.dst k.mb
  let lsb := fun (e : RedElem) => (if anch then (s.redAnchor k e.ix).getD 120 - 120 else lb) + (if rep then (e.crest : Int) else 0) +
    (if k.dw ∧ k.members.length ≤ 1 then ((s.ownWord k false e.ix).rep : Int) else 0)
  let vals := es.map fun e => (e.ix, if e.poison then ({ poison := true } : Exact) else drainValue e.v (lsb e) grid)
  let a := s.ownerArray k
  let s := s.logPoison a.1 a.2 (es.filter (·.poison)).length
  let s := s.modStep k.pt k.step fun x =>
    let i := x.inst k.c.dst mb
    x.setInst { i with vals := vals ++ i.vals.filter fun y => !vals.any fun z => z.1 == y.1 }
  let s := s.noteScale k.pt k.b k.c.dst k.step k.ver v.c v.fmt
  s.roundBlocks k.pt k.b k.step k.c.dst v (es.filterMap fun e => s.localOf k.pt v.lay e.ix)

/-- Whether the owner holds a value of every element of a list. -/
def State.hasVals (s : State) (k : CascCtx) (ixs : List Nat) : Bool :=
  match s.stepSt k.pt k.step with
  | none => false
  | some x => let i := x.inst k.c.dst (instMb k.b k.c.dst k.mb); ixs.all fun ix => i.vals.any fun y => y.1 == ix

/-- Tile of the DW output that an element lies in, as a record of a repeat names it (R65). -/
def State.dwTile (s : State) (k : CascCtx) (ix : Nat) : Nat :=
  match if k.dw then s.dwPlace k ix else none with
  | some (r, c) => let (mt, nt) := tileDims (bedLayer k.b k.li).shape; r / mt + at_ 16 (c / nt)
  | none => 0

/-- A chunk is complete at its final owner (R271, R65): poisoned elements and those that pass are accepted; the others' deficits go to every
member. Deficits that a new revision of the sum no longer gives are withdrawn (R281). -/
def State.ownerActs (s : State) (k : CascCtx) (d : ChunkDesc) (es : List RedElem) (rep : Bool) : State :=
  if rep then
    let bad := es.filter fun e => (s.crun k).def_ e.ix != 0
    if s.hasVals k (bad.map (·.ix)) then s else s.acceptSum k bad true
  else
    let crest := fun (e : RedElem) => if e.poison then 0 else e.crest
    let ok := es.filter fun e => crest e == 0
    let bad := es.filter fun e => crest e != 0
    let r := s.crun k
    let same := es.all fun e => r.def_ e.ix == crest e
    let s := if same then s else (s.clearDefs k (es.map (·.ix))).dropVals k ((es.filter fun e => r.def_ e.ix != crest e).map (·.ix))
    let s := if s.hasVals k (ok.map (·.ix)) then s else s.acceptSum k ok false
    if same then s
    else if bad.isEmpty then
      s.retractSent k.slot fun x => x.chunk.kind == 3 && x.chunk.step == k.step && x.chunk.mb == k.mb &&
        x.chunk.tag == (bedTensor k.b k.c.dst).tag && x.chunk.first == d.first && x.chunk.count == d.count
    else
      let top := bad.foldl (fun m e => if m.crest < e.crest then e else m) (bad.headD default)
      let s := s.bump (Reg.cascadeGrpXrepeat k.slot) 1
      let s := s.stepRec k.pt k.step { unitRec 0 0x10 4 8 0 with
        layer := (bedTensor k.b k.c.dst).tag, detail0 := s.dwTile k top.ix, detail1 := top.crest
        mb := if k.mb = 0xFFFF then none else some k.mb }
      let s := s.chargeStep k.pt k.step 1 (if k.dw then (bedLayer k.b k.li).id else 0)
      let pay := es.map fun e => BitVec.ofNat 8 (crest e)
      let s := forEach (gatherOut k.members.length k.me d.owner) (fun o s =>
        s.sendChunk k.slot o.2 (some (k.record % 8)) (s.outChunk k d 3 0x45 pay (wordResidue pay))) s
      s.applyDefs k (bad.map fun e => (e.ix, e.crest))

/-! ### Reductions (R269, R271, R276) -/

/-- Plan of a chunk at this member. -/
def CascCtx.plan (k : CascCtx) (d : ChunkDesc) : List (List (Nat × Nat) × Option (Nat × Nat)) :=
  reducePlan k.members k.inr k.me d.owner

/-- Residue of a sum as the path beside the adder forms it (R266): the inputs' residues added modulo p, less the terms of elements that the
output sends as poison (DESIGN CHOICE: entry 73). -/
def pathResidue (ins : List (Nat × List RedElem)) (es : List RedElem) : Nat :=
  let all : Int := sumZ (ins.map fun x => (x.1 : Int))
  let gone := sumZ (es.zipIdx.map fun e =>
    if e.1.poison then ((e.2 : Int) + 1) * sumZ (ins.map fun x => (nth x.2 e.2 default).v) else 0)
  ((all - gone) % p61).toNat

/-- Elements of a contribution as a chunk carries them: a poisoned one has V = 0 (R265). -/
def RedElem.sent (e : RedElem) : RedElem := if e.poison then { e with v := 0 } else e

/-- Whether careful service lets a chunk go out at a stage (R274): every chunk of the stages before has come and been compared, the package
stage among them. Chunks of repeats are held to the chunks that repeat. -/
def State.barrierOk (s : State) (k : CascCtx) (kind stage : Nat) : Bool :=
  let order := if kind = 4 then gatherStages k.members.length else reduceStages k.members.length
  let at_ := fun (st : Nat) => runOf k.members order st
  let r := s.crun k
  !k.careful || stage == 0x44 || k.chunks.all fun d =>
    let on := kind != 1 || d.ixs.any fun ix => r.def_ ix != 0
    !on || ((kind == 4 || s.chunkDrained k d) &&
      (if kind = 4 then
        match gatherIn k.members.length k.me d.owner with
        | some (st, q) => !decide (at_ st < at_ stage) || (r.got 4 st q d).isSome
        | none => true
      else (k.plan d).all fun it => it.1.all fun x => !decide (at_ x.1 < at_ stage) || (r.got kind x.1 x.2 d).isSome))

/-- Die whose staging region takes a chunk's package sum (R268): that of the element in DST where this member owns it, else CD(j mod 4). -/
def CascCtx.stageDie (k : CascCtx) (d : ChunkDesc) : Nat := if d.owner = k.me then d.die else d.no % 4

/-- One item of a plan of sums: whether its inputs have come, and the state after it. -/
def State.sumItem (s : State) (k : CascCtx) (d : ChunkDesc) (rep : Bool) (i : Nat) (it : List (Nat × Nat) × Option (Nat × Nat)) :
    State × Bool :=
  let r := s.crun k
  let kind := if rep then 1 else 0
  let ins := it.1.filterMap fun x => r.got kind x.1 x.2 d
  if ins.length < it.1.length ∨ (i = 0 ∧ !s.chunkDrained k d) ∨ !(it.2.all fun o => s.barrierOk k kind o.1) then (s, false)
  else
    let own := (d.ixs.map (s.ownElem k rep)).map RedElem.sent
    let s := if i = 0 ∧ !rep then s.modRun k fun r =>
        { r with placed := (d.first, k.stageDie d) :: r.placed.filter fun y => y.1 != d.first } else s
    let parts := (if i = 0 then [(sumResidue (own.map (·.v)), own)] else []) ++ ins.map fun c => (c.residue, c.elems.map RedElem.sent)
    match parts.map (·.2) with
    | [] => (s, true)
    | h :: t =>
      let es := t.foldl (fun a b => (a.zip b).map fun p => p.1.plus p.2) h
      match it.2 with
      | none => (s.ownerActs k d es rep, true)
      | some (stage, rank) =>
        (s.sendChunk k.slot rank (some (k.record % 8)) (s.outChunk k d kind stage (runnelEncode k.careful rep (d.count / 16 + 1) es) (pathResidue parts es)), true)

/-- Run every item of a chunk's plan. -/
def State.sumChunk (s : State) (k : CascCtx) (d : ChunkDesc) (rep : Bool) : State × Bool :=
  (k.plan d).zipIdx.foldl (fun a it =>
    let y := a.1.sumItem k d rep it.2 it.1
    (y.1, a.2 && y.2)) (s, true)

/-- Whether this member's operands of a repeat are lost: a word that its drain gave whole comes back as poison (R80, R284). -/
def State.lostOperands (s : State) (k : CascCtx) (d : ChunkDesc) : Bool :=
  k.dw && d.ixs.any fun ix => (s.crun k).def_ ix != 0 && (s.ownWord k true ix).poison && !(s.ownWord k false ix).poison

/-- Advance the sums of a run; the answer says that nothing is left to do. -/
def State.pumpSums (s : State) (k : CascCtx) : State × Bool :=
  k.chunks.foldl (fun a d =>
    let y := a.1.sumChunk k d false
    let r := y.1.crun k
    if d.ixs.all fun ix => r.def_ ix == 0 then (y.1, a.2 && y.2)
    else if !y.1.chunkDrained k d then (y.1, false)
    else if y.1.lostOperands k d then
      (if k.members.length ≤ 1 then y.1.failReplay k.pt k.step none
       else y.1.abandonStep k.slot k.step 3 (nth k.members k.me 0) none, false)
    else
      let z := y.1.sumChunk k d true
      (z.1, a.2 && y.2 && z.2)) (s, true)

/-- Bytes of M of a list of elements. -/
def anchorBytes (ms : List (Option Int)) : List Byte := ms.flatMap fun m => leBytes 2 (toBits 16 (m.getD (-32768)))
/-- M of a payload. -/
def anchorsOf (n : Nat) (l : List Byte) : List (Option Int) :=
  (List.range n).map fun i => let m := sN 16 (u16 l (2 * i)); if m = -32768 then none else some m
/-- Larger of two M. -/
def maxM : Option Int → Option Int → Option Int
  | none, e => e
  | some a, some e => some (max a e)
  | some a, none => some a

/-- Record the M agreed for a chunk. -/
def State.noteAnchors (s : State) (k : CascCtx) (d : ChunkDesc) (ms : List (Option Int)) : State :=
  let l := (d.ixs.zip ms).map fun p => (p.1, p.2.getD (-32768))
  s.modRun k fun r => if l.all fun x => r.anchors.any fun y => y.1 == x.1 then r else { r with anchors := r.anchors ++ l }

/-- Send an agreed or gathered payload on (R269). -/
def State.gatherSends (s : State) (k : CascCtx) (d : ChunkDesc) (kind : Nat) (pay : List Byte) : State :=
  forEach ((gatherOut k.members.length k.me d.owner).filter fun o => kind != 4 || s.barrierOk k 4 o.1) (fun o s =>
    s.sendChunk k.slot o.2 (some (k.record % 8)) (s.outChunk k d kind o.1 pay (wordResidue pay))) s

/-- The chunk of a kind that reached this member on the way out from its owner. -/
def State.gathered (s : State) (k : CascCtx) (d : ChunkDesc) (kind : Nat) : Option Chunk :=
  let ins := (k.plan d).flatMap (·.1)
  ((s.crun k).recv.find? fun x => x.2.kind == kind && x.2.first == d.first && x.2.count == d.count &&
    (kind == 4 || !ins.contains (x.2.stage, x.1))).map (·.2)

/-- Advance the agreement of anchors of one chunk (R271). -/
def State.anchorChunk (s : State) (k : CascCtx) (d : ChunkDesc) : State :=
  let s := (k.plan d).zipIdx.foldl (fun (s : State) (it : (List (Nat × Nat) × Option (Nat × Nat)) × Nat) =>
    let r := s.crun k
    let ins := it.1.1.filterMap fun x => r.got 2 x.1 x.2 d
    if ins.length < it.1.1.length ∨ !(it.1.2.all fun o => s.barrierOk k 2 o.1) then s
    else
      let own := if it.2 = 0 then [d.ixs.map (s.ownM k)] else []
      match own ++ ins.map fun c => anchorsOf d.count c.payload with
      | [] => s
      | h :: t =>
        let ms := t.foldl (fun a b => (a.zip b).map fun p => maxM p.1 p.2) h
        match it.1.2 with
        | some (stage, rank) => s.sendChunk k.slot rank (some (k.record % 8)) (s.outChunk k d 2 stage (anchorBytes ms) (wordResidue (anchorBytes ms)))
        | none => (s.noteAnchors k d ms).gatherSends k d 2 (anchorBytes ms)) s
  if d.owner = k.me then s
  else match s.gathered k d 2 with
    | some c => (s.noteAnchors k d (anchorsOf d.count c.payload)).gatherSends k d 2 c.payload
    | none => s

/-- Advance the agreement of anchors; with every element's M known the sums follow. -/
def State.pumpAnchors (s : State) (k : CascCtx) : State :=
  let s := forEach k.chunks (fun d s => s.anchorChunk k d) s
  let r := s.crun k
  if k.chunks.all fun d => d.ixs.all fun ix => r.anchors.any fun y => y.1 == ix then s.modRun k fun r => { r with phase := 0 } else s

/-! ### Gathers (R269, R272) -/

/-- Payload of a gathered chunk: element codes, then the fine codes of the blocks they lie in, by first element (entry 40). -/
def State.gatherPay (s : State) (k : CascCtx) (v : View) (d : ChunkDesc) : List Byte :=
  let ts := d.ixs.filterMap fun ix => s.localOf k.pt v.lay ix
  let fine := v.ten.fine && v.fmt != 3 && v.lay.scaled
  ts.flatMap (fun t => leBytes (elemBytes v.fmt) (s.rawAt v (v.o t)).1) ++
    (if fine then ((ts.map fun t => v.o t / (v.lay.bsize : Int)).eraseDups.map fun q =>
      BitVec.ofNat 8 (s.fineAt v (q * (v.lay.bsize : Int)))) else [])

/-- Mark elements of DST complete. -/
def State.markDone (s : State) (k : CascCtx) (v : View) (ts : List (List Nat)) : State :=
  s.modStep k.pt k.step fun x =>
    let i := x.inst k.c.dst (instMb k.b k.c.dst k.mb)
    x.setInst { i with done := ts.foldl (fun m t => m ||| 2 ^ rowMajor v.used t) i.done }

/-- Whether elements of DST are complete. -/
def State.isDone (s : State) (k : CascCtx) (v : View) (ts : List (List Nat)) : Bool :=
  match s.stepSt k.pt k.step with
  | none => false
  | some x => let i := x.inst k.c.dst (instMb k.b k.c.dst k.mb); ts.all fun t => i.done.testBit (rowMajor v.used t)

/-- Write a gathered chunk's bytes unchanged into DST (R272). -/
def State.gatherWrite (s : State) (k : CascCtx) (d : ChunkDesc) (pay : List Byte) : State :=
  let v := s.dstView k
  let ts := d.ixs.filterMap fun ix => s.localOf k.pt v.lay ix
  if s.isDone k v ts then s
  else
    let n := elemBytes v.fmt
    let fines := pay.drop (n * ts.length)
    let qs := (ts.map fun t => v.o t / (v.lay.bsize : Int)).eraseDups
    let s := forEach ts.zipIdx (fun t s => s.storeElem v t.1 (uN n pay (n * t.2))) s
    let s := if fines.isEmpty then s else
      forEach ts (fun t s => s.storeFine v t (u8 fines ((qs.findIdx? (· == v.o t / (v.lay.bsize : Int))).getD 0))) s
    let s := s.noteScale k.pt k.b k.c.dst k.step k.ver v.c v.fmt
    (s.reencodeElems v ts).markDone k v ts

/-- Advance a gather; the answer says that every chunk is present and sent on. -/
def State.pumpGather (s : State) (k : CascCtx) : State × Bool :=
  k.chunks.foldl (fun a d =>
    let s := a.1
    let pay : Option (List Byte) :=
      if d.owner = k.me then
        let v := if k.c.opc = 2 then s.srcView k else s.dstView k
        if k.c.opc = 2 ∨ s.isDone k v (d.ixs.filterMap fun ix => s.localOf k.pt v.lay ix) then some (s.gatherPay k v d) else none
      else (s.gathered k d 4).map (·.payload)
    match pay with
    | none => (s, false)
    | some p => ((if k.c.opc = 3 ∧ d.owner = k.me then s else s.gatherWrite k d p).gatherSends k d 4 p, a.2)) (s, true)

/-! ### All-to-all (R278) -/

/-- SEND_COUNT for a rank, and the list of its blocks. -/
def State.a2aEntry (s : State) (k : CascCtx) (r : Nat) : Nat × Nat :=
  if r < u32 (s.readSpace k.pt 0 k.c.aux 4) 0 then
    let e := s.readSpace k.pt 0 (k.c.aux + 8 + 16 * r) 16
    (u32 e 0, u48 e 8)
  else (0, 0)

/-- Bytes of one block of SRC: its codes in block element order, then its fine code. -/
def State.a2aBlock (s : State) (v : View) (coord : List Int) : List Byte :=
  let ts := (v.lay.blockTuples coord).map natTuple
  let fine := match ts.findSome? id with | some t => if v.inb t then s.fineAt v (v.o t) else 0 | none => 0
  ts.flatMap (fun t => leBytes (elemBytes v.fmt) ((s.rawMove v t).getD (poisonCode v.fmt))) ++ [BitVec.ofNat 8 fine]

/-- Count chunk of the exchange: FIRST all ones, COUNT 1 (DESIGN CHOICE: entry 41). -/
def countDesc : ChunkDesc := { first := none48, count := 1, estride := 0, owner := 0 }

/-- Chunk j of the blocks for one rank. -/
def blockDesc (j m : Nat) : ChunkDesc := { first := 256 * j, count := m, estride := 0, owner := 0 }

/-- What this member sends to one rank. -/
def State.a2aSend (s : State) (k : CascCtx) (v : View) (r : Nat) : State :=
  let (n, l) := s.a2aEntry k r
  let s := s.sendChunk k.slot r (some (k.record % 8)) (let p := leBytes 4 n; s.outChunk k countDesc 4 0x44 p (wordResidue p))
  forEach (List.range (cdiv n 256)) (fun j s =>
    let m := min 256 (n - 256 * j)
    let p := (List.range m).flatMap fun i => s.a2aBlock v (s.listEntry k.pt (l, 0) v.lay.rank (256 * j + i))
    s.sendChunk k.slot r (some (k.record % 8)) (s.outChunk k (blockDesc j m) 4 0x44 p (wordResidue p))) s

/-- Blocks that have come from one rank, in list order; none while any is missing. -/
def State.a2aGot (s : State) (k : CascCtx) (v : View) (r : Nat) : Option (List (List Byte)) :=
  let size := v.lay.bsize * elemBytes v.fmt + 1
  if r = k.me then
    let (n, l) := s.a2aEntry k r
    some ((List.range n).map fun i => s.a2aBlock v (s.listEntry k.pt (l, 0) v.lay.rank i))
  else
    match (s.crun k).got 4 0x44 r countDesc with
    | none => none
    | some c =>
      let n := u32 c.payload 0
      let parts := (List.range (cdiv n 256)).map fun j => (s.crun k).got 4 0x44 r (blockDesc j (min 256 (n - 256 * j)))
      (parts.mapM id).map fun cs => cs.flatMap fun c => (List.range c.count).map fun i => slice c.payload (size * i) size

/-- Write one block densely into DST. -/
def State.a2aPut (s : State) (v : View) (blocks : List Nat) (n : Nat) (bytes : List Byte) : State :=
  let ts := (v.lay.blockTuples ((unRow blocks n).map Int.ofNat)).map natTuple
  let e := elemBytes v.fmt
  forEach ts.zipIdx (fun t s => match t.1 with
    | some ix => if v.inb ix then (s.storeElem v ix (uN e bytes (e * t.2))).storeFine v ix (u8 bytes (e * ts.length)) else s
    | none => s) s

/-- Advance an all-to-all: everything is sent at once, and what has come is written when it is complete (R278). -/
def State.pumpA2A (s : State) (k : CascCtx) : State × Bool :=
  let v := s.srcView k
  let others := (List.range k.members.length).filter fun r => r != k.me
  let s := forEach others (fun r s => s.a2aSend k v r) s
  match ((List.range k.members.length).map (s.a2aGot k v)).mapM id with
  | none => (s, false)
  | some gs =>
    let d := s.dstView k
    let blocks := (d.used.zip d.lay.bext).map fun p => cdiv p.1 p.2
    let lim := prodN blocks
    let all := gs.flatMap id
    let s := forEach (all.take lim).zipIdx (fun x s => s.a2aPut d blocks x.2 x.1) s
    let ents := u32 (s.readSpace k.pt 0 k.c.aux 4) 0
    let s := forEach (gs.zipIdx.filter fun g => decide (g.2 < ents)) (fun g s =>
      s.writeSpace k.pt 0 (k.c.aux + 8 + 16 * g.2 + 4) (leBytes 4 g.1.length)) s
    let drop := all.length - lim
    let s := if drop = 0 then s else s.bump (Reg.cascadeGrpA2adrop k.slot) drop
    let s := if drop = 0 ∨ ((s.stepSt k.pt k.step).map (·.a2aTold)).getD true then s else
      (s.ptEvent k.pt 0x0A (packLE [(4, (bedGroup k.b k.c.group).gid), (4, 0), (8, k.step)])).modStep k.pt k.step fun x =>
        { x with a2aTold := true }
    let s := s.noteScale k.pt k.b k.c.dst k.step k.ver d.c d.fmt
    (s.markDone k d ((allIx d.used).filter fun t => !mbKind d.ten.kind || k.mb == 0xFFFF || nth t 0 0 == k.mb), true)

/-! ### Running an instruction (R259, R260) -/

/-- Advance a run as far as what has come allows. -/
def State.pump (s : State) (k : CascCtx) : State :=
  let r := s.crun k
  if !r.on then s
  else if k.c.opc = 4 then
    if r.phase = 4 then s else let y := s.pumpA2A k; if y.2 then y.1.modRun k fun r => { r with phase := 4 } else y.1
  else if k.c.opc = 2 then
    let y := s.pumpGather k
    if y.2 then y.1.modRun k fun r => { r with phase := 4 } else y.1
  else
    let s := if r.phase = 1 then s.pumpAnchors k else s
    if (s.crun k).phase = 1 then s
    else
      let y := s.pumpSums k
      let s := y.1
      if !y.2 then s
      else if k.c.opc = 1 then s.modRun k fun r => { r with phase := 4 }
      else
        let s := s.modRun k fun r => { r with phase := max r.phase 3 }
        let z := s.pumpGather k
        if z.2 then z.1.modRun k fun r => { r with phase := 4 } else z.1

/-- Whether every element of a tensor's instance is complete here for a micro-batch, or all of them (R187, R260). -/
def State.tensorReady (s : State) (pt : Nat) (b : List Byte) (step t mb : Nat) : Bool :=
  let v := s.view pt b t step
  let T := bedTensor b t
  (allIx v.used).all fun ix =>
    let m := if mbKind T.kind then nth ix 0 0 else 0
    (mbKind T.kind && mb != 0xFFFF && m != mb) || s.elemReady pt b step t m v ix

/-- Whether the operands of every DW product of a layer are ready (R68). -/
def State.dwOperands (s : State) (k : CascCtx) : Bool :=
  (layerRecs k.b (bedLayer k.b k.li).id).all fun li => (s.layerTasks k.pt k.b k.step li 2).all fun t =>
    let (rs, cs) := s.tileRange k.pt k.b k.step t
    (contribs k.b t.layer 2 t.mb).all fun x => s.contribReady k.pt k.b k.step x.1 2 x.2 rs cs

/-- Whether an instruction's WHEN condition holds, its predecessor in the program having started (Table 10-3, R260). -/
def State.whenOk (s : State) (k : CascCtx) (first : Nat) : Bool :=
  let prev := s.comp.casc.runs.filter fun r => r.pt == k.pt && r.step == k.step && r.record + 1 == k.record &&
    (r.mb == k.mb || r.mb == 0xFFFF || k.mb == 0xFFFF)
  let prevN := if k.mb = 0xFFFF ∧ (bedCasc k.b (k.record - 1)).permb then jobMbs k.b else 1
  let started := k.record == first || (decide (prevN ≤ prev.length) && prev.all (·.on))
  started && (match k.c.when_ with
    | 0 => !s.cascAnchored k || s.dwOperands k
    | 1 => (match s.stepSt k.pt k.step with
      | some x => (x.upd (bedLayer k.b k.li).id).any fun u => u.pass == 4
      | none => false)
    | 2 => s.tensorReady k.pt k.b k.step k.c.src k.mb
    | _ => k.record == first || prev.all fun r => r.phase == 4)

/-- An instruction in one step: it starts where its condition holds, and advances where it has started. -/
def State.runStep (s : State) (k : CascCtx) (first : Nat) : State :=
  if (s.crun k).on then s.pump k
  else if s.whenOk k first then
    (s.modRun k fun r => { r with
      on := true, since := s.time, slot := k.slot, layer := k.layer
      phase := if k.c.opc = 2 then 3 else if (k.c.opc = 1 ∨ k.c.opc = 3) ∧ s.cascAnchored k then 1 else 0 }).pump k
  else s

/-- A Cascade command runs its instruction in every active step. -/
def State.runInstr (s : State) (pt record mb opc : Nat) : State :=
  match (s.part pt).bed with
  | none => s
  | some b =>
    let c := bedCasc b record
    let mb := if c.permb then mb else 0xFFFF
    match (programs b).find? fun p => (progRecs b 64 p.1).contains record, s.groupAt pt c.group with
    | some (first, layer), some slot =>
      if c.opc ≠ opc ∨ (c.permb ∧ jobMbs b ≤ mb) then s
      else forEach ((s.active pt).filter fun x => decide (1 ≤ x.st ∧ x.st ≤ 4)) (fun x s =>
        s.runStep (s.cascCtx pt b x.num record mb layer slot) first) s
    | _, _ => s

/-- Context of the instruction that a chunk belongs to, by group, tag and micro-batch. -/
def State.ctxOf (s : State) (pt slot : Nat) (step mb tag : Nat) (p : Nat → Bool) : Option CascCtx :=
  match (s.part pt).bed with
  | none => none
  | some b =>
    ((instrsOf b).find? fun i =>
      let c := bedCasc b i.1
      p c.opc && i.2.2 == mb && c.group == (s.group slot).record && (bedTensor b c.dst).tag == tag).map fun i =>
      s.cascCtx pt b step i.1 mb i.2.1 slot

end Sys2Proof.Machine
end

