-- ==== Sys2Proof/Machine/Sha3.lean ====
section
/-! DEFINITION. Sha3.lean: SHA3-512 (R154, R256, R405, R409). The manual names FIPS 202 and does not print the function; it is written here
from that standard, its tables as the standard generates them. PRESUMED: entry 21. -/
namespace Sys2Proof.Machine

/-- The 1,600 bits as five planes, by y, of five 64-bit lanes, by x. -/
abbrev Planes := List (List Nat)

/-- Exclusive OR of two planes. -/
def xorPlane (p q : List Nat) : List Nat := List.zipWith (· ^^^ ·) p q

/-- A plane whose lane x is the former lane x + 1. -/
def nextLane (p : List Nat) : List Nat := p.drop 1 ++ p.take 1

/-- A lane turned left by n of its 64 places. -/
def turnLane (n x : Nat) : Nat := x * 2 ^ n % 2 ^ 64 + x / 2 ^ (64 - n)

/-- Each lane takes in the parities of the columns on both sides of its own, the one after it turned by one place. -/
def thetaStep (p : Planes) : Planes :=
  let par := p.foldl xorPlane [0, 0, 0, 0, 0]
  let before := nextLane (nextLane (nextLane (nextLane par)))
  p.map (xorPlane (xorPlane before ((nextLane par).map (turnLane 1))))

/-- Places by which lanes turn, as (x, y, places): the walk from (1, 0) by (x, y) ↦ (y, 2 x + 3 y), its step t turning by the triangular number
(t + 1)(t + 2) / 2. Lane (0, 0) does not turn. -/
def turnWalk : Nat → Nat → Nat → Nat → List (Nat × Nat × Nat)
  | 0, _, _, _ => []
  | k + 1, t, x, y => (x, y, (t + 1) * (t + 2) / 2 % 64) :: turnWalk k (t + 1) y ((2 * x + 3 * y) % 5)

/-- The turns of all lanes. -/
def turns : List (Nat × Nat × Nat) := turnWalk 24 0 1 0

/-- Turn every lane, and bring to (x, y) the one that stood at (x + 3 y, x). -/
def turnAndMove (p : Planes) : Planes :=
  (List.range 5).map fun y => (List.range 5).map fun x =>
    let u := (x + 3 * y) % 5
    let n := ((turns.find? fun w => w.1 == u && w.2.1 == x).map fun w => w.2.2).getD 0
    turnLane n (nth (nth p x []) u 0)

/-- The nonlinear step within a plane: a lane changes where the next is 0 and the one after it 1. -/
def mixPlane (p : List Nat) : List Nat :=
  xorPlane p (List.zipWith (fun b c => (b ^^^ (2 ^ 64 - 1)) &&& c) (nextLane p) (nextLane (nextLane p)))

/-- Powers of x modulo x^8 + x^6 + x^5 + x^4 + 1 over two elements, from one of them on, as bytes. -/
def powers : Nat → Nat → List Nat
  | 0, _ => []
  | k + 1, r => r :: powers k (let d := 2 * r; if d < 256 then d else d ^^^ 0x171)

/-- Constants of the rounds: of each seven powers, power j gives bit 2^j − 1 its constant term. -/
def roundConsts : Nat → List Nat → List Nat
  | 0, _ => []
  | k + 1, l => ((l.take 7).zipIdx.foldl (fun n r => n + r.1 % 2 * 2 ^ (2 ^ r.2 - 1)) 0) :: roundConsts k (l.drop 7)

/-- One round with its constant. -/
def spongeRound (p : Planes) (rc : Nat) : Planes :=
  match (turnAndMove (thetaStep p)).map mixPlane with
  | (a :: row) :: rest => ((a ^^^ rc) :: row) :: rest
  | q => q

/-- The permutation of 24 rounds. -/
def permute (p : Planes) : Planes := (roundConsts 24 (powers 168 1)).foldl spongeRound p

/-- Take in one block of 72 bytes: nine lanes. -/
def takeBlock (p : Planes) (blk : List Byte) : Planes :=
  permute ((List.range 5).map fun y => (List.range 5).map fun x =>
    nth (nth p y []) x 0 ^^^ (if x + 5 * y < 9 then u64 blk (8 * (x + 5 * y)) else 0))

/-- Take in a message; the last block ends in 01, the padding's first 1, zeros and a 1. -/
def takeMessage : Nat → Planes → List Byte → Planes
  | 0, p, _ => p
  | k + 1, p, l =>
    if 72 ≤ l.length then takeMessage k (takeBlock p (l.take 72)) (l.drop 72)
    else takeBlock p (modNth (l ++ [0x06#8] ++ List.replicate (71 - l.length) 0#8) 71 fun b => b ||| 0x80#8)

/-- SHA3-512: 64 bytes in output order, the first eight lanes. -/
def sha3 (l : List Byte) : List Byte :=
  ((takeMessage (l.length / 72 + 1) (List.replicate 5 (List.replicate 5 0)) l).flatten.take 8).flatMap fun x => leBytes 8 x

end Sys2Proof.Machine
end

