-- ==== Sys2Proof/Machine/Cascade.lean ====
section
/-! DEFINITION. Cascade.lean: the Cascade instructions, received chunks and control messages, suspect notices, and groups (R256 to R258,
R259, R262 to R284, R366, R367). -/
namespace Sys2Proof.Machine

/-! ### Instructions (R259) -/

/-- END (R259): the program ends; nothing is computed. -/
def execCascEnd (_pt : Pt) (_record : Nat) (s : State) : Host.Outcome State Fault Refusal := .next s

/-- REDUCE_SCATTER (R268, R269, R271). -/
def execReduceScatter (pt : Pt) (record mb : Nat) (s : State) : Host.Outcome State Fault Refusal := .next (s.runInstr pt record mb 1)

/-- ALL_GATHER (R269, R272). -/
def execAllGather (pt : Pt) (record mb : Nat) (s : State) : Host.Outcome State Fault Refusal := .next (s.runInstr pt record mb 2)

/-- ALL_REDUCE (R259). -/
def execAllReduce (pt : Pt) (record mb : Nat) (s : State) : Host.Outcome State Fault Refusal := .next (s.runInstr pt record mb 3)

/-- ALL_TO_ALL (R278). -/
def execAllToAll (pt : Pt) (record mb : Nat) (s : State) : Host.Outcome State Fault Refusal := .next (s.runInstr pt record mb 4)

/-! ### Received messages -/

/-- Oldest delivered message, when it satisfies a test; it leaves the inbox. -/
def State.takeMsg (s : State) (p : List Byte → Bool) : Option (Nat × Nat × List Byte) × State :=
  match s.comp.casc.inbox with
  | m :: rest => if p m.2.2 then (some m, s.modCasc fun c => { c with inbox := rest }) else (none, s)
  | [] => (none, s)

/-- Whether a message is a control message of a type, or a chunk of a kind (R262, R279). -/
def isCtl (typ : Nat) (l : List Byte) : Bool := l.length == 32 && u8 l 0 == typ
def isChunk (kind : Nat) (l : List Byte) : Bool := decide (48 ≤ l.length) && field (u32 l 4) 19 16 == kind

/-- Group slot and sender's rank of a message from a position for a partition, when its epoch is not below the current one; a stale
message is counted (R257). -/
def State.msgFrom (s : State) (pos pt gid epoch : Nat) : Option (Nat × Nat) × State :=
  match s.slotOfGid pt gid with
  | none => (none, s)
  | some slot =>
    let g := s.group slot
    if epoch < g.epoch then (none, s.bump Reg.cascadeStale 1)
    else match g.members.findIdx? (· == pos) with
      | some r => (some (slot, r), s)
      | none => (none, s)

/-- A suspect notice to the sender of a chunk (R366). -/
def State.sendSuspect (s : State) (slot rank pos : Nat) (c : Chunk) : State :=
  let recent := s.fault.notices.any fun n => n.1 == pos && decide (s.time < n.2 + 2250000)
  if recent then s.bump Reg.faultNoticeSupp 1
  else
    let g := s.group slot
    let m := ctlBytes 5 c.gid g.epoch c.step c.mb c.tag c.rev c.stage (if 2 ≤ c.rev then 2 else 1) c.first c.count
    let s := s.modFault fun f => { f with notices := (pos, s.time) :: f.notices.filter fun n => n.1 != pos }
    (s.bump Reg.faultNoticeOut 1).cascMsg slot rank none m

/-- A chunk fails its residue comparison on receipt (R282, R366). -/
def State.chunkBad (s : State) (slot rank pos pt : Nat) (c : Chunk) : State :=
  let g := s.group slot
  let s := s.bump Reg.cascadeReserr 1
  let s := s.stepRec pt c.step { unitRec 2 0x0B 4 8 0 with
    layer := c.tag, mb := if c.mb = 0xFFFF then none else some c.mb, detail1 := pos, detail2 := c.stage + at_ 8 c.rev }
  let s := (s.bump (Reg.cascadeGrpRecall slot) 1).cascMsg slot rank none (c.ctl 3 g.epoch)
  s.sendSuspect slot rank pos c

/-- Whether a chunk's own residue, coding and LBASE are as they must be (R264 to R266, R284). The comparison of a SUM chunk with a
nonzero crest is made on the repeated chunk. -/
def State.chunkOk (s : State) (k : Option CascCtx) (c : Chunk) : Bool :=
  if c.kind < 2 then
    match runnelDecode (cdiv c.count 16) c.count c.payload with
    | none => false
    | some l =>
      ((c.kind == 0 && l.any fun e => e.2.1 != 0) || sumResidue (l.map (·.1)) == c.residue) &&
        (match k with | some k => (s.cascBase k).1 == c.lbase | none => true)
  else wordResidue c.payload == c.residue

/-- A remote contribution that comes after the quanta planned for its stage is charged PEER_LATE (R243, Table 09-6). -/
def State.peerLate (s : State) (pt record step gid rank : Nat) : State :=
  let n := s.stepAdm pt step
  let mine := s.comp.weir.resv.filter fun r => r.pt == pt && r.admno == n && r.res == 72 + record % 8
  let ends := (mine.map (·.to_)).foldl max 0
  if n ≠ 0 ∧ !mine.isEmpty ∧ ends ≤ s.time / 225 then s.chargeStep pt step 6 (gid + at_ 16 rank) else s

/-- Whether a later revision of a chunk has been seen, and the note of the highest (R281). -/
def State.oldRev (s : State) (pt pos : Nat) (key : Chunk) (rev : Nat) : Bool :=
  s.comp.casc.revs.any fun x => x.1 == pt && x.2.1 == pos && x.2.2.1 == key && decide (rev < x.2.2.2)
def State.noteRev (s : State) (pt pos : Nat) (key : Chunk) (rev : Nat) : State :=
  s.modCasc fun x =>
    { x with revs := (pt, pos, key, rev) :: x.revs.filter fun y => !(y.1 == pt && y.2.1 == pos && y.2.2.1 == key) }

/-- A chunk is received (R266, R279, R281, R282): compared, confirmed, kept with its run, and used; also is what its kind does besides. -/
def State.recvChunk (s : State) (kind : Nat) (ops : Nat → Bool) (hit : Bool) (also : CascCtx → Chunk → State → State) : State :=
  let (m, s) := s.takeMsg (isChunk kind)
  match m with
  | none => s
  | some (pos, pt, bytes) =>
    let c := chunkOf bytes
    let (f, s) := s.msgFrom pos pt c.gid c.epoch
    match f with
    | none => s
    | some (slot, rank) =>
      if s.oldRev pt pos c.key c.rev then s
      else
        let k := s.ctxOf pt slot c.step c.mb c.tag ops
        if hit || !s.chunkOk k c then s.chunkBad slot rank pos pt c
        else
          let s := s.noteRev pt pos c.key c.rev
          let s := s.cascMsg slot rank none (c.ctl 1 (s.group slot).epoch)
          match k with
          | none => s
          | some k =>
            let s := s.modRun k fun r =>
              { r with recv := (rank, c) :: r.recv.filter fun x => !(x.1 == rank && x.2.same c) }
            (also k c (s.peerLate pt k.record c.step c.gid rank)).pump k

/-- A DEFICIT is passed on, and its contributor's tiles are to be computed again with truncation by d (R271). -/
def State.takeDeficit (k : CascCtx) (c : Chunk) (s : State) : State :=
  let d := (k.chunks.find? fun d => d.first == c.first && d.count == c.count).getD default
  let ds := (d.ixs.zip c.payload).filterMap fun x => if x.2 = 0#8 then none else some (x.1, x.2.toNat)
  let s := forEach (gatherOut k.members.length k.me d.owner) (fun o s =>
    s.sendChunk k.slot o.2 (some (k.record % 8)) (s.outChunk k d 3 0x45 c.payload (wordResidue c.payload))) s
  s.applyDefs k ds

/-- SUM (R266 to R271). -/
def execSum (residueHit : Bool) (s : State) : Host.Outcome State Fault Refusal :=
  .next (s.recvChunk 0 (fun o => o == 1 || o == 3) residueHit fun _ _ s => s)

/-- SUM_REPEAT (R271). -/
def execSumRepeat (residueHit : Bool) (s : State) : Host.Outcome State Fault Refusal :=
  .next (s.recvChunk 1 (fun o => o == 1 || o == 3) residueHit fun _ _ s => s)

/-- ANCHOR (R271). -/
def execAnchor (residueHit : Bool) (s : State) : Host.Outcome State Fault Refusal :=
  .next (s.recvChunk 2 (fun o => o == 1 || o == 3) residueHit fun _ _ s => s)

/-- DATA of a gather or an all-to-all (R272, R278). -/
def execDataChunk (residueHit : Bool) (s : State) : Host.Outcome State Fault Refusal :=
  .next (s.recvChunk 4 (fun o => o == 2 || o == 3 || o == 4) residueHit fun _ _ s => s)

/-- DEFICIT (R271): the contributor passes it on and recomputes its tiles with truncation by d. -/
def execDeficit (residueHit : Bool) (s : State) : Host.Outcome State Fault Refusal :=
  .next (s.recvChunk 3 (fun o => o == 1 || o == 3) residueHit State.takeDeficit)

/-- SCALAR (R275): the list is kept with its STAGE and revision, and what it completes is sent on. A chunk of a formation round serves a
group that has no epoch yet, and is judged by none (DESIGN CHOICE: entry 50). -/
def execScalar (residueHit : Bool) (s : State) : Host.Outcome State Fault Refusal :=
  let (m, s) := s.takeMsg (isChunk 5)
  .next (match m with
    | none => s
    | some (pos, pt, bytes) =>
      let c := chunkOf bytes
      let round := u8 c.payload 0
      let ident := u16 c.payload 2
      let form := (s.slotOfGid pt c.gid).map fun i => (i, ((s.group i).members.findIdx? (· == pos)).getD 0)
      let (f, s) := if round = 0 then (form, s) else s.msgFrom pos pt c.gid c.epoch
      match f with
      | none => s
      | some (slot, rank) =>
        let key := { c.key with first := roundHead round ident }
        if s.oldRev pt pos key c.rev then s
        else if residueHit || !s.chunkOk none c then s.chunkBad slot rank pos pt c
        else
          let s := (s.noteRev pt pos key c.rev).cascMsg slot rank none (c.ctl 1 (s.group slot).epoch)
          let es := (List.range (u8 c.payload 1)).map fun i => slice c.payload (8 + 32 * i) 32
          let s := s.modRound slot round ident c.step fun a =>
            { a with recv := (a.recv.filter fun r => !(r.1 == c.stage && r.2.1 == c.rev)) ++ [(c.stage, c.rev, es)] }
          if round = 0 then s.pumpRound slot 0 ident c.step else s.driveRound pt round ident c.step)

/-- A control message of a type: group slot, sender's rank and position, partition and bytes. -/
def State.takeCtl (s : State) (typ : Nat) : Option (Nat × Nat × Nat × Nat × List Byte) × State :=
  let (m, s) := s.takeMsg (isCtl typ)
  match m with
  | none => (none, s)
  | some (pos, pt, l) =>
    let (f, s) := s.msgFrom pos pt (u16 l 2) (u32 l 4)
    (f.map fun x => (x.1, x.2, pos, pt, l), s)

/-- Whether a control message names a chunk (Table 10-9), its revision apart. -/
def ctlNames (l : List Byte) (c : Chunk) : Bool :=
  c.gid == u16 l 2 && c.step == u48 l 8 && c.mb == u16 l 14 && c.tag == u32 l 0x10 && c.stage == u8 l 0x15 && c.first == u48 l 0x18 &&
    c.count == u16 l 0x1E

/-- CONFIRM (R279). -/
def execConfirm (s : State) : Host.Outcome State Fault Refusal :=
  let (m, s) := s.takeCtl 1
  .next (match m with
    | none => s
    | some (_, rank, _, pt, l) =>
      s.modCasc fun c =>
        { c with sent := c.sent.map fun x =>
          if x.pt == pt && x.dst == rank && ctlNames l x.chunk && x.chunk.rev == u8 l 0x14 && !x.gone then { x with confirmed := true } else x })

/-- Chunks sent that were derived from a chunk received: outputs of the plan items that take it in, or what was sent on. -/
def CascCtx.derived (k : CascCtx) (rank : Nat) (c : Chunk) (x : Chunk) : Bool :=
  let outs : List (Nat × Nat) := match k.chunks.find? fun d => d.first == c.first && d.count == c.count with
    | some d =>
      let its := k.plan d
      let hitAt := (its.findIdx? fun it => it.1.contains (c.stage, rank)).getD its.length
      (its.drop hitAt).filterMap (·.2)
    | none => []
  x.tag == c.tag && x.gid == c.gid && x.step == c.step && x.mb == c.mb && x.first == c.first && x.count == c.count &&
    (if c.kind < 3 then (x.kind == c.kind && (outs.any (fun o => o.1 == x.stage) || c.kind == 2)) || (c.kind == 0 && (x.kind == 1 || x.kind == 3))
     else (x.kind == c.kind && x.stage != 0x44) || (c.kind == 3 && x.kind == 1))

/-- Undo the work that used a chunk (R281): what was sent from it is retracted; values made from it, and what read them, are made
anew. -/
def State.undoChunk (s : State) (k : CascCtx) (rank : Nat) (c : Chunk) : State :=
  let s := s.modRun k fun r => { r with
    recv := r.recv.filter fun x => !(x.1 == rank && x.2.same c)
    phase := if c.kind = 2 then 1 else if c.kind = 4 then min r.phase 3 else 0 }
  let s := s.retractSent k.slot fun x => k.derived rank c x.chunk
  let ixs := (List.range c.count).map fun i => c.first + i * c.estride
  let s := if c.kind = 2 then s.modRun k fun r => { r with anchors := r.anchors.filter fun a => !ixs.contains a.1 } else s
  let s := if c.kind = 3 ∨ c.kind = 0 then s.clearDefs k ixs else s
  let used := (s.stepSt k.pt k.step).any fun x =>
    let i := x.inst k.c.dst (instMb k.b k.c.dst k.mb)
    (ixs.any fun ix => i.vals.any fun v => v.1 == ix) || (c.kind == 4 && i.done != 0)
  if !used then s
  else
    let s := s.modStep k.pt k.step fun x =>
      let i := x.inst k.c.dst (instMb k.b k.c.dst k.mb)
      x.setInst { i with
        vals := i.vals.filter fun v => !ixs.contains v.1
        done := if c.kind = 4 then 0 else i.done }
    let s := s.chargeStep k.pt k.step 7 (bedGroup k.b k.c.group).gid
    s.redoFrom k.pt k.b k.step [k.c.dst]

/-- RETRACT (R281): counted, and whatever used the old revision is undone; a list of a scalar round leaves its round, and the lists derived
from it are retracted. -/
def execRetract (s : State) : Host.Outcome State Fault Refusal :=
  let (m, s) := s.takeCtl 2
  .next (match m with
    | none => s
    | some (slot, rank, _, pt, l) =>
      let s := s.bump (Reg.cascadeGrpRetract slot) 1
      let runs := s.comp.casc.runs.filter fun r => r.pt == pt && r.slot == slot && r.step == u48 l 8
      let hits := runs.flatMap fun r => (r.recv.filter fun x => x.1 == rank && ctlNames l x.2 && x.2.rev == u8 l 0x14).map fun x => (r, x.2)
      match (s.part pt).bed with
      | none => s
      | some b =>
        let s := forEach hits (fun h s =>
          let k := s.cascCtx pt b h.1.step h.1.record h.1.mb h.1.layer slot
          (s.undoChunk k rank h.2).pump k) s
        let lists := s.comp.casc.rounds.filter fun a =>
          a.slot == slot && a.step == u48 l 8 && roundHead a.round a.ident == u48 l 0x18 && a.recv.any fun r => r.1 == u8 l 0x15 && r.2.1 == u8 l 0x14
        forEach lists (fun a s =>
          let s := s.modRound slot a.round a.ident a.step fun a =>
            { a with recv := a.recv.filter fun r => !(r.1 == u8 l 0x15 && r.2.1 == u8 l 0x14) }
          if a.round = 0 then s.pumpRound slot 0 a.ident a.step else s.driveRound pt a.round a.ident a.step) s)

/-- RECALL (R282): the sender retracts the chunk at every receiver and resends it; the third recall in an epoch abandons the step. -/
def execRecall (s : State) : Host.Outcome State Fault Refusal :=
  let (m, s) := s.takeCtl 3
  .next (match m with
    | none => s
    | some (slot, rank, _, pt, l) =>
      match s.comp.casc.sent.find? fun x => x.pt == pt && x.dst == rank && ctlNames l x.chunk && x.chunk.rev == u8 l 0x14 with
      | none => s
      | some x =>
        let all := fun (y : SentChunk) => y.pt == pt && !y.gone && !y.held && (y == x ||
          (y.chunk.kind == x.chunk.kind && y.chunk.tag == x.chunk.tag && y.chunk.gid == x.chunk.gid && y.chunk.step == x.chunk.step &&
            y.chunk.mb == x.chunk.mb && y.chunk.first == x.chunk.first && y.chunk.count == x.chunk.count &&
            y.chunk.payload == x.chunk.payload))
        if 2 ≤ x.recalls then s.abandonStep slot x.chunk.step 2 s.myPos none
        else
          let g := s.group slot
          let l := s.comp.casc.sent.filter all
          let s := forEach l (fun y s =>
            let c' := { y.chunk with rev := (y.chunk.rev + 1) % 256, epoch := g.epoch }
            (s.cascMsg slot y.dst none (y.chunk.ctl 2 g.epoch)).cascMsg slot y.dst (if c'.prov then some c'.step else none) c'.bytes) s
          s.modCasc fun c =>
            { c with
              sent := c.sent.map fun y =>
                if l.contains y then
                  { y with
                    chunk := { y.chunk with rev := (y.chunk.rev + 1) % 256, epoch := g.epoch }
                    confirmed := false, recalls := y.recalls + 1 }
                else y })

/-- ABANDON (R258, R282): the first for a step is passed on, and the member undoes the step and advances the epoch; its record names the
detecting member, which the message carries (entry 69). -/
def execAbandon (s : State) : Host.Outcome State Fault Refusal :=
  let (m, s) := s.takeCtl 4
  .next (match m with
    | none => s
    | some (slot, _, _, _, l) => s.abandonStep slot (u48 l 8) (u16 l 0x16) (u32 l 0x10) none)

/-- SUSPECT (R367): the unit the chunk was sent through is named; the window opens or counts. -/
def execSuspect (s : State) : Host.Outcome State Fault Refusal :=
  let (m, s) := s.takeMsg (isCtl 5)
  .next (match m with
    | none => s
    | some (pos, pt, l) =>
      let s := s.bump Reg.faultNoticeIn 1
      let port := ((s.comp.fab.tx.find? fun f => f.pt == pt && addrPos f.dst == pos).map (·.port)).getD 0
      if s.fault.suspects.any (fun w => w.port == port) then
        s.modFault fun f => { f with suspects := f.suspects.map fun w => if w.port == port then { w with count := w.count + 1 } else w }
      else s.modFault fun f => { f with suspects := f.suspects ++ [⟨port, s.time, 1, pos, u16 l 0x16⟩] })

/-! ### Groups (R255 to R258, R276) -/

/-- Reduction slots claimed by the groups of the module (R276). -/
def State.inrClaimed (s : State) : Nat := sumN (s.comp.casc.groups.toList.map (·.claim))
/-- Reduction slots there are: 1,536 where INR is licensed. -/
def State.inrTotal (s : State) : Nat := if bit (s.reg Reg.globalLicstat) 4 then 1536 else 0

/-- A formation is refused (R256). -/
def State.refuseGroup (s : State) (slot code : Nat) : State :=
  let g := s.group slot
  let s := (s.put (Reg.cascadeGrpRefuse slot) code).setGroupSt slot 4
  s.ptEvent g.pt 7 (packLE [(4, g.gid), (4, code)])

/-- Ascending order of positions, by rack, tray and slot (R255). -/
def rankOrder (l : List Nat) : List Nat :=
  let key := fun (p : Nat) => [p % 2 ^ 16, p / 2 ^ 16 % 2 ^ 8, p / 2 ^ 24]
  sortBy (fun a c => a == c || lexLt (key a) (key c)) l

/-- Whether a position shares every coordinate above the highest level of LEVELS: package, tray, rack, between racks (R255). -/
def inScope (levels a b : Nat) : Bool :=
  if bit levels 3 then true
  else if bit levels 2 then a % 2 ^ 16 == b % 2 ^ 16
  else if bit levels 1 then a % 2 ^ 24 == b % 2 ^ 24
  else a == b

/-- Candidates of a group as this member sees them: itself, and the modules whose adverts carry the tenant tag and the GROUP_KEY from a
position within the group's levels, in rank order (R255). -/
def State.candidates (s : State) (slot : Nat) : List Nat :=
  let g := s.group slot
  let r := s.groupRec slot
  let tag := ((s.ptRes g.pt).map (·.tag)).getD 0
  rankOrder (s.myPos :: (if r.levels % 16 = 1 then [] else (s.comp.fab.adverts.filter fun a =>
    inScope r.levels a.pos s.myPos && a.entries.any fun e => e.1 == tag && e.2.1 == r.key).map (·.pos)))

/-- A LAYOUT record with BASE, SCALE_BASE and every EXTENT and STRIDE zero (R256). -/
def shapeOf (r : List Byte) : List Byte :=
  r.zipIdx.map fun x =>
    if x.2 < 6 ∨ (0x10 ≤ x.2 ∧ x.2 < 0x16) ∨ (0x18 ≤ x.2 ∧ x.2 < 0x78 ∧ (0x58 ≤ x.2 ∨ (x.2 - 0x18) % 8 < 6)) then 0#8 else x.1

/-- Shape signature of a group (R256): the low 64 bits of the digest, its first bytes the low ones, over the LAYOUT record of each tensor
that the group's instructions name, SRC before DST, once each (DEDUCED: entry 50). -/
def shapeSig (b : List Byte) (record : Nat) : Nat :=
  let ts := (((List.range (secCount b 0x0209)).map (bedCasc b)).filter fun c => c.opc != 0 && c.group == record).flatMap fun c =>
    [c.src, c.dst].filter (· != none32)
  u64 (sha3 ((ts.eraseDups).flatMap fun t => shapeOf (recOf b 0x0202 (bedTensor b t).layout))) 0

/-- Reduction slots that a group asks for, and whether its claim fails here (R276). -/
def State.claim (s : State) (slot : Nat) (b : List Byte) : Nat × Bool :=
  let g := s.group slot
  let want := if bit (s.reg Reg.globalLicstat) 4 then (bedGroup b g.record).rslots * (1 + jobAhead b) else 0
  (want, want != 0 && decide (s.inrTotal - (s.inrClaimed - g.claim) < want))

/-- Entries of a formation round, in the order of Table 10-2: count, numerics revision and its negation, negated PROTO, the BED's PROTO, shape
signature and its negation, last committed step and its negation, claim failure, epoch, and whether sending flows are lacking. A member that
has no group slot free has no slot that could take part (DESIGN CHOICE: entry 50). -/
def State.formList (s : State) (slot : Nat) (b : List Byte) (cands : List Nat) : List (List Byte) :=
  let g := s.group slot
  let num := s.reg Reg.globalNumrev
  let shape : Int := shapeSig b g.record
  let committed : Int := (s.part g.pt).commit
  let others := (s.comp.fab.tx.filter fun f => !(f.user == 0 && f.key == slot)).length
  sumEntry { slot := 0, sum := 1, n := 1 } ::
    [(field num 7 0 : Int), -(field num 7 0 : Int), -(field num 15 8 : Int), (u8 b 0x19 : Int), shape, -shape, committed, -committed,
     (b2n (s.claim slot b).2 : Int), (g.epoch : Int), (b2n (decide (4096 < others + cands.length - 1)) : Int)].map maxEntry

/-- A member joins a formation round: it takes the candidates it sees as partners, opens a flow to each, and enters its own entries; a list
received for another view of the candidates is forgotten. -/
def State.enterForm (s : State) (slot : Nat) (b : List Byte) (cands : List Nat) : State :=
  let g := s.group slot
  let s :=
    if g.members = cands then s
    else
      let s := if g.members.isEmpty then s else (s.leaveGroup slot 0 0 0).modRound slot 0 0 0 fun a => { a with recv := [] }
      let s := (s.closeFlows fun f => f.user == 0 && f.key == slot).modGroup slot fun g =>
        { g with members := cands, rank := (cands.findIdx? (· == s.myPos)).getD 0 }
      forEach ((List.range cands.length).filter fun i => nth cands i 0 != s.myPos) (fun i s =>
        (s.openFlow g.pt (s.memberAddr slot i) 0 slot).2) s
  (s.modRound slot 0 0 0 fun a =>
    { a with own := some (s.formList slot b cands), since := if a.own.isNone then s.time else a.since }).pumpRound slot 0 0 0

/-- A group forms on its candidates (R256, R257, R276). -/
def State.formGroup (s : State) (slot : Nat) (b : List Byte) (proto epoch : Nat) (claimFail : Bool) : State :=
  let g := s.group slot
  let want := (s.claim slot b).1
  let fails := want ≠ 0 ∧ claimFail
  let inr := decide (want ≠ 0) && !claimFail
  let s := s.modGroup slot fun g =>
    { g with
      epoch := epoch, proto := proto, inr := inr, fallback := decide fails, claim := if inr then want else 0
      lost := false, told := false, fresh := true }
  let s := s.modCasc fun c => { c with runs := c.runs.filter fun x => x.slot != slot }
  let s := (s.bump (Reg.cascadeGrpForms slot) 1).put (Reg.cascadeGrpRefuse slot) 0
  let s := s.setGroupSt slot 2
  let s := s.ptEvent g.pt 6 (packLE [(4, g.gid), (4, g.members.length), (4, epoch)])
  if fails then s.ptEvent g.pt 9 (leBytes 4 g.gid) else s

/-- Code with which this member refuses a completed formation round, if it does (R256). -/
def State.formCode (s : State) (slot : Nat) (es : List (List Byte)) : Option Nat :=
  let g := s.group slot
  let num := s.reg Reg.globalNumrev
  let v := fun (i : Nat) => entryVal (nth es i [])
  if v 1 ≠ (field num 7 0 : Int) ∨ -v 2 ≠ (field num 7 0 : Int) then some 1
  else if -v 3 < v 4 then some 2
  else if v 5 ≠ -v 6 then some 3
  else if ((s.part g.pt).commit : Int) < v 7 then some 4
  else if g.members.eraseDups.length ≠ g.members.length then some 5
  else if v 11 ≠ 0 then some 7
  else none

/-- What a completed formation round decides at this member: refusal, another round, or the group (R256). Another round comes where the members
do not see the same candidates, and where one is below the largest step: its refusal takes it out of the adverts. -/
def State.judgeForm (s : State) (slot : Nat) (b : List Byte) (es : List (List Byte)) : State :=
  let v := fun (i : Nat) => entryVal (nth es i [])
  if v 0 ≠ ((s.group slot).members.length : Int) then s
  else match s.formCode slot es with
    | some c => s.refuseGroup slot c
    | none => if -v 8 ≠ v 7 then s else s.formGroup slot b (-v 3).toNat (((v 10).toNat + 1) % 2 ^ 32) (v 9 != 0)

/-- GROUP_FORMATION (R255 to R258, R276): at a step boundary this member takes part in a formation round over the candidates that its adverts
show, and once every list has come the round forms, refuses or repeats the group. -/
def execGroupFormation (slot : Fin 256) (s : State) : Host.Outcome State Fault Refusal :=
  let g := s.group slot
  .next (match (s.part g.pt).bed with
    | none => s
    | some b =>
      let cands := s.candidates slot
      if g.st ≠ 1 ∨ !s.posLocked ∨ ((s.part g.pt).steps.any fun x => decide (1 ≤ x.st ∧ x.st ≤ 4)) ∨
          cands.length < (bedGroup b g.record).minMembers then s
      else
        let s := s.enterForm slot b cands
        match (s.round slot 0 0 0).bind fun a => a.result cands.length (s.group slot).rank with
        | none => s
        | some es => (s.leaveGroup slot 0 0 0).judgeForm slot b es)

/-- GROUP_WAITING (R258): after CASCADE_TIMEOUT in FORMING, once per formation. -/
def execGroupWaiting (slot : Fin 256) (s : State) : Host.Outcome State Fault Refusal :=
  let g := s.group slot
  .next (if g.st = 1 ∧ !g.told ∧ g.since + s.reg Reg.cascadeTimeout ≤ s.time then
      (s.modGroup slot fun g => { g with told := true }).ptEvent g.pt 8 (leBytes 4 g.gid)
    else s)

/-- Whether a run still waits for something that a member sends (R269, R278). -/
def State.waitsOn (s : State) (k : CascCtx) (rank : Nat) : Bool :=
  let r := s.crun k
  if k.c.opc = 4 then (s.a2aGot k (s.srcView k) rank).isNone
  else k.chunks.any fun d =>
    if k.c.opc = 2 ∨ r.phase = 3 then
      match gatherIn k.members.length k.me d.owner with
      | some (st, q) => q == rank && (r.got 4 st q d).isNone
      | none => false
    else (k.plan d).any fun it => it.1.any fun x => x.2 == rank && (r.got (if r.phase = 1 then 2 else 0) x.1 x.2 d).isNone

/-- Whether a partner has made no progress for CASCADE_TIMEOUT (R258, R284): a chunk sent to it is not confirmed, or an instruction or a
scalar round waits for it, all that time, and nothing has come from it on its flow. -/
def State.peerStuck (s : State) (slot rank : Nat) : Bool :=
  let g := s.group slot
  let lim := s.reg Reg.cascadeTimeout
  let late := fun (at0 : Nat) => decide (at0 + lim ≤ s.time)
  let quiet := !(s.comp.fab.rx.any fun f => f.src == s.memberAddr slot rank && f.pt == g.pt && !late f.lastAt)
  quiet && (
    (s.comp.casc.sent.any fun x => x.pt == g.pt && x.dst == rank && x.chunk.gid == g.gid && !x.confirmed && !x.held && !x.gone && late x.since) ||
    (s.comp.casc.runs.any fun r => r.pt == g.pt && r.slot == slot && r.on && r.phase != 4 && late r.since &&
      (match (s.part g.pt).bed with
        | some b => s.waitsOn (s.cascCtx g.pt b r.step r.record r.mb r.layer slot) rank
        | none => false)) ||
    (s.comp.casc.rounds.any fun a => a.slot == slot && a.own.isSome && late a.since &&
      (a.result g.members.length g.rank).isNone && (roundSends g.members.length rank).any fun m => m.2.1 == g.rank && (a.got m.1).isNone))

/-- PEER_TIMEOUT (R258): no progress on an expected flow for CASCADE_TIMEOUT makes the partner lost. -/
def execPeerTimeout (slot : Fin 256) (position : Word) (s : State) : Host.Outcome State Fault Refusal :=
  let g := s.group slot
  .next (match g.members.findIdx? (· == position.toNat) with
    | some rank =>
      if g.st = 2 ∧ position.toNat ≠ s.myPos ∧ s.peerStuck slot rank then s.memberLost slot position.toNat 3 else s
    | none => s)

end Sys2Proof.Machine
end

