-- ==== Sys2Proof/Machine/Cistern.lean ====
section
/-! DEFINITION. Cistern.lean: the journal, the wear governor, the defect overlay and the ledger (R373 to R396), and the
commands of the Cistern. -/
namespace Sys2Proof.Machine

/-! ### Records and keys (R377, R378) -/

/-- Bytes a record takes in a page: its header and its body padded to a multiple of 8 (R377). -/
def JRec.size (r : JRec) : Nat := 16 + 8 * cdiv r.body.length 8

/-- Header and body of a record as stored (R377). -/
def JRec.bytes (r : JRec) : List Byte :=
  let h := fun crc => packLE [(4, r.typ + at_ 8 r.frag + at_ 16 r.body.length), (4, crc), (8, r.rseq)]
  h (crc32c (h 0 ++ r.body)).toNat ++ r.body

/-- Whether a type keeps one current record per key (Table 14-3, R423). -/
def stateType (t : Nat) : Bool := [3, 4, 0x10, 0x18, 0x19, 0x1A, 0x28, 0x29, 0x2A, 0x30, 0x31].contains t

/-- Whether a type is assigned (Table 14-3, R423). -/
def typeKnown (t : Nat) : Bool := stateType t || [1, 2, 0x1B, 0x20, 0x21].contains t

/-- Key of a record by its type and the body of its first fragment (Table 14-3). -/
def recKey (t : Nat) (b : List Byte) : Nat :=
  if t = 0x10 then u64 b 0
  else if t = 0x18 then u16 b 0x40
  else if t = 0x19 then field (u32 b 0) 3 0
  else if t = 0x20 then u32 b 0 + 2 ^ 32 * u32 b 4 + 2 ^ 64 * u32 b 8
  else if t = 0x28 then u64 b 0
  else if t = 0x29 ∨ t = 0x2A then u32 b 0
  else if t = 0x31 then field (u32 b 8) 0 0
  else 0

/-- Spending priority of a type (R384, R423). -/
def typePrio (t : Nat) : Nat :=
  if t = 0x1B then 1
  else if [0x19, 0x1A, 0x18, 0x10, 0x04, 0x31].contains t then 2
  else if [0x20, 0x28, 0x03].contains t then 3
  else 4

/-- Committed records, each key's highest RSEQ found by scanning. -/
def Journal.committed (j : Journal) : List JRec := j.recs.filter (·.committed)

/-- The record with the highest RSEQ of a list. -/
def lastRec : List JRec → Option JRec
  | [] => none
  | r :: t => match lastRec t with
    | none => some r
    | some q => if q.rseq ≤ r.rseq then some r else some q

/-- Fragments of a record from its first on: consecutive RSEQ and FRAG of one type, every one committed (R377). -/
def gather : Nat → List JRec → JRec → List Byte
  | 0, _, r => r.body
  | k + 1, l, r =>
    match l.find? fun q => q.rseq == r.rseq + 1 && q.typ == r.typ && q.frag == r.frag + 1 with
    | none => r.body
    | some q => r.body ++ gather k l q

/-- Body of the current record of a state type and key (R378). -/
def Journal.current (j : Journal) (t key : Nat) : Option (List Byte) :=
  let l := j.committed
  (lastRec (l.filter fun r => r.typ == t && r.frag == 0 && recKey t r.body == key)).map fun r => gather l.length l r

/-- First fragments of every current record of a state type, by rising key order of their first appearance. -/
def Journal.currents (j : Journal) (t : Nat) : List JRec :=
  let l := j.committed.filter fun r => r.typ == t && r.frag == 0
  l.filter fun r => !(l.any fun q => recKey t q.body == recKey t r.body && decide (r.rseq < q.rseq))

/-- Whether a record is still needed: a history record, or a current state record with its fragments (R386). -/
def Journal.needed (j : Journal) (r : JRec) : Bool :=
  if r.typ = 1 ∨ r.typ = 2 then false
  else if !stateType r.typ then true
  else (j.currents r.typ).any fun h => decide (h.rseq ≤ r.rseq) && r.rseq - h.rseq == r.frag

/-- Live data in bytes (R386). -/
def Journal.live (j : Journal) : Nat := ((j.committed.filter j.needed).map JRec.size).foldl (· + ·) 0

/-! ### Pairs (R375, R386) -/

/-- A pair's entry; unlisted pairs are erased with ERASES 0. -/
def Journal.pairOf (j : Journal) (p : Nat) : JPair := (j.pairs.find? fun x => x.pair == p).getD ⟨p, 0, .erased⟩

/-- Set a pair's entry. -/
def Journal.setPair (j : Journal) (x : JPair) : Journal :=
  { j with pairs := x :: j.pairs.filter fun y => y.pair != x.pair }

/-- The erased pair with the lowest ERASES, the lowest number first among equals (R386). -/
def Journal.nextPair (j : Journal) : Option Nat :=
  let l := (List.range 2048).filter fun p => (j.pairOf p).use == .erased && p != j.pair
  l.foldl (fun b p => match b with
    | none => some p
    | some q => if (j.pairOf p).erases < (j.pairOf q).erases then some p else some q) none

/-- Erased pages left: the rest of the open pair and 64 for every other erased pair. -/
def Journal.erasedPages (j : Journal) : Nat :=
  (64 - j.index) + 64 * ((List.range 2048).filter fun p => (j.pairOf p).use == .erased && p != j.pair).length

/-- Where the next page goes, opening a pair when the open one is full. -/
def Journal.openPage (j : Journal) : Option (Nat × Nat × Journal) :=
  if j.index < 64 then
    some (j.pair, j.index, { j.setPair ⟨j.pair, (j.pairOf j.pair).erases, .written⟩ with index := j.index + 1 })
  else match j.nextPair with
    | none => none
    | some p => some (p, 0, { j.setPair ⟨p, (j.pairOf p).erases, .written⟩ with pair := p, index := 1 })

/-! ### The wear governor (R383, R384) -/

/-- Window total (R383). -/
def State.windowTotal (s : State) : Nat := s.cis.bins.foldl (· + ·) 0

/-- Whether a pair program of a priority may be issued (R383, R384). -/
def State.creditOk (s : State) (prio : Nat) : Bool :=
  decide (s.windowTotal < 1048576) &&
    (if prio = 1 then decide (0 < s.cis.reserve + s.cis.bucket)
     else s.cis.reserve == 64 && decide (0 < s.cis.bucket))

/-- Charge one credit (R383): priority 1 takes the reserve first. -/
def State.charge (s : State) (prio : Nat) : State :=
  s.modCis fun c =>
    let c := { c with bins := modNth c.bins 0 (· + 1) }
    if prio = 1 ∧ 0 < c.reserve then { c with reserve := c.reserve - 1 } else { c with bucket := c.bucket - 1 }

/-- Priority of a record to be programmed: a COMMIT has that of the records it names (R384). -/
def State.recPrio (s : State) (r : JRec) : Nat :=
  if r.typ = 1 then
    let a := u64 r.body 0
    let n := u32 r.body 8
    let named := s.nv.journal.recs.filter fun q => decide (a ≤ q.rseq ∧ q.rseq < a + n)
    (named.map fun q => typePrio q.typ).foldl min 4
  else typePrio r.typ

/-! ### Submitting and programming (R379, R381) -/

/-- Records that fit a page of 4,060 record bytes, taken from the front, and the rest (Table 14-2). -/
def fillPage : Nat → List JRec → List JRec × List JRec
  | _, [] => ([], [])
  | room, r :: t => if r.size ≤ room then let (a, b) := fillPage (room - r.size) t; (r :: a, b) else ([], r :: t)

/-- Order waiting records by priority, oldest first within one (R384). -/
def State.byPrio (s : State) (l : List JRec) : List JRec :=
  [1, 2, 3, 4].flatMap fun p => l.filter fun r => s.recPrio r == p

/-- The GOVWAIT bit changes: source 0x15 fires (Table 18-3). -/
def State.setGovwait (s : State) (b : Bool) : State :=
  if s.cis.govwait = b then s else (s.modCis fun c => { c with govwait := b }).fire 0x15

/-- Cistern STATE changes: source 0x15 fires. -/
def State.setCisState (s : State) (st : Nat) : State :=
  if s.cis.st = st then s else (s.modCis fun c => { c with st := st }).fire 0x15

/-- Start the next pair program when none runs and credit, erased pages and the pause allow (R379, R381, R383, R384). -/
def State.startProgram (s : State) : State :=
  if s.cis.prog.isSome ∨ (s.cis.st ≠ 1 ∧ s.cis.st ≠ 3) then s
  else
    let paused := match s.cis.pausedUntil with | some t => decide (s.time < t) && !s.cis.flushing | none => false
    let ordered := s.byPrio s.cis.page
    let useCopy := ordered.isEmpty
    let src := if useCopy then s.cis.copies else ordered
    match src with
    | [] => s.setGovwait false
    | r :: _ =>
      let prio := if s.cis.flushing then 1 else if useCopy then 4 else s.recPrio r
      if paused then s
      else if !s.cis.flushing ∧ s.nv.journal.erasedPages ≤ 2 then s
      else if !s.creditOk prio then s.setGovwait true
      else match s.nv.journal.openPage with
        | none => s
        | some (pair, ix, j) =>
          let (now, rest) := fillPage 4060 src
          let pg : JPage := ⟨j.nextPage, pair, ix, s.cis.flushing, useCopy, s.pwron, s.nv.phours⟩
          let s := (s.charge prio).modJournal fun _ => { j with nextPage := j.nextPage + 1 }
          let s := s.modCis fun c =>
            { c with
              prog := some ⟨pg, now, useCopy⟩
              page := if useCopy then c.page else rest
              copies := if useCopy then rest else c.copies }
          s.setGovwait false

/-- Count a write that waits for credit, and report it at most once per powered hour (R384, Table 14-7). -/
def State.noteWait (s : State) (typ : Nat) : State :=
  if s.cis.govwait then
    let s := s.bump Reg.cisternGovwait 1
    if s.cis.govHour = some s.hourNow then s
    else
      let s := s.modCis fun c => { c with govHour := some s.hourNow }
      s.record { unitRec 0 0x44 5 0x10 0 with detail1 := s.cis.page.length, detail2 := typePrio typ }
  else s

/-- Cut a body into fragments of at most 4,040 bytes (R377). -/
def fragments : Nat → List Byte → List (List Byte)
  | 0, _ => []
  | k + 1, b => if b.length ≤ 4040 then [b] else b.take 4040 :: fragments k (b.drop 4040)

/-- A record is submitted to the journal service and placed in the open page (R379). A DEFECT record of a resource whose
earlier one still stands in the open page takes its place (Table 14-7a). -/
def State.jsubmit (s : State) (typ : Nat) (body : List Byte) : State :=
  if s.cis.st ≠ 1 ∧ s.cis.st ≠ 3 then s
  else if typ = 0x10 ∧ s.cis.page.any (fun r => r.typ == 0x10 && recKey 0x10 r.body == recKey 0x10 body) then
    s.modCis fun c =>
      { c with page := c.page.map fun r =>
          if r.typ == 0x10 && recKey 0x10 r.body == recKey 0x10 body then { r with body := body } else r }
  else
    let fr := fragments (body.length / 4040 + 1) body
    let n := s.nv.journal.nextRseq
    let rs := fr.zipIdx.map fun x => (⟨n + x.2, typ, x.2, x.1, 0, false⟩ : JRec)
    let s := s.modJournal fun j => { j with nextRseq := n + rs.length }
    let s := s.modCis fun c => { c with page := c.page ++ rs }
    (s.startProgram).noteWait typ

/-- A COMMIT record that names every programmed and uncommitted record, in the range form (R379). -/
def State.placeCommit (s : State) : State :=
  match s.cis.uncommitted with
  | [] => s
  | a :: t =>
    let lo := t.foldl min a
    let hi := t.foldl max a
    let n := s.nv.journal.nextRseq
    let r : JRec := ⟨n, 1, 0, packLE [(8, lo), (4, hi - lo + 1), (4, 0)], 0, false⟩
    let s := s.modJournal fun j => { j with nextRseq := n + 1 }
    s.modCis fun c => { c with page := r :: c.page, uncommitted := [] }

/-- What the committing of a record does outside the journal: a counter takes its value, a default plan is present
(Table 14-6, R175). -/
def State.onCommit (s : State) (r : JRec) : State :=
  if r.typ = 0x19 then
    let c := field (u32 r.body 0) 3 0
    s.put (Reg.cisternCounter c) (max (s.reg (Reg.cisternCounter c)) (u32 r.body 4))
  else if r.typ = 0x30 ∧ r.frag = 0 then
    s.put Reg.parterreDefstat (setField (s.reg Reg.parterreDefstat) 0 0 (b2n (!r.body.isEmpty)))
  else s

/-- Whether a COMMIT names a record: one in an earlier page, by its RSEQ or by its page (R379). -/
def commits (c : JRec) (page : Nat) (r : JRec) : Bool :=
  let a := u64 c.body 0
  let n := u32 c.body 8
  decide (r.page < page) && (if field (u32 c.body 12) 0 0 = 1 then decide (a ≤ r.page ∧ r.page < a + n)
    else decide (a ≤ r.rseq ∧ r.rseq < a + n))

/-- Mark the records a COMMIT names as committed (R379). -/
def State.applyCommit (s : State) (c : JRec) (page : Nat) : State :=
  let hit := fun (r : JRec) => !r.committed && commits c page r
  let now := s.nv.journal.recs.filter hit
  let s := s.modJournal fun j => { j with recs := j.recs.map fun r => if hit r then { r with committed := true } else r }
  forEach now (fun r s => s.onCommit r) s

/-- Pages of a pair whose records no longer stand in them may be erased: its copies are committed (R385, R386). -/
def State.startErase (s : State) : State :=
  match s.cis.compacting with
  | none => s
  | some p =>
    if s.cis.copies.isEmpty ∧ s.cis.page.all (fun r => r.typ != 1) then
      let s := s.modJournal fun j => j.setPair ⟨p, (j.pairOf p).erases, .erasing⟩
      s.modCis fun c => { c with compacting := none }
    else s

/-- A pair program verifies or fails in a plane (R375, R379, R381). -/
def State.programDone (s : State) (ok : Bool) : State :=
  match s.cis.prog with
  | none => s
  | some p =>
    let s := s.modCis fun c => { c with prog := none }
    if !ok then
      -- the pair is retired and the page is programmed again into the next pair (R375)
      let er := (s.nv.journal.pairOf p.page.pair).erases
      let s := s.modJournal fun j => { j.setPair ⟨p.page.pair, er, .bad⟩ with index := 64 }
      let s := s.record { unitRec 1 0x43 5 0x10 0 with detail1 := p.page.pair, detail2 := er }
      let s := s.modCis fun c =>
        { c with
          page := if p.copy then c.page else p.recs ++ c.page
          copies := if p.copy then p.recs ++ c.copies else c.copies }
      s.startProgram
    else
      let s := s.modCis fun c => { c with sinceCheckpoint := c.sinceCheckpoint + 1 }
      let s := s.modJournal fun j => { j with pages := j.pages ++ [p.page] }
      if p.copy then
        let moved := p.recs.map (·.rseq)
        let s := s.modJournal fun j =>
          { j with recs := j.recs.map fun r => if moved.contains r.rseq then { r with page := p.page.seq } else r }
        let n := s.nv.journal.nextRseq
        let r : JRec := ⟨n, 1, 0, packLE [(8, p.page.seq), (4, 1), (4, 1)], 0, false⟩
        let s := s.modJournal fun j => { j with nextRseq := n + 1 }
        let s := s.modCis fun c => { c with page := r :: c.page, refreshing := false }
        s.startProgram
      else
        let recs := p.recs.map fun r => { r with page := p.page.seq }
        let s := s.modJournal fun j => { j with recs := j.recs ++ recs }
        let s := forEach (recs.filter fun r => r.typ == 1) (fun c s => s.applyCommit c p.page.seq) s
        let fresh := (recs.filter fun r => r.typ != 1).map (·.rseq)
        let s := s.modCis fun c => { c with uncommitted := c.uncommitted ++ fresh }
        let s := s.placeCommit
        let s := s.startErase
        let s := s.startProgram
        if s.cis.flushing ∧ s.cis.page.isEmpty ∧ s.cis.prog.isNone then
          -- the flush stops (R381)
          s.modCis fun c => { c with flushing := false }
        else s

/-! ### Presence events (Table 14-6, R399 to R401) -/

/-- A PRESENCE record: event, GLOBAL_TIME, key or seal number. While the journal is not ready events are held up to 64 and
lost beyond; a seal break is written even then (R382, Table 14-6). -/
def State.presence (s : State) (ev arg : Nat) : State :=
  let body := packLE [(8, ev), (8, s.time), (8, arg)]
  let s := if ev = 7 ∨ ev = 5 then s
    else s.record { unitRec 0 0x51 4 0x12 0 with detail1 := ev, detail2 := field arg 30 0 }
  if s.cis.st = 1 ∨ s.cis.st = 3 then s.jsubmit 0x1B body
  else if ev = 4 then
    let j := s.nv.journal
    s.modJournal fun _ =>
      { j with nextRseq := j.nextRseq + 1, recs := j.recs ++ [⟨j.nextRseq, 0x1B, 0, body, j.nextPage, true⟩] }
  else if s.cis.presence.length < 64 then s.modCis fun c => { c with presence := c.presence ++ [body] }
  else s

/-! ### The defect overlay (R387 to R390) -/

/-- Body of a DEFECT record (Table 14-5a). -/
def Defect.body (d : Defect) : List Byte :=
  packLE [(8, d.key), (4, d.state + at_ 3 (b2n d.unrepaired) + at_ 8 (min 255 d.cands)), (4, d.firstPwron),
    (4, d.firstPhours), (4, d.lastPhours), (4, d.source), (4, 0)]

/-- Read a DEFECT body. -/
def Defect.ofBody (b : List Byte) : Defect :=
  let w := u32 b 8
  ⟨u64 b 0, field w 2 0, bit w 3, field w 15 8, u32 b 12, u32 b 16, u32 b 20, u32 b 24⟩

/-- Entry of a key in the overlay. -/
def State.defect (s : State) (key : Nat) : Option Defect := s.cis.overlay.find? fun d => d.key == key

/-- Write an overlay entry: the list keeps the order in which entries were made. -/
def State.putDefect (s : State) (d : Defect) : State :=
  let l := s.cis.overlay
  let l := if l.any (fun x => x.key == d.key) then l.map fun x => if x.key == d.key then d else x else l ++ [d]
  (s.modCis fun c => { c with overlay := l }).jsubmit 0x10 d.body

/-- A change of state is a DEFECT record and a record of class 0x45 (R388). -/
def State.defectState (s : State) (d : Defect) : State :=
  (s.putDefect d).record { unitRec 0 0x45 5 0x10 0 with detail1 := field d.key 31 0, detail2 := d.state }

/-- Entry that a new entry replaces in a full overlay of 4,096 (R389). -/
def State.replaceable (s : State) : Option Defect :=
  match s.cis.overlay.find? fun d => d.state == 3 || d.state == 4 with
  | some d => some d
  | none => s.cis.overlay.find? fun d => d.state == 1 && decide (2 ≤ field d.key 3 0)

/-- Whether the fuse map has retired a resource already (Table 14-5b). -/
def fuseRetired (f : FuseMap) (key : Nat) : Bool :=
  let kind := field key 3 0
  let die := field key 7 4
  let inst := field key 23 8
  let row := field key 55 24
  if kind = 1 then f.arrays.contains (arrIx die inst)
  else if kind = 2 then f.poolRows.contains (64 * die + inst, row)
  else if kind = 3 then f.hbmRows.contains (inst, row)
  else f.lanes.contains (inst / 16, inst % 16)

/-- The fuse map in effect since the last bring-up (R407, R419). -/
def State.fuses (s : State) : FuseMap :=
  if s.nv.fuseRows.isEmpty then s.nv.factory else Config.fuseMapOf s.nv.fuseRows s.nv.factory

/-- The journal service takes a candidacy (Table 14-5b). Arguments: key, SEQ of its record, whether a structural or memory
test found it. -/
def State.candidacy (s : State) (key src : Nat) (byTest : Bool) : State :=
  if fuseRetired s.fuses key then s
  else
    let ph := s.nv.phours
    let fresh : Defect := ⟨key, 1, false, 1, s.pwron, ph, ph, src⟩
    match s.defect key with
    | none =>
      if s.cis.overlay.length < 4096 then s.defectState fresh
      else match s.replaceable with
        | some d => (s.modCis fun c => { c with overlay := c.overlay.filter fun x => x.key != d.key }).defectState fresh
        | none => s.record { unitRec 0 0x47 5 0x10 0 with detail1 := s.nv.journal.live / 2 ^ 20, detail2 := 2 }
    | some d =>
      let d2 := { d with cands := min 255 (d.cands + 1), lastPhours := ph, source := src }
      if d.state = 3 ∨ d.state = 4 then s.defectState fresh
      else if d.state = 1 ∧ (byTest ∨ d.firstPwron < s.pwron ∨ d.firstPhours + 24 ≤ ph) then
        s.defectState { d2 with state := 2 }
      else s.putDefect d2

/-! ### Energy ledger (R391, R392) -/

/-- A LEDGER body (Table 14-5c). -/
def ledgerBody (tag pwron hour span : Nat) (part merged : Bool) (energy cumul hs ls : Nat) : List Byte :=
  packLE [(4, tag), (4, pwron), (4, hour), (4, span % 65536 + at_ 16 (b2n part) + at_ 17 (b2n merged)),
    (8, energy), (8, cumul), (8, hs), (8, ls)]

/-- Add attributed energy to a tag. -/
def addEnergy : List TagEnergy → Nat → Nat → List TagEnergy
  | [], tag, uj => [⟨tag, uj, 0⟩]
  | t :: l, tag, uj => if t.tag = tag then { t with micro := t.micro + uj } :: l else t :: addEnergy l tag uj

/-- Merge the two oldest waiting LEDGER records of one tag and one power-on (R392). -/
def mergeLedgers (l : List JRec) : List JRec :=
  match l.find? fun r => r.typ == 0x20 && l.any fun q =>
      q.typ == 0x20 && decide (r.rseq < q.rseq) && u64 q.body 0 == u64 r.body 0 with
  | none => l
  | some a => match l.find? fun q => q.typ == 0x20 && decide (a.rseq < q.rseq) && u64 q.body 0 == u64 a.body 0 with
    | none => l
    | some b =>
      let f := u32 a.body 12
      let g := u32 b.body 12
      let m := ledgerBody (u32 a.body 0) (u32 a.body 4) (u32 a.body 8) (field f 15 0 + field g 15 0)
        (bit f 16 || bit g 16) true (u64 a.body 16 + u64 b.body 16) (u64 b.body 24) (u64 b.body 32) (u64 b.body 40)
      (l.filter fun r => r.rseq != b.rseq).map fun r => if r.rseq == a.rseq then { r with body := m } else r

/-- LEDGER records that wait in controller SRAM number at most 2,048 (R392). -/
def State.boundLedgers (s : State) : State :=
  if 2048 < (s.cis.page.filter fun r => r.typ == 0x20).length then
    s.modCis fun c => { c with page := mergeLedgers c.page }
  else s

/-- Write the LEDGER record of one tag when it holds at least 1 mJ; the rest carries (R392). -/
def State.ledger (s : State) (t : TagEnergy) (part : Bool) : State :=
  let e := t.micro / 1000
  if e = 0 then s
  else
    let st := s.cis.stamp.getD (0, 0)
    let s := s.modCis fun c => { c with tags := c.tags.map fun x =>
      if x.tag == t.tag then { x with micro := t.micro % 1000, cumul := t.cumul + e } else x }
    (s.jsubmit 0x20 (ledgerBody t.tag s.pwron s.cis.hour 1 part false e (t.cumul + e) st.1 st.2)).boundLedgers

/-- LEDGER records of every tag that drew energy (R392). -/
def State.ledgerAll (s : State) (part : Bool) : State := forEach s.cis.tags (fun t s => s.ledger t part) s

/-! ### Error history (R365, Table 14-6) -/

/-- Key of the error history. -/
def errKey (cls die block inst : Nat) : Nat := cls + at_ 8 die + at_ 12 block + at_ 20 inst

/-- Count a record of severity 2 or above; a key beyond 4,096 counts under its class with DIE 0xF (Table 14-6). -/
def State.errCount (s : State) (r : Rec) : State :=
  let k := errKey r.cls r.die r.block r.inst
  let known := s.cis.errhist.any fun e => e.1 == k
  let k := if known || decide (s.cis.errhist.length < 4096) then k else errKey r.cls 15 0 0
  let n := ((s.cis.errhist.find? fun e => e.1 == k).map (·.2)).getD 0
  s.modCis fun c =>
    { c with
      errhist := (c.errhist.filter fun e => e.1 != k) ++ [(k, n + 1)]
      errchanged := if c.errchanged.contains k then c.errchanged else c.errchanged ++ [k] }

/-- ERRHIST records of the changed keys (Table 14-6). -/
def State.writeErrhist (s : State) : State :=
  let ch := s.cis.errchanged
  let s := s.modCis fun c => { c with errchanged := [] }
  forEach ch (fun k s =>
    s.jsubmit 0x28 (packLE [(8, k), (8, ((s.cis.errhist.find? fun e => e.1 == k).map (·.2)).getD 0)])) s

/-! ### Flush (R381) -/

/-- Steps 2 to 4 of the power-loss flush: the PARTIAL ledger records and the changed error history keys join the open page,
which is programmed with PFAIL, and a COMMIT page follows (R381). The COMMIT is placed when that page verifies. -/
def State.startFlush (s : State) : State :=
  if s.cis.st ≠ 1 ∧ s.cis.st ≠ 3 then s
  else
    let s := s.modCis fun c => { c with flushing := true }
    let s := s.setCisState 3
    let s := s.ledgerAll true
    let s := s.writeErrhist
    let s := if s.cis.page.isEmpty then s.placeCommit else s
    let s := s.startProgram
    if s.cis.page.isEmpty ∧ s.cis.prog.isNone then s.modCis fun c => { c with flushing := false } else s

/-! ### Mount (R380, R382) -/

/-- Program and commit one record at once, as the mount does with PWRON (R382): two pages, two credits. -/
def State.writeNow (s : State) (typ : Nat) (body : List Byte) : State :=
  let j := s.nv.journal
  let r : JRec := ⟨j.nextRseq, typ, 0, body, j.nextPage, true⟩
  let c : JRec := ⟨j.nextRseq + 1, 1, 0, packLE [(8, j.nextRseq), (4, 1), (4, 0)], j.nextPage + 1, false⟩
  match j.openPage with
  | none => s
  | some (p1, i1, j1) => match j1.openPage with
    | none => s
    | some (p2, i2, j2) =>
      let s := (s.charge 2).charge 2
      s.modJournal fun _ =>
        { j2 with
          recs := j.recs ++ [r, c]
          pages := j.pages ++ [⟨j.nextPage, p1, i1, false, false, s.pwron, s.nv.phours⟩,
            ⟨j.nextPage + 1, p2, i2, false, false, s.pwron, s.nv.phours⟩]
          nextRseq := j.nextRseq + 2
          nextPage := j.nextPage + 2 }

/-- Every tag with a LEDGER record, with the CUMUL of its latest (R391). -/
def Journal.ledgerTags (j : Journal) : List TagEnergy :=
  let l := j.committed.filter fun r => r.typ == 0x20
  (l.map fun r => u32 r.body 0).eraseDups.map fun t =>
    ⟨t, 0, ((lastRec (l.filter fun r => u32 r.body 0 == t)).map fun r => u64 r.body 24).getD 0⟩

/-- Records that a CHECKPOINT body copies, one after another; none when it does not end with a whole record (R382). -/
def parseRecs (page : Nat) : Nat → List Byte → Option (List JRec)
  | 0, b => if b.isEmpty then some [] else none
  | k + 1, b =>
    let n := field (u32 b 0) 27 16
    if b.isEmpty then some []
    else if b.length < 16 + n then none
    else (parseRecs page k (b.drop (16 + n))).map fun l => ⟨u64 b 8, field (u32 b 0) 7 0, field (u32 b 0) 15 8, slice b 16 n, page, true⟩ :: l

/-- The copies of the newest whole CHECKPOINT among committed records: each counts as the record it copies (R382). -/
def checkpointCopies (l : List JRec) : List JRec :=
  let heads := l.filter fun r => r.typ == 2 && r.frag == 0 && r.committed
  let whole := heads.filterMap fun r =>
    let body := gather l.length (l.filter (·.committed)) r
    (parseRecs r.page (body.length / 16 + 1) body).map fun x => (r.rseq, x)
  ((whole.foldl (fun (b : Option (Nat × List JRec)) x => match b with
    | some y => if x.1 < y.1 then b else some x
    | none => some x) none).map (·.2)).getD []

/-- The records a mount finds: those of lost pages are gone, and one that only a COMMIT of a lost page named is not committed (R380);
a copy of the newest CHECKPOINT stands for a state record that is lost (R382). -/
def Journal.found (j : Journal) (lost : List Nat) : List JRec :=
  let (bad, live) := j.recs.partition fun r => lost.contains r.page
  let cuts := bad.filter (·.typ == 1)
  let keeps := live.filter (·.typ == 1)
  let live := live.map fun r =>
    if (cuts.any fun c => commits c c.page r) && !(keeps.any fun c => commits c c.page r) then { r with committed := false } else r
  live ++ (checkpointCopies live).filter fun q => !(live.any fun r => r.rseq == q.rseq)

/-- Missing millijoules of a tag at its first record of the newest power-on that holds one: its CUMUL less its ENERGY less the CUMUL
before it (R392). -/
def ledgerGap (l : List JRec) (tag : Nat) : Option Int :=
  let mine := l.filter fun r => r.typ == 0x20 && r.committed && u32 r.body 0 == tag
  (lastRec mine).bind fun z =>
    let (now, before) := mine.partition fun r => u32 r.body 4 == u32 z.body 4
    let first := now.foldl (fun a (r : JRec) => if r.rseq < a.rseq then r else a) z
    (lastRec before).map fun p => (u64 first.body 24 : Int) - u64 first.body 16 - u64 p.body 24

/-- Report every ledger gap (R392, R395). -/
def State.ledgerGaps (s : State) : State :=
  forEach s.nv.journal.ledgerTags (fun t s =>
    let g := (ledgerGap s.nv.journal.recs t.tag).getD 0
    if g = 0 then s
    else s.record { unitRec 0 0x48 5 0x10 0 with layer := t.tag, detail1 := toBits 64 g % 2 ^ 32, detail2 := field (toBits 64 g) 62 32 }) s

/-- Highest committed value of a counter (R393). -/
def Journal.counter (j : Journal) (c : Nat) : Nat :=
  ((j.committed.filter fun r => r.typ == 0x19 && recKey 0x19 r.body == c).map fun r => u32 r.body 4).foldl max 0

/-- Mount the journal (R380, R382): uncommitted records and those of lost pages are discarded, state is loaded, a PWRON
record is written. -/
def State.mount (s : State) (ok : Bool) (lost : List Nat) : State :=
  let s := s.modCis fun c => { presence := c.presence }
  if !ok then
    ((s.setCisState 2).modBoot fun b => { b with journalRo := true }).record (unitRec 4 0x42 5 0x10 0)
  else
    let j := s.nv.journal
    let live := j.found lost
    let torn := live.filter fun r => !r.committed && r.typ != 1 && r.typ != 2
    let keep := live.filter fun r => (r.committed || r.typ == 1 || r.typ == 2) && typeKnown r.typ
    let s := s.modJournal fun j => { j with recs := keep }
    let s := s.modCis fun c => { c with torn := min 65535 torn.length, lostPages := min 65535 lost.length }
    let s := if torn.isEmpty then s
      else
        let low := (torn.map (·.rseq)).foldl min ((torn.map (·.rseq)).headD 0)
        s.record { unitRec 0 0x40 5 0x10 0 with detail1 := torn.length, detail2 := field low 30 0 }
    let s := forEach (j.pages.filter fun p => lost.contains p.seq) (fun p s =>
      s.record { unitRec 4 0x42 5 0x10 0 with detail1 := p.pair, detail2 := p.index }) s
    let j := s.nv.journal
    let s := s.modCis fun c =>
      { c with
        overlay := (j.currents 0x10).map fun r => Defect.ofBody r.body
        errhist := (j.currents 0x28).map fun r => (u64 r.body 0, u64 r.body 8)
        bins := match j.current 3 0 with
          | some b => (List.range 96).map fun i => u32 b (4 * i)
          | none => List.replicate 96 0
        tags := j.ledgerTags
        stress := (j.currents 0x29).flatMap fun r =>
          (List.range 32).map fun b => (32 * u32 r.body 0 + b, 225000000 * u32 r.body (4 + 4 * b)) }
    let s := forEach (List.range 16) (fun c s =>
      let v := j.counter c
      if v = 0 then s else s.put (Reg.cisternCounter c) v) s
    let s := s.ledgerGaps
    let n := match j.current 4 0 with | some b => u32 b 0 + 1 | none => 1
    let s := s.put Reg.globalPwron n
    let s := s.put Reg.parterreDefstat (b2n (match j.current 0x30 0 with | some b => !b.isEmpty | none => false))
    let s := (s.writeNow 4 (leBytes 4 n)).setCisState 1
    let held := s.cis.presence
    forEach held (fun b s => s.jsubmit 0x1B b) (s.modCis fun c => { c with presence := [] })

/-! ### Commands of the Cistern -/

/-- JOURNAL_RECORD_SUBMIT (R379): the journal service takes a record of an assigned type. -/
def execJournalRecordSubmit (typ : Byte) (body : List Byte) (s : State) : Host.Outcome State Fault Refusal :=
  .next (if typeKnown typ.toNat then s.jsubmit typ.toNat body else s)

/-- PAGE_PROGRAM_DONE (R375, R379, R381). -/
def execPageProgramDone (plane0Ok plane1Ok : Bool) (s : State) : Host.Outcome State Fault Refusal :=
  .next (s.programDone (plane0Ok && plane1Ok))

/-- ERASE_DONE (R375, R386): the pair becomes available, or is retired. -/
def execEraseDone (ok : Bool) (s : State) : Host.Outcome State Fault Refusal :=
  .next (match s.nv.journal.pairs.find? fun p => p.use == .erasing with
    | none => s
    | some p =>
      if ok then
        let s := s.modJournal fun j => { j.setPair ⟨p.pair, p.erases + 1, .erased⟩ with
          pages := j.pages.filter fun g => g.pair != p.pair
          recs := j.recs.filter fun r => !(j.pages.any fun g => g.pair == p.pair && g.seq == r.page) }
        s.startProgram
      else
        (s.modJournal fun j => j.setPair ⟨p.pair, p.erases, .bad⟩).record
          { unitRec 1 0x43 5 0x10 0 with detail1 := p.pair, detail2 := p.erases })

/-- CHECKPOINT (R378, R382): after every 4,096 pair programs, a copy of every current state record but DEFAULT_PLAN, each
with its header. -/
def execCheckpoint (s : State) : Host.Outcome State Fault Refusal :=
  .next (if 4096 ≤ s.cis.sinceCheckpoint then
      let j := s.nv.journal
      let body := (j.committed.filter fun r => stateType r.typ && r.typ != 0x30 && j.needed r).flatMap JRec.bytes
      (s.modCis fun c => { c with sinceCheckpoint := 0 }).jsubmit 2 body
    else s)

/-- GOVERNOR_CREDIT (R383, R384): the reserve is refilled first, then the bucket, which holds at most 32,768. -/
def execGovernorCredit (s : State) : Host.Outcome State Fault Refusal :=
  let s := s.modCis fun c =>
    if c.reserve < 64 then { c with reserve := c.reserve + 1 } else { c with bucket := min 32768 (c.bucket + 1) }
  .next s.startProgram

/-- GOVERNOR_BIN (R383, R384): the window rolls and a GOVSTATE record stores the 96 bin counts. -/
def execGovernorBin (s : State) : Host.Outcome State Fault Refusal :=
  let s := s.modCis fun c => { c with bins := 0 :: c.bins.take 95 }
  .next ((s.jsubmit 3 (packLE (s.cis.bins.map fun b => (4, b)))).startProgram)

/-- Live-data limits (R386): above 480 MiB new ERRHIST and STRESS writes are suppressed until live data falls below 448. -/
def State.liveLimits (s : State) : State :=
  let l := s.nv.journal.live / 2 ^ 20
  s.modCis fun c => { c with suppress := if 480 < l then true else if l < 448 then false else c.suppress }

/-- Body of a STRESS record: die, then seconds of its 32 bins (Table 14-6). -/
def State.stressBody (s : State) (die : Nat) : List Byte :=
  packLE ((4, die) :: (List.range 32).map fun b =>
    (4, ((s.cis.stress.find? fun e => e.1 == 32 * die + b).map (·.2)).getD 0 / 225000000))

/-- LEDGER_HOUR (R391 to R393): at each hour boundary the LEDGER records, the hour's STAMP, the changed ERRHIST keys and the
STRESS records are written, and one powered hour more has passed. -/
def execLedgerHour (s : State) : Host.Outcome State Fault Refusal :=
  .next (if s.cis.hour < s.hourNow then
      let s := s.ledgerAll false
      let s := if s.cis.stampNew then
          match s.cis.stamp with
          | some (h, l) => (s.jsubmit 0x21 (packLE [(8, h), (8, l)])).modCis fun c => { c with stampNew := false }
          | none => s
        else s
      let s := s.liveLimits
      let s := if s.cis.suppress then s
        else forEach (List.range 5) (fun d s => s.jsubmit 0x29 (s.stressBody d)) s.writeErrhist
      let s := s.modCis fun c => { c with hour := c.hour + 1 }
      s.modNv fun n => { n with phours := n.phours + 1 }
    else s)

/-- JOURNAL_PATROL (R385): one programmed page is read; corrected0 and corrected1 are the most bits corrected in a quarter
of each copy, none where it is uncorrectable. -/
def execJournalPatrol (page : Nat) (c0 c1 : Option Nat) (s : State) : Host.Outcome State Fault Refusal :=
  .next (match s.nv.journal.pages.find? fun p => p.seq == page with
    | none => s
    | some p =>
      let j := s.nv.journal
      if c0.isNone ∧ c1.isNone then
        (s.modJournal fun j => { j with recs := j.recs.filter fun r => r.page != page }).record
          { unitRec 4 0x42 5 0x10 0 with detail1 := p.pair, detail2 := p.index }
      else
        let worn := c0.isNone || decide (16 ≤ c0.getD 0) || decide (16 ≤ c1.getD 0)
        let s := if c0.isNone then s.record { unitRec 1 0x41 5 0x10 0 with detail1 := p.pair, detail2 := p.index } else s
        if worn ∨ p.phours + 8760 ≤ s.nv.phours then
          let need := j.recs.filter fun r => r.page == page && r.committed && j.needed r
          let s := s.bump Reg.cisternRefreshcnt 1
          let s := s.modCis fun c => { c with copies := c.copies ++ need, refreshing := !need.isEmpty }
          s.startProgram
        else s)

/-- Merge the oldest 24 consecutive HOURs of one tag and one power-on that are not merged yet into one record (R386). -/
def mergeDay (tag : Nat) (l : List JRec) : List JRec :=
  let led := l.filter fun r => r.typ == 0x20 && r.committed && u32 r.body 0 == tag && !bit (u32 r.body 12) 17
  let day := fun (a : JRec) => led.filter fun r =>
    u64 r.body 0 == u64 a.body 0 && decide (u32 a.body 8 ≤ u32 r.body 8 ∧ u32 r.body 8 < u32 a.body 8 + 24)
  match led.find? fun a => decide (2 ≤ (day a).length) with
  | none => l
  | some a =>
    let grp := day a
    let e := (grp.map fun r => u64 r.body 16).foldl (· + ·) 0
    let z := (lastRec grp).getD a
    let part := grp.any fun r => bit (u32 r.body 12) 16
    let span := (grp.map fun r => field (u32 r.body 12) 15 0).foldl (· + ·) 0
    let m := ledgerBody (u32 a.body 0) (u32 a.body 4) (u32 a.body 8) span part true e (u64 z.body 24) (u64 z.body 32) (u64 z.body 40)
    let gone := (grp.map (·.rseq)).filter (· != a.rseq)
    (l.filter fun r => !gone.contains r.rseq).map fun r => if r.rseq == a.rseq then { r with body := m } else r

/-- COMPACTION (R386): the records of one pair that are still needed are copied forward; the pair is erased once their
COMMIT has verified. Above 384 MiB of live data the oldest ledgers are merged first. -/
def execCompaction (s : State) : Host.Outcome State Fault Refusal :=
  .next (if s.cis.compacting.isSome ∨ s.cis.st ≠ 1 then s
    else
      let s := if 384 * 2 ^ 20 < s.nv.journal.live then
          (s.modJournal fun j => { j with recs := (j.ledgerTags.map (·.tag)).foldl (fun l t => mergeDay t l) j.recs }).record
            { unitRec 0 0x47 5 0x10 0 with detail1 := s.nv.journal.live / 2 ^ 20, detail2 := 1 }
        else s
      let j := s.nv.journal
      let used := (List.range 2048).filter fun p => (j.pairOf p).use == .written && p != j.pair
      let usable := (List.range 2048).filter fun p => (j.pairOf p).use != .bad
      let er := usable.map fun p => (j.pairOf p).erases
      let hi := er.foldl max 0
      let lo := er.foldl min hi
      let level := used.find? fun p => (j.pairOf p).erases == lo && decide (lo + 2000 < hi)
      let oldest := (j.pages.find? fun g => used.contains g.pair).map (·.pair)
      match (if level.isSome then level else oldest) with
      | none => s
      | some p =>
        let need := j.recs.filter fun r => r.committed && j.needed r && j.pages.any fun g => g.pair == p && g.seq == r.page
        let s := s.modCis fun c => { c with copies := c.copies ++ need, compacting := some p }
        (s.startErase).startProgram)

/-- DEFECT_EXPIRE (R388): a SUSPECT entry with no candidacy for 2,160 powered hours becomes EXPIRED. -/
def execDefectExpire (resource : BitVec 64) (s : State) : Host.Outcome State Fault Refusal :=
  .next (match s.defect resource.toNat with
    | some d => if d.state = 1 ∧ d.lastPhours + 2160 ≤ s.nv.phours then s.defectState { d with state := 3 } else s
    | none => s)

/-- PFW_PAUSE_END (R381): phase 1 writes resume. -/
def execPfwPauseEnd (s : State) : Host.Outcome State Fault Refusal :=
  .next (if s.due s.cis.pausedUntil then
      let s := s.modCis fun c => { c with pausedUntil := none }
      let s := if s.cis.st = 3 ∧ !s.cis.flushing ∧ !s.diesStopped then s.setCisState 1 else s
      s.startProgram
    else s)

/-- CISTERN_STAMP takes a 64-bit host stamp (R393). -/
def State.hostStamp (s : State) (v : Nat) : State :=
  s.modCis fun c => { c with stamp := some (v, s.time), stampNew := true }

/-- NEXT (R396): the matching committed record with the lowest RSEQ above QFROM goes to RDBUF, or END is set. -/
def State.queryNext (s : State) : State :=
  let q := s.reg Reg.cisternQuery
  let typ := field q 7 0
  let from_ := s.reg64 Reg.cisternQfromLo
  let key := s.reg64 Reg.cisternQkeyLo
  let j := s.nv.journal
  let hit := fun (r : JRec) =>
    decide (from_ < r.rseq) && (typ == 0 || r.typ == typ) &&
      (bit q 8 || !stateType r.typ || j.needed r) && (!bit q 9 || recKey r.typ r.body == key)
  let l := j.committed.filter hit
  match l.foldl (fun b (r : JRec) => match b with
    | none => some r
    | some x => if r.rseq < x.rseq then some r else some x) (none : Option JRec) with
  | none => s.modCis fun c => { c with rdEnd := true }
  | some r => (s.put64 Reg.cisternQfromLo r.rseq).modCis fun c => { c with rdbuf := r.bytes, rdValid := true, rdEnd := false }

/-- RESTART clears RDSTAT (R396). -/
def State.queryRestart (s : State) : State :=
  s.modCis fun c => { c with rdValid := false, rdEnd := false, rdbuf := [] }

/-- CISTERN_CMD (Table 14-9): KEY 0x96, NEXT or RESTART; other codes do nothing. -/
def State.writeCisternCmd (s : State) (w : Nat) : State :=
  if field w 15 8 ≠ 0x96 then s.accErr Reg.cisternCmd .badKey
  else if field w 3 0 = 1 then s.queryNext
  else if field w 3 0 = 2 then s.queryRestart
  else s

/-- Clear one overlay entry keyed by QKEY (R390). -/
def State.clearDefect (s : State) : State :=
  let key := s.reg64 Reg.cisternQkeyLo
  match s.defect key with
  | some d =>
    if d.state = 1 ∨ d.state = 2 then
      ((s.defectState { d with state := 4 }).presence 5 key).put Reg.cisternDefres 1
    else s.put Reg.cisternDefres 2
  | none => s.put Reg.cisternDefres 2

/-- Clear the error history summary (R390). -/
def State.clearHistory (s : State) : State :=
  let ks := s.cis.errhist.map (·.1)
  let s := s.modCis fun c => { c with errhist := ks.map fun k => (k, 0), errchanged := ks }
  ((s.writeErrhist).presence 5 (s.reg64 Reg.cisternQkeyLo)).put Reg.cisternDefres 1

end Sys2Proof.Machine
end

