-- ==== Sys2Proof/Machine/Faults.lean ====
section
/-! DEFINITION. Faults.lean: handling of error records, the error ring, coalescing and suspect windows (R360 to R368). -/
namespace Sys2Proof.Machine

/-- The 64 bytes of a record; the phase stands in bit 31 of byte 0x3C in the error ring (Table 13-4, R363). -/
def recBytes (r : Rec) (pwron : Nat) (lost phase : Bool) : List Byte :=
  let w1 := r.sev + at_ 3 (b2n r.pt.isSome) + at_ 4 (r.pt.getD 0) + at_ 8 r.cls + at_ 16 (b2n lost) + at_ 17 (b2n r.coalesced)
    + at_ 18 (b2n r.confirmed) + at_ 19 (b2n r.committed)
  packLE [(4, r.seq.getD 0), (4, w1), (8, r.time), (4, pwron), (2, min 0xFFFF r.count), (2, toBits 16 r.temp),
    (4, r.die + at_ 4 r.block + at_ 12 r.inst), (2, r.volt), (2, 0), (6, r.step.getD 0xFFFFFFFFFFFF),
    (2, r.mb.getD 0xFFFF), (4, r.admno), (4, r.layer), (8, r.detail0), (4, r.detail1),
    (4, r.detail2 % 2 ^ 31 + at_ 31 (b2n phase))]

/-- Issue the ring entries of handled records in SEQ order while the ring has room (R363). The queue holds at most 64. -/
def State.issueRing : Nat → State → State
  | 0, s => s
  | k + 1, s =>
    let wait := s.fault.queue.filter fun r => r.seq.isSome && !r.issued
    match wait.foldl (fun b (r : Rec) => match b with
      | none => some r
      | some x => if r.seq.getD 0 < x.seq.getD 0 then some r else some x) (none : Option Rec) with
    | none => s
    | some r =>
      let mark := fun (f : Rec → Rec) (s : State) =>
        s.modFault fun x => { x with queue := x.queue.map fun q => if q.uid == r.uid then f q else q }
      match r.slot with
      | some (slot, ph) =>
        if s.ringOn .faultRing then
          let s := s.memWr1 none (s.reg64 Reg.faultRingBaseLo + 64 * slot) (recBytes r s.pwron r.lostBefore ph) (.record r.uid)
          State.issueRing k (mark (fun q => { q with issued := true }) s)
        else s
      | none =>
        if s.ringRoom .faultRing then
          let lost := s.fault.lostRing
          let ring := s.ring .faultRing
          let s := s.modFault fun x => { x with lostRing := false }
          let s := mark (fun q => { q with issued := true, slot := some (ring.tail, ring.phase), lostBefore := lost }) s
          State.issueRing k (s.ringPost .faultRing (fun ph => recBytes r s.pwron lost ph) (.record r.uid))
        else s

/-- The error ring takes what it can. -/
def State.pumpRing (s : State) : State := s.issueRing 65

/-- The host has acknowledged a record's entry: the record leaves the queue (R363). -/
def State.ringAcked (s : State) (uid : Nat) : State :=
  (s.modFault fun f => { f with queue := f.queue.filter fun r => r.uid != uid }).pumpRing

/-- A record's entry ended without acknowledgement: the record stays and is issued again (R363). -/
def State.ringFailed (s : State) (uid : Nat) : State :=
  (s.modFault fun f =>
    { f with queue := f.queue.map fun r => if r.uid == uid then { r with issued := false } else r }).pumpRing

/-- The ring was disabled by its control word: an entry that fails from now on goes to the tail of a ring enabled later (R363). -/
def State.ringOff (s : State) : State :=
  s.modFault fun f => { f with queue := f.queue.map fun r => { r with slot := none } }

/-- The ring was disabled with its messages abandoned: every handled record waits for the tail of a ring enabled later (R363). -/
def State.ringDropped (s : State) : State :=
  s.modFault fun f => { f with queue := f.queue.map fun r => { r with issued := false, slot := none } }

/-- Whether a record may be handled: it names none, or the one it names has been handled or discarded (R360). -/
def State.handleable (s : State) (r : Rec) : Bool :=
  r.seq.isNone && (match r.names with
    | none => true
    | some u => s.fault.named.any fun p => p.1 == u)

/-- The record handled next: the highest severity, the oldest detection within it (R360). -/
def State.nextRecord (s : State) : Option Rec :=
  (s.fault.queue.filter s.handleable).foldl (fun b (r : Rec) => match b with
    | none => some r
    | some x => if x.sev < r.sev ∨ (x.sev = r.sev ∧ r.uid < x.uid) then some r else some x) none

/-- RECORD_HANDLE (R360): SEQ, FAULT_LAST, the partition event and the ring entry, the history and the counts. A
DEFECT_CANDIDATE then reaches the journal service with its SEQ (R368; entry 24). -/
def State.handleRecord (s : State) : State :=
  match s.nextRecord with
  | none => s
  | some r0 =>
    let seq := s.fault.seq
    let d1 := match r0.names with
      | none => r0.detail1
      | some u => ((s.fault.named.find? fun p => p.1 == u).map (·.2)).getD 0
    let r := { r0 with seq := some seq, detail1 := d1 }
    let lost := s.fault.lostLast
    let s := s.modFault fun f =>
      { f with
        seq := (seq + 1) % 2 ^ 32
        lostLast := false
        named := f.named ++ [(r.uid, seq)]
        queue := f.queue.map fun q => if q.uid == r.uid then r else q }
    let last := recBytes r s.pwron lost false
    let s := forEach (List.range 16) (fun w s => s.put (Reg.faultLast w) (u32 last (4 * w))) s
    let s := match r.pt with
      | some pt =>
        let s := if field (s.reg Reg.faultCtl) 6 4 ≤ r.sev then
            s.ptEvent pt 0x26 (packLE [(4, seq), (4, r.cls + at_ 8 r.sev), (8, r.step.getD 0xFFFFFFFFFFFF), (4, r.layer)])
          else s
        if 2 ≤ r.sev then s.fire (0x80 + 8 * pt + 5) else s
      | none => s
    let s := s.pumpRing
    let s := if 2 ≤ r.sev then s.errCount r else s
    let s := s.bump (Reg.faultCount r.sev) 1
    let s := if 3 ≤ r.sev then s.fire 0x13 else s
    match r.cand with
    | some k => s.candidacy k seq r.candTest
    | none => s

/-- RECORD_HANDLE. -/
def execRecordHandle (s : State) : Host.Outcome State Fault Refusal := .next s.handleRecord

/-- CORRECTED_WINDOW_EXPIRE (R362): the window of a resource ends after 225,000,000 S cycles and one record enters the
queue. -/
def execCorrectedWindowExpire (die block inst detail : Nat) (s : State) : Host.Outcome State Fault Refusal :=
  let same := fun (c : Coalesce) =>
    c.first.die == die && c.first.block == block && c.first.inst == inst && c.first.detail1 == detail &&
      decide (c.start + 225000000 ≤ s.time)
  .next (match s.fault.coalesce.find? same with
    | none => s
    | some c =>
      let s := s.modFault fun f => { f with coalesce := f.coalesce.filter fun x => !same x }
      s.enqueue { c.first with coalesced := true, count := min 0xFFFF c.count })

/-- SUSPECT_WINDOW_EXPIRE (R367): one SUSPECT record enters the queue with the count and the first accuser. -/
def execSuspectWindowExpire (port : Port) (s : State) : Host.Outcome State Fault Refusal :=
  let same := fun (w : SuspectWin) => w.port == port.val && decide (w.start + 2250000 ≤ s.time)
  .next (match s.fault.suspects.find? same with
    | none => s
    | some w =>
      let s := s.modFault fun f => { f with suspects := f.suspects.filter fun x => !same x }
      let (r, s) := s.stampRec
        { unitRec 1 0x17 4 0x0B (16 * w.port + 15) with
          coalesced := true, count := min 0xFFFF w.count, detail1 := w.accuser, detail2 := w.cause }
      s.enqueue { r with time := w.start })

end Sys2Proof.Machine
end

