-- ==== Sys2Proof/Machine/Fountainer.lean ====
section
/-! DEFINITION. Fountainer.lean: lockstep pairs, mailboxes, offers and claims, the filtered inputs and their storm guard
(R460 to R478). -/
namespace Sys2Proof.Machine

/-! ### Inputs (R471 to R474) -/

/-- Level of a discrete input, 1 active (R472). -/
def State.inputLevel (s : State) (i : Nat) : Bool := (vget s.intc.inputs i).level
/-- The service jumper is fitted (R398). -/
def State.jumper (s : State) : Bool := s.inputLevel 1
/-- The seal loop is closed: its input is active when open (Table 18-5). -/
def State.sealed (s : State) : Bool := !s.inputLevel 2
/-- Whether the storm guard masks an input (R473). -/
def State.inputMasked (s : State) (i : Nat) : Bool := (vget s.intc.inputs i).masked

/-- The storm guard masks an input: its source stops, source 0x08 fires, an INPUT_STORM record is placed (R473). -/
def State.maskInput (s : State) (i reason : Nat) : State :=
  let s := s.modInput i fun x => { x with masked := true, reason := reason }
  (s.fire 8).record { unitRec 1 0x68 4 0x0F i with detail1 := i, detail2 := reason }

/-- COUNT, WINDOW and DURATION of an input (R473); DURATION is fixed at 0 for inputs 1 and 2. -/
def State.storm (s : State) (i : Nat) : Nat × Nat × Nat :=
  let w := s.reg (Reg.inputStorm i)
  (field w 7 0, max 1 (field w 15 8), if i = 1 ∨ i = 2 then 0 else field w 31 16)

/-- The filtered level of an input changes (R472, R473): it is counted, its source fires unless masked, and the guard masks
it when COUNT changes fall within WINDOW. The answer also says whether the change was seen (not masked before it). -/
def State.inputChange (s : State) (i : Nat) (lvl : Bool) : Bool × State :=
  let x := vget s.intc.inputs i
  let seen := !x.masked
  let (cnt, win, _) := s.storm i
  let ch := (x.changes.filter fun t => decide (s.time < t + win * 2250000)) ++ [s.time]
  let s := s.bump (Reg.inputCnt i) 1
  let s := s.modInput i fun x =>
    { x with raw := lvl, level := lvl, changes := ch, activeAt := if lvl then some s.time else none }
  let s := if seen then s.fire i else s
  let s := if seen ∧ 0 < cnt ∧ cnt ≤ ch.length then s.maskInput i 1 else s
  (seen, s)

/-- STORM_DURATION (R473): an input active for longer than DURATION is masked. -/
def execStormDuration (input : Fin 7) (s : State) : Host.Outcome State Fault Refusal :=
  let (_, _, dur) := s.storm input
  let x := vget s.intc.inputs input
  .next (match x.activeAt with
    | some t => if !x.masked ∧ 0 < dur ∧ t + dur * 225000000 < s.time then s.maskInput input 2 else s
    | none => s)

/-- Writing 1 to MASKED unmasks an input and restarts both conditions from zero (R473). -/
def State.unmask (s : State) (i : Nat) : State :=
  s.modInput i fun x =>
    { x with masked := false, reason := 0, changes := [], activeAt := if x.level then some s.time else none }

/-- The straps as the lines stand, or as they were sampled (R474): bits 0 and 1 the slot, bits 2 to 5 the tray. -/
def State.strapLines (s : State) : Nat := (List.range 6).foldl (fun n i => n + at_ i (b2n (vget s.intc.inputs (7 + i)).raw)) 0
def State.strapsSampled (s : State) : Nat := (List.range 6).foldl (fun n i => n + at_ i (b2n (vget s.intc.inputs (7 + i)).level)) 0

/-- The release of module reset samples the straps into FABRIC_POS (R474). -/
def State.sampleStraps (s : State) : State :=
  let w := s.strapLines
  let s := forEach (List.range 6) (fun i s => s.modInput (7 + i) fun x => { x with level := x.raw }) s
  s.put Reg.fabricPos (field w 1 0 + at_ 4 (field w 5 2))

/-- STRAP_CHANGE (R474): a later change of the straps is ignored; one record per module reset. -/
def execStrapChange (straps : BitVec 6) (s : State) : Host.Outcome State Fault Refusal :=
  .next (if straps.toNat = s.strapLines then s
    else
      let s := forEach (List.range 6) (fun i s => s.modInput (7 + i) fun x => { x with raw := straps.getLsbD i }) s
      if !s.boot.released ∨ s.intc.strapTold then s
      else (s.modIntc fun x => { x with strapTold := true }).record
        { unitRec 0 0x6B 4 0x0F 7 with detail1 := s.strapsSampled, detail2 := straps.toNat })

/-! ### Offers (R467 to R469) -/

/-- Running level of a pair (R467). -/
def PairSt.level (p : PairSt) : Nat := match p.stack with | [] => 0 | (_, l) :: _ => l

/-- The source offered to a pair (R467, R469): pending, not active, routed to it, the highest priority, the lowest number
among equals, and above both THRESH and the running level. -/
def State.offer (s : State) (m : Nat) : Option (Nat × Nat) :=
  let p := vget s.pairs m
  if p.st ≠ 2 ∨ bit (s.reg Reg.intcGctl) 0 then none
  else
    let c := (List.range 256).filterMap fun n =>
      let r := s.route n
      if s.intc.pending.getLsbD n && !s.intc.active.getLsbD n && r.target == m && r.prio != 0 then some (n, r.prio) else none
    match c.foldl (fun b (x : Nat × Nat) => match b with
      | none => some x
      | some y => if y.2 < x.2 then some x else some y) (none : Option (Nat × Nat)) with
    | some (n, pr) => if p.thresh < pr ∧ p.level < pr then some (n, pr) else none
    | none => none

/-- INTC_CLAIM (R468). -/
def execIntcClaim (pair : Pair) (s : State) : Host.Outcome State Fault Refusal :=
  .next (match s.offer pair with
    | none => s.modPair pair fun p => { p with claimed := 0xFFFFFFFF#32 }
    | some (n, pr) =>
      let s := s.modIntc fun x => { x with pending := setBit256 x.pending n false, active := setBit256 x.active n true }
      s.modPair pair fun p => { p with stack := (n, pr) :: p.stack, claimed := wd n })

/-- INTC_EOI (R468): it ends the innermost handler, or sets EOIERR. -/
def execIntcEoi (pair : Pair) (source : Byte) (s : State) : Host.Outcome State Fault Refusal :=
  .next (match (vget s.pairs pair).stack with
    | (n, _) :: rest =>
      if n = source.toNat then
        let s := s.modIntc fun x => { x with active := setBit256 x.active n false, eoiErr := false }
        s.modPair pair fun p => { p with stack := rest }
      else s.modIntc fun x => { x with eoiErr := true }
    | [] => s.modIntc fun x => { x with eoiErr := true })

/-- THRESHOLD_WRITE (R467): both cores of the pair write the same threshold. -/
def execThresholdWrite (pair : Pair) (thresh : Fin 16) (s : State) : Host.Outcome State Fault Refusal :=
  .next (s.modPair pair fun p => { p with thresh := thresh })

/-- A write of INTC_GCTL.DISABLE stops offers and host postings, or resumes them from the pending state (R469). -/
def State.writeDisable (s : State) (b : Bool) : State :=
  let s := s.put Reg.intcGctl (b2n b)
  if b then s else s.postIntrs

/-! ### Mailboxes (R463, R464) -/

/-- Bytes of a request or response buffer: 64 words. -/
def State.mbRequest (s : State) (m : Nat) : List Byte :=
  packLE ((List.range 64).map fun w => (4, s.reg (Reg.ftnMbReq m w)))

/-- The pair, or the hardware for it, answers a mailbox (R463): the response takes the request's layout with STATUS, SEQ is
echoed, RSP_VALID is set, REQ_BUSY clears and the response source fires. -/
def State.mbAnswer (s : State) (m status : Nat) (body : List Byte) : State :=
  let q := s.mbRequest m
  let b := if status = 0 then body.take 248 else []
  let resp := packLE [(4, field (u32 q 0) 15 0 + at_ 16 b.length + at_ 28 status), (4, u32 q 4)] ++ b
  let s := forEach (List.range 64) (fun w s => s.put (Reg.ftnMbRsp m w) (u32 resp (4 * w))) s
  (s.modBox m fun _ => ⟨false, true⟩).fire (0x1A + m)

/-- Whether the pair of a mailbox runs and holds a request with a command code. -/
def State.mbHas (s : State) (m cmd : Nat) : Bool :=
  (vget s.mailboxes m).busy && (vget s.pairs m).st == 2 && field (u32 (s.mbRequest m) 0) 15 0 == cmd

/-- Body of the outstanding request. -/
def State.mbBody (s : State) (m : Nat) : List Byte := (s.mbRequest m).drop 8

/-- A write of FTN_MB_CTL (R463): KEY 0xE1 and SEND. A request to a pair out of service is answered PAIR_DOWN by hardware
(Table 18-1), one with a command that Table 18-2 does not list UNKNOWN_CMD. -/
def State.writeMbCtl (s : State) (m w : Nat) : State :=
  if field w 15 8 ≠ 0xE1 then s.accErr (Reg.ftnMbCtl m) .badKey
  else if !bit w 0 then s
  else if (vget s.mailboxes m).busy then s.accErr (Reg.ftnMbCtl m) .notReady
  else
    let s := (s.modBox m fun b => { b with busy := true }).fire (0x18 + m)
    let cmd := field (u32 (s.mbRequest m) 0) 15 0
    if (vget s.pairs m).st ≠ 2 then s.mbAnswer m 4 []
    else if cmd = 0 ∨ 5 < cmd then s.mbAnswer m 1 []
    else s

/-- FTN_STAT (Table 18-11). -/
def State.ftnStat (s : State) : Nat := (vget s.pairs 0).st + at_ 2 (vget s.pairs 1).st

/-- INFO (Table 18-2): VERSION of the running firmware object, FTN_STAT, GLOBAL_NUMREV.PROTO. -/
def execInfo (mailbox : Pair) (s : State) : Host.Outcome State Fault Refusal :=
  .next (if s.mbHas mailbox 1 then
      s.mbAnswer mailbox 0 (packLE [(4, s.reg Reg.ftnFwver), (4, s.ftnStat), (4, field (s.reg Reg.globalNumrev) 15 8)])
    else s)

/-- PHASE_READ (Table 18-2, R452): learned power and its point; pair 1 only; BAD_ARG when none is learned. -/
def execPhaseRead (mailbox : Pair) (s : State) : Host.Outcome State Fault Refusal :=
  .next (if s.mbHas mailbox 5 then
      if mailbox.val ≠ 1 then s.mbAnswer mailbox 2 []
      else
        let w := u32 (s.mbBody 1) 0
        match s.power.learned.find? fun l => l.pt == field w 3 0 && l.phase == field w 15 8 && l.die == field w 17 16 with
        | some l => s.mbAnswer 1 0 (leBytes 4 (min 0xFFFF (l.watts8 / 8) + at_ 16 l.point))
        | none => s.mbAnswer 1 3 []
    else s)

/-! ### Pairs (R460 to R462) -/

/-- Restarts of a pair within the last 24 hours of local time (R461). -/
def State.pairRestarts (s : State) (m : Nat) : Nat :=
  ((vget s.pairs m).restarts.filter fun t => decide (s.time < t + 19440000000000)).length

/-- A pair is held in reset (R460 to R462): its active sources return to pending, its handlers end, an outstanding request is
answered PAIR_DOWN. -/
def State.holdPair (s : State) (m cause : Nat) : State :=
  let act := (vget s.pairs m).stack.map (·.1)
  let s := s.modIntc fun x =>
    { x with
      pending := act.foldl (fun v n => setBit256 v n true) x.pending
      active := act.foldl (fun v n => setBit256 v n false) x.active }
  let s := s.modPair m fun p => { p with st := 0, cause := cause, stack := [] }
  if (vget s.mailboxes m).busy then s.mbAnswer m 4 [] else s

/-- LOCKSTEP_MISMATCH (R460): the pair is held in reset before the mismatched write takes effect; a mismatch during a restart
counts as a further restart (Table 18-1). -/
def execLockstepMismatch (pair : Pair) (s : State) : Host.Outcome State Fault Refusal :=
  let st := (vget s.pairs pair).st
  .next (if st = 3 ∨ !s.boot.released then s
    else
      let s := if st = 2 then s else s.modPair pair fun p => { p with restarts := p.restarts ++ [s.time] }
      (s.holdPair pair 1).record { unitRec 4 0x1E 4 0x0F pair with detail1 := pair })

/-- PAIR_WATCHDOG (R461): no kick for 225,000,000 S cycles. -/
def execPairWatchdog (pair : Pair) (s : State) : Host.Outcome State Fault Refusal :=
  let p := vget s.pairs pair
  .next (if p.st = 2 ∧ p.kickAt + 225000000 ≤ s.time then
      (s.holdPair pair 2).record
        { unitRec 4 0x69 4 0x0F pair with detail1 := pair, detail2 := s.pairRestarts pair }
    else s)

/-- PAIR_RESTART_DONE (R461): the pair runs again, or stays held after three restarts in 24 hours. -/
def execPairRestartDone (pair : Pair) (s : State) : Host.Outcome State Fault Refusal :=
  let p := vget s.pairs pair
  .next (if p.st ≠ 0 ∨ p.cause = 0 then s
    else if 3 ≤ s.pairRestarts pair then
      (s.modPair pair fun p => { p with st := 3 }).record
        { unitRec 4 0x6A 4 0x0F pair with detail1 := pair, detail2 := p.cause }
    else
      let s := s.bump Reg.ftnRestarts 1
      s.modPair pair fun p =>
        { p with st := 2, cause := 0, kickAt := s.time, restarts := p.restarts ++ [s.time] })

/-- WATCHDOG_KICK (R461). -/
def execWatchdogKick (pair : Pair) (s : State) : Host.Outcome State Fault Refusal :=
  .next (if (vget s.pairs pair).st = 2 then s.modPair pair fun p => { p with kickAt := s.time } else s)

/-- BUTTON_RELEASE (R472): the filtered level of the button returns to inactive. -/
def execButtonRelease (s : State) : Host.Outcome State Fault Refusal :=
  .next (if s.inputLevel 0 then (s.inputChange 0 false).2 else s)

/-- CHASSIS_ATTENTION (R465): a filtered change of input 6 fires its source. -/
def execChassisAttention (active : Bool) (s : State) : Host.Outcome State Fault Refusal :=
  .next (if s.inputLevel 6 = active then s else (s.inputChange 6 active).2)

end Sys2Proof.Machine
end

