-- ==== Sys2Proof/Machine/Gate.lean ====
section
/-! DEFINITION. Gate.lean: which register accesses are refused (R18, R45, R327, R341, R414), presence (R398, R401). -/
namespace Sys2Proof.Machine

/-- The host's register accesses reach the module: it is out of module reset and the Rill link is up (R320). -/
def State.hostUp (s : State) : Bool := s.boot.released && s.rill.up

/-- Blocks that answer before READY (R414). -/
def earlyBlock (b : Block) : Bool :=
  [Block.global, .rill, .fault, .intc, .cistern, .power, .security, .test, .fountainer].contains b

/-- Partition of a queue window's offset. -/
def windowPt (off : Nat) : Nat := (off - 0x3800000) / 0x40000

/-- Cause for which an access to an offset is refused whatever it does (R18, R45, R341, R414). QW_STAT answers reads of the window of an
undefined partition. -/
def State.accessCause (s : State) (off : Nat) (read : Bool) : Option AccCause :=
  let b := blockOf off
  if b = .none ∧ !(0x1000000 ≤ off ∧ off < 0x2000000) then some .unmapped
  else if !s.boot.ready ∧ !earlyBlock b then some .notReady
  else if b = .queueWindow ∧ !s.defined (windowPt off) ∧ !(read ∧ off % 0x40000 = 0) then some .noPartition
  else if b = .queueWindow ∧ s.resetting (windowPt off) then some .resetting
  else if b ≠ .staging ∧ (regRow off).isNone then some .unmapped
  else none

/-- A host write of a register whose write is a command of its own: refused with its cause, or its effect. -/
def State.hostWrite (s : State) (off : Nat) (f : State → State) : State :=
  if !s.hostUp then s
  else match s.accessCause off false with
    | some c => s.accErr off c
    | none => f s

/-! ### Presence (R398, R401) -/

/-- A command accepted under presence runs (R403): every one but ATTEST and IDKEY_OUT, unless it found no presence. -/
def State.presHeld (s : State) : Bool :=
  (s.sec.run.map fun r => r.cmd != 8 && r.cmd != 9 && r.code != 1 && r.code != 0x12).getD false

/-- The button window is open. -/
def State.windowOpen (s : State) : Bool := match s.sec.windowEnd with | some t => decide (s.time < t) | none => false

/-- PRES (R398). -/
def State.pres (s : State) : Bool := s.windowOpen || s.jumper || s.presHeld

/-- A refusal for want of presence (R401): the register, the offset in the record, and the command. -/
def State.noPres (s : State) (off recOff cmd : Nat) : State :=
  let s := (s.accErr off .noPresence).bump Reg.secNopres 1
  let s := s.record { unitRec 0 0x53 4 0x12 0 with detail1 := recOff, detail2 := cmd }
  if s.sec.refHour = some s.hourNow then s
  else (s.modSec fun x => { x with refHour := some s.hourNow }).presence 7 off

end Sys2Proof.Machine
end

