-- ==== Sys2Proof/Machine/Validate.lean ====
section
/-! DEFINITION. Validate.lean: phases 1 to 5 of the Parterre loader (R152 to R171, R491): what refuses an image, and where. A
finding is (refusal code, section type, record). -/
namespace Sys2Proof.Machine

/-- A refusal: its code (Table 06-11), section type and record. -/
abbrev Finding := Nat × Nat × Nat

/-- First of a list of checks that fails. -/
def firstOf (l : List (Bool × Nat)) : Option Nat := (l.find? (·.1)).map (·.2)

/-! ### Phase 1: the header (R152, Table 06-1) -/

/-- First failure of the header, for an image staged or stored with a length. -/
def State.headerCode (s : State) (im : List Byte) (len : Nat) (planOnly : Bool) : Option Nat :=
  let kind := u8 im 4
  let total := u32 im 8
  let rev := s.reg Reg.globalNumrev
  firstOf [
    (u32 im 0 != 0x45525450, 0x01),
    ((kind != 1 && (kind != 2 || planOnly)) || u8 im 5 != 1, 0x02),
    (total % 64 != 0 || decide (total < 192) || decide (2 ^ 23 < total) || total != len, 0x03),
    (u8 im 0x18 != field rev 7 0, 0x04),
    (kind == 2 && decide (field rev 15 8 < u8 im 0x19), 0x05),
    (kind == 2 && !s.defined (field (u8 im 0x0C) 3 0), 0x20)]

/-! ### Phase 2: the directory (R153, Table 06-2) -/

/-- Code of a directory entry that fails, given the entries before it. An empty section whose OFFSET lies inside an earlier section is taken to
overlap it (DESIGN CHOICE, entry 75). -/
def entryCode (im : List Byte) (i : Nat) : Option Nat :=
  let es := imgDir im
  let (t, sz, cnt, off) := nth es i (0, 0, 0, 0)
  let before := es.take i
  let ends := off + sz * cnt
  let meets := before.any fun e => let (_, z, c, o) := e; decide (o < ends ∧ off < o + z * c)
  match secInfo t with
  | none => some 0x06
  | some (rs, lo, hi) =>
    if t / 256 ≠ u8 im 4 ∨ sz ≠ rs ∨ off % 64 ≠ 0 ∨ off < 0x40 + 16 * u16 im 6 ∨ u32 im 8 - 64 < ends ∨ meets ∨
        before.any (fun e => e.1 == t) then some 0x06
    else if cnt < lo ∨ hi < cnt then some 0x08
    else none

/-- Required sections of a kind in Table 06-2 order. -/
def requiredSecs (kind : Nat) : List Nat := if kind = 1 then [0x0101, 0x0102] else [0x0201, 0x0202, 0x0203, 0x0205]

/-- First failure of the directory, with ERRREC (R180). -/
def dirCode (im : List Byte) : Option (Nat × Nat) :=
  let n := u16 im 6
  if n = 0 ∨ 32 < n then some (0x06, none32)
  else match (List.range n).findSome? fun i => (entryCode im i).map fun c => (c, i) with
    | some x => some x
    | none =>
      if (requiredSecs (u8 im 4)).any fun t => (secIx im t).isNone then some (0x07, none32) else none

/-! ### Phase 4: fields of one record (R155, R491) -/

/-- A required reference into a section of n records; an optional one. -/
def badRef (n v : Nat) : Bool := decide (n ≤ v)
def badOpt (n v : Nat) : Bool := v != none32 && decide (n ≤ v)

/-- Licence bits of GLOBAL_LICSTAT (Table 01-14). -/
def State.lic (s : State) (i : Nat) : Bool := bit (s.reg Reg.globalLicstat) i

/-- Licence cap of the module in watts (R47, CAP40). -/
def State.licenceCap (s : State) : Nat := if s.lic 5 then 4000 else 2000

/-- Channels of the stacks that need HBM768, and ports that need PORTS24 (Table 06-4). -/
def hbm768 : Nat := (List.range 384).foldl (fun m c => if c / 32 % 3 = 2 then m + 2 ^ c else m) 0

/-- DEVICE record (R156, R158, R159). -/
def State.deviceCode (s : State) (r : List Byte) : Option Nat :=
  firstOf [
    (!s.lic 1 && field (u32 r 0) 23 8 != 0, 0x10),
    (!s.lic 5 && decide (2000 < u16 r 4), 0x10),
    (decide (s.licenceCap < u16 r 4), 0x15)]

/-- PARTITION record (R157 to R159). -/
def State.partitionCode (s : State) (i : Nat) (r : List Byte) : Option Nat :=
  let x := ptResOf r
  firstOf [
    (!s.lic 2 && (field (u8 r 0) 3 0 != 0 || decide (0 < i)), 0x10),
    (x.tag == 0, 0x13),
    (decide (1536 < x.rslots), 0x0B),
    (!s.lic 4 && x.rslots != 0, 0x10),
    (!s.lic 5 && decide (2000 < x.cap), 0x10),
    (x.roles &&& s.usableRoles != x.roles, 0x11),
    (!s.lic 3 && x.hbm &&& hbm768 != 0, 0x10),
    (x.hbm &&& s.hbmInService != x.hbm, 0x11),
    (!s.lic 1 && field x.ports 47 16 != 0, 0x10)]

/-- RECIPE_TABLE record (R160), entry by entry: an entry of another kind; LAG 0, which Table 03-2 does not allow. -/
def recipeCode (r : List Byte) : Option Nat :=
  firstOf ((List.range 7).flatMap fun k =>
    let e := u32 r (4 + 4 * k)
    [(field e 2 0 != k, 0x18), (field e 23 22 == 0, 0x0B)])

/-- INTR_ROUTE record (R161, R466). -/
def routeCode (r : List Byte) : Option Nat :=
  let w := u32 r 0
  let src := field w 7 0
  firstOf [
    (src == 0x18 || src == 0x19 || !sourceDefined src, 0x0B),
    (field w 13 12 == 3, 0x0A),
    (decide (0x80 ≤ src) && field w 11 8 != (src - 0x80) / 8, 0x17)]

/-- JOB record (R162). -/
def State.jobCode (s : State) (im : List Byte) (r : List Byte) : Option Nat :=
  let w := u32 r 8
  let t := field w 20 16
  let allowed := bit (((s.ptRes (field (u8 im 0x0C) 3 0)).map (·.recipes)).getD 0) t
  let there := (s.plan.map fun p => (recsOf p 0x0103).any fun x => field (u32 x 0) 4 0 == t).getD false
  firstOf [(field w 1 0 == 3, 0x0B), (!allowed || !there, 0x23), (u16 r 12 == 0, 0x0B)]

/-- The block condition (R132). -/
def Layout.blockCond (l : Layout) : Bool :=
  let ds := (l.bext.zip l.stride).zip l.extent
  let moving := sortBy (fun a c => decide (a.2 ≤ c.2)) ((ds.filter fun d => decide (1 < d.1.1)).map (·.1))
  let runs := moving.foldl (fun (acc : Bool × Nat) (d : Nat × Int) => (acc.1 && decide (d.2 = (acc.2 : Int)), acc.2 * d.1)) (true, 1)
  runs.1 && ds.all fun d => decide (d.2 ≤ d.1.1) || decide ((d.1.2 * (d.1.1 : Int)) % (l.bsize : Int) = 0)

/-- Whether the bytes a layout reaches, with its scale plane, lie in a partition's space (R139). -/
def State.layoutIn (s : State) (pt : Nat) (l : Layout) : Bool :=
  let sp := l.span
  let sc := l.scaleSpan
  s.inSpace pt l.space ((l.base : Int) + sp.1) (sp.2 - sp.1) &&
    (!l.scaled || s.inSpace pt l.space ((l.scaleBase : Int) + sc.1) (sc.2 - sc.1))

/-- LAYOUT record in the row order of Table 05-7 (R148, R491). -/
def State.layoutCode (s : State) (pt : Nat) (r : List Byte) : Option Nat :=
  let l := layoutOf r
  let eight := l.format == 0 || l.format == 1 || l.format == 4
  firstOf [
    (l.rank == 0 || decide (8 < l.rank) || l.extent.contains 0 || l.globalExt.contains 0, 0x3A),
    (decide (8 ≤ l.format) || l.fill == 3 || l.coll == 3 || l.shard.any (fun d => d.1 == 3) || decide (2 ≤ l.space), 0x0A),
    (!(([16, 32, 64, 128] : List Nat).contains l.bsize), 0x3B),
    ((recordFmt l.format || l.scaled) && !l.blockCond, 0x3C),
    ((recordFmt l.format && l.base % 4 != 0) || (elemBytes l.format == 2 && !recordFmt l.format && l.base % 2 != 0), 0x3D),
    (l.fill == 1 && recordFmt l.format, 0x3F),
    (l.coll == 1 && recordFmt l.format, 0x40),
    (!s.layoutIn pt l, 0x41),
    ((l.shard.zip (l.extent.zip l.globalExt)).any (fun d => d.1.1 == 0 && d.2.1 != d.2.2), 0x43),
    (decide (2 ^ 48 < prodN l.globalExt), 0x34),
    ((l.fill == 1 && eight && decide (256 ≤ l.fillcode)) || l.shard.any (fun d => d.1 == 2 && d.2.2 == 0), 0x0B)]

/-- TENSOR record (R163, Table 04-6). -/
def tensorCode (im r : List Byte) : Option Nat :=
  let t := tensorOf r
  let nl := secCount im 0x0202
  let nm := secCount im 0x0207
  let int := t.format == 4 || t.format == 5
  firstOf [
    (decide (8 ≤ t.format), 0x0A),
    (t.kind == 7, 0x0A),
    (t.round == 3, 0x0A),
    (t.ret == 3, 0x0A),
    (t.ring == 0, 0x0B),
    (t.hold == 0, 0x0B),
    (badRef nl t.layout, 0x0C),
    (badOpt nl t.spill, 0x0C),
    (decide (64 < t.wides), 0x35),
    (t.format == 7 && decide (2 ≤ t.sideSpace), 0x0A),
    (badOpt nm t.frozen, 0x0C),
    (badOpt nm t.wgMask, 0x0C),
    (outFmt t.format && t.wides != 0, 0x37),
    (int && t.zpLayout == none32, 0x38),
    (t.format == 7 && t.sideBase == none48, 0x39),
    (t.kind != 0 && t.ring != 1, 0x0B),
    (t.wides != 0 && decide (secCount im 0x0206 < t.wideFirst + t.wides), 0x0C),
    (t.wides != 0 && badRef nl t.wideLayout, 0x0C),
    (int && badRef nl t.zpLayout, 0x0C)]

/-- USE record (Table 06-9). -/
def useCode (im r : List Byte) : Option Nat :=
  firstOf [
    (badRef (secCount im 0x0203) (u32 r 0), 0x0C),
    (bit (u32 r 4) 0 && badRef (secCount im 0x0202) (u32 r 8), 0x0C)]

/-- LAYER record (R165). -/
def State.layerCode (s : State) (pt : Nat) (im r : List Byte) : Option Nat :=
  let l := layerOf r
  let nu := secCount im 0x0204
  let nt := secCount im 0x0203
  let own := ((s.ptRes pt).map (·.roles)).getD 0
  firstOf [
    (decide (5 ≤ l.shape), 0x0A),
    (l.roles == 0, 0x0B),
    (badRef nu l.useX, 0x0C),
    (badRef nu l.useW, 0x0C),
    (badRef nt l.outY, 0x0C),
    (badOpt nt l.outDX, 0x0C),
    (badOpt nt l.outDW, 0x0C),
    (badOpt (secCount im 0x0209) l.casc, 0x0C),
    (badOpt (secCount im 0x0208) l.jet, 0x0C),
    (l.roles &&& field own (16 * l.die + 15) (16 * l.die) != l.roles, 0x24),
    (l.outDX != none32 && badRef nu l.useWT, 0x0C),
    ((l.outDX != none32 || l.outDW != none32) && badRef nu l.useG, 0x0C)]

/-- MASK record (R166). -/
def State.maskCode (s : State) (pt : Nat) (im r : List Byte) : Option Nat :=
  let sp := field (u16 r 0x0E) 3 0
  firstOf [
    (badRef (secCount im 0x0203) (u32 r 0), 0x0C),
    (field (u32 r 4) 2 1 == 3, 0x0A),
    (decide (2 ≤ sp), 0x0A),
    (!s.inSpace pt sp (u48 r 8) (cdiv (u32 r 0x10) 8), 0x41)]

/-- Whether an operand code is defined (Table 08-8). -/
def jCodeOk (c : Nat) : Bool := decide (c < 0x16) || decide (0x18 ≤ c ∧ c ≤ 0x1B) || decide (0x20 ≤ c ∧ c ≤ 0x22)

/-- Whether an instruction word is well formed (R218, first row of Table 08-9). -/
def jWordOk (w : Nat) : Bool :=
  let op := jOp w
  (jReads w).all jCodeOk &&
    (match op with
    | 0 => field w 26 0 == 0
    | 1 | 2 | 3 | 4 => field w 11 0 == 0
    | 5 | 6 | 7 => field w 17 0 == 0
    | 8 => field w 5 0 == 0
    | 9 => field w 17 6 == 0
    | 0x0A => !bit w 26 && field w 6 0 == 0 && !(field w 17 16 == 2 && bit w 15)
    | 0x0B => field w 9 0 == 0
    | _ => false)

/-- Codes not defined within a well-formed word: RKIND 3, TARGET above 2. -/
def jReserved (w : Nat) : Bool := (jOp w == 0x0A && field w 17 16 == 3) || (jOp w == 0x0B && decide (2 < jDst w))

/-- Whether a program breaks a row of Table 08-9 that its record alone shows (R228). -/
def progBad (r : List Byte) : Bool :=
  let ws := progWords r
  let ix := ws.zipIdx
  let l := lastReduce ws
  let reds := ix.filter fun p => jOp p.1 == 0x0A
  let slots := reds.map fun p => field p.1 25 24
  let stores := ix.filter fun p => jOp p.1 == 0x0B
  let target := fun (t : Nat) => u32 r (4 + 4 * t)
  ix.any (fun p => !jWordOk p.1) ||
    ix.any (fun p => (jReads p.1).any fun c => decide (c < 8) && !((List.range p.2).any fun j => jWrites (nth ws j 0) == some c)) ||
    ix.any (fun p => (jReads p.1).any fun c => decide (0x18 ≤ c ∧ c ≤ 0x1B) &&
      (!slots.contains (c - 0x18) || (l.map fun x => decide (p.2 ≤ x)).getD false)) ||
    decide (slots.eraseDups.length < slots.length) ||
    stores.any (fun p => (l.map fun x => decide (p.2 < x)).getD false) ||
    decide (((stores.map fun p => jDst p.1).eraseDups).length < stores.length) ||
    stores.any (fun p => target (jDst p.1) == none32) ||
    ix.any (fun p => (jReads p.1).any fun c =>
      (c == 0x11 && u32 r 8 == none32) || (c == 0x12 && u32 r 12 == none32) ||
        (c == 0x13 && (u32 r 0x10 == none32 || u48 r 0x18 == none48)))

/-- JETPROG record (R167, R213, R228). -/
def jetCode (im r : List Byte) : Option Nat :=
  let nt := secCount im 0x0203
  let n := field (u32 r 0) 5 0
  firstOf [
    (n == 0 || decide (32 < n), 0x0B),
    (badRef nt (u32 r 4), 0x0C),
    (badOpt nt (u32 r 8), 0x0C),
    (badOpt nt (u32 r 12), 0x0C),
    (badOpt nt (u32 r 0x10), 0x0C),
    ((progWords r).any jReserved, 0x0A),
    (progBad r, 0x2C)]

/-- CASCADE record: what Table 10-4 asks of one record, and its references (R259, R261). END uses no other field. -/
def State.cascadeCode (s : State) (pt : Nat) (im r : List Byte) : Option Nat :=
  let c := cascOf r
  let nt := secCount im 0x0203
  if c.opc = 0 then (if c.resv = 0 then none else some 0x2D)
  else firstOf [
    (decide (5 ≤ c.opc) || c.resv != 0 || decide (secCount im 0x020A ≤ c.group), 0x2D),
    (badOpt nt c.src, 0x0C),
    (badRef nt c.dst, 0x0C),
    (c.when_ == 0 && ((c.opc != 1 && c.opc != 3) || c.src != none32), 0x2D),
    (c.opc == 4 && (c.aux % 8 != 0 || !s.inSpace pt 0 c.aux 8), 0x2D),
    (c.when_ != 0 && c.src == none32, 0x0C),
    (c.opc != 4 && c.aux != 0, 0x0B)]

/-- GROUP record (R167, R254). -/
def State.groupCode (s : State) (pt : Nat) (r : List Byte) : Option Nat :=
  let g := groupOf r
  firstOf [
    (!bit g.levels 0, 0x0B),
    (decide (1536 < g.rslots), 0x0B),
    (!s.inSpace pt 1 g.stageBase g.stageLen, 0x41),
    (!s.inSpace pt 1 g.pipeBase g.pipeLen, 0x41)]

/-- Phase 4 code of a record. -/
def State.recordCode (s : State) (im : List Byte) (t i : Nat) : Option Nat :=
  let r := recOf im t i
  let pt := field (u8 im 0x0C) 3 0
  if t = 0x0101 then s.deviceCode r
  else if t = 0x0102 then s.partitionCode i r
  else if t = 0x0103 then recipeCode r
  else if t = 0x0104 then routeCode r
  else if t = 0x0201 then s.jobCode im r
  else if t = 0x0202 then s.layoutCode pt r
  else if t = 0x0203 then tensorCode im r
  else if t = 0x0204 then useCode im r
  else if t = 0x0205 then s.layerCode pt im r
  else if t = 0x0207 then s.maskCode pt im r
  else if t = 0x0208 then jetCode im r
  else if t = 0x0209 then s.cascadeCode pt im r
  else if t = 0x020A then s.groupCode pt r
  else if t = 0x020B then (if badRef (secCount im 0x0205) (u32 r 4) then some 0x0C else none)
  else none

/-- Section types of Table 06-2 in TYPE order. -/
def secTypes : List Nat :=
  [0x0101, 0x0102, 0x0103, 0x0104, 0x0201, 0x0202, 0x0203, 0x0204, 0x0205, 0x0206, 0x0207, 0x0208, 0x0209, 0x020A, 0x020B]

/-- Phase 4: the first failing record (R170). -/
def State.phase4 (s : State) (im : List Byte) : Option Finding :=
  secTypes.findSome? fun t => (List.range (secCount im t)).findSome? fun i => (s.recordCode im t i).map fun c => (c, t, i)

/-! ### Phase 5: whole-image checks (R491) -/

/-- Records of a section that fail a test, as findings. -/
def hits (code t n : Nat) (p : Nat → Bool) : List Finding := ((List.range n).filter p).map fun i => (code, t, i)

/-- Positions of a list whose value appeared before. -/
def repeats (l : List Nat) : Nat → Bool := fun i => (l.take i).contains (nth l i 0)

/-- Positions at which a running sum stands above a limit: a summed budget is reported at the record that takes it over (DESIGN CHOICE,
entry 76). -/
def overSum (l : List Nat) (limit : Nat) : Nat → Bool := fun i => decide (limit < sumN (l.take (i + 1)))

/-- Phase 5 of a PLAN (R158, R160). -/
def State.planFindings (s : State) (im : List Byte) : List Finding :=
  let rs := (recsOf im 0x0102).map ptResOf
  let pts := (recsOf im 0x0102).map fun r => field (u8 r 0) 3 0
  let n := rs.length
  let dev := recOf im 0x0101 0
  let cap := if u16 dev 4 = 0 then s.licenceCap else u16 dev 4
  let tables := (recsOf im 0x0103).map fun r => field (u32 r 0) 4 0
  let shared := fun (f : PtRes → Nat) (i : Nat) =>
    (rs.take i).any fun x => f x &&& f (nth rs i default) != 0
  let r := fun (i : Nat) => nth rs i default
  hits 0x0C 0x0102 n (fun i => (bitsOf 32 (r i).recipes).any fun t => !tables.contains t) ++
  hits 0x12 0x0102 n (fun i => shared PtRes.roles i || shared PtRes.pools i || shared PtRes.hbm i || shared PtRes.ports i) ++
  hits 0x13 0x0102 n (fun i => repeats pts i || repeats (rs.map (·.tag)) i) ++
  hits 0x14 0x0102 n (overSum (rs.map (·.rslots)) 1536) ++
  hits 0x15 0x0102 n (fun i => decide (cap < (r i).cap)) ++
  hits 0x16 0x0102 n (fun i => (List.range 24).any fun p => bit (r i).ports (2 * p + 1) && !bit (u32 dev 0) p) ++
  hits 0x18 0x0103 tables.length (repeats tables)

/-- Supported operand pairings (Table 02-3). -/
def pairOk (a c : Nat) : Bool :=
  (outFmt a && outFmt c) || (quantFmt a && decide (c < 2)) || (quantFmt c && decide (a < 2))

/-- Tensors a program stores. -/
def storedTargets (r : List Byte) : List Nat :=
  ((progWords r).filter fun w => jOp w == 0x0B).map fun w => u32 r (4 + 4 * jDst w)

/-- Tensors reachable from a tensor along layers from USE_X to OUT_Y. -/
def reachFrom (edges : List (Nat × Nat)) : Nat → List Nat → List Nat
  | 0, acc => acc
  | k + 1, acc =>
    let new := (edges.filter fun e => acc.contains e.1 && !acc.contains e.2).map (·.2)
    if new.isEmpty then acc else reachFrom edges k (acc ++ new.eraseDups)

/-- Byte range of a weight region (R168). -/
def weightRegion (im : List Byte) (t : Nat) : Nat × Int × Int :=
  let T := bedTensor im t
  let l := bedLayout im T.layout
  (l.space, (l.base : Int) + l.span.1, (l.base : Int) + l.span.2 + ((T.ring - 1) * T.stride : Nat))

/-- Span of one slot of a tensor: that of its LAYOUT, and for an activation or residual stream at an 8-bit rung that of its
SPILL_LAYOUT where it is longer (R168, R189). -/
def slotSpan (im : List Byte) (t : Nat) : Int :=
  let T := bedTensor im t
  let l := bedLayout im T.layout
  let a := l.span.2 - l.span.1
  if (T.kind = 1 ∨ T.kind = 6) ∧ T.spill ≠ none32 ∧ l.format < 2 then
    let p := bedLayout im T.spill
    if a < p.span.2 - p.span.1 then p.span.2 - p.span.1 else a
  else a

/-- Ring of a moment tensor: that of the weight a JETPROG names it with (R193); 1 where none does. -/
def momentRing (im : List Byte) (t : Nat) : Nat :=
  (List.range (secCount im 0x0208)).foldl (fun m j =>
    let p := recOf im 0x0208 j
    if (u32 p 8 == t || u32 p 0xC == t) && u32 p 4 != none32 then max m (bedTensor im (u32 p 4)).ring else m) 1

/-- Whether every unit of a mask is set in its bitmap. -/
def maskFull (m : List Byte × Nat) : Bool := (List.range m.2).all fun u => bit (u8 m.1 (u / 8)) (u % 8)

/-- Bitmap of a MASK record as memory holds it now. -/
def State.maskBytes (s : State) (pt : Nat) (r : List Byte) : List Byte :=
  s.readSpace pt (field (u16 r 0x0E) 3 0) (u48 r 8) (cdiv (u32 r 0x10) 8)

/-- Whether a weight's frozen mask covers every element (A6). -/
def State.frozenWhole (s : State) (pt : Nat) (im : List Byte) (T : Tensor) : Bool :=
  T.frozen != none32 && (let r := recOf im 0x0207 T.frozen; maskFull (s.maskBytes pt r, u32 r 0x10))

/-- Same RANK, extents and sharding of two layouts (R164, R228). -/
def sameShape (a c : Layout) : Bool :=
  a.rank == c.rank && a.extent == c.extent && a.globalExt == c.globalExt && a.shard == c.shard

/-- Whether a program breaks a row of Table 08-9 that reads other records. -/
def progBad5 (im r : List Byte) : Bool :=
  let ten := fun (i : Nat) => bedTensor im i
  let lay := fun (i : Nat) => bedLayout im (bedTensor im i).layout
  let w := u32 r 4; let m1 := u32 r 8; let m2 := u32 r 12; let g := u32 r 0x10
  let moment := fun (t : Nat) =>
    let T := ten t; let l := lay t
    let last := l.rank - 1
    T.format == 0 && T.fine && l.bext == (List.range l.rank).map (fun d => if d = last then 32 else 1) &&
      nth l.extent last 0 % 32 == 0
  let ws := progWords r
  let stores := ws.zipIdx.filter fun p => jOp p.1 == 0x0B
  let onT := fun (c i : Nat) => decide (0x18 ≤ c ∧ c ≤ 0x1B) ||
    (decide (c < 8) && (depends ws 32 i c).any fun j => (jReads (nth ws j 0)).any fun o => decide (0x18 ≤ o ∧ o ≤ 0x1B))
  (ten w).kind != 0 || (m1 != none32 && (ten m1).kind != 4) || (m2 != none32 && (ten m2).kind != 5) ||
    (g != none32 && (ten g).kind != 3) ||
    [m1, m2, g].any (fun t => t != none32 && !sameShape (lay w) (lay t)) ||
    [m1, m2].any (fun t => t != none32 && !moment t) ||
    stores.any (fun p => jDst p.1 != 0 &&
      !(field p.1 11 10 == 3 || (field p.1 11 10 == 0 && (ten (u32 r (4 + 4 * jDst p.1))).round == 2))) ||
    (jobStrict im && stores.any fun p => onT (jB p.1) p.2)

/-- Number of dimensions of a layout sharded over an axis. -/
def shardedOver (l : Layout) (axis : Nat) : Nat := (l.shard.filter fun d => d.1 != 0 && d.2.1 == axis).length

/-- Whether a CASCADE record breaks a row of Table 10-4 that reads other records (R261). -/
def cascBad5 (im : List Byte) (i : Nat) : Bool :=
  let c := bedCasc im i
  let mine := (programs im).filter fun p => (progRecs im 65 p.1).contains i
  let noEnd := (programs im).any fun p => p.1 == i && ((progRecs im 64 p.1).length == 64 || decide (secCount im 0x0209 ≤ i + (progRecs im 64 p.1).length))
  let lay := fun (t : Nat) => bedLayout im (bedTensor im t).layout
  let d := lay c.dst
  let sr := lay c.src
  let g := bedGroup im c.group
  let axis := g.axis
  let one := (sr.shard.zipIdx.find? fun x => x.1.1 != 0 && x.1.2.1 == axis).map (·.2)
  let replicated := match one with
    | some k => sr.shard.zipIdx.map (fun x => if x.2 = k then 0 else x.1.1) == d.shard.map (·.1) &&
        (sr.shard.zip d.shard).zipIdx.all (fun x => x.2 == k || x.1.1 == x.1.2) && sr.globalExt == d.globalExt && sr.rank == d.rank && sr.bext == d.bext
    | none => false
  let biggest := ((List.range (secCount im 0x0209)).filterMap fun j =>
    let x := bedCasc im j
    if (x.opc = 1 ∨ x.opc = 3) ∧ x.group = c.group then some (prodN (lay x.dst).extent) else none).foldl max 0
  c.opc != 0 &&
    (noEnd ||
      (c.when_ == 0 && mine.any fun p => p.1 != i || p.2.isNone) ||
      (c.when_ == 1 && mine.any fun p => p.2.isNone) ||
      (c.opc == 1 && shardedOver d axis != 1) || (c.opc == 3 && shardedOver d axis != 0) ||
      (c.opc == 2 && (shardedOver sr axis != 1 || !replicated)) ||
      (c.src != none32 && sr.globalExt != d.globalExt) ||
      ((c.opc == 2 || c.opc == 4) && (recordFmt sr.format || recordFmt d.format || sr.format != d.format || sr.bsize != d.bsize)) ||
      ((c.opc == 1 || c.opc == 3) && decide (g.stageLen < 17 * (1 + jobAhead im) * biggest)))

/-- Bytes a layout reaches. -/
def Layout.reach (l : Layout) : Nat := (l.span.2 - l.span.1).toNat + (if l.scaled then (l.scaleSpan.2 - l.scaleSpan.1).toNat else 0)

/-- The tensor a layer's OUT_DX must name (R185): the one that the USE_G of the layer producing its USE_X reads, else none. -/
def gradientOf (im : List Byte) (ls : List Layer) (x : Nat) : Nat :=
  match ls.find? fun l => l.outY == x with
  | some p => if p.useG < secCount im 0x0204 then useTensor im p.useG else none32
  | none => none32

/-- Bytes of [a, z) of a partition's pool space that lie in pools of a die (R131). -/
def State.poolBytes (s : State) (pt die a z : Nat) : Nat :=
  sumN ((s.spaceUnits pt 0).zipIdx.map fun x =>
    if x.1 / 64 = die then min z ((x.2 + 1) * 2 ^ 23) - max a (x.2 * 2 ^ 23) else 0)

/-- Bytes that a layout reaches in pools of a die, its scale plane included; 0 where it lies in HBM space (R139). -/
def State.poolReach (s : State) (pt die : Nat) (l : Layout) : Nat :=
  if l.space ≠ 0 then 0
  else
    s.poolBytes pt die ((l.base : Int) + l.span.1).toNat ((l.base : Int) + l.span.2).toNat +
      (if l.scaled then s.poolBytes pt die ((l.scaleBase : Int) + l.scaleSpan.1).toNat ((l.scaleBase : Int) + l.scaleSpan.2).toNat
        else 0)

/-- Whether pool space is exceeded on a die (X3): the activations of the last L layers are their USE_X tensors (R190). -/
def State.poolOver (s : State) (pt : Nat) (im : List Byte) (die : Nat) : Bool :=
  let last := residentIds im
  let acts := (((bedLayers im).filter fun l => last.contains l.id).map fun l => useTensor im l.useX).eraseDups
  let act := sumN (acts.map fun t => s.poolReach pt die (bedLayout im (bedTensor im t).layout))
  let uses := (((List.range (secCount im 0x0204)).filter fun u => usePath im u == 1).map fun u => useCopy im u).eraseDups
  let copies := sumN (uses.map fun y => s.poolReach pt die (bedLayout im y))
  let pools := ((s.spaceUnits pt 0).filter fun u => u / 64 == die).length
  decide (pools * 2 ^ 23 < (1 + jobAhead im) * act + copies)

/-- Tensors that a LAYER record names, for the records that share its LAYER_ID (R165). -/
def layerTensors (im : List Byte) (l : Layer) : List Nat :=
  let u := fun (x : Nat) => if x = none32 then none32 else useTensor im x
  [u l.useX, u l.useW, if l.outDX = none32 then none32 else u l.useWT,
    if l.outDX = none32 ∧ l.outDW = none32 then none32 else u l.useG, l.outY, l.outDX, l.outDW]

/-- Weight tensors that a LAYER record names (R165, R168). -/
def layerWeights (im : List Byte) (l : Layer) : List Nat :=
  useTensor im l.useW :: (if l.outDX = none32 then [] else [useTensor im l.useWT])

/-- Phase 5 of a BED. SPACE_RANGE of a sign plane (R214) is tested here, as it reads two records, although R491 lists the code under phase 4
(DEDUCED, entry 77). -/
def State.bedFindings (s : State) (im : List Byte) : List Finding :=
  let pt := field (u8 im 0x0C) 3 0
  let ts := bedTensors im
  let ls := bedLayers im
  let gs := bedGroups im
  let nT := ts.length
  let nL := ls.length
  let nG := gs.length
  let nJ := secCount im 0x0208
  let nM := secCount im 0x0207
  let nC := secCount im 0x0209
  let nY := secCount im 0x0202
  let T := fun (i : Nat) => nth ts i default
  let L := fun (i : Nat) => nth ls i default
  let lay := fun (i : Nat) => bedLayout im (T i).layout
  let fmt := fun (i : Nat) => (T i).format
  let r := jobAhead im
  let users := fun (y : Nat) => ts.filter fun x => x.layout == y
  let namers := fun (y : Nat) => ts.filter fun x => x.layout == y || x.spill == y
  let outs := (ls.flatMap fun l => [l.outY, l.outDX, l.outDW]) ++ ((List.range nJ).flatMap fun j => storedTargets (recOf im 0x0208 j))
  let updated := ((ls.filter fun l => l.jet != none32).map fun l => u32 (recOf im 0x0208 l.jet) 4).filter (· != none32)
  let maskOk := fun (i m k : Nat) => m == none32 ||
    (let x := recOf im 0x0207 m; u32 x 0 == i && field (u32 x 4) 0 0 == k)
  let edges := ls.map fun l => (useTensor im l.useX, l.outY)
  let weights := (List.range nT).filter fun i => (T i).kind == 0
  let resident := residentIds im
  -- VALUE_RANGE (R135, R165, R166, R185, R190, R254)
  hits 0x0B 0x0203 nT (fun i =>
    (lay i).format != fmt i ||
    (mbKind (T i).kind && !((nth (lay i).shard 0 (1, 0, 0)).1 == 0 && nth (lay i).globalExt 0 0 == jobMbs im)) ||
    !maskOk i (T i).frozen 1 || !maskOk i (T i).wgMask 0) ++
  hits 0x0B 0x0205 nL (fun i => (ls.take i).any fun l => l.id == (L i).id &&
    (layerTensors im l != layerTensors im (L i) || l.die == (L i).die)) ++
  hits 0x0B 0x0205 nL (fun i =>
    (L i).outDX != gradientOf im ls (useTensor im (L i).useX) ||
    (lay (useTensor im (L i).useX)).space != (if resident.contains (L i).id then 0 else 1)) ++
  hits 0x0B 0x020A nG (repeats (gs.map (·.gid))) ++
  -- GRAPH_CYCLE
  hits 0x25 0x0205 nL (fun i => (reachFrom edges (nL + 1) [(L i).outY]).contains (useTensor im (L i).useX)) ++
  -- TIED_REGION
  hits 0x26 0x0203 nT (fun i => weights.contains i &&
    weights.any fun j => decide (j < i) && rangesMeet (weightRegion im i) (weightRegion im j)) ++
  hits 0x26 0x0205 nL (fun i => (ls.take i).any fun l => l.id != (L i).id &&
    (layerWeights im l).any fun t => (layerWeights im (L i)).contains t) ++
  -- RING_DEPTH (X1, A6), RING_STRIDE (R168, R189, R193)
  hits 0x27 0x0203 nT (fun i => updated.contains i && decide ((T i).ring < r + 1) && !s.frozenWhole pt im (T i)) ++
  hits 0x28 0x0203 nT (fun i =>
    let ring := if (T i).kind = 0 then (T i).ring else if (T i).kind = 1 ∨ (T i).kind = 6 then 1 + r else momentRing im i
    decide (1 < ring) && decide (((T i).stride : Int) < slotSpan im i)) ++
  -- POOL_CAPACITY (X3)
  hits 0x29 0x0201 1 (fun _ => (List.range 4).any fun d => s.poolOver pt im d) ++
  -- SPILL_LAYOUT (R164)
  hits 0x2A 0x0203 nT (fun i => outs.contains i && decide (fmt i < 2) &&
    ((T i).spill == none32 || (let p := bedLayout im (T i).spill; !sameShape p (lay i) || !(p.format == 2 || p.format == 3)))) ++
  -- SLOT_BUDGET (A4)
  hits 0x2B 0x020A nG (overSum (gs.map fun g => g.rslots * (1 + r)) (((s.ptRes pt).map (·.rslots)).getD 0)) ++
  -- PROGRAM_INVALID, CASCADE_INVALID
  hits 0x2C 0x0208 nJ (fun j => progBad5 im (recOf im 0x0208 j)) ++
  hits 0x2D 0x0209 nC (cascBad5 im) ++
  -- MASK_GRAIN (R166)
  hits 0x2E 0x0207 nM (fun m =>
    let x := recOf im 0x0207 m
    let g := field (u32 x 4) 2 1
    let l := lay (u32 x 0)
    (g == 2 && field (u32 x 4) 0 0 == 0) || (g == 1 && decide (l.rank < 2)) || u32 x 0x10 != maskUnits l g) ++
  -- PAIRING_UNSUPPORTED (R59, R165)
  hits 0x30 0x0205 nL (fun i =>
    let l := L i
    let f := fun (u : Nat) => fmt (useTensor im u)
    !pairOk (f l.useX) (f l.useW) || (l.outDX != none32 && !pairOk (f l.useG) (f l.useWT)) ||
      (l.outDW != none32 && !pairOk (f l.useX) (f l.useG))) ++
  -- FORMAT_NOT_OUTPUT (R82)
  hits 0x31 0x0204 (secCount im 0x0204) (fun u => usePath im u == 1 &&
    (let d := (bedLayout im (useCopy im u)).format; quantFmt d && d != fmt (useTensor im u))) ++
  hits 0x31 0x0205 nL (fun i => [(L i).outY, (L i).outDX, (L i).outDW].any fun t => t != none32 && quantFmt (fmt t)) ++
  hits 0x31 0x0208 nJ (fun j => (storedTargets (recOf im 0x0208 j)).any fun t => t != none32 && quantFmt (fmt t)) ++
  hits 0x31 0x0209 nC (fun i => let c := bedCasc im i; (c.opc == 1 || c.opc == 3) && quantFmt (fmt c.dst)) ++
  -- RECIPE_LAG (R89)
  hits 0x32 0x0203 nT (fun i =>
    let e := recipeEntry (s.plan.getD []) (jobRecipe im) (T i).kind
    bit e 3 && decide (field e 23 22 ≤ r)) ++
  -- TAG_DUPLICATE (R97)
  hits 0x33 0x0203 nT (repeats (ts.map (·.tag))) ++
  -- WIDE_ORDER (Table 04-6)
  hits 0x36 0x0203 nT (fun i =>
    let chs := (List.range (T i).wides).map fun k => u32 (recOf im 0x0206 ((T i).wideFirst + k)) 0
    (chs.zip (chs.drop 1)).any (fun p => decide (p.2 ≤ p.1)) ||
      chs.any fun c => decide (nth (lay i).extent (T i).chDim 0 ≤ c)) ++
  -- conditions of Table 05-7 that read TENSOR or GROUP records
  hits 0x3C 0x0202 nY (fun y => (namers y).any (·.fine) && !(bedLayout im y).blockCond) ++
  hits 0x3E 0x0202 nY (fun y => (namers y).any (fun x => x.fine && !recordFmt x.format) && !(bedLayout im y).scaled) ++
  hits 0x40 0x0202 nY (fun y => (users y).any (fun x => quantFmt x.format) && (bedLayout im y).coll == 1) ++
  -- the sign planes of R214
  hits 0x41 0x0208 nJ (fun j =>
    let x := recOf im 0x0208 j
    u32 x 0x10 != none32 && u48 x 0x18 != none48 && !s.inSpace pt 0 (u48 x 0x18) (cdiv (prodN (lay (u32 x 0x10)).extent) 4)) ++
  hits 0x42 0x0202 nY (fun y =>
    let ax := ((bedLayout im y).shard.filter fun d => d.1 != 0).map fun d => d.2.1
    decide (ax.eraseDups.length < ax.length) || ax.any fun a => !gs.any fun g => g.axis == a)

/-- Order of findings: lowest code, then section type, then record (R170). -/
def Finding.lt (a c : Finding) : Bool :=
  decide (a.1 < c.1) || (a.1 == c.1 && (decide (a.2.1 < c.2.1) || (a.2.1 == c.2.1 && decide (a.2.2 < c.2.2))))

/-- Least finding. -/
def leastFinding : List Finding → Option Finding
  | [] => none
  | f :: t => match leastFinding t with | none => some f | some g => some (if Finding.lt g f then g else f)

/-! ### Phases 1 to 5 -/

/-- First refusal of phases 1 to 5 as (phase, code, ERRSEC, ERRREC) (R170, R180). -/
def State.validate (s : State) (im : List Byte) (len : Nat) (planOnly : Bool) : Option (Nat × Nat × Nat × Nat) :=
  match s.headerCode im len planOnly with
  | some c => some (1, c, 0xFF, none32)
  | none => match dirCode im with
    | some (c, r) => some (2, c, 0xFF, r)
    | none =>
      if sha3 (im.take (u32 im 8 - 64)) ≠ slice im (u32 im 8 - 64) 64 then some (3, 0x09, 0xFF, none32)
      else
        let place := fun (ph : Nat) (f : Finding) => (ph, f.1, (secIx im f.2.1).getD 0xFF, f.2.2)
        match s.phase4 im with
        | some f => some (place 4 f)
        | none => (leastFinding (if u8 im 4 = 1 then s.planFindings im else s.bedFindings im)).map (place 5)

end Sys2Proof.Machine
end

