-- ==== Sys2Proof/Machine/WeirPlan.lean ====
section
/-! DEFINITION. WeirPlan.lean: calendars, demand profiles and the placing of stages (R235, R239 to R243, R283). -/
namespace Sys2Proof.Machine

/-! ### Resources (Table 09-4b) -/

/-- Resource numbers: role, Sluice engine, sequencer, HBM channel, port half, reduction slots, host DMA in and out. -/
def resRole (die role : Nat) : Nat := 16 * die + role
def resEngine (e : Nat) : Nat := 64 + e
def resSeq (n : Nat) : Nat := 72 + n % 8
def resHbm (c : Nat) : Nat := 80 + c
def resSlots : Nat := 512
def resDma (out : Bool) : Nat := if out then 514 else 513

/-- Bytes of host DMA that one quantum takes in each direction (R322, Table 09-4b). -/
def State.dmaCap (s : State) : Nat := if s.rill.width = 4 then 50000 else 100000

/-- Capacity of a resource in one quantum. -/
def State.capacity (s : State) (r : Nat) : Nat :=
  if r < 80 then 1
  else if r < 464 then 76800
  else if r < 512 then s.portCap ((r - 464) / 2) (r % 2)
  else if r = 512 then 1536
  else s.dmaCap

/-- Amount reserved of a resource in a quantum. -/
def usedAt (l : List Resv) (r q : Nat) : Nat :=
  sumN ((l.filter fun x => x.res == r && decide (x.from_ ≤ q ∧ q < x.to_)).map (·.amount))

/-- Planning frequencies of a die in MHz (R241): F and A domain. -/
def State.fMhz (s : State) (die : Nat) : Nat := max 1 (field (s.reg (Reg.weirPlanfreq die)) 15 0)
def State.aMhz (s : State) (die : Nat) : Nat := max 1 (field (s.reg (Reg.weirPlanfreq die)) 31 16)

/-! ### Placing one stage (R239, R242) -/

/-- Horizon of the calendars: the last quantum that may be reserved. -/
def State.horizon (s : State) : Nat := s.quantum + 2 ^ 24

/-- Shared resource class: engines of a die, sequencers, host DMA by direction; its resources, capacity per quantum and the share of a
partition as (numerator, denominator) (R242). -/
def State.shareOf (s : State) (pt r : Nat) : Option (List Nat × Nat × Nat × Nat) :=
  let roles := ((s.ptRes pt).map (·.roles)).getD 0
  let total := max 1 (bitsOf 64 roles).length
  if 64 ≤ r ∧ r < 72 then
    let d := (r - 64) / 2
    some ([64 + 2 * d, 65 + 2 * d], 2, max 1 (bitsOf 16 (field roles (16 * d + 15) (16 * d))).length, 16)
  else if 72 ≤ r ∧ r < 80 then some ((List.range 8).map (· + 72), 8, total, 64)
  else if r = 513 ∨ r = 514 then some ([r], s.dmaCap, total, 64)
  else none

/-- Whether a reservation would raise the partition above its share in some window of 1,000 quanta from 1,000 quanta on (R242). The sum
over a window is greatest where the window begins with a reservation or ends with one. -/
def State.overShare (s : State) (l : List Resv) (pt res amount q dur : Nat) : Bool :=
  match s.shareOf pt res with
  | none => false
  | some (rs, cap, num, den) =>
    let from1 := s.quantum + 1000
    let mine := (⟨pt, 0, res, q, q + dur, amount⟩ : Resv) :: l.filter fun x => x.pt == pt && rs.contains x.res
    let marks := (from1 :: mine.flatMap fun x => [x.from_, x.to_ - 1000]).filter fun w => decide (from1 ≤ w ∧ q < w + 1000 ∧ w < q + dur)
    marks.any fun w =>
      let sum := sumN (mine.map fun x => x.amount * (min x.to_ (w + 1000) - max x.from_ w))
      decide (1000 * cap * num < sum * den)

/-- Whether a reservation list leaves no room for an amount of a resource at a quantum. -/
def State.fullAt (s : State) (l : List Resv) (r : Nat × Nat) (q : Nat) : Bool := decide (s.capacity r.1 < usedAt l r.1 q + r.2)

/-- Where a stage that starts at quantum q fails to fit: the next quantum to try. from_ is the quantum from which its group already holds
the stage's reduction slots; no later start helps where they do not fit before q. -/
def State.blocked (s : State) (l : List Resv) (pt : Nat) (st : Stage) (from_ q : Nat) : Option Nat :=
  let marks := fun (lo hi : Nat) => lo :: (l.map (·.from_)).filter fun p => decide (lo < p ∧ p < hi)
  let full := (marks q (q + st.dur)).findSome? fun p => st.res.findSome? fun r =>
    if !s.fullAt l r p then none
    else some (((l.filter fun x => x.res == r.1 && decide (x.from_ ≤ p ∧ p < x.to_)).map (·.to_)).foldl min (s.horizon + 1))
  let slots := match st.slots with
    | some (_, n) =>
      if (marks (min from_ q) q).any (s.fullAt l (resSlots, n)) ∧ from_ < q then some (s.horizon + 1)
      else if (marks q (q + st.dur)).any (s.fullAt l (resSlots, n)) then some (q + 1) else none
    | none => none
  match full.orElse fun _ => slots with
  | some n => some (max n (q + 1))
  | none => if st.res.any fun r => s.overShare l pt r.1 r.2 q st.dur then some (q + 1) else none

/-- Earliest quantum at or after q where a stage fits within the horizon. -/
def State.findSlot (s : State) (l : List Resv) (pt : Nat) (st : Stage) (from_ : Nat) : Nat → Nat → Option Nat
  | 0, _ => none
  | k + 1, q =>
    if s.horizon < q + st.dur then none
    else match s.blocked l pt st from_ q with
      | none => some q
      | some n => State.findSlot s l pt st from_ k n

/-- Stages placed so far: reservations, first quanta, quanta after the last, and the spans [from, to) over which groups hold slots. -/
structure Placing where
  resv : List Resv := []
  starts : List Nat := []
  ends : List Nat := []
  holds : List (Nat × Nat × Nat × Nat) := []
deriving DecidableEq, Repr, Inhabited

/-- Reservation of the slots that a group holds over a span. -/
def holdResv (pt admno : Nat) (h : Nat × Nat × Nat × Nat) : Resv := ⟨pt, admno, resSlots, h.2.2.1, h.2.2.2, h.2.1⟩

/-- Place one stage after its predecessors (R239). -/
def State.placeStage (s : State) (pt admno first : Nat) (a : Placing) (x : Stage) : Option Placing :=
  let lo := max x.notBefore ((x.preds.map fun p => nth a.ends p first).foldl max first)
  let g := x.slots.map (·.1)
  let mine := a.holds.find? fun h => some h.1 == g
  let others := (a.holds.filter fun h => some h.1 != g).map (holdResv pt admno)
  (s.findSlot (s.comp.weir.resv ++ a.resv ++ others) pt x ((mine.map (·.2.2.1)).getD (s.horizon + 1)) (2 ^ 24) lo).map fun q =>
    { resv := a.resv ++ x.res.map fun r => ⟨pt, admno, r.1, q, q + x.dur, r.2⟩
      starts := a.starts ++ [q]
      ends := a.ends ++ [q + x.dur]
      holds := match x.slots with
        | some (g, n) =>
          (g, n, min q ((mine.map (·.2.2.1)).getD q), max (q + x.dur) ((mine.map (·.2.2.2)).getD 0)) :: a.holds.filter fun h => h.1 != g
        | none => a.holds }

/-- Place the stages of a profile one at a time, each after its predecessors (R239). None where a stage does not fit within the
horizon. -/
def State.placeStages (s : State) (pt admno first : Nat) (st : List Stage) : Option Placing :=
  (st.foldl (fun (acc : Option Placing) x => acc.bind fun a => s.placeStage pt admno first a x) (some {})).map fun a =>
    { a with resv := a.resv ++ a.holds.map (holdResv pt admno) }

/-- First quantum of a placed profile, and the quantum after its last stage. -/
def Placing.span (a : Placing) (first : Nat) : Nat × Nat :=
  (match a.starts with | [] => first | h :: t => t.foldl min h, a.ends.foldl max first)

/-- First quantum that reads each seed, and for each weight the first and the after-last quantum of the stages that write its next version
(R194, R243). -/
def Placing.seedQ (a : Placing) (st : List Stage) : List (Nat × Nat × Nat) :=
  let l := (st.zip a.starts).flatMap fun x => x.1.seeds.map fun k => (k.1, k.2, x.2)
  ((l.map fun x => (x.1, x.2.1)).eraseDups).map fun k =>
    let qs := (l.filter fun x => x.1 == k.1 && x.2.1 == k.2).map (·.2.2)
    (k.1, k.2, qs.foldl min (qs.headD 0))
def Placing.storeQ (a : Placing) (st : List Stage) : List (Nat × Nat × Nat) :=
  (st.zip (a.starts.zip a.ends)).flatMap fun x => x.1.stores.map fun w => (w, x.2.1, x.2.2)

/-! ### Sluice stages (R147, R240) -/

/-- Channels that a range of HBM space covers. -/
def State.channelsOf (s : State) (pt space a n : Nat) : List Nat :=
  if space ≠ 1 ∨ n = 0 then []
  else (((List.range (n / 2 ^ 31 + 2)).filterMap fun i =>
    let x := min (a + i * 2 ^ 31) (a + n - 1)
    (s.spaceUnits pt 1)[x / 2 ^ 31]?)).eraseDups

/-- Bytes that a stage moves within a range of a space: space, address, length of the range, bytes. -/
structure Demand where
  space : Nat
  addr : Nat
  len : Nat
  bytes : Nat
deriving DecidableEq, Repr, Inhabited

/-- Bytes moved within what a layout reaches. -/
def Layout.demand (l : Layout) (off bytes : Nat) : Demand := ⟨l.space, addrOf l.base off l.span.1, (l.span.2 - l.span.1).toNat, bytes⟩

/-- HBM bytes by channel share; the bytes of a range lie evenly over its channels. -/
def State.hbmBytes (s : State) (pt : Nat) (l : List Demand) : List (Nat × Nat) :=
  let per := l.flatMap fun r =>
    let cs := s.channelsOf pt r.space r.addr r.len
    cs.map fun c => (c, cdiv r.bytes cs.length)
  ((per.map (·.1)).eraseDups).map fun c => (c, sumN ((per.filter fun p => p.1 == c).map (·.2)))

/-- A stage of some quanta on some resources with its HBM demand per quantum, no shorter than the channel shares carry (Table 09-4b). -/
def State.stageOf (s : State) (pt : Nat) (res : List (Nat × Nat)) (quanta : Nat) (l : List Demand) : Stage :=
  let by_ := s.hbmBytes pt l
  let dur := (by_.map fun p => cdiv p.2 76800).foldl max (max 1 quanta)
  { res := res ++ by_.map fun p => (resHbm p.1, cdiv p.2 dur), dur := dur }

/-- A Sluice stage of some F cycles. -/
def State.sluiceStage (s : State) (pt eng cycles : Nat) (l : List Demand) : Stage :=
  s.stageOf pt [(resEngine eng, 1)] (cdiv cycles (s.fMhz (eng / 2))) l

/-- Dimension of a layout whose elements lie nearest together. -/
def Layout.inner (l : Layout) : Option Nat :=
  ((((l.stride.map Int.natAbs).zip l.extent).zipIdx.filter fun d => decide (1 < d.1.2)).foldl (fun (m : Option (Nat × Nat)) d => match m with
    | none => some (d.1.1, d.2)
    | some y => if d.1.1 < y.1 then some (d.1.1, d.2) else some y) none).map (·.2)

/-- Granules that one list entry's block takes at most, its fine codes included. -/
def blockMost (v : View) : Nat :=
  ((List.range (prodN v.lay.blocks)).map fun i =>
    let ixs := ((v.lay.blockTuples ((unRow v.lay.blocks i).map Int.ofNat)).filterMap natTuple)
    granulesOf v ixs + fineGranules v ixs).foldl max 1

/-- F cycles of an operation of Table 05-4, and the bytes it reads and writes (Table 05-6, R240): reads and writes proceed at once, each at
512 bytes per cycle. With a list, every block is fetched in full and none coalesced; under ADD_EXACT every pass reads the whole list. -/
def opCycles (op : Nat) (src dst : View) (count rank : Nat) : Nat × Nat × Nat :=
  let whole := fun (v : View) => granulesOf v (allIx v.used) + fineGranules v (allIx v.used)
  let list := if op = 3 then 0 else cdiv (16 + entrySize rank * count) 64
  let read := if op = 3 then whole src else count * blockMost src
  let write := if op = 5 then count * blockMost dst else whole dst
  let fetch := if op = 3 then cdiv read 8 else cdiv list 8 + count * max 1 (cdiv (blockMost src) 8)
  let passes := passesOf src dst
  let elems := if op = 3 then prodN src.used else count * src.lay.bsize
  let add := dst.lay.coll == 1
  (96 + (if op = 3 then 0 else 32) + (if src.lay.inner = dst.lay.inner then 0 else 128) + (if src.fmt = dst.fmt ∧ !add then 0 else 12) +
    max (passes * fetch) (cdiv write 8) + (if add then 96 * passes + cdiv elems 32 else 0),
   64 * passes * (read + list), 64 * write)

/-! ### Ports of a Cascade step (R270, R283) -/

/-- Ports of the partition that reach members of a group at a level: those that the routing sets toward them name. -/
def State.levelPorts (s : State) (pt : Nat) (members : List Nat) (me level : Nat) : List Nat :=
  let here := nth members me 0
  let mask := (members.filter fun p => p != here && posLevel p here == level).foldl (fun m p => m ||| s.routeSet (s.addrAt p pt)) 0
  (s.ownPorts pt).filter fun p => bit mask p && s.portUp p

/-- Egress of ports: each half of the partition with its bytes per quantum. -/
def State.egress (s : State) (pt : Nat) (ports : List Nat) : List (Nat × Nat) :=
  (ports.flatMap fun p => (s.halfIxs p).filterMap fun h =>
    if s.portOwner p h = some pt then some (resPort p h, s.capacity (resPort p h)) else none).filter fun x => x.2 != 0

/-- A fold, step or unfold of some bytes at a level (Table 10-10): ⌈bytes / reserved egress⌉ + 1 quanta, + 2 at the tray level in the
network. It holds its sequencer and the partition's ports that reach the level. -/
def State.stepStage (s : State) (pt seq : Nat) (members : List Nat) (me level bytes extra : Nat) : Stage :=
  let ports := s.egress pt (s.levelPorts pt members me level)
  { res := (resSeq seq, 1) :: ports, dur := cdiv bytes (sumN (ports.map (·.2))) + extra }

/-! ### Step profile (R240) -/

/-- A stage under a name, after the stages of other names. -/
structure Planned where
  name : Nat × Nat × Nat
  after : List (Nat × Nat × Nat)
  stage : Stage
deriving DecidableEq, Repr, Inhabited

/-- Order in which stages are placed: as listed, but each after its predecessors (R239). -/
def placingOrder (l : List Planned) : Nat → List Planned → List Planned
  | 0, done => done
  | k + 1, done =>
    let left := l.filter fun x => !done.any fun y => y.name == x.name
    let free := left.find? fun x => x.after.all fun n => done.any (fun y => y.name == n) || !l.any fun y => y.name == n
    match free.orElse fun _ => left.head? with
    | some x => placingOrder l k (done ++ [x])
    | none => done

/-- A profile of named stages. -/
def profileFrom (l : List Planned) : List Stage :=
  let o := placingOrder l l.length []
  o.zipIdx.map fun x => { x.1.stage with
    preds := x.1.after.filterMap fun n => (o.findIdx? fun y => y.name == n).bind fun i => if i < x.2 then some i else none }

/-- Contraction slices that may hold a side entry whatever an operand's elements are: every one for Bell-4, those of the wide channels for
the other quantised formats (R122, R123). rows says that the contraction runs over the operand's rows. -/
def View.sideMost (w : View) (rows : Bool) (kt : Nat) : Nat :=
  let last := w.lay.rank - 1
  if w.fmt = 7 then kt
  else if !quantFmt w.fmt ∨ w.ten.wides = 0 then 0
  else if (rows && w.ten.chDim != last) || (!rows && w.ten.chDim == last) then min kt (w.ten.wides * cdiv kt (max 1 (nth w.lay.extent w.ten.chDim 1)))
  else kt

/-- A cycles of one task (Table 02-6): rate 1/4 for 16-bit operands, the last column leaving the converter, and the most side time that its
operands' elements can take (DESIGN CHOICE: entry 12). -/
def State.taskCycles (s : State) (pt : Nat) (b : List Byte) (step : Nat) (t : Task) : Nat :=
  let (a, v) := s.opViews pt b step t.layer t.prod
  let q := if (s.place pt b step t.layer t.prod).quarter then 4 else 1
  let kt := (s.contraction pt b step t.layer t.prod).length
  let n := min kt (a.sideMost (t.prod == 2) kt + v.sideMost (t.prod != 1) kt)
  q * kt + 523 + sideTime (List.replicate n 4)

/-- F cycles of the passes of an update on its Jet units (Table 08-10): statistics with their completion, then verify and apply. -/
def State.updateCycles (s : State) (pt : Nat) (b : List Byte) (step id prog : Nat) : Nat × Nat :=
  let ws := progWords (recOf b 0x0208 prog)
  let jets := max 1 (s.layerJets b id).length
  let vecs := cdiv (cdiv (prodN (s.view pt b (progW b prog) step).used) 256) jets
  let pass := fun (n : Nat) =>
    sumN ((passPcs ws n (jobStrict b)).map fun i => if jOp (nth ws i 0) = 7 then 4 else 1) * vecs + 64 + 6 + 10
  (if (lastReduce ws).isSome then pass 1 + 40 else 0,
   (if (lastReduce ws).isSome then 16 + 8 else 0) + (if (s.part pt).nextPass b prog = 2 then pass 2 else 0) + pass 3)

/-- Quanta of a scalar round over the groups of a partition (Table 10-10): one per fold, step and unfold of each, and one more. -/
def State.roundQuanta (s : State) (pt round ident : Nat) : Nat :=
  let gs := s.roundGroups pt round ident
  max 1 (sumN (gs.map fun g => (reduceStages (s.group g).members.length).length + 1))

/-- First quantum at which what an admitted step promises for a weight is there: its update of the version a step reads. -/
def State.versionQ (s : State) (pt step w : Nat) : Nat :=
  (((s.admsOf pt).filter fun a => dOp a.desc == 1 && dStep a.desc + 1 == step).flatMap fun a =>
    (a.storeQ.filter fun x => x.1 == w).map (·.2.2)).foldl max 0

/-- First quantum at which the slot of the version that a step's update writes is free by the promises already made (R194, R206): the step
that reads its old version has committed, and the snapshots that copy it have ended. -/
def State.slotQ (s : State) (pt : Nat) (b : List Byte) (step w : Nat) : Nat :=
  let old := step + 1 - (s.part pt).ring b w
  (((s.admsOf pt).filter fun x =>
    (dOp x.desc == 1 && dStep x.desc == old && dStep x.desc != step) ||
      (dOp x.desc == 7 && x.version == old && x.listed.any fun t => ringWeight b t == some w)).map fun x => cdiv x.promise 225).foldl max 0

/-- Name of a task's compute stage. -/
def taskName (i : Nat) : Nat × Nat × Nat := (0, i, 2)

/-- Stages of one task: each operand's panel through its Sluice engine, fused or copied (R146), then the array (R240). -/
def State.taskStages (s : State) (pt : Nat) (b : List Byte) (step : Nat) (made : Nat → Nat → List (Nat × Nat × Nat))
    (first : List (Nat × Nat × Nat)) (i : Nat) (t : Task) : List Planned :=
  let L := bedLayer b t.layer
  let fills := (opUses L t.prod).zipIdx.map fun u =>
    let x := useTensor b u.1
    let eng := 2 * L.die + useEngine b u.1
    let T := bedTensor b x
    let st := if usePath b u.1 = 0 ∨ useCopy b u.1 = none32 then
        let (w, ixs) := s.panel pt b step t u.1
        let n := granulesOf w (ixs.filter w.inb) + fineGranules w (ixs.filter w.inb)
        s.sluiceStage pt eng (96 + cdiv n 8 + (if useTranspose b u.1 then 128 else 0)) [w.lay.demand w.off (64 * n)]
      else
        let v := s.view pt b x step
        let d := s.useView pt b u.1 step
        let c := opCycles 3 v d 0 0
        s.sluiceStage pt eng c.1 [v.lay.demand v.off c.2.1, d.lay.demand d.off c.2.2]
    let seed := !produced b x && T.kind != 0
    ({ name := (0, i, u.2), after := made x t.mb
       stage := { st with
         seeds := if seed then [(x, if mbKind T.kind then t.mb else 0xFFFF)] else []
         notBefore := if T.kind = 0 then s.versionQ pt step x else 0 } } : Planned)
  let (rs, cs) := s.tileRange pt b step t
  let o := s.outView pt b step L t.prod
  let st := s.stageOf pt [(resRole L.die (s.taskRole pt b step t), 1)] (cdiv (s.taskCycles pt b step t) (s.aMhz L.die))
    [o.lay.demand o.off (rs.length * cs.length * elemBytes o.fmt)]
  fills ++ [{ name := taskName i, after := first ++ fills.map (·.name), stage := st }]

/-- Bytes that a member sends in each STAGE of a reduction and of a gather of one instruction: a SUM chunk of 256 elements is taken as 4,432
bytes (R283). -/
def CascCtx.sentBytes (k : CascCtx) (v : View) (reduce : Bool) (stage : Nat) : Nat :=
  sumN (k.chunks.map fun d =>
    let n := if reduce then ((k.plan d).filter fun x => (x.2.map (·.1)) == some stage).length
      else ((gatherOut k.members.length k.me d.owner).filter fun x => x.1 == stage).length
    n * (if reduce then 48 + 274 * cdiv d.count 16 else 48 + d.count * elemBytes v.fmt + cdiv d.count v.lay.bsize))

/-- Stages of one Cascade instruction in their order (Table 10-10): the package stage, the tray level in the network, fold, steps and unfold
with the careful comparisons, the owner's test and rounding; then the gather of ALL_REDUCE or ALL_GATHER; or the exchange of ALL_TO_ALL. A
group that is not formed has the package stage alone. The first list is the ALL_REDUCE of the anchors that an anchored reduction runs
first (R271). -/
def State.cascStages (s : State) (k : CascCtx) : List Stage × List Stage :=
  let seq := k.record
  let P := k.members.length
  let v := s.dstView k
  let ns := (List.range P).filter fun r => !k.inr || aggOf k.members r == r
  let nodes := ns.map fun r => nth k.members r 0
  let slots := if k.inr then some ((s.group k.slot).record, (s.group k.slot).claim) else none
  let careful := fun (stages : List Nat) => if k.careful then 2 * (((stageRuns nodes stages 0 none).map (·.2)).foldl max 0) else 0
  let step := fun (reduce : Bool) (st : Nat) => s.stepStage k.pt seq k.members k.me (stepLevel nodes st) (k.sentBytes v reduce st) 1
  let tray := fun (st : Nat) => { s.stepStage k.pt seq k.members k.me 0 (k.sentBytes v true st) 2 with slots := slots }
  let wait := fun (n : Nat) => if n = 0 then [] else [({ res := [(resSeq seq, 1)], dur := n } : Stage)]
  let walk := fun (reduce : Bool) (stages : List Nat) =>
    (if k.inr ∧ !ns.contains k.me then [] else stages.map (step reduce)) ++ wait (careful stages)
  let reduce := if P ≤ 1 then [] else
    (if k.inr then [tray 0x42] else []) ++ walk true (reduceStages ns.length) ++ (if k.inr then [tray 0x43] else [])
  let gather := if P ≤ 1 then [] else walk false (gatherStages P)
  let mine := (k.chunks.filter fun d => d.owner == k.me).length
  let seqFor := fun (cycles : Nat) => wait (cdiv cycles 900)
  match k.c.opc with
  | 2 => ([], seqFor (64 + k.chunks.length) ++ gather)
  | 4 => ([], (if P ≤ 1 then [] else
      [s.stepStage k.pt seq k.members k.me 0 (16 * P) 1,
       s.stepStage k.pt seq k.members k.me ((k.members.map fun p => posLevel p (nth k.members k.me 0)).foldl max 0)
         (let w := s.srcView k; 48 * prodN w.lay.blocks + prodN w.used * elemBytes w.fmt) 1]) ++ seqFor (64 + prodN v.lay.blocks))
  | o =>
    (if s.cascAnchored k then reduce ++ gather else [], seqFor ((if k.dw then 24 else 0) + 64 + k.chunks.length) ++ reduce ++ seqFor (32 * mine) ++
      (if o = 3 then gather else []))

/-- The step profile of a BED (R240): tasks in the order of R188, Cascade stages, updates, then the settle and commit rounds. -/
def State.stepProfile (s : State) (pt : Nat) (b : List Byte) (step : Nat) : List Stage :=
  let order := layerOrder b
  let tasks := sortBy (fun x y => !lexLt (schedKey b order default y) (schedKey b order default x)) (s.allTasks pt b step)
  let tix := tasks.zipIdx
  let ctl := s.reg (Reg.cascadePtCtl pt)
  let careful := bit ctl 0 || bit ctl 1
  let casc := (instrsOf b).zipIdx.map fun i =>
    let slot := (s.groupAt pt (bedCasc b i.1.1).group).getD 256
    let k := s.cascCtx pt b step i.1.1 i.1.2.2 i.1.2.1 slot
    let k := { k with careful := careful, inr := (s.group slot).inr && !careful, members := if slot = 256 then [] else k.members }
    let k := { k with chunks := if k.c.opc = 4 then [] else s.chunksOf pt b k.c k.ver k.mb (max 1 k.members.length) }
    (i.1, i.2, s.cascStages k)
  let last := fun (i : Nat) => (casc.find? fun x => x.2.1 == i).map fun x => ((1, i, x.2.2.2.length - 1) : Nat × Nat × Nat)
  let byTask := fun (t mb : Nat) => (tix.filter fun p =>
    outTensor (bedLayer b p.1.layer) p.1.prod == t && (!mbKind (bedTensor b t).kind || p.1.mb == mb)).map fun p => taskName p.2
  let byCasc := fun (t mb : Nat) => (casc.filter fun x => (bedCasc b x.1.1).dst == t && (x.1.2.2 == 0xFFFF || x.1.2.2 == mb)).filterMap fun x => last x.2.1
  let made := fun (t mb : Nat) => if (cascWriter b t).isSome then byCasc t mb else byTask t mb
  -- the anchors of a layer's weight gradient, before its DW tasks (R68)
  let anchors := casc.filter fun x => !x.2.2.1.isEmpty
  let anch := anchors.flatMap fun x =>
    let li := x.1.2.1.getD 0
    let after := (List.range (jobMbs b)).flatMap fun mb => made (useTensor b (bedLayer b li).useX) mb ++ made (useTensor b (bedLayer b li).useG) mb
    x.2.2.1.zipIdx.map fun y => ({ name := (4, x.2.1, y.2), after := if y.2 = 0 then after else [(4, x.2.1, y.2 - 1)], stage := y.1 } : Planned)
  let anchored := fun (t : Task) => (anchors.filter fun x => t.prod == 2 && (x.1.2.1.map fun li => (bedLayer b li).outDW) == some (bedLayer b t.layer).outDW).map
    fun x => ((4, x.2.1, x.2.2.1.length - 1) : Nat × Nat × Nat)
  let work := tix.flatMap fun p => s.taskStages pt b step made (anchored p.1) p.2 p.1
  let upds := ((bedLayers b).zipIdx.filter fun l => l.1.jet != none32 && !(s.part pt).heldWeight b (progW b l.1.jet))
  let ids := upds.foldl (fun (l : List (Layer × Nat)) x => if l.any (fun y => y.1.id == x.1.id) then l else l ++ [x]) []
  let comm := casc.flatMap fun x =>
    let c := bedCasc b x.1.1
    let after := match c.when_ with
      | 1 => (ids.filter fun y => some y.1.id == x.1.2.1.map fun li => (bedLayer b li).id).map fun y => (2, y.2, 2)
      | 3 => (last (x.2.1 - 1)).toList
      | _ => if c.src = none32 then (match x.1.2.1 with | some li => byTask (bedLayer b li).outDW 0 | none => []) else made c.src x.1.2.2
    x.2.2.2.zipIdx.map fun y => ({ name := (1, x.2.1, y.2), after := if y.2 = 0 then after else [(1, x.2.1, y.2 - 1)], stage := y.1 } : Planned)
  let upd := ids.flatMap fun x =>
    let res := ((bedLayers b).filter fun l => l.id == x.1.id).flatMap fun l => (bitsOf 16 l.roles).map fun r => (resRole l.die r, 1)
    let c := s.updateCycles pt b step x.1.id x.1.jet
    let w := progW b x.1.jet
    let grads := (layerRecs b x.1.id).flatMap fun li => made (bedLayer b li).outDW 0xFFFF
    let f := s.fMhz x.1.die
    [({ name := (2, x.2, 0), after := grads, stage := { res := res, dur := cdiv c.1 f } } : Planned),
     { name := (2, x.2, 1), after := [(2, x.2, 0)], stage := { res := [], dur := if c.1 = 0 then 0 else s.roundQuanta pt 1 x.2 } },
     { name := (2, x.2, 2), after := [(2, x.2, 1)], stage := { res := res, dur := max 1 (cdiv c.2 f), notBefore := s.slotQ pt b step w, stores := [w] } }]
  let early := work ++ comm.filter fun x => !(casc.any fun y => y.2.1 == x.name.2.1 && (bedCasc b y.1.1).when_ == 1)
  profileFrom (anch ++ work ++ comm ++ upd ++
    [{ name := (3, 0, 0), after := early.map (·.name), stage := { res := [], dur := s.roundQuanta pt 2 0 } },
     { name := (3, 1, 0), after := (3, 0, 0) :: (comm ++ upd).map (·.name), stage := { res := [], dur := s.roundQuanta pt 3 0 } }])

/-- Length of a profile with no contention (WEIR_PT_STEPQ). -/
def profileLen (st : List Stage) : Nat :=
  let ends := st.foldl (fun (acc : List Nat) x => acc ++ [(x.preds.map fun p => nth acc p 0).foldl max 0 + x.dur]) []
  ends.foldl max 0

/-- Profile of a partition's steps as last derived. -/
def State.profileOf (s : State) (pt : Nat) : List Stage :=
  ((s.comp.weir.profiles.find? fun p => p.1 == pt).map (·.2)).getD []

/-- Keep a partition's step profile. -/
def State.keepProfile (s : State) (pt : Nat) (l : List Stage) : State :=
  s.modWeir fun w => { w with profiles := (pt, l) :: w.profiles.filter fun p => p.1 != pt }

end Sys2Proof.Machine
end

