-- ==== Sys2Proof/Machine/Loader.lean ====
section
/-! DEFINITION. Loader.lean: the Parterre loader's commands, PLANs and BEDs taking effect, the persisted default (R169 to R181). -/
namespace Sys2Proof.Machine

/-! ### Groups of a partition -/

/-- Free the group slots of a partition with their flows, chunks and rounds (R44, R173). -/
def State.dropGroups (s : State) (pt : Nat) : State :=
  let slots := (List.range 256).filter fun i => let g := s.group i; g.st != 0 && g.pt == pt
  let s := s.closeFlows fun f => f.user == 0 && slots.contains f.key
  let s := s.modCasc fun c =>
    { c with
      inbox := c.inbox.filter fun m => m.2.1 != pt
      runs := c.runs.filter fun r => r.pt != pt
      sent := c.sent.filter fun x => x.pt != pt
      rounds := c.rounds.filter fun r => !slots.contains r.slot }
  forEach slots (fun i s => (s.setGroupSt i 0).modGroup i fun _ => default) s

/-- The groups of a BED start to form (R173, R254, R256): each takes a free slot and keeps the epoch its GROUP_ID had; with no slot
free it is refused with GROUP_FULL. -/
def State.openGroups (s : State) (pt : Nat) (im : List Byte) (old : List (Nat × Nat)) : State :=
  forEach (bedGroups im).zipIdx (fun g s =>
    match (List.range 256).find? fun i => (s.group i).st == 0 with
    | none => s.ptEvent pt 7 (packLE [(4, g.1.gid), (4, 6)])
    | some i =>
      (s.modGroup i fun _ =>
        { pt := pt, gid := g.1.gid, record := g.2, epoch := ((old.find? fun x => x.1 == g.1.gid).map (·.2)).getD 0 }).setGroupSt i 1) s

/-- A change of what the module advertises is sent at once (R315). -/
def State.readvertise (before s : State) : State := if before.advertBody 0 = s.advertBody 0 then s else s.sendAdvert

/-! ### Taking effect (R172 to R174) -/

/-- Digest words and IMAGE_ID of an image into their registers (R174). -/
def State.putDigest (s : State) (im : List Byte) (dig : Nat → Nat) (id : Nat) : State :=
  let d := slice im (u32 im 8 - 64) 64
  (forEach (List.range 16) (fun w s => s.put (dig w) (u32 d (4 * w))) s).put64 id (u64 im 0x10)

/-- Mask bitmaps that a BED's MASK records name, read now (R166). -/
def State.readMasks (s : State) (pt : Nat) (im : List Byte) : List (Nat × List Byte) :=
  (List.range (secCount im 0x0207)).map fun m => (m, s.maskBytes pt (recOf im 0x0207 m))

/-- A BED takes effect for a partition with no uncommitted step: job state is cleared, groups form anew, the step profile is derived
(R104, R173, R174, R240). -/
def State.takeBed (s : State) (pt : Nat) (im : List Byte) (masks : List (Nat × List Byte)) : State :=
  let before := s
  let old := (s.comp.casc.groups.toList.filter fun g => g.st != 0 && g.pt == pt).map fun g => (g.gid, g.epoch)
  let s := (s.dropGroups pt).dropLearned pt
  let s := s.modPart pt fun p => { bed := some im, masks := masks, commit := p.commit }
  let s := s.putDigest im (fun w => Reg.parterreBeddig pt w) (Reg.parterreBedidLo pt)
  -- operations that have started keep what they were admitted with (R173)
  let s := s.modWeir fun w => { w with adms := w.adms.map fun a => if a.pt == pt then { a with stale := true } else a }
  let s := s.keepProfile pt (s.stepProfile pt im ((s.part pt).commit + 1))
  State.readvertise before (s.openGroups pt im old)

/-- Whether an admitted descriptor ends when a BED replaces the one it was admitted under (R173). -/
def Adm.endsWithBed (a : Adm) : Bool :=
  match dOp a.desc with
  | 1 => true
  | 2 | 3 | 4 | 5 | 7 => !a.started
  | _ => false

/-- A pending BED takes effect when its time has come (R173). -/
def State.pendingBed (s : State) (pt : Nat) : State :=
  let p := s.part pt
  match p.pendBed with
  | none => s
  | some im =>
    if s.resetting pt ∨ !(p.steps.all (fun x => x.st == 0) || (s.admsOf pt).isEmpty) then s
    else
      let ends := (s.admsOf pt).filter Adm.endsWithBed
      let s := forEach ends (fun a s => s.complete pt a.admno 5) s
      s.takeBed pt im p.pendMasks

/-- Clear an array and its Jet unit (R44). -/
def State.clearArray (s : State) (i : Nat) : State :=
  (s.modArr i fun a => { a with tiles := [], nextWord := false, stall := false, refused := false, stats := none }).modJet i fun _ => {}

/-- Routes of the INTR_ROUTE records of a PLAN (R161, R466). -/
def planRoutes (im : List Byte) : List Route :=
  (recsOf im 0x0104).map fun r =>
    let w := u32 r 0
    ⟨field w 7 0, field w 19 16, field w 13 12, field w 11 8⟩

/-- A PLAN takes effect (R41, R156, R161, R172, R174): resources whose owner changes are scrubbed, ports whose split changes train again. -/
def State.applyPlan (s : State) (im : List Byte) : State :=
  let before := s
  let s := s.modLoader fun l => { l with plan := some im }
  let moved := fun (f : PtRes → Nat) (n : Nat) => (List.range n).filter fun i => before.ownerBy f i != s.ownerBy f i
  let pools := moved PtRes.pools 256
  let chans := moved PtRes.hbm 384
  let roles := moved PtRes.roles 64
  let splits := (List.range 24).filter fun p => before.split p != s.split p
  let s := s.scrubMem fun k =>
    if k < hbmBase then pools.contains (k / 2 ^ 23) else chans.contains ((k - hbmBase) / 2 ^ 31)
  let s := forEach roles (fun r s => match s.arrayOf (r / 16) (r % 16) with
    | some a => s.clearArray (arrIx (r / 16) a)
    | none => s) s
  let s := s.modIntc fun x => { x with routes := planRoutes im }
  -- a tag that the PLAN removes gets a PARTIAL ledger record (R392)
  let gone := (s.cis.tags.filter fun t => ((List.range 16).any fun pt => (before.ptRes pt).any fun r => r.tag == t.tag) &&
    !((List.range 16).any fun pt => (s.ptRes pt).any fun r => r.tag == t.tag))
  let s := forEach gone (fun t s => s.ledger t true) s
  let s := s.putDigest im (fun w => Reg.parterrePlandig w) Reg.parterrePlanidLo
  let s := forEach splits (fun p s =>
    let s := s.modPort p fun x => { x with halves := Vector.replicate 2 {} }
    s.trainPort p) s
  State.readvertise before s.postIntrs

/-! ### Phase 6 (R170, R172, R176) -/

/-- Whether a partition continues undisturbed under a new PLAN (R172). -/
def State.undisturbed (s : State) (im : List Byte) (pt : Nat) : Bool :=
  match s.plan with
  | none => false
  | some old =>
    let table := fun (p : List Byte) (t : Nat) => (recsOf p 0x0103).find? fun r => field (u32 r 0) 4 0 == t
    let named := ((s.part pt).bed.toList ++ (s.part pt).pendBed.toList).map jobRecipe
    planRec old pt == planRec im pt && named.all fun t => table old t == table im t

/-- PLAN_BUSY (R172). -/
def State.planBusy (s : State) (im : List Byte) : Bool :=
  let busy := fun (pt : Nat) => (s.part pt).bed.isSome || (s.part pt).pendBed.isSome
  let dev := u32 (recOf im 0x0101 0) 0
  (List.range 16).any (fun pt => (s.part pt).pendBed.isSome || (s.defined pt && !s.undisturbed im pt && busy pt)) ||
    (List.range 24).any fun p => s.split p != bit dev p && [0, 1].any fun h => match s.portOwner p h with
      | some pt => busy pt
      | none => false

/-- Refusal of phase 6. -/
def State.phase6 (s : State) (im : List Byte) : Option Nat :=
  if u8 im 4 = 1 then (if s.planBusy im then some 0x19 else none)
  else
    let pt := field (u8 im 0x0C) 3 0
    if s.resetting pt then some 0x21 else if (s.part pt).pendBed.isSome then some 0x22 else none

/-! ### The loader's commands (R176, R180, R181) -/

/-- A write of PARTERRE_CTL (Table 06-17). -/
def State.writeParterreCtl (s : State) (w : Nat) : State :=
  if field w 15 8 ≠ 0xC3 then s.accErr Reg.parterreCtl .badKey
  else match field w 3 0 with
    | 1 =>
      if s.comp.loader.st ≠ 0 then s.accErr Reg.parterreCtl .notReady
      else s.modLoader fun l => { l with st := 1, hit := 0#16, since := s.time }
    | 2 => if s.comp.loader.st ≠ 0 then s.accErr Reg.parterreCtl .notReady else s.modLoader fun l => { l with stage := [] }
    | 3 => s.modPart (field w 19 16) fun p => { p with pendBed := none, pendMasks := [] }
    | _ => s

/-- LOAD. -/
def execLoad (key : Byte) (s : State) : Host.Outcome State Fault Refusal :=
  .next (s.hostWrite Reg.parterreCtl fun s => s.writeParterreCtl (1 + at_ 8 key.toNat))

/-- CLEAR. -/
def execClear (key : Byte) (s : State) : Host.Outcome State Fault Refusal :=
  .next (s.hostWrite Reg.parterreCtl fun s => s.writeParterreCtl (2 + at_ 8 key.toNat))

/-- CANCEL. -/
def execCancel (key : Byte) (pt : Pt) (s : State) : Host.Outcome State Fault Refusal :=
  .next (s.hostWrite Reg.parterreCtl fun s => s.writeParterreCtl (3 + at_ 8 key.toNat + at_ 16 pt.val))

/-- The staged image, and at least its header (R180). -/
def State.staged (s : State) : List Byte :=
  Memory.readBytes s.comp.loader.stage 0 (max 64 (min (2 ^ 23) (s.reg Reg.parterreLen)))

/-- The load is over: result registers, source 0x11 and PARTERRE_DONE (R180, Tables 12-8 and 18-3). -/
def State.loadDone (s : State) (res sec rec_ : Nat) : State :=
  let s := s.modLoader fun l => { l with st := 0, hit := 0#16 }
  let s := ((s.put Reg.parterreResult res).put Reg.parterreErrsec sec).put Reg.parterreErrrec rec_
  (s.fire 0x11).modEvent 0x20 (leBytes 4 res)

/-- LOAD_FINISH (R170 to R176): the image is refused, applied or left pending. PARTERRE_LEN is what the register holds now: no rule says when
the loader takes it, and none locks it during a load (DESIGN CHOICE: entry 18). -/
def execLoadFinish (s : State) : Host.Outcome State Fault Refusal :=
  let l := s.comp.loader
  let im := s.staged
  let pt := field (u8 im 0x0C) 3 0
  let hit := u8 im 4 == 2 && l.hit.getLsbD pt && (s.headerCode im (s.reg Reg.parterreLen) false).isNone
  let refuse := fun (c sec rec_ : Nat) (s : State) => s.loadDone (3 + at_ 16 c) sec rec_
  .next (if l.st = 0 then s
    else if hit then refuse 0x21 0xFF none32 s
    else match s.validate im (s.reg Reg.parterreLen) false with
      | some (_, c, sec, rec_) => refuse c sec rec_ s
      | none => match s.phase6 im with
        | some c => refuse c 0xFF none32 s
        | none =>
          if u8 im 4 = 1 then (s.applyPlan im).loadDone 1 0 0
          else
            let masks := s.readMasks pt im
            if (s.part pt).bed.isNone then (s.takeBed pt im masks).loadDone 1 0 0
            else (s.modPart pt fun p => { p with pendBed := some im, pendMasks := masks }).loadDone 5 0 0)

/-- BED_TAKE_EFFECT (R173). -/
def execBedTakeEffect (pt : Pt) (s : State) : Host.Outcome State Fault Refusal := .next (s.pendingBed pt)

/-! ### The persisted default (R175) -/

/-- The default plan as the journal holds it, if one is persisted. -/
def State.defaultPlan (s : State) : Option (List Byte) :=
  (s.nv.journal.current 0x30 0).bind fun b => if b.isEmpty then none else some b

/-- A write of PARTERRE_PERSIST (R175, R401). -/
def State.writePersist (s : State) (w : Nat) : State :=
  if !s.pres then s.noPres Reg.parterrePersist Reg.parterrePersist 0
  else
    let s := s.put Reg.parterrePersist (field w 1 0)
    let setNo := fun (b : Bool) (s : State) => s.put Reg.parterreDefstat (setField (s.reg Reg.parterreDefstat) 2 2 (b2n b))
    match field w 1 0 with
    | 1 => match s.plan with
      | none => setNo true s
      | some im => (setNo false s).jsubmit 0x30 im
    | 2 => s.jsubmit 0x30 []
    | _ => s

/-- PERSIST. -/
def execPersist (s : State) : Host.Outcome State Fault Refusal :=
  .next (s.hostWrite Reg.parterrePersist fun s => s.writePersist 1)

/-- ERASE_DEFAULT. -/
def execEraseDefault (s : State) : Host.Outcome State Fault Refusal :=
  .next (s.hostWrite Reg.parterrePersist fun s => s.writePersist 2)

/-- Bring-up applies the persisted default, or leaves the assignment of R41 (R41, R175). -/
def State.applyDefault (s : State) : State :=
  match s.defaultPlan with
  | none => s
  | some im => match s.validate im im.length true with
    | none => s.applyPlan im
    | some (_, c, _, _) => s.put Reg.parterreDefstat (setField (setField (s.reg Reg.parterreDefstat) 1 1 1) 31 16 c)

end Sys2Proof.Machine
end

