-- ==== Sys2Proof/Machine/Objects.lean ====
section
/-! DEFINITION. Objects.lean: signed objects and their checks, and the NOR regions an install writes (R403 to R407, R411). -/
namespace Sys2Proof.Machine

/-! ### Signed objects (R404 to R406) -/

/-- The owner key, if one is enrolled: the current OWNER_KEY record with a body (R407). -/
def State.ownerKey (s : State) : Option (List Byte) :=
  (s.nv.journal.current 0x1A 0).bind fun b => if b.isEmpty then none else some b

/-- PAYLOAD_LEN of an object (Table 15-3). -/
def objPayload (o : List Byte) : Nat := u32 o 8

/-- Whether FLAGS announces a block: 16 VENDOR, 17 SELF, 18 OWNER. -/
def objFlag (o : List Byte) (n : Nat) : Bool := bit (u32 o 4) n

/-- Length the header and FLAGS give (R404). -/
def objSize (o : List Byte) : Nat :=
  64 + objPayload o + 7219 * b2n (objFlag o 16) + 4627 * b2n (objFlag o 17) + 4627 * b2n (objFlag o 18)

/-- Message digest: SHA3-512 of header and payload (R405). -/
def objDigest (o : List Byte) : List Byte := sha3 (o.take (64 + objPayload o))

/-- Offsets of the signatures of the SELF and the OWNER block. -/
def objSelfAt (o : List Byte) : Nat := 64 + objPayload o + 7219 * b2n (objFlag o 16)
def objOwnerAt (o : List Byte) : Nat := objSelfAt o + 4627 * b2n (objFlag o 17)

/-- The counter a TYPE uses (Table 15-5). -/
def typeCounter (t : Nat) : Nat := nth [0, 0, 1, 2, 4, 3] t 0

/-- A digest held in sixteen registers. -/
def State.digestRegs (s : State) (r : Nat → Nat) : List Byte := (List.range 16).flatMap fun w => leBytes 4 (s.reg (r w))

/-- Load a digest into sixteen registers. -/
def State.putDigestRegs (s : State) (r : Nat → Nat) (d : List Byte) : State :=
  forEach (List.range 16) (fun w s => s.put (r w) (u32 d (4 * w))) s

/-- Check 3: MAGIC, FMTREV, reserved bits and the blocks of Table 15-4. An undefined TYPE has no row there and goes on to check 5.
The flag says whether the owner block is checked. -/
def State.formatOk (s : State) (o : List Byte) (own : Bool) : Bool :=
  let t := u8 o 4
  u32 o 0 == 0x4E474953 && u8 o 5 == 1 && u32 o 4 / 2 ^ 19 == 0 && u32 o 0xC / 16 == 0 && u32 o 0x14 == 0 &&
    uN 32 o 0x20 == 0 &&
    (!(decide (1 ≤ t ∧ t ≤ 5)) ||
      (objFlag o 16 == (t != 5) && objFlag o 17 == (t == 5) && (!own || objFlag o 18 == (s.ownerKey.isSome && t != 4))))

/-- Check 4: the length given is the object's, within the limit of its type and the payload of Table 15-4. -/
def lengthOk (o : List Byte) (len : Nat) : Bool :=
  let t := u8 o 4
  let p := objPayload o
  len == objSize o &&
    (if t = 1 then decide (len ≤ 96 * 2 ^ 20) else if t = 2 then decide (len ≤ 48 * 2 ^ 20) else if t = 3 then p == 32
     else if t = 4 then p % 8 == 0 && decide (p ≤ 2048) else if t = 5 then p == 2592 else true)

/-- Checks 3 to 11 of Table 15-6 in order, on an object of a given length for a TYPE; 0 when all pass. The flags say whether the counter
and the owner signature are checked (R416). -/
def State.objCode (s : State) (o : List Byte) (len type : Nat) (ctr own : Bool) : Nat :=
  let t := u8 o 4
  let serial := u64 o 0x18
  let mine := s.reg64 Reg.globalSerialLo
  let key := slice o (64 + objPayload o) 2592
  let d := objDigest o
  if !s.formatOk o own then 2
  else if !lengthOk o len then 3
  else if t ≠ type then 9
  else if serial ≠ mine ∧ (serial ≠ 0 ∨ 3 ≤ t) then 8
  else if field (u32 o 0xC) 3 0 ≠ typeCounter t then 0x11
  else if ctr ∧ u32 o 0x10 < s.reg (Reg.cisternCounter (typeCounter t)) then 7
  else if objFlag o 16 ∧ sha3 key ≠ s.digestRegs Reg.secRootdig then 4
  else if objFlag o 16 ∧ !Config.mldsaVerify key d (slice o (64 + objPayload o + 2592) 4627) then 5
  else if objFlag o 17 ∧ !Config.mldsaVerify (slice o 64 2592) d (slice o (objSelfAt o) 4627) then 5
  else if own ∧ objFlag o 18 ∧ !Config.mldsaVerify (s.ownerKey.getD []) d (slice o (objOwnerAt o) 4627) then 6
  else 0

/-! ### NOR regions (R407) -/

/-- The object of the running command, once every part of it has arrived. -/
def State.secObject (s : State) (r : SecRun) : Option (List Byte) :=
  let len := s.reg Reg.secLen
  if r.failed ∨ (r.parts.map fun p => p.2.length).foldl (· + ·) 0 < len then none
  else some (r.parts.foldl (fun o p => splice o p.1 p.2) (List.replicate len 0#8))

/-- NOR region of FW_INSTALL's ARG. -/
def State.modSlot (s : State) (i : Nat) (x : NorSlot) : State :=
  s.modNv fun n => if i = 0 then { n with slotA := x } else if i = 1 then { n with slotB := x } else { n with recovery := x }

/-- A firmware slot: 0 A, 1 B, 2 the recovery region. -/
def State.slot (s : State) (i : Nat) : NorSlot := if i = 0 then s.nv.slotA else if i = 1 then s.nv.slotB else s.nv.recovery

/-- The TYPE of object a command takes (Table 15-2). -/
def cmdType (cmd : Nat) : Nat := nth [0, 1, 0, 3, 5, 0, 2, 4] cmd 0

/-- FW_INSTALL refused once its object was asked for: the slot, cleared before the checks, stays invalid (R403, R407). The running slot and
no slot are left alone. -/
def State.dropSlot (s : State) (r : SecRun) : State :=
  if r.cmd = 1 ∧ r.arg < 2 ∧ r.arg ≠ s.boot.slot then s.modSlot r.arg {} else s

/-- The module goes down while the security block runs: FW_INSTALL leaves its slot invalid, and so does RECOVERY_WRITE its region once
its object is being written, which is after every check has passed (R403, Table 15-11). -/
def State.cutInstall (s : State) : State :=
  match s.sec.run with
  | none => s
  | some r =>
    if r.code ≠ 0 then s
    else if r.cmd = 6 then match s.secObject r with
      | some o => if s.objCode o (s.reg Reg.secLen) 2 true true = 0 then s.modSlot 2 {} else s
      | none => s
    else s.dropSlot r

end Sys2Proof.Machine
end

