-- ==== Sys2Proof/Machine/Weir.lean ====
section
/-! DEFINITION. Weir.lean: decisions on descriptors, refusal and admission, host transfers and promises (R233 to R252, R186, R205, R206,
R215, R216, R313). -/
namespace Sys2Proof.Machine

/-! ### The Weir's turn (R236) -/

/-- First of a list above a bound, else the first. -/
def nextAbove (l : List Nat) (last : Option Nat) : Option Nat :=
  match last with
  | none => l.head?
  | some n => (l.find? fun x => decide (n < x)).orElse fun _ => l.head?

/-- Partition and queue whose head is decided next (R236). -/
def State.turn (s : State) : Option (Nat × Nat) :=
  let w := s.comp.weir
  let pts := (List.range 16).filter fun p => w.heads.any fun h => h.1 == p
  (nextAbove pts w.lastPt).bind fun p =>
    let qs := (List.range 8).filter fun q => w.heads.any fun h => h.1 == p && h.2.1 == q
    (nextAbove qs ((w.lastSq.find? fun x => x.1 == p).map (·.2))).map fun q => (p, q)

/-- Head of a queue. -/
def State.headOf (s : State) (pt sq : Nat) : Option (List Byte) :=
  (s.comp.weir.heads.find? fun h => h.1 == pt && h.2.1 == sq).map (·.2.2)

/-- Take the head whose turn it is. -/
def State.takeHead (s : State) (pt sq : Nat) : State :=
  s.modWeir fun w =>
    let i := (w.heads.findIdx? fun h => h.1 == pt && h.2.1 == sq).getD w.heads.length
    { w with
      heads := w.heads.eraseIdx i
      lastPt := some pt
      lastSq := (pt, sq) :: w.lastSq.filter fun x => x.1 != pt }

/-! ### Refusing and admitting (R237, R245) -/

/-- A descriptor is refused (R245). -/
def State.refuse (s : State) (pt sq : Nat) (d : List Byte) (code quote : Nat) : State :=
  let s := s.bump (Reg.weirPtRefused pt) 1
  let s := s.put (Reg.weirPtLastref pt) (code + at_ 16 sq + at_ 24 (dOp d))
  let s := s.weirEntry pt sq (dCq d) (entryBytes (dTag d) 1 false 0 code 0 sq quote s.time)
  s.pumpFetches pt

/-- What a decision found: a refusal code, or what it admits. -/
inductive Verdict where
  | refuse (code : Nat)
  | grant (a : Adm) (stages : List Stage)
deriving DecidableEq, Repr, Inhabited

/-- Latest promise among admitted descriptors that satisfy a test, as a quantum. -/
def State.latest (s : State) (pt : Nat) (p : Adm → Bool) : Nat :=
  ((((s.admsOf pt).filter p).map fun a => a.promise / 225)).foldl max 0

/-- First quantum a descriptor's stages may take (R240, R244, R251, R252): the second after the decision, after the promises of fenced
predecessors, of earlier operations whose destination overlaps, and of the step RUNAHEAD + 1 before. -/
def State.firstQuantum (s : State) (a : Adm) : Nat :=
  let pt := a.pt
  let fence := match dFence a.desc with
    | 1 => s.latest pt fun x => x.sq == a.sq
    | 2 => s.latest pt fun _ => true
    | 3 => s.latest pt fun x => dOp x.desc == 1 && dStep x.desc == dStep a.desc
    | _ => 0
  let overlap := s.latest pt a.meets
  let ahead := jobAhead a.bed + 1
  let order := if dOp a.desc = 1 then s.latest pt fun x => dOp x.desc == 1 && dStep x.desc + ahead == dStep a.desc else 0
  max (max (s.quantum + 2) fence) (max overlap order)

/-- Charge SEED_LATE to a step whose seed will be ready after the first quantum of the first stage that reads it (R243). -/
def State.chargeSeed (s : State) (a : Adm) : State :=
  if dOp a.desc ≠ 2 then s
  else match (s.admsOf a.pt).find? fun x => dOp x.desc == 1 && dStep x.desc == dStep a.desc with
    | some x =>
      let t := u32 a.desc 0x18
      match x.seedQ.find? fun y => y.1 == t && (y.2.1 == 0xFFFF || y.2.1 == dMb a.desc) with
      | some y => if y.2.2 + 1 < a.promise / 225 then s.chargeAdm x.pt x.admno 8 a.admno else s
      | none => s
    | none => s

/-- An admitted descriptor takes its number and its entry (R237). -/
def State.admitOne (s : State) (a : Adm) (resv : List Resv) : State :=
  let n := ((s.comp.weir.nextAdm.find? fun x => x.1 == a.pt).map (·.2)).getD 1
  let a := { a with admno := n }
  let now := s.quantum
  let s := s.modWeir fun w =>
    { w with
      adms := w.adms ++ [a]
      resv := (w.resv.filter fun r => decide (now ≤ r.to_)) ++ resv.map fun r => { r with admno := n }
      nextAdm := (a.pt, (n + 1) % 2 ^ 32) :: w.nextAdm.filter fun x => x.1 != a.pt }
  let s := s.put64 Reg.weirAdmseqLo ((s.reg64 Reg.weirAdmseqLo + 1) % 2 ^ 64)
  let s := s.bump (Reg.weirPtAdmitted a.pt) 1
  let s := if bit (s.reg (Reg.weirPtCtl a.pt)) 0 then
      s.weirEntry a.pt a.sq (dCq a.desc) (entryBytes (dTag a.desc) 0 false 0 0 n a.sq a.promise s.time)
    else s
  s.chargeSeed a

/-- The calendar search (R239, R245) and the decision's end. The last argument is what the opcode does once admitted, given the number. -/
def State.settleVerdict (s : State) (pt sq : Nat) (d : List Byte) (v : Verdict) (after : State → Nat → State) : State :=
  match v with
  | .refuse c => s.refuse pt sq d c 0
  | .grant a st =>
    let untimed := dOp d = 6
    if !untimed ∧ (4096 ≤ (s.admsOf pt).length ∨ 16384 ≤ s.comp.weir.adms.length) then s.refuse pt sq d 0x108 0
    else
      let first := if st.isEmpty then s.firstQuantum a - 1 else s.firstQuantum a
      match s.placeStages pt 0 first st with
      | none => s.refuse pt sq d 0x102 0
      | some pl =>
        let (start, end_) := pl.span first
        let promise := 225 * (end_ + 1)
        if dOp d = 7 ∧ a.count ≠ 0 ∧ a.count < end_ then s.refuse pt sq d 0x10F 0
        else if !untimed ∧ dDeadline d ≠ 0 ∧ dDeadline d < promise then s.refuse pt sq d 0x101 promise
        else
          let n := ((s.comp.weir.nextAdm.find? fun x => x.1 == pt).map (·.2)).getD 1
          let s := s.admitOne { a with promise := promise, startQ := start, seedQ := pl.seedQ st, storeQ := pl.storeQ st } pl.resv
          let s := if dOp d = 1 then s.keepProfile pt st else s
          let s := after s n
          let s := s.settleFences (s.admsOf pt).length pt
          s.pumpFetches pt

/-! ### Checks by opcode -/

/-- Checks every opcode shares: readiness, FENCE, and a BED where one is needed. -/
def State.commonCode (s : State) (pt : Nat) (d : List Byte) (needBed : Bool) (spaces : List Nat) : Option Nat :=
  let op := dOp d
  if s.resetting pt ∨ !s.boot.ready ∨ (s.act.st = 1 ∧ (op = 1 ∨ op = 7)) then some 0x110
  else if 4 ≤ dFence d ∨ spaces.any (fun x => decide (2 < x)) then some 0x104
  else if needBed ∧ (s.part pt).bed.isNone then some 0x103
  else none

/-- BED in effect, or nothing. -/
def State.bedOf (s : State) (pt : Nat) : List Byte := (s.part pt).bed.getD []

/-- Whether a layout's local shard exceeds what it allocates (R134). -/
def State.shardOver (s : State) (pt : Nat) (l : Layout) : Bool := ((s.usedExt pt l).zip l.extent).any fun p => decide (p.2 < p.1)

/-- Static collision test of a destination (R145). -/
def staticOk (l : Layout) : Bool :=
  let ds := sortBy (fun a c => decide (a.1 ≤ c.1)) (((l.stride.map Int.natAbs).zip l.extent).filter fun d => decide (1 < d.2))
  ((ds.foldl (fun (acc : Bool × Nat) (d : Nat × Nat) => (acc.1 && decide (acc.2 < d.1), acc.2 + d.1 * (d.2 - 1))) (true, 0))).1

/-- Byte ranges of a layout's data and scale plane. -/
def Layout.ranges (l : Layout) : List (Nat × Int × Int) :=
  (l.space, (l.base : Int) + l.span.1, (l.base : Int) + l.span.2) ::
    (if l.scaled then [(l.space, (l.scaleBase : Int) + l.scaleSpan.1, (l.scaleBase : Int) + l.scaleSpan.2)] else [])

/-- Byte ranges that a view reaches in its slot: data, scale plane, and the group index and side list of a Bell-4 tensor, whose length is
given (R133, R139, R149). -/
def View.ranges (w : View) (side : Nat) : List (Nat × Int × Int) :=
  (w.lay.ranges.map fun r => ((r.1, r.2.1 + (w.off : Int), r.2.2 + (w.off : Int)) : Nat × Int × Int)) ++
    (if w.fmt = 7 then [(w.ten.sideSpace, (w.ten.sideBase : Int), (w.ten.sideBase + side : Int))] else [])

/-- Views that a COPY, GATHER or SCATTER would have if it started now. -/
def State.planView (s : State) (pt : Nat) (r : List Byte) : View := let x := s.opScale pt r; s.opView pt r x.1 x.2

/-- COPY, GATHER, SCATTER (Table 05-8, R133, R140, R145, R168). A Bell-4 operand is judged by R133 before its pairing; a quantised source has no
pairing with an ADD_EXACT destination (R144; DEDUCED: entry 74). -/
def State.moveVerdict (s : State) (pt sq : Nat) (d : List Byte) : Verdict :=
  let op := dOp d
  let b := s.bedOf pt
  let ad := dAddr d 0x20
  let n := secCount b 0x0202
  let li := u32 d 0x18
  let lo := u32 d 0x1C
  let src := bedLayout b li
  let dst := bedLayout b lo
  let w := u32 d 0x28
  let sw := s.planView pt (opRecord b li)
  let dw := s.planView pt (opRecord b lo)
  let side := s.sideLen sw
  let out := dst.ranges ++ dw.ranges side
  let (count, rank) := if op = 3 then (0, 0) else s.listHead pt ad
  match s.commonCode pt d true (if op = 3 then [] else [ad.2]) with
  | some c => .refuse c
  | none =>
    if n ≤ li ∨ n ≤ lo then .refuse 0x105
    else if op ≠ 3 ∧ ad.2 = 2 then .refuse 0x106
    else if s.shardOver pt src ∨ s.shardOver pt dst then .refuse 0x109
    else if (src.format = 7 ∨ dst.format = 7) ∧
        !(op = 3 && src.format == dst.format && sameShape src dst && src.stride == dst.stride && src.bshape == dst.bshape) then .refuse 0x10B
    else if ((recordFmt src.format ∨ recordFmt dst.format ∨ !outFmt dst.format) ∧ src.format ≠ dst.format) ∨
        (dst.coll = 1 ∧ quantFmt src.format) then .refuse 0x10A
    else if dst.coll = 2 ∧ !staticOk dst then .refuse 0x10C
    else if (src.ranges ++ sw.ranges side).any (fun r => out.any fun q => rangesMeet r q) then .refuse 0x10D
    else if (op = 3 ∧ !(src.rank == dst.rank && src.extent == dst.extent)) ∨ (op ≠ 3 ∧ src.bsize ≠ dst.bsize) then .refuse 0x111
    else if out.any (s.tied pt) then .refuse 0x10E
    else
      let eng := 2 * field w 1 0 + field w 2 2
      let c := opCycles op sw dw count rank
      .grant { pt := pt, admno := 0, sq := sq, desc := d, promise := 0, src := opRecord b li, dst := opRecord b lo,
               count := count, rank := rank, bed := b, ranges := out }
        [s.sluiceStage pt eng c.1 [sw.lay.demand 0 c.2.1, dw.lay.demand 0 c.2.2]]

/-- Bytes, relative to its BASE, that the part of a tensor which a SEED writes reaches: data and scale plane (R186). -/
def seedSpans (v : View) (mb : Nat) : (Int × Int) × (Int × Int) :=
  let l := v.lay
  let at0 : Int := if mbKind v.ten.kind then nth l.stride 0 0 * mb else 0
  let ext := if mbKind v.ten.kind then 1 :: l.extent.drop 1 else l.extent
  let d := l.stride.zip ext
  let lo := at0 + sumZ (d.map fun p => if p.1 < 0 then p.1 * ((p.2 : Int) - 1) else 0)
  let hi := at0 + sumZ (d.map fun p => if p.1 < 0 then 0 else p.1 * ((p.2 : Int) - 1))
  let B := (l.bsize : Int)
  let data := if recordFmt v.fmt then
      let r := (recordSize v.fmt l.bsize : Int)
      (lo / B * r, (hi / B + 1) * r)
    else (lo * elemBytes v.fmt, (hi + 1) * elemBytes v.fmt)
  let sb := (l.scaleBase : Int) - l.base
  (data, if l.scaled then (sb + lo / B, sb + hi / B + 1) else (0, 0))

/-- Whether a range at a distance from a source address lies in its space or in a window of the partition (R186, R329). -/
def State.sourceIn (s : State) (pt : Nat) (ad : Nat × Nat) (r : Int × Int) : Bool :=
  let a := (ad.1 : Int) + r.1
  r.1 == r.2 || (if ad.2 = 2 then
      decide (0 ≤ a) && field a.toNat 47 42 == field ad.1 47 42 && (s.windowForm (some pt) false a.toNat (r.2 - r.1).toNat).isSome
    else s.inSpace pt ad.2 a (r.2 - r.1))

/-- SEED (R186, R234). -/
def State.seedVerdict (s : State) (pt sq : Nat) (d : List Byte) : Verdict :=
  let b := s.bedOf pt
  let t := u32 d 0x18
  let ad := dAddr d 0x20
  match s.commonCode pt d true [ad.2] with
  | some c => .refuse c
  | none =>
    if secCount b 0x0203 ≤ t then .refuse 0x105
    else
      let v := s.viewAt pt b t (dStep d) (s.coarse pt t (dStep d)) (s.rungAt pt t (dStep d))
      let sp := seedSpans v (dMb d)
      let out := [sp.1, sp.2].map fun r => ((v.lay.space, (v.lay.base : Int) + v.off + r.1, (v.lay.base : Int) + v.off + r.2) : Nat × Int × Int)
      if (mbKind v.ten.kind ∧ jobMbs b ≤ dMb d) ∨ !s.sourceIn pt ad sp.1 ∨ !s.sourceIn pt ad sp.2 then .refuse 0x106
      else if s.shardOver pt v.lay then .refuse 0x109
      else if out.any (s.tied pt) then .refuse 0x10E
      else
        let a : Adm := { pt := pt, admno := 0, sq := sq, desc := d, promise := 0, dst := opRecord b v.ten.layout, bed := b, ranges := out }
        let n := (sp.1.2 - sp.1.1).toNat + (sp.2.2 - sp.2.1).toNat
        if ad.2 = 2 then .grant a [{ res := [(resDma false, min n s.dmaCap)], dur := max 1 (cdiv n s.dmaCap) }]
        else .grant a [s.sluiceStage pt (a.engine b) (96 + cdiv n 512) [⟨ad.2, ad.1, n, n⟩, v.lay.demand v.off n]]

/-- Highest version of a partition's weights that is committed, and the first there is (R193). -/
def State.newestVersion (s : State) (pt : Nat) : Nat :=
  let p := s.part pt
  match p.first with
  | some f => max f (p.commit + 1)
  | none => p.commit + 1

/-- Whether a tensor's slot still holds a version (R206): no update of a later version of the slot has begun, and none that is admitted
needs it before the copy ends. -/
def State.versionHeld (s : State) (pt : Nat) (b : List Byte) (t v : Nat) : Bool :=
  let p := s.part pt
  let top := s.newestVersion pt
  let begun := (p.steps.filter fun x => x.upds.any fun u => decide (3 ≤ u.pass)).length
  match updaterOf b t with
  | none => decide (v ≤ top)
  | some _ => decide (v ≤ top ∧ (p.first.getD v) ≤ v ∧ top + begun < v + p.ring b t + (if p.ring b t = 1 then begun else 0))

/-- Peer h of a partition's peer table (R313). -/
def State.peerOf (s : State) (pt h : Nat) : BitVec 128 :=
  BitVec.ofNat 128 (sumN ((List.range 4).map fun w => s.reg (Reg.fabricPtPeer pt h w) * 2 ^ (32 * w)))

/-- SNAPSHOT (R205, R206, R313). -/
def State.snapVerdict (s : State) (pt sq : Nat) (d : List Byte) : Verdict :=
  let b := s.bedOf pt
  let ad := dAddr d 0x20
  match s.commonCode pt d true [ad.2] with
  | some c => .refuse c
  | none =>
    let hd := s.readSpace pt ad.2 ad.1 0x40
    let n := u32 hd 0
    if ad.2 = 2 ∨ !s.inSpace pt ad.2 ad.1 (0x40 + 4 * n) then .refuse 0x106
    else
      let blk := s.readSpace pt ad.2 ad.1 (0x40 + 4 * n)
      let ts := (List.range n).map fun i => u32 blk (0x40 + 4 * i)
      let kindOk := fun (t : Nat) => let k := (bedTensor b t).kind; k == 0 || k == 4 || k == 5
      let peer := bit (u32 blk 4) 0
      let da := u64 blk 0x10
      let v := if u48 blk 8 = 0 then s.newestVersion pt else u48 blk 8
      let len := sumN (ts.map fun t => 32 + (bedLayout b (bedTensor b t).layout).reach)
      if n = 0 ∨ 4096 < n ∨ ts.any (fun t => decide (secCount b 0x0203 ≤ t) || !kindOk t) then .refuse 0x105
      else if peer ∧ (16 ≤ da / 2 ^ 48 ∨ s.peerOf pt (da / 2 ^ 48) = 0) then .refuse 0x106
      else if !peer ∧ (s.windowForm (some pt) true da len).isNone then .refuse 0x106
      else if ts.any (fun t => s.shardOver pt (bedLayout b (bedTensor b t).layout)) then .refuse 0x109
      else if ts.any fun t => !s.versionHeld pt b t v then .refuse 0x10F
      else if peer ∧ 4096 ≤ s.comp.fab.tx.length then .refuse 0x108
      else
        -- ENGINE names a Sluice of the die that holds the data: that of the first byte of the first tensor's slot
        let vs := ts.map fun t => s.view pt b t v
        let die := (s.dieOf pt (vs.headD default).lay.space (addrOf (vs.headD default).lay.base (vs.headD default).off (vs.headD default).lay.span.1)).getD 0
        let eng := 2 * die + field (u32 blk 4) 1 1
        -- the copy must end before a step already promised needs the slot; count holds the bound, 0 for none
        let needs := (s.admsOf pt).flatMap fun x => if dOp x.desc ≠ 1 then [] else ts.flatMap fun t =>
          if 2 ≤ (s.part pt).ring b t ∧ dStep x.desc + 1 = v + (s.part pt).ring b t then
            (x.storeQ.filter fun y => some y.1 == ringWeight b t).map (·.2.1)
          else []
        let a : Adm := { pt := pt, admno := 0, sq := sq, desc := d, promise := 0, src := blk, count := needs.foldl (fun m x => if m = 0 then x else min m x) 0,
                         rank := v + eng * 2 ^ 48, bed := b }
        .grant a [s.sluiceStage pt eng (96 + cdiv len 512) (vs.map fun w => w.lay.demand w.off w.lay.reach)]

/-- DMA_IN and DMA_OUT (R234, R240, R329). -/
def State.dmaVerdict (s : State) (pt sq : Nat) (d : List Byte) : Verdict :=
  let out := dOp d == 9
  let n := u32 d 0x18
  let ad := dAddr d 0x20
  match s.commonCode pt d false [ad.2] with
  | some c => .refuse c
  | none =>
    if n = 0 ∨ ad.2 = 2 ∨ !s.inSpace pt ad.2 ad.1 n ∨ (s.windowFor (some pt) out (u64 d 0x28) n).isNone then .refuse 0x106
    else .grant { pt := pt, admno := 0, sq := sq, desc := d, promise := 0
                  ranges := if out then [] else [(ad.2, (ad.1 : Int), (ad.1 : Int) + n)] } [{ res := [(resDma out, min n s.dmaCap)], dur := max 1 (cdiv n s.dmaCap) }]

/-- Layouts that a step uses: of its tensors with their wide-channel planes and zero points, and of its operands' copies (R134). -/
def stepLayouts (b : List Byte) : List Nat :=
  ((bedTensors b).flatMap fun t => [t.layout] ++ (if t.spill = none32 then [] else [t.spill]) ++
    (if t.wides = 0 ∨ t.wideLayout = none32 then [] else [t.wideLayout]) ++ (if t.zpLayout = none32 then [] else [t.zpLayout])) ++
  (List.range (secCount b 0x0204)).filterMap fun u => if usePath b u = 0 ∨ useCopy b u = none32 then none else some (useCopy b u)

/-- STEP (R244). Its profile is derived with the planning figures and the groups as they are now (R240, R241, R252; DESIGN CHOICE: entry 12). -/
def State.stepVerdict (s : State) (pt sq : Nat) (d : List Byte) : Verdict :=
  let p := s.part pt
  let b := s.bedOf pt
  let n := dStep d
  let order := match p.rerun, p.lastStep with
    | some r, _ => n == r
    | none, some l => n == l + 1
    | none, none => decide (p.commit < n)
  match s.commonCode pt d true [] with
  | some c => .refuse c
  | none =>
    if (stepLayouts b).any fun l => s.shardOver pt (bedLayout b l) then .refuse 0x109
    else if !order ∨ 4 ≤ ((s.admsOf pt).filter fun a => dOp a.desc == 1).length then .refuse 0x107
    else .grant { pt := pt, admno := 0, sq := sq, desc := d, promise := 0, bed := b } (s.stepProfile pt b n)

/-- The 64 bytes of a scalar set that a SCALAR_SET names: memory, or what the host's memory holds (R215). -/
def State.scalarVerdict (s : State) (pt sq : Nat) (d : List Byte) : Verdict :=
  let ad := dAddr d 0x20
  match s.commonCode pt d true [ad.2] with
  | some c => .refuse c
  | none =>
    if !(if ad.2 = 2 then (s.windowForm (some pt) false ad.1 64).isSome else s.inSpace pt ad.2 ad.1 64) then .refuse 0x106
    else .grant { pt := pt, admno := 0, sq := sq, desc := d, promise := 0 } []

/-- FENCE. -/
def State.fenceVerdict (s : State) (pt sq : Nat) (d : List Byte) : Verdict :=
  match s.commonCode pt d false [] with
  | some c => .refuse c
  | none => .grant { pt := pt, admno := 0, sq := sq, desc := d, promise := 0 } []

/-! ### Deciding (R236 to R245) -/

/-- Refuse the heads whose opcode is not in Table 09-2 while it is their turn. -/
def State.skipUndefined : Nat → State → State
  | 0, s => s
  | k + 1, s =>
    match s.turn with
    | none => s
    | some (pt, sq) =>
      match s.headOf pt sq with
      | none => s
      | some d =>
        if 1 ≤ dOp d ∧ dOp d ≤ 0x0A then s
        else
          let c := (s.commonCode pt d false []).getD 0x104
          State.skipUndefined k ((s.takeHead pt sq).refuse pt sq d c 0)

/-- Decide the head of a queue when it is its turn and its opcode is the one given; otherwise no decision is made. -/
def State.decideHead (s : State) (pt sq op : Nat) (v : State → List Byte → Verdict) (after : List Byte → State → Nat → State) : State :=
  match s.turn, s.headOf pt sq with
  | some (p, q), some d =>
    if p ≠ pt ∨ q ≠ sq ∨ dOp d ≠ op then s
    else
      let s := s.takeHead pt sq
      let s := s.settleVerdict pt sq d (v s d) (after d)
      s.skipUndefined s.comp.weir.heads.length
  | _, _ => s

/-- STEP. -/
def execStep (pt : Pt) (sq : QueueIx) (s : State) : Host.Outcome State Fault Refusal :=
  .next (s.decideHead pt sq 1 (fun s d => s.stepVerdict pt sq d) fun d s _ =>
    let n := dStep d
    let s := s.put64 (Reg.weirPtStepLo pt) n
    s.modPart pt fun p =>
      { p with
        steps := p.steps ++ [{ num := n }]
        rerun := none
        lastStep := some n
        first := if p.first.isNone then some n else p.first })

/-- SEED. -/
def execSeed (pt : Pt) (sq : QueueIx) (s : State) : Host.Outcome State Fault Refusal :=
  .next (s.decideHead pt sq 2 (fun s d => s.seedVerdict pt sq d) fun _ s _ => s)

/-- COPY. -/
def execCopy (pt : Pt) (sq : QueueIx) (s : State) : Host.Outcome State Fault Refusal :=
  .next (s.decideHead pt sq 3 (fun s d => s.moveVerdict pt sq d) fun _ s _ => s)

/-- GATHER. -/
def execGather (pt : Pt) (sq : QueueIx) (s : State) : Host.Outcome State Fault Refusal :=
  .next (s.decideHead pt sq 4 (fun s d => s.moveVerdict pt sq d) fun _ s _ => s)

/-- SCATTER. -/
def execScatter (pt : Pt) (sq : QueueIx) (s : State) : Host.Outcome State Fault Refusal :=
  .next (s.decideHead pt sq 5 (fun s d => s.moveVerdict pt sq d) fun _ s _ => s)

/-- A scalar set arrives (Table 08-5): the completion status and what is held. -/
def Part.takeSet (p : Part) (rec_ : List Byte) : Nat × Part :=
  let n := u48 rec_ 0
  let slots := (List.range 8).map fun i => u32 rec_ (0x10 + 4 * i)
  let new : ScalarSet := ⟨n, false, slots⟩
  if slots.any fun w => field w 30 23 == 255 then (0x0B, p)
  else if n ≤ p.commit then (9, p)
  else match p.sets.find? fun x => x.step == n with
    | some x => if x.locked then (8, p) else (0, { p with sets := p.sets.map fun y => if y.step == n then new else y })
    | none => if 4 ≤ p.sets.length then (0x0A, p) else (0, { p with sets := p.sets ++ [new] })

/-- SCALAR_SET (R215, R216): the record comes from the partition's memory, or from the host window that space 2 names. -/
def execScalarSet (pt : Pt) (sq : QueueIx) (hostRecord : List Byte) (s : State) : Host.Outcome State Fault Refusal :=
  .next (s.decideHead pt sq 6 (fun s d => s.scalarVerdict pt sq d) fun d s n =>
    let ad := dAddr d 0x20
    let rec_ := if ad.2 = 2 then slice hostRecord 0 64 else s.readSpace pt ad.2 ad.1 64
    let (st, p) := (s.part pt).takeSet rec_
    let s := s.modPart pt fun _ => p
    (if st = 0 then s.endScalarWait pt (u48 rec_ 0) else s).complete pt n st)

/-- SNAPSHOT: a peer snapshot opens its flow (R313). -/
def execSnapshot (pt : Pt) (sq : QueueIx) (s : State) : Host.Outcome State Fault Refusal :=
  .next (s.decideHead pt sq 7 (fun s d => s.snapVerdict pt sq d) fun _ s n =>
    match s.adm pt n with
    | some a =>
      if bit (u32 a.src 4) 0 then
        let da := u64 a.src 0x10
        (s.openFlow pt (s.peerOf pt (da / 2 ^ 48)) 1 n).2
      else s
    | none => s)

/-- DMA_IN. -/
def execDmaIn (pt : Pt) (sq : QueueIx) (s : State) : Host.Outcome State Fault Refusal :=
  .next (s.decideHead pt sq 8 (fun s d => s.dmaVerdict pt sq d) fun _ s _ => s)

/-- DMA_OUT. -/
def execDmaOut (pt : Pt) (sq : QueueIx) (s : State) : Host.Outcome State Fault Refusal :=
  .next (s.decideHead pt sq 9 (fun s d => s.dmaVerdict pt sq d) fun _ s _ => s)

/-- FENCE: it completes as soon as its fence and remote condition hold. -/
def execFence (pt : Pt) (sq : QueueIx) (s : State) : Host.Outcome State Fault Refusal :=
  .next (s.decideHead pt sq 0x0A (fun s d => s.fenceVerdict pt sq d) fun _ s _ => s)

/-! ### Promises (R248) -/

/-- PROMISE_EXPIRE: an incomplete descriptor past its promise is overdue, and those that wait for it are charged PRIOR_LATE. -/
def execPromiseExpire (pt : Pt) (admno : Word) (s : State) : Host.Outcome State Fault Refusal :=
  .next (match s.adm pt admno.toNat with
    | none => s
    | some a =>
      if a.overdue ∨ s.time ≤ a.promise then s
      else
        let missing := dOp a.desc == 1 && (List.range (secCount a.bed 0x0203)).any fun t =>
          !produced a.bed t && (bedTensor a.bed t).kind != 0 && (List.range (secCount a.bed 0x0204)).any (fun u => useTensor a.bed u == t) &&
            !(s.part pt).seeds.any fun y => y.1 == dStep a.desc && y.2.1 == t
        let s := if missing then s.chargeAdm pt admno.toNat 8 0 else s
        let s := if (dOp a.desc == 8 || dOp a.desc == 9) && a.started then s.chargeAdm pt admno.toNat 0x0D a.sq else s
        (s.modAdm pt admno.toNat fun a => { a with overdue := true }).chargeWaiting a)

/-! ### Host transfers (R204, R240, R326, R329) -/

/-- Whether a message of a transfer is still on its way or waiting to be sent. -/
def State.transferOut (s : State) (pt admno : Nat) : Bool :=
  let mine := fun (p : Purpose) => match p with
    | .dmaIn a n _ => a == pt && n == admno
    | .dmaOut a n => a == pt && n == admno
    | _ => false
  s.rill.outst.any (fun o => mine o.purpose) || s.rill.waiting.any fun o => mine o.purpose

/-- Host transfers with nothing on its way and bytes missing were stopped at a window: they end WINDOW_FAULT (R326, R328, R330). -/
def State.endStopped (s : State) : State :=
  let l := s.comp.weir.adms.filter fun a => a.started && decide (0 < a.left) && !s.transferOut a.pt a.admno &&
    (dOp a.desc == 8 || dOp a.desc == 9 || (dOp a.desc == 2 && (dAddr a.desc 0x20).2 == 2) ||
      (dOp a.desc == 7 && !bit (u32 a.src 4) 0))
  forEach l (fun a s => s.complete a.pt a.admno 0x0C) s

/-- HOST_DMA_STAGE_START (R240): the stage starts at its quantum once its fence and the overlap order allow. -/
def execHostDmaStageStart (pt : Pt) (admno : Word) (s : State) : Host.Outcome State Fault Refusal :=
  .next (match s.adm pt admno.toNat with
    | none => s
    | some a =>
      let n := a.admno
      let op := dOp a.desc
      let ad := dAddr a.desc 0x20
      let len := u32 a.desc 0x18
      if !s.opReady a then s
      else if op = 8 then
        let s := s.modAdm pt n fun a => { a with started := true, left := len }
        (s.memRdAll (some pt) (u64 a.desc 0x28) len fun off => .dmaIn pt n off).endStopped
      else if op = 9 then
        let s := s.modAdm pt n fun a => { a with started := true, left := len }
        (s.memWrAll (len / 64 + 2) (some pt) (u64 a.desc 0x28) (s.readSpace pt ad.2 ad.1 len) (.dmaOut pt n)).endStopped
      else if op = 2 ∧ ad.2 = 2 then
        let held := s.holdScales a
        let sp := seedSpans (s.seedView held) (dMb a.desc)
        let n1 := (sp.1.2 - sp.1.1).toNat
        let n2 := (sp.2.2 - sp.2.1).toNat
        let host := fun (d : Int) => (s.windowForm (some pt) false ((ad.1 : Int) + d).toNat 0).getD 0
        let h1 := host sp.1.1
        let h2 := host sp.2.1
        let s := s.modAdm pt n fun a => { a with started := true, held := held.held, left := n1 + n2, out := List.replicate (n1 + n2) 0#8 }
        let s := s.memRdAll (some pt) h1 n1 fun off => .dmaIn pt n off
        (s.memRdAll (some pt) h2 n2 fun off => .dmaIn pt n (n1 + off)).endStopped
      else s)

/-- The host has written committed state into a weight's slot of the next step: it carries that step's coarse scale, and the tensor's rung
(R90, R204). -/
def State.hostVersion (s : State) (pt : Nat) (r : Nat × Int × Int) : State :=
  match (s.part pt).bed with
  | none => s
  | some b =>
    let next := (s.part pt).commit + 1
    let v := fun (s : State) (t : Nat) => s.viewAt pt b t next (s.coarse pt t next) (s.rungAt pt t next)
    let hit := (List.range (secCount b 0x0203)).filter fun t =>
      (ringWeight b t).isSome && (s.part pt).scales.any (fun x => x.tensor == t) && ((v s t).ranges 0).any (rangesMeet r)
    forEach hit (fun t s => s.noteScaleP pt b t next (v s t).c (v s t).fmt) s

/-- Bytes of a host transfer arrive for an admitted descriptor (R204, R234). A transfer whose range meets a weight region is dropped whole
once bytes of it come while a step is in flight, with one event. The last bytes complete the descriptor. -/
def State.dmaArrives (s : State) (pt admno off : Nat) (data : List Byte) : State :=
  match s.adm pt admno with
  | none => s
  | some a =>
    let ad := dAddr a.desc 0x20
    let left := a.left - data.length
    let s := (s.moveBytes 17 pt data.length).modAdm pt admno fun a => { a with left := left }
    if dOp a.desc = 8 then
      let at0 := ad.1 + off
      let flying := (s.part pt).steps.any fun x => x.st != 0
      let whole : Nat × Int × Int := (ad.2, (ad.1 : Int), (ad.1 : Int) + u32 a.desc 0x18)
      let s :=
        if a.dropped then s
        else if flying ∧ s.tied pt whole then
          ((s.modAdm pt admno fun a => { a with dropped := true }).bump (Reg.dieTiedwr 0 pt) 1).ptEvent pt 3 (leBytes 8 (ad.1 + at_ 48 ad.2))
        else (s.writeSpace pt ad.2 at0 data).hostVersion pt (ad.2, (at0 : Int), (at0 : Int) + data.length)
      if left = 0 then s.complete pt admno 0 else s
    else
      let s := s.modAdm pt admno fun a => { a with out := splice a.out off data }
      if left ≠ 0 then s
      else match s.adm pt admno with
        | none => s
        | some a =>
          let sp := seedSpans (s.seedView a) (dMb a.desc)
          let n1 := (sp.1.2 - sp.1.1).toNat
          let get := fun (d : Int) =>
            if sp.1.1 ≤ d ∧ d < sp.1.2 then (nth a.out (d - sp.1.1).toNat 0#8, false)
            else (nth a.out (n1 + (d - sp.2.1).toNat) 0#8, false)
          (s.runSeed a get).complete pt admno 0

/-- Bytes of a transfer to the host have been accepted (R234, R250). -/
def State.dmaAccepted (s : State) (pt admno n : Nat) : State :=
  match s.adm pt admno with
  | none => s
  | some a =>
    let left := a.left - n
    let s := (s.moveBytes 17 pt n).modAdm pt admno fun a => { a with left := left }
    if left ≠ 0 then s
    else
      let s := if dOp a.desc = 7 then s.bump (Reg.dieSnapcnt 0 pt) 1 else s
      s.complete pt admno 0

/-- A host transfer ends WINDOW_FAULT (R326). -/
def State.dmaFails (s : State) (pt admno : Nat) : State := s.complete pt admno 0x0C

end Sys2Proof.Machine
end

