-- ==== Sys2Proof/Machine/Rill.lean ====
section
/-! DEFINITION. Rill.lean: training, flits, messages, windows, queues, doorbells and the Rill reset (R321 to R339, R363). -/
namespace Sys2Proof.Machine

/-! ### Transfers that end without an answer (R326, R330, R363) -/

/-- A security command's transfer fails (R403). -/
def State.secFails (s : State) : State :=
  s.modSec fun x => { x with run := x.run.map fun r => { r with failed := true } }

/-- A message ended unanswered or aborted: its transfer ends with WINDOW_FAULT, a record's entry is issued again, a fetch is asked for
again (R326, R363; entry 43). -/
def State.transferFails (s : State) (p : Purpose) : State :=
  match p with
  | .fetch pt _ _ => s.pumpFetches pt
  | .entry => s
  | .record uid => s.ringFailed uid
  | .dmaIn pt n _ =>
    let mine := fun (q : Purpose) => match q with | .dmaIn a b _ => a == pt && b == n | _ => false
    (s.modRill fun r => { r with waiting := r.waiting.filter fun w => !mine w.purpose }).dmaFails pt n
  | .dmaOut pt n => s.dmaFails pt n
  | .secObject _ => s.secFails
  | .secOutput => s.secFails

/-- Take an outstanding message out by its tag and direction. -/
def State.takeOut (s : State) (tag : Nat) (read : Bool) : Option Outstanding × State :=
  let hit := fun (o : Outstanding) => o.tag == tag && o.read == read
  (s.rill.outst.find? hit, s.modRill fun r => { r with outst := r.outst.eraseP hit })

/-- Tag of a message that waits for credit. -/
def HostMsg.tag? : HostMsg → Option Nat
  | .memRd t _ _ => some t
  | .memWr t _ _ => some t
  | _ => none

/-- A message has been sent: it is not waiting for credit. -/
def State.isSent (s : State) (o : Outstanding) : Bool := !s.rill.held.any fun m => m.tag? == some o.tag

/-- RILL_WIN_STAT.OUTSTANDING of a window: messages sent and not yet answered (R330). -/
def State.windowOutstanding (s : State) (w : Nat) : Nat := (s.rill.outst.filter fun o => o.window == w && s.isSent o).length

/-- Send the messages that wait for credit, oldest first; one whose window has lost VALID or the right it needs is stopped (R326,
R328). -/
def State.pumpHeld : Nat → State → State
  | 0, s => s
  | k + 1, s =>
    match s.rill.held with
    | [] => s
    | m :: rest =>
      let o := m.tag?.bind fun t => s.rill.outst.find? fun o => o.tag == t
      let stopped := match m.tag?, o with
        | none, _ => false
        | some _, none => true
        | some _, some o => let c := s.winCtl o.window; !(bit c 0 && (if o.read then bit c 1 else bit c 2))
      if stopped then
        let s := (s.modRill fun r => { r with held := rest }).bump Reg.rillDmaref 1
        match o with
        | none => State.pumpHeld k s
        | some o => State.pumpHeld k ((s.takeOut o.tag o.read).2.transferFails o.purpose)
      else if s.rill.creditReq < m.credit then s
      else
        let s := s.modRill fun r =>
          { r with
            held := rest
            outst := r.outst.map fun o =>
              if some o.tag == m.tag? then { o with deadline := s.time + s.reg Reg.rillCplto } else o }
        State.pumpHeld k (s.putHost m)

/-- Reads that wait are sent as answers make room, and transfers stopped at a window end (R326, R328). -/
def State.pumpLink (s : State) : State := (s.pumpReads s.rill.waiting.length).endStopped

/-! ### Rings (R331, R332, R334, R335) -/

/-- A fetch whose queue was disabled: its descriptors are discarded when they arrive (R332). -/
def State.staleFetches (s : State) (pt sq : Nat) : State :=
  let hit := fun (p : Purpose) => match p with | .fetch a b _ => a == pt && b == sq | _ => false
  s.modRill fun r =>
    { r with
      outst := r.outst.map fun o => if hit o.purpose then { o with purpose := .entry } else o
      waiting := r.waiting.filter fun w => !hit w.purpose }

/-- What follows once a ring may have room: held entries, events or records are posted, and fetching resumes. -/
def State.ringPump (s : State) (id : RingId) : State :=
  match id with
  | .sq pt n => s.pumpFetch pt n
  | .cq pt n => (s.drainHold ((vget s.queues pt).hold.length) pt n).pumpFetches pt
  | .eq pt => s.drainEvents 66 (some pt)
  | .meq => s.drainEvents 66 none
  | .faultRing => s.pumpRing

/-- A ring is disabled: ENABLE reads 0, and fetches on their way bring nothing. -/
def State.ringDisable (s : State) (id : RingId) : State :=
  let s := s.put (ringCtl id) (setField (s.reg (ringCtl id)) 0 0 0)
  match id with
  | .sq pt n => s.staleFetches pt n
  | .faultRing => s.ringOff
  | _ => s

/-- The check of ENABLE (R331): size, alignment, and the whole ring in one window of its owner with the right it needs. -/
def State.ringFits (s : State) (id : RingId) : Bool :=
  let l := field (s.reg (ringCtl id)) 5 1
  let base := s.reg64 (ringBaseLo id)
  let write := match id with | .sq _ _ => false | _ => true
  decide (4 ≤ l ∧ l ≤ 16 ∧ base % 64 = 0) && (s.windowFor (ringOwner id) write base (64 * 2 ^ l)).isSome

/-- A write of a ring's control word (R331): LOG2SIZE stands while the ring is enabled. -/
def State.writeRingCtl (s : State) (id : RingId) (w : Word) : State :=
  let off := ringCtl id
  let mask := ((regRow off).map (·.mask)).getD 0
  let old := s.reg off
  let on := bit old 0
  let new := w.toNat &&& mask
  let sized := on && field new 5 1 != field old 5 1
  let s := if sized then s.accErr off .locked else s
  let new := if on then setField new 5 1 (field old 5 1) else new
  let s := s.put off (setField new 0 0 (b2n on))
  if bit new 0 ∧ !on then
    if s.ringFits id then
      let s := s.put off (setField new 0 0 1)
      let s := s.modRing id fun r => { phase := true, dberr := r.dberr }
      s.ringPump id
    else s.modRing id fun r => { r with fault := 1 }
  else if !bit new 0 ∧ on then s.ringDisable id
  else s

/-- QUEUE_ENABLE. -/
def execQueueEnable (ring : RingId) (ctl : Word) (s : State) : Host.Outcome State Fault Refusal :=
  .next (s.hostWrite (ringCtl ring) fun s => s.writeRingCtl ring ctl)

/-- A doorbell of a submission queue sets the tail (R332, Table 12-10). -/
def State.writeSqDb (s : State) (pt : Pt) (n : QueueIx) (v : Nat) : State :=
  let id : RingId := .sq pt n
  let t := field v 15 0
  if !s.ringOn id ∨ s.ringSize id ≤ t then s.modRing id fun r => { r with dberr := true }
  else (s.modRing id fun r => { r with tail := t, dberr := false }).ringPump id

/-- A doorbell that sets the head of a ring the module writes (R334, R335, R363, Table 12-10). -/
def State.writeHeadDb (s : State) (id : RingId) (v : Nat) : State :=
  let h := field v 15 0
  let size := s.ringSize id
  let r := s.ring id
  if !s.ringOn id ∨ size ≤ h ∨ (r.tail + size - r.head) % size < (h + size - r.head) % size then
    s.modRing id fun r => { r with dberr := true }
  else (s.modRing id fun r => { r with head := h, dberr := false }).ringPump id

/-- QW_SQ_DB. -/
def execQwSqDb (pt : Pt) (n : QueueIx) (tail : BitVec 16) (s : State) : Host.Outcome State Fault Refusal :=
  .next (s.hostWrite (Reg.qwSqDb pt n) fun s => s.writeSqDb pt n tail.toNat)

/-- QW_CQ_DB. -/
def execQwCqDb (pt : Pt) (n : QueueIx) (head : BitVec 16) (s : State) : Host.Outcome State Fault Refusal :=
  .next (s.hostWrite (Reg.qwCqDb pt n) fun s => s.writeHeadDb (.cq pt n) head.toNat)

/-- QW_EQ_DB. -/
def execQwEqDb (pt : Pt) (head : BitVec 16) (s : State) : Host.Outcome State Fault Refusal :=
  .next (s.hostWrite (Reg.qwEqDb pt) fun s => s.writeHeadDb (.eq pt) head.toNat)

/-- RILL_MEQ_DB. -/
def execRillMeqDb (head : BitVec 16) (s : State) : Host.Outcome State Fault Refusal :=
  .next (s.hostWrite Reg.rillMeqDb fun s => s.writeHeadDb .meq head.toNat)

/-- FAULT_RING_DB. -/
def execFaultRingDb (head : BitVec 16) (s : State) : Host.Outcome State Fault Refusal :=
  .next (s.hostWrite Reg.faultRingDb fun s => s.writeHeadDb .faultRing head.toNat)

/-- MOD_TIME_EXPIRE (R336): MOD_TIME µs have passed since the first unsignalled entry was posted. -/
def execModTimeExpire (ring : RingId) (s : State) : Host.Outcome State Fault Refusal :=
  let m := field (s.reg (ringCtl ring)) 31 24
  .next (match ring, (s.ring ring).firstAt with
    | .sq _ _, _ => s
    | _, some t => if s.ringOn ring ∧ m ≠ 0 ∧ t + 225 * m ≤ s.time then s.ringSignal ring true else s
    | _, none => s)

/-! ### Windows (R328, R330) -/

/-- Every ring, the MEQ first. -/
def allRings : List RingId :=
  .meq :: ((List.finRange 16).flatMap fun pt =>
    (List.finRange 8).map (fun n => .sq pt n) ++ (List.finRange 8).map (fun n => .cq pt n) ++ [.eq pt]) ++ [.faultRing]

/-- QUEUE_FAULT kind and number of a ring (Table 12-8). -/
def ringKind : RingId → Nat × Nat
  | .sq _ n => (0, n)
  | .cq _ n => (1, n)
  | .eq _ => (2, 0)
  | .meq => (3, 0)
  | .faultRing => (4, 0)

/-- A ring is disabled because its window was revoked, and QUEUE_FAULT names it (R330, R363). The MEQ's own event goes before those
it holds. -/
def State.ringRevoked (s : State) (id : RingId) : State :=
  let s := (s.ringDisable id).modRing id fun r => { r with fault := 2 }
  let e : Event := ⟨0x25, ringOwner id, s.time, packLE [(4, (ringKind id).1), (4, (ringKind id).2), (4, 2)]⟩
  match id with
  | .meq =>
    if s.rill.meq.held.length < 64 then s.modEvq none fun x => { x with held := e :: x.held }
    else (s.modEvq none fun x => { x with held := e :: x.held.take 63, lost := x.lost + 1 }).bump Reg.rillMeqLost 1
  | .faultRing =>
    let s := s.modRill fun r =>
      { r with outst := r.outst.map fun o => match o.purpose with | .record _ => { o with purpose := .entry } | _ => o }
    s.ringDropped.event none e
  | _ => s.event none e

/-- A window loses VALID (R330): messages that wait for it are stopped, and enabled rings that lie in it are disabled. -/
def State.revoke (s : State) (w : Nat) (owner : Option Nat) : State :=
  let lo := s.winBase w
  let hi := lo + s.winLen w
  let inside := fun (id : RingId) =>
    let b := s.reg64 (ringBaseLo id)
    s.ringOn id && ringOwner id == owner && decide (lo ≤ b ∧ b + 64 * s.ringSize id ≤ hi)
  let rings := allRings.filter inside
  let gone := s.rill.outst.filter fun o => o.window == w && !s.isSent o
  let tags := gone.map (·.tag)
  let s := s.modRill fun r =>
    { r with
      held := r.held.filter fun m => match m.tag? with | some t => !tags.contains t | none => true
      outst := r.outst.filter fun o => !(tags.contains o.tag) }
  let s := s.bump Reg.rillDmaref gone.length
  let s := forEach rings (fun id s => s.ringRevoked id) s
  forEach gone (fun o s => s.transferFails o.purpose) s

/-- A write of RILL_WIN_CTL (Table 12-12). -/
def State.writeWinCtl (s : State) (w : Nat) (v : Nat) : State :=
  let off := Reg.rillWinCtl w
  let old := s.reg off
  let new := v &&& 0x1F07
  let on := bit old 0
  if bit new 0 ∧ !on ∧ (s.winLen w = 0 ∨ 2 ^ 42 < s.winLen w) then
    s.modRill fun r => { r with winBad := setInsert w r.winBad }
  else
    let moved := on && field new 12 8 != field old 12 8
    let s := if moved then s.accErr off .locked else s
    let new := if on then setField new 12 8 (field old 12 8) else new
    let s := (s.modRill fun r => { r with winBad := r.winBad.filter (· != w) }).put off new
    let s := if on ∧ !bit new 0 then s.revoke w (if bit old 12 then none else some (field old 11 8)) else s
    if on then s.pumpLink else s

/-- WINDOW_GRANT: VALID is written 1. -/
def execWindowGrant (w : Fin 64) (ctl : Word) (s : State) : Host.Outcome State Fault Refusal :=
  .next (s.hostWrite (Reg.rillWinCtl w) fun s => s.writeWinCtl w (ctl.toNat ||| 1))

/-- WINDOW_REVOKE: VALID is written 0. -/
def execWindowRevoke (w : Fin 64) (ctl : Word) (s : State) : Host.Outcome State Fault Refusal :=
  .next (s.hostWrite (Reg.rillWinCtl w) fun s => s.writeWinCtl w (setField ctl.toNat 0 0 0))

/-! ### Training and the Rill reset (R321, R322, R337) -/

/-- RILL_STAT.STATE. -/
def Rill.state (r : Rill) : Nat := if r.up then 2 else if r.stage ≠ 0 then 1 else 0

/-- Change the link; a change of RILL_STAT.STATE fires source 0x12. -/
def State.relink (s : State) (f : Rill → Rill) : State :=
  let t := s.modRill f
  if s.rill.state = t.rill.state then t else t.fire 0x12

/-- Training starts at stage 1. -/
def State.trainRill (s : State) : State := s.relink fun r => { r with stage := 1, since := s.time, retryAt := none }

/-- The link and the queues take their reset values (R337): messages on the link are abandoned and their transfers end, events held and
Weir entries held stay. -/
def State.rillClear (s : State) : State :=
  let stopped := (s.rill.outst.map (·.purpose)) ++ (s.rill.waiting.map (·.purpose))
  let s := s.resetRegs fun o => regDomain o == .rill || blockOf o == .queueWindow
  let s := s.relink fun r => { meq := { r.meq with ring := {} }, cable := r.cable }
  let s := { s with queues := s.queues.map fun (q : PtQueues) => { eq := { q.eq with ring := {} }, hold := q.hold } }
  let s := if s.ringOn .faultRing then
      s.put Reg.faultRingCtl (setField (s.reg Reg.faultRingCtl) 0 0 0)
    else s
  let s := s.ringDropped
  let s := if stopped.any (fun p => match p with | .secObject _ => true | .secOutput => true | _ => false) then s.secFails else s
  s.endStopped

/-- A Rill reset while the module runs: the link trains again (R337). -/
def State.rillReset (s : State) : State := s.rillClear.trainRill

/-- Width that a set of good lanes gives (R322). -/
def laneWidth (good : Nat) : Nat := if good = 0xFF then 8 else if field good 3 0 = 15 ∨ field good 7 4 = 15 then 4 else 0

/-- The link comes up: at x4, stages reserved above the new capacity are late through HOST_DMA (R322). -/
def State.linkUp (s : State) (w : Nat) : State :=
  let s := s.relink fun r => { r with stage := 0, up := true, width := w }
  let q := s.time / 225
  let over_ := s.comp.weir.resv.filter fun r => decide (513 ≤ r.res ∧ q < r.to_) && !r.fits s.comp.weir.resv s.dmaCap q
  let s := forEach over_ (fun r s => match s.adm r.pt r.admno with
    | some a => s.chargeAdm r.pt r.admno 0x0D a.sq
    | none => s) s
  s.modEvent 0x24 (leBytes 4 w)

/-- Longest wait of a training stage in S cycles (Table 12-1). -/
def rillLimit (stage : Nat) : Nat := if stage = 1 then 22500 else if stage = 2 then 45000 else if stage = 3 then 2250 else 225

/-- A stage fails: training restarts after 22,500,000 S cycles (R321). -/
def State.rillFails (s : State) : State := s.relink fun r => { r with stage := 0, retryAt := some (s.time + 22500000) }

/-- Training passes on to a stage. -/
def State.rillNext (s : State) (stage : Nat) : State := s.modRill fun r => { r with stage := stage, since := s.time }

/-- RILL_TRAINING_STAGE (R321, R322): a stage passes within its limit or fails. Without the cable the link stays in stage 1 (R482). -/
def execRillTrainingStage (cable : Bool) (result : RillStageEnd) (s : State) : Host.Outcome State Fault Refusal :=
  let st := s.rill.stage
  let s := s.modRill fun r => { r with cable := cable }
  .next (if st = 0 then s
    else if !cable then s.rillNext 1
    else match result with
      | .fail => s.rillFails
      | .pass g =>
        if s.rill.since + rillLimit st < s.time then s.rillFails
        else
        let good := if st = 2 then g.toNat else if st = 3 then s.rill.good &&& g.toNat else s.rill.good
        let s := s.modRill fun r => { r with good := good }
        if st = 1 ∨ st = 2 then s.rillNext (st + 1)
        else if laneWidth good = 0 then s.rillFails
        else if st = 3 then s.rillNext 4
        else s.linkUp (laneWidth good))

/-- RILL_RETRY. -/
def execRillRetry (s : State) : Host.Outcome State Fault Refusal :=
  .next (if s.due s.rill.retryAt then s.trainRill else s)

/-- LINK_DOWN. -/
def execLinkDown (s : State) : Host.Outcome State Fault Refusal := .next (if s.rill.up then s.rillReset else s)

/-- RESET: a RESET message from the adapter. -/
def execReset (s : State) : Host.Outcome State Fault Refusal := .next (if s.hostUp then s.rillReset else s)

/-- A write of RILL_CMD (Table 12-11). -/
def State.writeRillCmd (s : State) (v : Nat) : State :=
  if field v 15 8 ≠ 0x5A then s.accErr Reg.rillCmd .badKey else if bit v 0 then s.rillReset else s

/-- LINKRST. -/
def execLinkrst (key : Byte) (s : State) : Host.Outcome State Fault Refusal :=
  .next (s.hostWrite Reg.rillCmd fun s => s.writeRillCmd (1 + at_ 8 key.toNat))

/-! ### Flits (R323, R324) -/

/-- A received NAK (R324): flits from ACKSEQ + 1 are resent, at most the last 256; sixteen resends in a row of one flit end the link. -/
def State.resendFrom (s : State) (ack : Nat) : State :=
  let sent := cdiv s.rill.txBytes 240
  let n := min 256 ((sent + 4096 - (ack + 1) % 4096) % 4096)
  if n = 0 then s
  else
    let first := (sent + 4096 - n) % 4096
    let run := if s.rill.resendRun ≠ 0 ∧ s.rill.resendAt = first then s.rill.resendRun + 1 else 1
    let s := { s with hostTx := s.hostTx ++ [HostMsg.resend first n] }
    let s := (s.bump Reg.rillReplay n).modRill fun r => { r with resendAt := first, resendRun := run }
    if 16 ≤ run then s.rillReset else s

/-- FLIT (R324): one with a bad CRC, or out of order after one, is discarded; a NAK resends; credit lets waiting requests go. -/
def execFlit (f : Flit) (s : State) : Host.Outcome State Fault Refusal :=
  .next (if !s.hostUp then s
    else if !f.crcOk then
      (s.bump Reg.rillCrcerr 1).sendHost (.nak ((s.rill.rxNext + 4095) % 4096))
    else if f.fseq.toNat ≠ s.rill.rxNext then s
    else
      let s := s.modRill fun r =>
        { r with
          rxNext := (r.rxNext + 1) % 4096
          creditReq := r.creditReq + f.credReq.toNat
          creditCpl := r.creditCpl + f.credCpl.toNat }
      let s := if f.nak then s.resendFrom f.ackseq.toNat else s.modRill fun r => { r with resendRun := 0 }
      s.pumpHeld s.rill.held.length)

/-! ### Messages (R325, R326, R332) -/

/-- Message types the host may send (Table 12-4). -/
def mtDefined (m : Nat) : Bool := m == 1 || m == 2 || m == 5 || m == 7 || m == 9

/-- A message arrives: one with an undefined MT, or an MT of the other direction, is discarded and counted (R325). -/
def State.message (s : State) (h : MsgHeader) (mt : Nat) (f : State → State) : State :=
  if !s.hostUp then s
  else if !mtDefined h.mt.toNat then s.bump Reg.rillProterr 1
  else if h.mt.toNat ≠ mt then s
  else f s

/-- Fetched descriptors enter the Weir's queue, and QW_SQ_HEAD advances over them (R332). -/
def State.takeDescriptors (s : State) (pt sq n : Nat) (data : List Byte) : State :=
  let id : RingId := .sq (Fin.ofNat 16 pt) (Fin.ofNat 8 sq)
  if !s.ringOn id then s
  else
    let cq := field (s.reg (ringCtl id)) 10 8
    let ds := (List.range n).map fun i => (pt, sq, slice data (64 * i) 64 ++ [BitVec.ofNat 8 cq])
    let s := s.modRing id fun r => { r with head := (r.head + n) % s.ringSize id }
    let s := s.modWeir fun w => { w with heads := w.heads ++ ds }
    let s := s.skipUndefined s.comp.weir.heads.length
    s.pumpFetches pt

/-- MEM_CPL (R326). -/
def execMemCpl (h : MsgHeader) (data : List Byte) (s : State) : Host.Outcome State Fault Refusal :=
  .next (s.message h 5 fun s =>
    match s.takeOut h.tag.toNat true with
    | (none, _) => s
    | (some o, s) =>
      let d := slice data 0 o.len
      let s := if h.status ≠ 0#4 then s.transferFails o.purpose
        else match o.purpose with
          | .fetch pt sq n => s.takeDescriptors pt sq n d
          | .dmaIn pt n off => s.dmaArrives pt n off d
          | .secObject off => s.modSec fun x => { x with run := x.run.map fun (r : SecRun) => { r with parts := r.parts ++ [(off, d)] } }
          | _ => s
      s.pumpLink)

/-- MEM_ACK (R326). -/
def execMemAck (h : MsgHeader) (s : State) : Host.Outcome State Fault Refusal :=
  .next (s.message h 7 fun s =>
    match s.takeOut h.tag.toNat false with
    | (none, _) => s
    | (some o, s) =>
      let s := match o.purpose with
        | .record uid => s.ringAcked uid
        | .dmaOut pt n => s.dmaAccepted pt n o.len
        | .secOutput => s.modSec fun x => { x with run := x.run.map fun (r : SecRun) => { r with writes := r.writes - 1 } }
        | _ => s
      s.pumpLink)

/-- CPL_TIMEOUT (R326): a message unanswered RILL_CPLTO S cycles after it was sent ends its transfer. -/
def execCplTimeout (tag : BitVec 16) (s : State) : Host.Outcome State Fault Refusal :=
  .next (match s.rill.outst.find? fun o => o.tag == tag.toNat && decide (o.deadline ≤ s.time) && s.isSent o with
    | none => s
    | some o => ((s.takeOut o.tag o.read).2.transferFails o.purpose).pumpLink)

end Sys2Proof.Machine
end

