-- ==== Sys2Proof/Machine/Resets.lean ====
section
/-! DEFINITION. Resets.lean: partition, compute and module reset, and the end of a scrub (R42 to R45, R49, R338, R426). -/
namespace Sys2Proof.Machine

/-! ### Partition and compute reset (R44, R45, Table 16-4) -/

/-- A test or rotation of an array ends and counts as not run; a tested array takes its role back (Table 16-4). -/
def State.endTest (s : State) (i : Nat) : State :=
  (s.endRotation i).modTest i fun t => { t with st := 0, waiting := false, forcing := false }

/-- Arrays that serve a partition, under test or not. -/
def State.arraysOf (s : State) (pt : Nat) : List Nat :=
  (List.range 72).filter fun i =>
    s.arrayOwner i == some pt || (match (vget s.tests i).spare with | some j => s.arrayOwner j == some pt | none => false)

/-- A Sluice engine drops what a partition runs or waits for on it (R44). -/
def State.dropEngines (s : State) (pt : Nat) : State :=
  forEach (List.range 8) (fun e s => s.modEng e fun x =>
    { fills := x.fills.filter fun f => f.2 != pt
      run := match x.run with | some r => if r.pt = pt then none else some r | none => none }) s

/-- The queues of a partition at its reset (R338): entries that find no room are discarded, PT_RESET carries their count. -/
def State.resetQueues (s : State) (pt : Nat) : State :=
  let gone := (vget s.queues pt).hold.length
  let mine := fun (p : Purpose) => match p with
    | .fetch a _ _ => a == pt
    | .dmaIn a _ _ => a == pt
    | .dmaOut a _ => a == pt
    | _ => false
  let s := s.modQ pt fun _ => {}
  let s := s.modRill fun r =>
    { r with
      outst := r.outst.map fun o => if mine o.purpose then { o with purpose := .entry } else o
      waiting := r.waiting.filter fun w => !mine w.purpose }
  s.event none ⟨0x22, some pt, s.time, leBytes 4 gone⟩

/-- Weir state of a partition goes: undecided descriptors, reservations, numbering (R44, Table 09-9). -/
def State.dropWeir (s : State) (pt : Nat) : State :=
  s.modWeir fun w =>
    { w with
      heads := w.heads.filter fun h => h.1 != pt
      adms := w.adms.filter fun a => a.pt != pt
      resv := w.resv.filter fun r => r.pt != pt
      lastSq := w.lastSq.filter fun x => x.1 != pt
      nextAdm := w.nextAdm.filter fun x => x.1 != pt
      profiles := w.profiles.filter fun x => x.1 != pt }

/-- Stages 1 to 3 of a reset of one partition, and what of stage 4 is not memory (R44, R45, R338, Table 16-4). -/
def State.resetPt (s : State) (pt : Nat) : State :=
  let s := s.modBoot fun b => { b with ptResetting := b.ptResetting ||| BitVec.ofNat 16 (2 ^ pt) }
  let s := s.modLoader fun l => { l with hit := l.hit ||| BitVec.ofNat 16 (2 ^ pt) }
  -- no fetch starts while descriptors end
  let s := forEach (List.range 8) (fun n s => s.ringDisable (.sq (Fin.ofNat 16 pt) (Fin.ofNat 8 n))) s
  let s := s.modWeir fun w => { w with heads := w.heads.filter fun h => h.1 != pt }
  let s := forEach (s.admsOf pt) (fun a s => s.completeOne pt a.admno 1) s
  let mine := s.arraysOf pt
  let s := forEach mine (fun i s => s.endTest i) s
  let s := forEach mine (fun i s => s.clearArray i) s
  let slots := (List.range 256).filter fun i => let g := s.group i; g.st != 0 && g.pt == pt
  let s := s.dropGroups pt
  let s := s.closeFlows fun f => f.pt == pt
  let s := s.modFab fun f =>
    { f with rx := f.rx.filter (fun x => x.pt != pt), peerIn := f.peerIn.filter fun m => m.1 != pt }
  let s := ((s.dropEngines pt).dropWeir pt).dropLearned pt
  let s := s.modPart pt fun _ => {}
  let s := s.modFault fun f => { f with recov := f.recov.filter (· != pt), commRec := f.commRec.filter fun c => c.1 != pt }
  let s := s.modPower fun p => { p with learned := p.learned.filter fun l => l.pt != pt }
  let s := s.resetQueues pt
  let s := s.skipUndefined s.comp.weir.heads.length
  -- registers of the partition, of its arrays and of its group slots (R43, R81, R232, R285)
  s.resetRegs fun o =>
    regDomain o == .partition pt ||
      (mine.any fun i => let b := 0x1100000 + 0x400000 * (i / 18) + 0x10000 * (i % 18); decide (b ≤ o ∧ o < b + 0x10000)) ||
      (slots.any fun i => decide (0x2001000 + 0x40 * i ≤ o ∧ o < 0x2001040 + 0x40 * i))

/-- Memory keys of a partition's pools and channels. -/
def State.ownsKey (s : State) (pt k : Nat) : Bool :=
  match s.ptRes pt with
  | some r => if k < hbmBase then bit r.pools (k / 2 ^ 23) else bit r.hbm ((k - hbmBase) / 2 ^ 31)
  | none => false

/-- A compute reset begins: every defined partition that is not resetting resets, and the compute dies' registers, arrays and engines
(R42, R44, Table 16-4). -/
def State.computeReset (s : State) : State :=
  if s.boot.computeResetting then s
  else
    let pts := (List.range 16).filter fun p => s.defined p && !s.boot.ptResetting.getLsbD p
    let s := s.modBoot fun b => { b with computeResetting := true }
    let s := forEach pts (fun p s => s.resetPt p) s
    -- roles read their reset value until the arrays are bound again (R15, R25)
    let s := forEach (List.range 72) (fun i s => s.endTest i) s
    let s := forEach (List.range 72) (fun i s => (s.clearArray i).modArr i fun A => { A with role := none }) s
    let s := s.modComp fun c => { c with engines := Vector.replicate 8 {} }
    s.resetRegs fun o => regDomain o == .compute

/-- A partition reset is asked for (R45, R49). -/
def State.partitionReset (s : State) (mask : Nat) : State :=
  if s.boot.computeResetting then s
  else
    let named := bitsOf 16 mask
    let s := if named.any fun p => !s.defined p then s.accErr Reg.globalReset .noPartition else s
    forEach (named.filter fun p => s.defined p && !s.boot.ptResetting.getLsbD p) (fun p s => s.resetPt p) s

/-- The scrub of a reset ends (R44, Table 16-4 stages 4 to 6). -/
def execScrubComplete (compute : Bool) (pt : Pt) (s : State) : Host.Outcome State Fault Refusal :=
  .next (if compute then
      if !s.boot.computeResetting then s
      else
        let s := s.scrubMem fun _ => true
        let s := forEach (List.range 4) (fun d s => bindDie s d) s
        s.modBoot fun b => { b with computeResetting := false, ptResetting := 0#16, unbound := [] }
    else if s.boot.computeResetting ∨ !s.boot.ptResetting.getLsbD pt then s
    else
      let s := s.scrubMem (s.ownsKey pt)
      s.modBoot fun b => { b with ptResetting := b.ptResetting &&& ~~~ BitVec.ofNat 16 (2 ^ pt.val) })

/-! ### Module reset (R42, R49, R51, R459) -/

/-- The rail sequence of B1 starts: the rails of order 1 are enabled (R437). -/
def State.startRails (s : State) : State :=
  s.modPower fun p =>
    { p with order := 1, retryAt := none, rails := (Vector.replicate 16 {}).set 0 { on := true } }

/-- Bring-up starts with B1 (R413). -/
def State.startBringup (s : State) : State :=
  (s.modBoot fun b => { input := b.input, phase := 1, reached := 1, trip := b.trip }).startRails

/-- A module reset (R42): everything takes its reset value but what outlives power, the levels of the inputs, and POWER_RSTCAUSE with its
SOURCE and ATTEMPTS (R459). A page program in progress completes first (Table 01-8); an install under way
leaves its region invalid (R411). Bring-up does not start here. -/
def State.moduleDown (s : State) (cause source : Nat) : State :=
  let s := (if s.cis.prog.isSome then s.programDone true else s).cutInstall
  let p := s.power
  { State.reset with
    pending := s.pending
    freshIx := s.freshIx
    nv := s.nv
    hostTx := s.hostTx
    portTx := s.portTx
    intc := { State.reset.intc with
      inputs := s.intc.inputs.map fun (x : InputSt) =>
        { raw := x.raw, level := x.level, activeAt := if x.level then some 0 else none } }
    boot := { input := s.boot.input, trip := s.boot.trip }
    power := { attempts := p.attempts, latched := p.latched, lost := p.lost, overAt := p.overAt
               absLimit := p.absLimit, pfw := p.pfw, cot := p.cot, leak := p.leak
               rstcause := wd (cause + at_ 8 p.attempts + at_ 16 source) } }

/-- A module reset with bring-up after it, as after the application of 54 V (R49). -/
def State.moduleReset (s : State) (cause source : Nat) : State :=
  let s := s.moduleDown cause source
  if s.boot.input ∧ !s.power.latched ∧ s.power.overAt.isNone then s.startBringup else s

/-- A write of GLOBAL_RESET (R45, R49). -/
def State.writeGlobalReset (s : State) (w : Nat) : State :=
  let scope := field w 3 0
  if field w 15 8 ≠ 0xA5 ∨ !(scope == 1 || scope == 2 || scope == 4) then s.accErr Reg.globalReset .badKey
  else if scope = 4 then s.moduleReset 1 0
  else if !s.boot.ready then s.accErr Reg.globalReset .notReady
  else if scope = 2 then s.computeReset
  else s.partitionReset (field w 31 16)

/-- PARTITION_RESET. -/
def execPartitionReset (key : Byte) (ptmask : BitVec 16) (s : State) : Host.Outcome State Fault Refusal :=
  .next (s.hostWrite Reg.globalReset fun s => s.writeGlobalReset (1 + at_ 8 key.toNat + at_ 16 ptmask.toNat))

/-- COMPUTE_RESET. -/
def execComputeReset (key : Byte) (s : State) : Host.Outcome State Fault Refusal :=
  .next (s.hostWrite Reg.globalReset fun s => s.writeGlobalReset (2 + at_ 8 key.toNat))

/-- MODULE_RESET. -/
def execModuleReset (key : Byte) (s : State) : Host.Outcome State Fault Refusal :=
  .next (s.hostWrite Reg.globalReset fun s => s.writeGlobalReset (4 + at_ 8 key.toNat))

end Sys2Proof.Machine
end

