-- ==== Sys2Proof/Machine/Security.lean ====
section
/-! DEFINITION. Security.lean: presence, SEC_CMD and attestation (R397 to R412). -/
namespace Sys2Proof.Machine

/-! ### Presence (R399 to R401) -/

/-- Open or restart the button window: 13,500,000,000 S cycles (R399). -/
def State.openWindow (s : State) : State := s.modSec fun x => { x with windowEnd := some (s.time + 13500000000) }

/-- A filtered level of inputs 0 to 2 that arrives while the module is in module reset: only the level is kept. -/
def State.inputLater (s : State) (i : Nat) (lvl : Bool) (f : Bool → State → State) : State :=
  if s.inputLevel i = lvl then s
  else if !s.boot.released then s.modInput i fun x => { x with raw := lvl, level := lvl }
  else let (seen, s) := s.inputChange i lvl; f seen s

/-- BUTTON_PRESS (R399, R401): a filtered press opens or restarts the window and places PRESENCE event 1; none while masked. -/
def execButtonPress (s : State) : Host.Outcome State Fault Refusal :=
  .next (s.inputLater 0 true fun seen s => if seen then s.openWindow.presence 1 0 else s)

/-- BUTTON_WINDOW_EXPIRE (R399): the window ends when its time has come. -/
def execButtonWindowExpire (s : State) : Host.Outcome State Fault Refusal :=
  .next (if s.sec.windowEnd.isSome ∧ !s.windowOpen then s.modSec fun x => { x with windowEnd := none } else s)

/-- JUMPER_FIT (R399): PRES follows the jumper; event 2 unless masked (Table 18-5). -/
def execJumperFit (s : State) : Host.Outcome State Fault Refusal :=
  .next (s.inputLater 1 true fun seen s => if seen then s.presence 2 0 else s)

/-- JUMPER_REMOVE (R399): event 3 unless masked. -/
def execJumperRemove (s : State) : Host.Outcome State Fault Refusal :=
  .next (s.inputLater 1 false fun seen s => if seen then s.presence 3 0 else s)

/-- SEAL_BREAK (R399): the loop opens while powered: window and event 4 with the last seal number, unless masked. -/
def execSealBreak (s : State) : Host.Outcome State Fault Refusal :=
  .next (s.inputLater 2 true fun seen s =>
    let s := s.modSec fun x => { x with sealValid := false }
    if seen then s.openWindow.presence 4 s.sec.sealNo else s)

/-- SEAL_LOOP_CLOSE (R400): the loop closes, with no number recorded for the plug. -/
def execSealLoopClose (s : State) : Host.Outcome State Fault Refusal :=
  .next (s.inputLater 2 false fun _ s => s.modSec fun x => { x with sealValid := false })

/-- A write of SEC_SEALNO (R400). -/
def State.writeSealno (s : State) (w : Nat) : State :=
  if !s.pres then s.noPres Reg.secSealno Reg.secSealno 0
  else
    let s := s.put Reg.secSealno w
    (s.modSec fun x => { x with sealNo := w, sealValid := s.sealed }).presence 6 w

/-- SEC_SEALNO. -/
def execSecSealno (number : Word) (s : State) : Host.Outcome State Fault Refusal :=
  .next (s.hostWrite Reg.secSealno fun s => s.writeSealno number.toNat)

/-! ### Journal records that one COMMIT covers (R379, R406) -/

/-- Pages that records fill, in order. -/
def packPages : Nat → List JRec → List (List JRec)
  | 0, _ => []
  | k + 1, l =>
    if l.isEmpty then []
    else let (now, rest) := fillPage 4060 l; now :: packPages k rest

/-- Open the pages of a group, one pair program each. -/
def openPages : Nat → Journal → Option (List (Nat × Nat) × Journal)
  | 0, j => some ([], j)
  | k + 1, j => match j.openPage with
    | none => none
    | some (p, i, j) => (openPages k j).map fun (x : List (Nat × Nat) × Journal) => ((p, i) :: x.1, x.2)

/-- The records of a command and one COMMIT that names them are programmed and verified (R379, R406, R407): priority 2 (R384). None while
credit or erased pages are wanting (entry 45). -/
def State.commitGroup (s : State) (l : List (Nat × List Byte)) : Option State :=
  let j := s.nv.journal
  let parts := l.flatMap fun x => (fragments (x.2.length / 4040 + 1) x.2).zipIdx.map fun f => (x.1, f.2, f.1)
  let recs := parts.zipIdx.map fun x => (⟨j.nextRseq + x.2, x.1.1, x.1.2.1, x.1.2.2, 0, true⟩ : JRec)
  let pages := (packPages recs.length recs).zipIdx.map fun x => x.1.map fun (r : JRec) => { r with page := j.nextPage + x.2 }
  let n := pages.length
  let c : JRec := ⟨j.nextRseq + recs.length, 1, 0, packLE [(8, j.nextRseq), (4, recs.length), (4, 0)], j.nextPage + n, false⟩
  if !s.creditOk 2 ∨ j.erasedPages ≤ 2 + n then none
  else
    (openPages (n + 1) j).map fun (x : List (Nat × Nat) × Journal) =>
      let s := forEach (List.range (n + 1)) (fun _ s => s.charge 2) s
      let s := s.modJournal fun _ =>
        { x.2 with
          recs := j.recs ++ pages.flatten ++ [c]
          pages := j.pages ++ x.1.zipIdx.map fun p => ⟨j.nextPage + p.2, p.1.1, p.1.2, false, false, s.pwron, s.nv.phours⟩
          nextRseq := j.nextRseq + recs.length + 1
          nextPage := j.nextPage + n + 1 }
      let s := s.modCis fun q => { q with sinceCheckpoint := q.sinceCheckpoint + n + 1 }
      forEach recs (fun r s => s.onCommit r) s

/-- The COUNTER record that raises a counter, when the value is higher (R406). -/
def State.raiseRec (s : State) (c v : Nat) : List (Nat × List Byte) :=
  if s.reg (Reg.cisternCounter c) < v then [(0x19, packLE [(4, c), (4, v)])] else []

/-- Record 0x52 of a raise (R406). -/
def State.raiseNote (s : State) (before : State) (c : Nat) : State :=
  if s.reg (Reg.cisternCounter c) = before.reg (Reg.cisternCounter c) then s
  else s.record { unitRec 0 0x52 4 0x12 0 with layer := s.reg (Reg.cisternCounter c), detail1 := c }

/-! ### Commands (R403, R407) -/

/-- The running command ends (R403): SEC_RESULT, SECURITY_DONE, and record 0x50 for a refusal. -/
def State.secFinish (s : State) (code : Nat) : State :=
  let cmd := (s.sec.run.map fun (r : SecRun) => r.cmd).getD 0
  let s := s.modSec fun x => { x with run := none }
  let v := field (s.reg Reg.secResult) 1 0 ||| 1 ||| (if code = 0 then 0 else 2)
  let s := (s.put Reg.secResult (v + at_ 16 code)).fire 0x16
  let s := s.modEvent 0x27 (leBytes 4 (v + at_ 16 code))
  if code = 0 then s else s.record { unitRec 0 0x50 4 0x12 0 with detail1 := code, detail2 := cmd }

/-- The journal takes records: a read-only one refuses at once (Table 15-6). -/
def State.journalUp (s : State) : Bool := s.cis.st == 1 || s.cis.st == 3

/-- A message of the running command waits or is unanswered. -/
def State.secBusy (s : State) : Bool :=
  let mine := fun (p : Purpose) => match p with | .secObject _ => true | .secOutput => true | _ => false
  (s.rill.outst.any fun o => mine o.purpose) || (s.rill.waiting.any fun w => mine w.purpose)

/-- Set bits of a fuse row: no fuse is ever cleared (R407). -/
def setFuse (l : List (Nat × Word)) (row : Nat) (b : Word) : List (Nat × Word) :=
  (row, ((l.find? fun x => x.1 == row).map fun x => x.2 ||| b).getD b) :: l.filter fun x => x.1 != row

/-- FUSE_PROGRAM's entries (R407): all of them, or those before the bit that fails: which one fails is a free value (entry 2). -/
def State.programFuses (s : State) (o : List Byte) (ok : Bool) : State :=
  let n := objPayload o / 8
  let (ix, s) := s.fresh
  let (ix2, s) := s.fresh
  let good := if ok then n else (Config.freeWord ix).toNat % max 1 n
  let row := fun k => u16 o (64 + 8 * k)
  let bits := fun k => wd (u32 o (68 + 8 * k))
  let s := forEach (List.range good) (fun k s => s.modNv fun v => { v with fuseRows := setFuse v.fuseRows (row k) (bits k) }) s
  if ok ∨ n = 0 then s
  else s.modNv fun v => { v with fuseRows := setFuse v.fuseRows (row good) (bits good &&& Config.freeWord ix2) }

/-- A command's object has passed checks 1 to 11: what the command does (R407), checks 12 to 14 in order. None while the journal
makes it wait. -/
def State.secEffect (s : State) (r : SecRun) (o : List Byte) (norOk fuseOk : Bool) : Option State :=
  let v := u32 o 0x10
  if r.cmd = 1 then
    some (if r.arg = s.boot.slot then s.secFinish 0xB
      else if 2 ≤ r.arg then s.secFinish 0xE
      else if norOk then (s.modSlot r.arg ⟨true, o⟩).secFinish 0
      else (s.modSlot r.arg {}).secFinish 0xE)
  -- the recovery region changes only once every check has passed (R403)
  else if !s.journalUp then some (s.secFinish 0xF)
  else if r.cmd = 3 then
    (s.commitGroup ((0x18, o) :: s.raiseRec 2 v)).map fun t => (t.raiseNote s 2).secFinish 0
  else if r.cmd = 4 then
    let key := slice o 64 2592
    (s.commitGroup ((0x1A, key) :: s.raiseRec 3 v)).map fun t =>
      ((t.putDigestRegs Reg.secOwndig (sha3 key)).raiseNote s 3).secFinish 0
  else if r.cmd = 6 then
    if !norOk then some ((s.modSlot 2 {}).secFinish 0xE)
    else if (s.raiseRec 1 v).isEmpty then some ((s.modSlot 2 ⟨true, o⟩).secFinish 0)
    else (s.commitGroup (s.raiseRec 1 v)).map fun t => ((t.modSlot 2 ⟨true, o⟩).raiseNote s 1).secFinish 0
  else if !fuseOk then some ((s.programFuses o false).secFinish 0x10)
  else if (s.raiseRec 4 v).isEmpty then some ((s.programFuses o true).secFinish 0)
  else (s.commitGroup (s.raiseRec 4 v)).map fun t => ((t.programFuses o true).raiseNote s 4).secFinish 0

/-- OWNER_CLEAR (R407): an OWNER_KEY record with an empty body, counter 3 plus 1 (0xFFFF_FFFF stays). -/
def State.ownerClear (s : State) : Option State :=
  if !s.journalUp then some (s.secFinish 0xF)
  else
    let v := min 0xFFFFFFFF (s.reg (Reg.cisternCounter 3) + 1)
    (s.commitGroup ((0x1A, []) :: s.raiseRec 3 v)).map fun t =>
      ((t.putDigestRegs Reg.secOwndig []).raiseNote s 3).secFinish 0

/-- Result code that FW_ACTIVATE finds before it starts (R407): 0 when it may start. -/
def State.activateCode (s : State) (arg : Nat) : Nat :=
  let x := s.slot arg
  if 2 ≤ arg ∨ !x.marker then 0xC
  else if u32 x.obj 0x10 < s.reg (Reg.cisternCounter 0) then 7
  else if !s.journalUp then 0xF
  else 0

/-- FW_ACTIVATE starts (R407, R427): counter 0 is raised, the boot choice written, TEST_ACT.STATE becomes 1. -/
def State.startActivation (s : State) (arg : Nat) : State :=
  let l := s.raiseRec 0 (u32 (s.slot arg).obj 0x10)
  match (if l.isEmpty then some s else s.commitGroup l) with
  | none => s
  | some t =>
    let t := (t.raiseNote s 0).modNv fun n => { n with choice := arg }
    t.modAct fun _ => { st := 1, outcome := 0, slot := arg, since := s.time, restAt := 0 }

/-- The first 512 bytes of ATTEST's output (Table 15-8). With no slot running SLOT is a free value. -/
def State.attestReport (s : State) (arg : Nat) (ptv : Bool) : List Byte :=
  let pv := ptv && s.defined arg
  let slot := if s.boot.slot < 2 then s.boot.slot == 1 else (Config.freeWord s.freshIx).getLsbD 0
  let rec_ := if s.nv.recovery.marker then objDigest s.nv.recovery.obj else List.replicate 64 0#8
  let bed := pv && (s.part arg).bed.isSome
  packLE [(4, 0x54535441),
      (4, 1 + at_ 8 (if pv then arg else 0) + at_ 12 (b2n pv) + at_ 13 (b2n slot) + at_ 14 (b2n s.jumper) + at_ 15 (b2n s.sealed)),
      (4, s.reg Reg.globalLicstat), (4, s.reg Reg.globalNumrev), (8, s.reg64 Reg.globalSerialLo), (4, s.pwron),
      (4, s.sec.sealNo)] ++
    ((List.range 5).flatMap fun c => leBytes 4 (s.reg (Reg.cisternCounter c))) ++ List.replicate 12 0#8 ++
    s.digestRegs Reg.secNonce ++ s.digestRegs Reg.secFwdig ++ rec_ ++ s.digestRegs Reg.parterrePlandig ++
    packLE [(8, s.reg64 Reg.parterrePlanidLo), (8, if bed then s.reg64 (Reg.parterreBedidLo arg) else 0)] ++
    List.replicate 48 0#8 ++
    (if bed then s.digestRegs (Reg.parterreBeddig arg) else List.replicate 64 0#8) ++ s.digestRegs Reg.secOwndig

/-- An output starts (R408, R409): its destination is checked, and the bytes go out. -/
def State.startOutput (s : State) (owner : Option Nat) (dst : Nat) (out : List Byte) : State :=
  match s.windowForm owner true dst out.length with
  | none => s.modSec fun x => { x with run := x.run.map fun (r : SecRun) => { r with code := 0xA } }
  | some a =>
    let s := s.modSec fun x =>
      { x with run := x.run.map fun (r : SecRun) => { r with writes := (cutRange (out.length / 4096 + 2) a out.length 0).length } }
    s.memWrAll (out.length / 4096 + 2) owner a out .secOutput

/-- A command is accepted (R403): what it does at once. -/
def State.secStart (s : State) (cmd arg : Nat) (ptv : Bool) : State :=
  let needs := !(cmd == 5 || cmd == 8 || cmd == 9)
  let code := if cmd = 5 ∧ !s.jumper then 0x12 else if needs ∧ !s.pres then 1 else if cmd = 2 then s.activateCode arg else 0
  let s := if cmd ≠ 8 ∧ cmd ≠ 9 ∧ !s.pres then s.noPres Reg.secCmd 0 cmd else s
  let s := s.modSec fun x => { x with run := some ⟨cmd, arg, [], false, 0, code⟩ }
  if code ≠ 0 ∨ cmd = 5 then s
  else if cmd = 2 then s.startActivation arg
  else if cmd = 8 then
    let out := s.attestReport arg ptv
    let s := if s.boot.slot < 2 then s else s.fresh.2
    let out := out ++ Config.mldsaSign (sha3 out)
    let dst := s.reg64 Reg.secDstLo
    let owner := if ptv && s.defined arg && (s.windowForm none true dst out.length).isNone then some arg else none
    s.startOutput owner dst out
  else if cmd = 9 then
    let out := packLE [(8, s.reg64 Reg.globalSerialLo)] ++ Config.identityKey ++ Config.identityCert
    s.startOutput none (s.reg64 Reg.secDstLo) out
  else match s.windowForm none false (s.reg64 Reg.secSrcLo) (s.reg Reg.secLen) with
    | none => s.modSec fun x => { x with run := x.run.map fun (r : SecRun) => { r with code := 0xA } }
    | some a => s.memRdAll none a (s.reg Reg.secLen) fun off => .secObject off

/-- A write of SEC_CMD (R401, R403). -/
def State.writeSecCmd (s : State) (w : Nat) : State :=
  let cmd := field w 3 0
  if field w 15 8 ≠ 0xA9 then s.accErr Reg.secCmd .badKey
  else if cmd = 10 then s.modSec fun x => { x with windowEnd := none }
  else if s.sec.run.isSome then s.accErr Reg.secCmd .notReady
  else if cmd = 0 ∨ 10 < cmd then s
  else s.secStart cmd (field w 19 16) (bit w 20)

/-- A command of SEC_CMD as the host writes it. -/
def State.secCommand (s : State) (cmd : Nat) (key : Byte) (arg : Nat) (ptv : Bool) : State :=
  s.hostWrite Reg.secCmd fun s => s.writeSecCmd (cmd + at_ 8 key.toNat + at_ 16 arg + at_ 20 (b2n ptv))

/-- FW_INSTALL. -/
def execFwInstall (key : Byte) (arg : Fin 16) (s : State) : Host.Outcome State Fault Refusal :=
  .next (s.secCommand 1 key arg false)

/-- FW_ACTIVATE. -/
def execFwActivate (key : Byte) (arg : Fin 16) (s : State) : Host.Outcome State Fault Refusal :=
  .next (s.secCommand 2 key arg false)

/-- LICENCE_INSTALL. -/
def execLicenceInstall (key : Byte) (s : State) : Host.Outcome State Fault Refusal := .next (s.secCommand 3 key 0 false)

/-- OWNER_ENROL. -/
def execOwnerEnrol (key : Byte) (s : State) : Host.Outcome State Fault Refusal := .next (s.secCommand 4 key 0 false)

/-- OWNER_CLEAR. -/
def execOwnerClear (key : Byte) (s : State) : Host.Outcome State Fault Refusal := .next (s.secCommand 5 key 0 false)

/-- RECOVERY_WRITE. -/
def execRecoveryWrite (key : Byte) (s : State) : Host.Outcome State Fault Refusal := .next (s.secCommand 6 key 0 false)

/-- FUSE_PROGRAM. -/
def execFuseProgram (key : Byte) (s : State) : Host.Outcome State Fault Refusal := .next (s.secCommand 7 key 0 false)

/-- ATTEST. -/
def execAttest (key : Byte) (arg : Fin 16) (ptv : Bool) (s : State) : Host.Outcome State Fault Refusal :=
  .next (s.secCommand 8 key arg ptv)

/-- IDKEY_OUT. -/
def execIdkeyOut (key : Byte) (s : State) : Host.Outcome State Fault Refusal := .next (s.secCommand 9 key 0 false)

/-- CLOSE. -/
def execClose (key : Byte) (s : State) : Host.Outcome State Fault Refusal := .next (s.secCommand 10 key 0 false)

/-- SEC_CMD_COMPLETE (R403): the running command ends once its transfers have; FW_ACTIVATE ends with its activation (R427). -/
def execSecCmdComplete (norOk fuseOk : Bool) (s : State) : Host.Outcome State Fault Refusal :=
  .next (match s.sec.run with
    | none => s
    | some r =>
      if s.secBusy then s
      else if r.code ≠ 0 then s.secFinish r.code
      else if r.cmd = 2 then (if s.act.st = 0 then s.startActivation r.arg else s)
      else if r.cmd = 5 then s.ownerClear.getD s
      else if r.cmd = 8 ∨ r.cmd = 9 then s.secFinish (if r.failed ∨ 0 < r.writes then 0xA else 0)
      else match s.secObject r with
        | none => (s.dropSlot r).secFinish 0xA
        | some o =>
          let code := s.objCode o (s.reg Reg.secLen) (cmdType r.cmd) true true
          if code ≠ 0 then (s.dropSlot r).secFinish code else (s.secEffect r o norOk fuseOk).getD s)

end Sys2Proof.Machine
end

