-- ==== Sys2Proof/Machine/Power.lean ====
section
/-! DEFINITION. Power.lean: input, rails, clocks, droop, temperature, caps and energy attribution (R436 to R459). -/
namespace Sys2Proof.Machine

/-! ### Clocks (R439, R440) -/

/-- A-domain frequency of a point in MHz (Table 17-3). -/
def pointMhz (p : Nat) : Nat := nth [3600, 3200, 2800, 2400, 1800] p 1800

/-- Highest point the licence allows (R425, Table 17-3). -/
def State.topPoint (s : State) : Nat := if s.lic 0 then 0 else 3

/-- k of a die's A divider: the smallest requested (R440). -/
def State.kA (s : State) (die : Nat) : Nat :=
  let d := vget s.power.dies die
  if s.diesStopped then 0
  else min (if d.droopA ∨ d.thermal ∨ s.power.absLimit then 9 else 18) s.power.fastK

/-- k of a die's F divider (R440). -/
def State.kF (s : State) (die : Nat) : Nat :=
  let d := vget s.power.dies die
  if s.diesStopped then 0 else if d.droopF ∨ d.thermal ∨ s.power.absLimit then 9 else 18

/-- Descriptors with work planned on a die by now are charged CLOCK_LIMIT: domain 1 A, 2 F (R453, Table 09-6). -/
def State.chargeClock (s : State) (die dom : Nat) : State :=
  let q := s.quantum
  let hit := s.comp.weir.resv.filter fun r => decide (r.from_ ≤ q) &&
    (if dom = 1 then decide (r.res / 16 = die ∧ r.res < 64) else decide (64 ≤ r.res ∧ r.res < 72 ∧ (r.res - 64) / 2 = die))
  forEach hit (fun r s => s.chargeAdm r.pt r.admno 0x0B (die + at_ 4 dom)) s

/-- Charge every die whose dividers skip pulses. -/
def State.chargeClocks (s : State) : State :=
  forEach (List.range 4) (fun d s =>
    let s := if s.kA d < 18 then s.chargeClock d 1 else s
    if s.kF d < 18 then s.chargeClock d 2 else s) s

/-! ### Caps (R448, R454) -/

/-- The coolant limit is in force: while the input is active and for 60 s after (Table 17-8). -/
def State.cotActive (s : State) : Bool :=
  s.power.cot || (match s.power.cotUntil with | some t => decide (s.time < t) | none => false)

/-- LEAK_ACTION. -/
def State.leakAction (s : State) : Nat := field (s.reg Reg.powerCtl) 1 0

/-- C_M in watts (R448). -/
def State.capM (s : State) : Nat :=
  let plan := match s.plan with | some im => u16 (recOf im 0x0101 0) 4 | none => 0
  let mod := field (s.reg Reg.powerModcap) 15 0
  let c := s.licenceCap
  let c := if plan = 0 then c else min c plan
  let c := if mod = 0 then c else min c mod
  let c := if s.power.pfw then min c (s.reg Reg.powerPfwW) else c
  let c := if s.cotActive then min c (s.reg Reg.powerCotW) else c
  if s.power.leak ∧ s.leakAction = 1 then min c 500 else c

/-- C_p of a partition (R448). -/
def State.capP (s : State) (pt : Nat) : Nat :=
  match s.ptRes pt with
  | some r => if r.cap = 0 then s.capM else r.cap
  | none => s.capM

/-! ### Voltage (R442) -/

/-- Hottest of a list of sensor readings in 1/16 °C. -/
def hottest (l : List Int) : Int := match l with | [] => 0 | h :: t => t.foldl max h

/-- VCA set point of a die in mV at a point (R442): VMIN interpolated at the hottest sensor, plus GUARD, up to a multiple of 5. -/
def State.vcaAt (s : State) (die point : Nat) : Nat :=
  let t := (max 0 (min 1680 (hottest (vget s.power.dies die).sensors))).toNat
  let v := fun c => nth s.fuses.vtab (15 * die + 3 * point + c) 0
  let g := s.fuses.guard
  let mv := if t ≤ 960 then cdiv (v 0 * (960 - t) + v 1 * t + 960 * g) (5 * 960)
    else cdiv (v 1 * (1680 - t) + v 2 * (t - 960) + 720 * g) (5 * 720)
  max 600 (min 950 (5 * mv))

/-- Set VCA of a die at its point, and the rail with it. -/
def State.setVca (s : State) (die : Nat) : State :=
  let v := s.vcaAt die (vget s.power.dies die).point
  let s := s.modDie die fun d => { d with vca := v }
  s.modPower fun p => { p with rails := vmod p.rails (10 + die) fun r => { r with mv := v } }

/-- VOLTAGE_UPDATE (R442): every 1 ms, from B5 on. -/
def execVoltageUpdate (s : State) : Host.Outcome State Fault Refusal :=
  .next (if s.boot.phase < 6 ∨ s.diesStopped then s else forEach (List.range 4) (fun d s => s.setVca d) s)

/-! ### Points (R439, R453) -/

/-- Publish the planning frequency of a die (R453). -/
def State.publish (s : State) (die point : Nat) : State :=
  s.put (Reg.weirPlanfreq die) (1800 + at_ 16 (pointMhz point))

/-- Set the point a die is to run at: A_MHZ follows at once; reservations made at the higher figure hold the die (R453). -/
def State.aimPoint (s : State) (die point : Nat) : State :=
  let old := (vget s.power.dies die).target
  let live := fun (h : Nat × Nat × Nat × Nat) => s.comp.weir.resv.any fun r => r.pt == h.2.1 && r.admno == h.2.2.1
  let s := s.modPower fun p => { p with holds := p.holds.filter live }
  let mine := ((s.comp.weir.resv.filter fun r =>
    decide ((r.res < 64 ∧ r.res / 16 = die) ∨ (64 ≤ r.res ∧ r.res < 72 ∧ (r.res - 64) / 2 = die))).map fun r => (r.pt, r.admno)).eraseDups
  let held := s.power.holds
  let s := if old < point then
      let new := (mine.filter fun m => !held.any fun h => h.1 == die && h.2.1 == m.1 && h.2.2.1 == m.2).map fun m => (die, m.1, m.2, old)
      s.modPower fun p => { p with holds := p.holds ++ new }
    else s
  (s.modDie die fun d => { d with target := point }).publish die point

/-- Point a die may take now: its target, or a higher one that a live reservation holds (R241, R453). -/
def State.allowedPoint (s : State) (die : Nat) : Nat :=
  let live := s.power.holds.filter fun h => h.1 == die && s.comp.weir.resv.any fun r => r.pt == h.2.1 && r.admno == h.2.2.1
  (live.map fun h => h.2.2.2).foldl min (vget s.power.dies die).target

/-- POINT_CHANGE_DONE (R439). -/
def execPointChangeDone (die : Die) (s : State) : Host.Outcome State Fault Refusal :=
  let p := s.allowedPoint die
  .next (if p = (vget s.power.dies die).point ∨ !s.boot.ready ∨ s.diesStopped then s
    else (s.modDie die fun d => { d with point := p }).setVca die)

/-! ### Input and rails (R436 to R438) -/

/-- Order of a rail (Table 17-2). -/
def railOrder (r : Nat) : Nat := nth [1, 2, 3, 3, 4, 4, 5, 5, 5, 5, 6, 6, 6, 6, 7, 7] r 0

/-- Nominal voltage of a rail in mV; VCA_n has none before B5 and takes a free value in its range (entry 2). -/
def State.railNominal (s : State) (r : Nat) : Nat :=
  if 10 ≤ r ∧ r < 14 then 600 + (Config.freeWord s.freshIx).toNat % 351
  else nth [12000, 3300, 750, 900, 1050, 750, 750, 750, 750, 750, 0, 0, 0, 0, 1800, 3300] r 0

/-- Enable the rails of an order. -/
def State.enableOrder (s : State) (o : Nat) : State :=
  s.modPower fun p =>
    { p with
      order := o
      rails := forEach ((List.range 16).filter fun r => railOrder r == o) (fun r v => vmod v r fun x => { x with on := true }) p.rails }

/-- Every rail in regulation. -/
def State.railsOk (s : State) : Bool := (List.range 16).all fun r => (vget s.power.rails r).good

/-- RAIL_POWER_GOOD (R437): once every rail of the order is good, the next order is enabled. -/
def execRailPowerGood (rail : Fin 16) (s : State) : Host.Outcome State Fault Refusal :=
  let x := vget s.power.rails rail
  .next (if s.boot.phase ≠ 1 ∨ !x.on ∨ x.good then s
    else
      let mv := s.railNominal rail
      let s := if 10 ≤ rail.val ∧ rail.val < 14 then s.fresh.2 else s
      let s := s.modPower fun p => { p with rails := vmod p.rails rail fun x => { x with good := true, mv := mv } }
      let o := s.power.order
      if (List.range 16).all fun r => railOrder r != o || (vget s.power.rails r).good then s.enableOrder (o + 1) else s)

/-- RAIL_FAULT (R437): in B1 an enabled rail misses power-good; every rail goes off, and three failed attempts latch them off. -/
def execRailFault (rail : Fin 16) (s : State) : Host.Outcome State Fault Refusal :=
  let x := vget s.power.rails rail
  .next (if s.boot.phase ≠ 1 ∨ !x.on ∨ x.good then s
    else
      let n := s.power.attempts + 1
      let src := if 6 ≤ rail.val ∧ rail.val < 14 then (rail.val - 6) % 4 else 4
      let s := s.modPower fun p =>
        { p with
          attempts := n
          order := 0
          rails := Vector.replicate 16 {}
          latched := p.latched || decide (3 ≤ n)
          retryAt := if n < 3 then some (s.time + 225000000) else none
          rstcause := wd (3 + at_ 8 n + at_ 16 src) }
      s.powerRecord { unitRec 4 0x64 4 0x11 0 with detail1 := rail, detail2 := n } true)

/-- RAIL_RETRY (R437): the sequence starts again after a failed attempt. GLOBAL_TIME does not run in module reset, so the 225,000,000 S
cycles are the sender's to keep. -/
def execRailRetry (s : State) : Host.Outcome State Fault Refusal :=
  .next (if s.boot.phase = 1 ∧ s.power.retryAt.isSome ∧ !s.power.latched then s.startRails else s)

/-- INPUT_VALID (R436): the input, absent before, is valid, and B1 starts. -/
def execInputValid (s : State) : Host.Outcome State Fault Refusal :=
  .next (if s.boot.input then s
    else
      let s := s.modPower fun p => { p with latched := false, attempts := 0, rstcause := 0#32, lost := false }
      let s := s.modBoot fun b => { b with input := true }
      if s.power.overAt.isSome ∨ s.boot.trip.isSome then s else s.startBringup)

/-- Attribute measured energy over the estimates of its windows (R456). -/
def State.attribute (s : State) (m : Nat) : State :=
  let est := s.power.est
  let e := sumN (est.map (·.2.2))
  let part := fun (p : Nat × Nat × Nat → Bool) => if e = 0 then 0 else m * sumN ((est.filter p).map (·.2.2)) / e
  let share := fun (t : Nat) => part fun x => x.1 == t
  let tags := ((est.map (·.1)).eraseDups).filter (· != 0)
  let rest := m - sumN (tags.map share)
  let wrap := fun (lo n : Nat) (s : State) => s.put64 lo ((s.reg64 lo + n) % 2 ^ 64)
  let l := if rest = 0 then s.cis.tags else addEnergy s.cis.tags 0 rest
  let l := forEach tags (fun t l => if share t = 0 then l else addEnergy l t (share t)) l
  let s := s.modCis fun c => { c with tags := l }
  let s := wrap Reg.powerTag0Lo rest (wrap Reg.powerMeasLo m s)
  let s := forEach ((List.range 16).filter s.defined) (fun pt s =>
    let a := part fun x => x.2.1 == pt + 1
    (wrap (Reg.powerPtEnergyLo pt) a s).put (Reg.powerPtAvg pt) (min 0xFFFF (a / 100000))) s
  s.modPower fun p => { p with est := [], meas := 0 }

/-- Input lost (R438): the dividers stop, the window up to now is attributed, the flush starts. -/
def State.inputLost (s : State) (lowest : Nat) : State :=
  let s := s.chargeClocks
  let s := s.modPower fun p => { p with lost := true, lossAt := s.time, lowest := lowest }
  let s := forEach (List.range 4) (fun d s => (s.chargeClock d 1).chargeClock d 2) s
  (s.attribute s.power.meas).startFlush

/-- INPUT_LOSS (R436, R438). In module reset the input is simply gone. -/
def execInputLoss (lowest10mV : Nat) (s : State) : Host.Outcome State Fault Refusal :=
  .next (if !s.boot.input ∨ s.power.lost then s
    else if !s.boot.released then
      let s := s.moduleDown 0 0
      (s.modBoot fun b => { b with input := false }).modPower fun p => { p with overAt := none }
    else s.inputLost lowest10mV)

/-- INPUT_RETURN (R438): work resumes from the cycle at which it stopped, and the journal controller goes on (R381). -/
def execInputReturn (s : State) : Host.Outcome State Fault Refusal :=
  .next (if !s.power.lost then s
    else
      let s := s.modPower fun p => { p with lost := false }
      let s := if s.cis.st = 3 ∧ s.boot.trip.isNone then
          ((s.modCis fun c => { c with flushing := false }).setCisState 1).startProgram
        else s
      s.powerRecord { unitRec 0 0x60 4 0x11 0 with detail1 := s.time - s.power.lossAt, detail2 := s.power.lowest } true)

/-- HOLDUP_EXPIRE (R438): not before 1,350,000 S cycles the rails leave regulation, and the module resets. -/
def execHoldupExpire (s : State) : Host.Outcome State Fault Refusal :=
  .next (if s.power.lost ∧ s.power.lossAt + 1350000 ≤ s.time then
      let s := s.moduleDown 0 0
      (s.modBoot fun b => { b with input := false }).modPower fun p => { p with lost := false }
    else s)

/-- OVER_VOLTAGE (R436): as an input loss, then all rails off until OVERVOLTAGE_CLEAR. -/
def execOverVoltage (s : State) : Host.Outcome State Fault Refusal :=
  .next (if !s.boot.input ∨ s.power.overAt.isSome then s
    else
      let s := if s.boot.released ∧ !s.power.lost then s.inputLost 0 else s
      (s.moduleDown 5 0).modPower fun p => { p with lost := false, overAt := some 0 })

/-- OVERVOLTAGE_CLEAR (R436): the input has stayed below 58.0 V for 225,000,000 S cycles, which the sender keeps. -/
def execOvervoltageClear (s : State) : Host.Outcome State Fault Refusal :=
  .next (if s.power.overAt.isNone then s
    else
      let s := s.modPower fun p => { p with overAt := none }
      if s.boot.input ∧ !s.power.latched ∧ s.boot.trip.isNone then s.startBringup else s)

/-- PLL_LOCK_LOSS (R439). -/
def execPllLockLoss (s : State) : Host.Outcome State Fault Refusal :=
  .next (if s.boot.released then s.moduleReset 4 0 else s)

/-! ### Droop (R443) -/

/-- A DROOP window that has run its 225,000,000 S cycles places its record, with the count as REPEAT. -/
def State.closeDroop (s : State) (die : Nat) : State :=
  match (vget s.power.dies die).droopWin with
  | some (t, n, r) =>
    if t + 225000000 ≤ s.time then
      (s.modDie die fun d => { d with droopWin := none }).powerRecord
        { unitRec 0 0x61 4 0x11 0 with count := n, detail1 := die, detail2 := r } false
    else s
  | none => s

/-- DROOP_DETECT (R443): the domain's divider takes k = 9. -/
def execDroopDetect (die : Die) (rail : Rail) (s : State) : Host.Outcome State Fault Refusal :=
  let d := vget s.power.dies die
  let r := match rail with | .vca => 1 | .vcf => 2
  let busy : Bool := match rail with | .vca => d.droopA | .vcf => d.droopF
  .next (if !s.boot.released ∨ busy then s
    else
      let s := (s.bump (Reg.powerDroopcnt die) 1).closeDroop die
      let s := s.modDie die fun d =>
        let w := match d.droopWin with | some (t, n, r) => (t, n + 1, r) | none => (s.time, 1, r)
        match rail with
        | .vca => { d with droopA := true, droopWin := some w }
        | .vcf => { d with droopF := true, droopWin := some w }
      s.chargeClock die r)

/-- DROOP_RELEASE (R443). -/
def execDroopRelease (die : Die) (rail : Rail) (s : State) : Host.Outcome State Fault Refusal :=
  .next (s.modDie die fun d => match rail with
    | .vca => { d with droopA := false }
    | .vcf => { d with droopF := false })

/-! ### Temperature (R444) -/

/-- Junction bin of STRESS: edges 40, 55, 70, 85, 95, 105, 115 °C (Table 14-6). -/
def stressBin (t : Int) : Nat := ([640, 880, 1120, 1360, 1520, 1680, 1840].filter fun (e : Int) => decide (e ≤ t)).length

/-- Rail band of STRESS (R442). -/
def railBand (mv : Nat) : Nat := if mv < 700 then 0 else if mv < 800 then 1 else if mv < 900 then 2 else 3

/-- Powered time of 2,250 S cycles joins a die's STRESS bin (Table 14-6): bin = 4 × junction bin + rail band. -/
def State.addStress (s : State) (die : Nat) (t : Int) (mv : Nat) : State :=
  let k := 32 * die + 4 * stressBin t + railBand mv
  s.modCis fun c =>
    { c with stress := if c.stress.any (fun x => x.1 == k) then
        c.stress.map fun x => if x.1 == k then (k, x.2 + 2250) else x
      else c.stress ++ [(k, 2250)] }

/-- A thermal trip (R444): the compute dies' rails turn off, and the flush starts. -/
def State.thermalTrip (s : State) (source : Nat) : State :=
  let s := s.modBoot fun b => { b with trip := some source }
  let s := s.modPower fun p =>
    { p with rails := forEach [6, 7, 8, 9, 10, 11, 12, 13] (fun r v => vmod v r fun _ => {}) p.rails }
  s.startFlush

/-- SENSOR_READ (R444): readings in 1/16 °C. Above 105 °C planning steps down, from 110 °C the die's dividers take k = 9 until below 105, from
120 °C the module trips. A trip whose flush is over resets the module. -/
def execSensorRead (dies : List (List Int)) (hub : List Int) (s : State) : Host.Outcome State Fault Refusal :=
  let read := fun (s : State) =>
    (forEach (List.range 4) (fun d s => s.modDie d fun x => { x with sensors := nth dies d [] }) s).modPower fun p => { p with hub := hub }
  let hot := fun d => hottest (nth dies d [])
  .next (if !s.boot.released then read s
    else if s.boot.trip.isSome then
      let s := read s
      if s.cis.flushing then s
      else read (s.moduleDown 2 (s.boot.trip.getD 4))
    else
      let s := read s
      let s := forEach (List.range 4) (fun d s => s.addStress d (hot d) (vget s.power.dies d).vca) s
      let s := s.addStress 4 (hottest hub) (s.railMv 2)
      let s := forEach (List.range 4) (fun d s =>
        let was := (vget s.power.dies d).thermal
        let x := vget s.power.dies d
        let s := if 1680 < hot d then (if x.planAt = 0 then s.modDie d fun x => { x with planAt := s.time + 1 } else s)
          else s.modDie d fun x => { x with planAt := 0, planDown := 0 }
        if 1760 ≤ hot d ∧ !was then
          let s := s.modDie d fun x => { x with thermal := true }
          ((s.chargeClock d 1).chargeClock d 2).powerRecord
            { unitRec 1 0x62 4 0x11 0 with detail1 := d, detail2 := toBits 32 (hot d) } true
        else if hot d < 1680 then s.modDie d fun x => { x with thermal := false }
        else s) s
      match ((List.range 4).filter fun d => decide (1920 ≤ hot d)) with
      | d :: _ => s.thermalTrip d
      | [] => if 1920 ≤ hottest hub then s.thermalTrip 4 else s)

/-- THERMAL_RESTART (R444): after a trip, bring-up starts again once every sensor reads below 95 °C. -/
def execThermalRestart (s : State) : Host.Outcome State Fault Refusal :=
  let cool := (List.range 4).all (fun d => decide (hottest (vget s.power.dies d).sensors < 1520)) && decide (hottest s.power.hub < 1520)
  .next (if s.boot.trip.isSome ∧ !s.boot.released ∧ s.boot.phase = 0 ∧ s.boot.input ∧ s.power.overAt.isNone ∧ !s.power.latched ∧ cool then
      s.startBringup
    else s)

/-- PLANNING_STEP_DOWN (R444): each 10 ms above 105 °C the planning frequency of the die falls one point. -/
def execPlanningStepDown (die : Die) (s : State) : Host.Outcome State Fault Refusal :=
  let x := vget s.power.dies die
  .next (if !s.boot.ready ∨ (vget s.pairs 1).st ≠ 2 ∨ x.planAt = 0 ∨ s.time < x.planAt - 1 + 2250000 then s
    else
      let s := s.modDie die fun x => { x with planDown := x.planDown + 1, planAt := x.planAt + 2250000 }
      if x.target < 4 then s.aimPoint die (x.target + 1) else s)

/-! ### Estimates, limiters and attribution (R445 to R450, R456) -/

/-- Energy of a block that one owner has, or none (Table 17-9). -/
def State.ownedEnergy (s : State) (owner : Option Nat) (e : Nat) : Nat × Nat × Nat :=
  match owner with
  | none => (0, 0, e)
  | some pt => (((s.ptRes pt).map (·.tag)).getD 0, pt + 1, e)

/-- Energy divided among partitions by weight out of a total; what the division leaves goes to tag 0 (DESIGN CHOICE, entry 83). -/
def State.splitEnergy (s : State) (weights : List (Nat × Nat)) (total e : Nat) : List (Nat × Nat × Nat) :=
  let l := weights.map fun w => (w.1, e * w.2 / total)
  (0, 0, e - sumN (l.map (·.2))) :: l.map fun x => s.ownedEnergy (some x.1) x.2

/-- Energy of a shared unit: by the bytes each partition moved through it in the window; an idle one is of tag 0. -/
def State.sharedEnergy (s : State) (unit e : Nat) : List (Nat × Nat × Nat) :=
  let l := (s.power.moved.filter fun x => x.1 == unit).map (·.2)
  s.splitEnergy l (max 1 (sumN (l.map (·.2)))) e

/-- Roles a partition owns on a die. -/
def State.rolesOn (s : State) (pt die : Nat) : Nat :=
  let r := ((s.ptRes pt).map (·.roles)).getD 0
  (bitsOf 16 (field r (16 * die + 15) (16 * die))).length

/-- The tags and partitions that the energy of a block goes to (Table 17-9). -/
def State.attributed (s : State) (blk : EnergyBlock) (e : Nat) : List (Nat × Nat × Nat) :=
  match blk with
  | .array die arr =>
    let a := arrIx die arr
    [s.ownedEnergy (if (vget s.arrays a).role.isSome then s.arrayOwner a else none) e]
  | .pool die p => [s.ownedEnergy (s.ownerBy PtRes.pools (64 * die + p)) e]
  | .hbm c => [s.ownedEnergy (s.ownerBy PtRes.hbm c) e]
  | .port p h => [s.ownedEnergy (s.portOwner p (b2n h)) e]
  | .engine n => s.sharedEnergy n e
  | .sequencer n => s.sharedEnergy (8 + n) e
  | .slots => s.sharedEnergy 16 e
  | .hostDma => s.sharedEnergy 17 e
  | .leakage die => s.splitEnergy ((List.range 16).map fun pt => (pt, s.rolesOn pt die)) 16 e
  | .rest => [(0, 0, e)]

/-- Add energy to the window's estimates. -/
def addEst (l : List (Nat × Nat × Nat)) (x : Nat × Nat × Nat) : List (Nat × Nat × Nat) :=
  if x.2.2 = 0 then l
  else if l.any fun y => y.1 == x.1 && y.2.1 == x.2.1 then
    l.map fun y => if y.1 = x.1 ∧ y.2.1 = x.2.1 then (y.1, y.2.1, y.2.2 + x.2.2) else y
  else l ++ [x]

/-- ESTIMATOR_WINDOW (R450, R455): the estimate of a 10 µs window, the measured input, and the estimated energy of every block in pJ, which
goes to the tags of Table 17-9. -/
def execEstimatorWindow (watts inputVolts10mV inputWatts : Nat) (energies : List (EnergyBlock × Nat)) (s : State) :
    Host.Outcome State Fault Refusal :=
  .next (if !s.boot.released then s
    else
      let k := s.power.fastK
      let s := if k < 18 then s.bump Reg.powerLimcnt 1 else s
      let c := s.capM
      let k2 := if c < watts then max 6 (k - 1) else if watts * 100 < 97 * c then min 18 (k + 1) else k
      let s := s.modPower fun p =>
        { p with
          fastK := k2
          est := (energies.flatMap fun x => s.attributed x.1 x.2).foldl addEst p.est
          moved := []
          meas := p.meas + 10 * inputWatts }
      let s := s.put Reg.powerEst (min 0xFFFF watts)
      let s := s.put Reg.powerInput (min 0xFFFF inputVolts10mV + at_ 16 (min 0xFFFF inputWatts))
      (forEach (List.range 4) (fun d s => s.closeDroop d) s).chargeClocks)

/-- MEASUREMENT_WINDOW (R456, R465): the measured input energy of the window in µJ is attributed. -/
def execMeasurementWindow (microjoules : Nat) (s : State) : Host.Outcome State Fault Refusal :=
  .next (if !s.boot.released ∨ s.power.lost then s
    else ((s.modPower fun p => { p with windows := p.windows + 1 }).attribute microjoules).fire 0x1C)

/-- CALIBRATION (R447): the fitted scales s_g, 16.16, are clamped to 0.875 to 1.125 of the default 1; CALIB at most once per powered
hour. -/
def execCalibration (scales : Vector Nat 11) (s : State) : Host.Outcome State Fault Refusal :=
  .next (if (vget s.pairs 1).st ≠ 2 ∨ s.power.windows < 100 then s
    else
      let clamp := fun (n : Nat) => max 0xE000 (min 0x12000 n)
      let s := s.modPower fun p => { p with windows := 0 }
      let s := forEach (List.range 11) (fun g s =>
        let n := vget scales g
        let s := s.put (Reg.powerCalscale g) (clamp n)
        if clamp n = n then s
        else s.powerRecord { unitRec 0 0x65 4 0x11 0 with detail1 := g, detail2 := n % 2 ^ 32 } false) s
      if s.power.calHour = some s.nv.phours then s
      else
        let s := s.modPower fun p => { p with calHour := some s.nv.phours }
        s.jsubmit 0x2A (packLE ((4, 0) :: (List.range 11).map fun g => (4, s.reg (Reg.powerCalscale g)))))

/-- ABSOLUTE_LIMIT_ENGAGE (R449). -/
def execAbsoluteLimitEngage (s : State) : Host.Outcome State Fault Refusal :=
  .next (if s.power.absLimit ∨ !s.boot.released then s
    else ((s.modPower fun p => { p with absLimit := true }).bump Reg.powerAbscnt 1).chargeClocks)

/-- ABSOLUTE_LIMIT_RELEASE (R449). -/
def execAbsoluteLimitRelease (s : State) : Host.Outcome State Fault Refusal :=
  .next (s.modPower fun p => { p with absLimit := false })

/-! ### The cap controller (R451 to R453) -/

/-- Learned power of an entry in 1/8 W at a point (R452): the dynamic part scales with f × V², leakage is group 8's. -/
def State.learnedAt (s : State) (l : Learned) (point : Nat) : Nat :=
  let leak := 8 * Config.leakWatts l.die point
  let leak0 := 8 * Config.leakWatts l.die l.point
  let v := s.vcaAt l.die point
  let v0 := max 1 (s.vcaAt l.die l.point)
  (l.watts8 - leak0) * pointMhz point * v * v / (pointMhz l.point * v0 * v0) + leak

/-- Take a 1 ms sample in watts with weight 1/8 (R452); the first stands as it is. -/
def State.learn (s : State) (pt phase die watts : Nat) : State :=
  let point := (vget s.power.dies die).point
  let l := s.power.learned
  match l.find? fun x => x.pt == pt && x.phase == phase && x.die == die with
  | none => s.modPower fun p => { p with learned := l ++ [⟨pt, phase, die, 8 * watts, point⟩] }
  | some e =>
    let old := s.learnedAt e point
    let new : Learned := { e with watts8 := old - old / 8 + watts, point := point }
    s.modPower fun p => { p with learned := l.map fun x => if x.pt == pt && x.phase == phase && x.die == die then new else x }

/-- Phases of a partition with a task in flight or ready on a die (R452). -/
def State.livePhases (s : State) (pt die : Nat) : List Nat :=
  match (s.part pt).bed with
  | none => []
  | some b =>
    let tiles := (List.range 18).flatMap fun a => ((vget s.arrays (arrIx die a)).tiles.filter fun t => t.pt == pt).map (·.task)
    let ready := ((s.readyTasks die false).filter fun x => x.1 == pt).map fun x => x.2.2.1
    let jets := (List.range 18).filterMap fun a => (vget s.comp.jets (arrIx die a)).run.bind fun r =>
      if r.pt = pt then ((layerRecs b r.layerId).head?).map fun li => s.taskPhase pt b die 3 li else none
    ((tiles ++ ready).map (fun t => s.taskPhase pt b die t.prod t.layer) ++ jets).eraseDups

/-- Projected power of a partition in 1/8 W with its dies at a point (R451, R452). -/
def State.projected (s : State) (pt point : Nat) : Nat :=
  sumN ((List.range 4).map fun d =>
    let ph := s.livePhases pt d
    ((s.power.learned.filter fun l => l.pt == pt && l.die == d && ph.contains l.phase).map fun l => s.learnedAt l point).foldl max 0)

/-- Grants: the greatest λ with Σ min(m, λ w) ≤ a, by fixing those whose need lies within their share until none is left. Entries are
(partition, m, w) in watts. -/
def waterfill : Nat → Nat → List (Nat × Nat × Nat) → List (Nat × Nat)
  | 0, _, l => l.map fun x => (x.1, 0)
  | k + 1, a, l =>
    let w := sumN (l.map fun x => x.2.2)
    let (low, high) := l.partition fun x => decide (x.2.1 * w ≤ a * x.2.2)
    if low.isEmpty then high.map fun x => (x.1, a * x.2.2 / max 1 w)
    else low.map (fun x => (x.1, x.2.1)) ++ waterfill k (a - sumN (low.map fun x => x.2.1)) high

/-- CAP_CONTROLLER_PERIOD (R451 to R453, R465): source 0x1D fires; B in watts and the period's samples (partition, phase, die, watts). Pair F2/F3 must run. -/
def execCapControllerPeriod (baseWatts : Nat) (samples : List (Nat × Nat × Nat × Nat)) (s : State) :
    Host.Outcome State Fault Refusal :=
  let s := if s.boot.released then s.fire 0x1D else s
  .next (if (vget s.pairs 1).st ≠ 2 ∨ !s.boot.ready ∨ s.power.lost then s
    else
      let s := s.modPower fun p => { p with base := baseWatts }
      let s := forEach samples (fun x s => s.learn x.1 x.2.1 x.2.2.1 x.2.2.2) s
      let top := s.topPoint
      let pts := (List.range 16).filter s.defined
      let need := fun pt => cdiv (s.projected pt top) 8
      let weight := fun pt => max 1 (sumN ((List.range 4).map fun d => s.rolesOn pt d))
      let g := waterfill 17 (s.capM - baseWatts) (pts.map fun pt => (pt, min (need pt) (s.capP pt), weight pt))
      let grant := fun pt => ((g.find? fun x => x.1 == pt).map (·.2)).getD 0
      let point := fun pt => (((List.range 5).filter fun p => decide (top ≤ p) && decide (s.projected pt p ≤ 8 * grant pt)).head?).getD 4
      let aims := (List.range 4).map fun d =>
        ((pts.filter fun pt => decide (0 < s.rolesOn pt d)).map point).foldl max top
      let s := forEach pts (fun pt s =>
        let s := s.put (Reg.powerPtGrant pt) (min 0xFFFF (grant pt) + at_ 16 (point pt))
        if grant pt < need pt then s.bump (Reg.powerPtCaphit pt) 1 else s) s
      forEach (List.range 4) (fun d s => s.aimPoint d (min 4 (nth aims d top + (vget s.power.dies d).planDown))) s)

/-! ### Discrete inputs (R454, R465) -/

/-- A level that arrives in module reset is kept; else the filtered change acts. -/
def State.powerInput (s : State) (i : Nat) (active : Bool) (f : State → State) : State :=
  s.inputLater i active fun _ s => f s

/-- LEAK_DETECT (R454). -/
def execLeakDetect (active : Bool) (s : State) : Host.Outcome State Fault Refusal :=
  .next (s.powerInput 3 active fun s =>
    let s := s.modPower fun p => { p with leak := active }
    if !active then s
    else
      let a := s.leakAction
      let s := s.powerRecord { unitRec 1 0x66 4 0x11 0 with detail1 := 2, detail2 := a } true
      if a = 2 then
        let s := if s.power.lost then s else s.inputLost 0
        (s.moduleDown 6 0).modPower fun p => { p with lost := false, latched := true }
      else s)

/-- COOLANT_OVER_TEMPERATURE (R454). -/
def execCoolantOverTemperature (active : Bool) (s : State) : Host.Outcome State Fault Refusal :=
  .next (s.powerInput 4 active fun s =>
    if active then
      (s.modPower fun p => { p with cot := true, cotUntil := none }).powerRecord
        { unitRec 1 0x66 4 0x11 0 with detail1 := 1, detail2 := s.leakAction } true
    else s.modPower fun p => { p with cot := false, cotUntil := some (s.time + 13500000000) })

/-- COT_HOLD_EXPIRE (R454). -/
def execCotHoldExpire (s : State) : Host.Outcome State Fault Refusal :=
  .next (if s.due s.power.cotUntil then s.modPower fun p => { p with cotUntil := none } else s)

/-- POWER_FAIL_WARNING (R381, R454): steps 2 to 4 of the flush start, phase 1 writes pause after it, the cap falls. -/
def execPowerFailWarning (s : State) : Host.Outcome State Fault Refusal :=
  .next (s.powerInput 5 true fun s =>
    let s := s.modPower fun p => { p with pfw := true }
    let s := s.startFlush.modCis fun c => { c with pausedUntil := some (s.time + 22500000) }
    s.powerRecord { unitRec 0 0x67 4 0x11 0 with detail1 := 1, detail2 := s.reg Reg.powerPfwW } true)

/-- POWER_FAIL_WARNING_RELEASE (R454). -/
def execPowerFailWarningRelease (s : State) : Host.Outcome State Fault Refusal :=
  .next (s.powerInput 5 false fun s =>
    (s.modPower fun p => { p with pfw := false }).powerRecord
      { unitRec 0 0x67 4 0x11 0 with detail1 := 0, detail2 := s.reg Reg.powerPfwW } true)

end Sys2Proof.Machine
end

