-- ==== Sys2Proof/Machine/BringUp.lean ====
section
/-! DEFINITION. BringUp.lean: the bring-up phases, firmware choice, memory test, licences, in-field tests and activation (R413 to
R435). -/
namespace Sys2Proof.Machine

/-! ### Repairs (R389, R419, R421) -/

/-- Spare rows of a pool and remap entries of a channel: whether a row has one, or can take one. -/
def State.rowMapped (s : State) (kind unit row : Nat) : Bool :=
  if kind = 2 then s.boot.poolSpares.contains (unit, row) else s.boot.hbmRemaps.contains (unit, row)

/-- Map a row to a spare: 32 spare rows per pool, 128 remap entries per channel. None when there is none left. -/
def State.mapRow (s : State) (kind unit row : Nat) : Option State :=
  if s.rowMapped kind unit row then some s
  else if kind = 2 then
    if 32 ≤ (s.boot.poolSpares.filter fun x => x.1 == unit).length then none
    else some (s.modBoot fun b => { b with poolSpares := b.poolSpares ++ [(unit, row)] })
  else if 128 ≤ (s.boot.hbmRemaps.filter fun x => x.1 / 2 == unit / 2).length then none
  else some (s.modBoot fun b => { b with hbmRemaps := b.hbmRemaps ++ [(unit, row)] })

/-- Unit of a row's overlay key: 64 × die + pool, or the HBM instance (R387). -/
def keyUnit (key : Nat) : Nat := if field key 3 0 = 2 then 64 * field key 7 4 + field key 23 8 else field key 23 8

/-- Apply one overlay entry (R389): RETIRED ones, and SUSPECT rows and lanes. A row that finds no spare is reported. -/
def State.applyDefect (s : State) (d : Defect) : State :=
  let kind := field d.key 3 0
  let inst := field d.key 23 8
  if d.state = 2 ∧ kind = 1 then
    s.modArr (arrIx (field d.key 7 4) inst) fun x => { x with retired := true }
  else if d.state ≠ 1 ∧ d.state ≠ 2 then s
  else if kind = 4 then s.modBoot fun b => { b with lanesBad := setInsert inst b.lanesBad }
  else if kind = 2 ∨ kind = 3 then
    match s.mapRow kind (keyUnit d.key) (field d.key 55 24) with
    | some s => s
    | none =>
      let s := if d.unrepaired then s else s.putDefect { d with unrepaired := true }
      s.record { unitRec 1 0x46 5 0x10 0 with detail1 := field d.key 31 0, detail2 := field d.key 55 32 }
  else s

/-- B5: fuse repairs, then the overlay (R389, R419). -/
def State.applyRepairs (s : State) : State :=
  let f := s.fuses
  let s := forEach f.arrays (fun i s => s.modArr i fun x => { x with retired := true }) s
  let s := forEach f.poolRows (fun r s => (s.mapRow 2 r.1 r.2).getD s) s
  let s := forEach f.hbmRows (fun r s => (s.mapRow 3 r.1 r.2).getD s) s
  let s := s.modBoot fun b => { b with lanesBad := f.lanes.foldl (fun l x => setInsert (16 * x.1 + x.2) l) b.lanesBad }
  forEach s.cis.overlay (fun d s => s.applyDefect d) s

/-- A bring-up test finds a defect (R368, R419, R421): the record, and the candidacy with SOURCE_SEQ 0. -/
def State.testFinds (s : State) (kind die inst row : Nat) : State :=
  let s := s.bump Reg.faultCand 1
  let s := s.record { unitRec 1 0x1A die (kindBlock kind) inst with detail1 := kind, detail2 := row }
  s.candidacy (resourceKey kind die inst row) 0 true

/-- Key of an array in the overlay. -/
def arrayKey (i : Nat) : Nat := resourceKey 1 (i / 18) (i % 18) 0

/-- B6: the arrays whose structural test failed (R388, R419): a SUSPECT one is RETIRED, another becomes SUSPECT and is left out. -/
def State.arrayFails (s : State) (i : Nat) : State :=
  if (vget s.arrays i).retired then s
  else
    let s := s.testFinds 1 (i / 18) (i % 18) 0
    let gone := ((s.defect (arrayKey i)).map fun d => d.state == 2).getD false
    s.modArr i fun x => { x with retired := gone, out := true }

/-! ### Firmware (R416, R417) -/

/-- Type of object of a candidate: FIRMWARE in a slot, RECOVERY in the recovery region. -/
def candType (c : Nat) : Nat := if c = 2 then 2 else 1

/-- Why a candidate may not boot (R416): 0 it may, 1 marker, 2 checks. The copy's read is good or not. -/
def State.candCode (s : State) (c : Nat) (copyOk : Bool) : Nat :=
  let x := s.slot c
  let full := !s.boot.journalRo
  if !x.marker then 1
  else if !copyOk ∨ s.objCode x.obj x.obj.length (candType c) full full ≠ 0 then 2
  else 0

/-- A verified candidate is copied and released (R416): SEC_FWDIG, FTN_FWVER, the running slot. -/
def State.loadFirmware (s : State) (c : Nat) : State :=
  let o := (s.slot c).obj
  let s := (s.putDigestRegs Reg.secFwdig (objDigest o)).put Reg.ftnFwver (u32 o 0x10)
  s.modBoot fun b => { b with slot := c }

/-- Both pairs run (R461, R462). -/
def State.runPairs (s : State) : State :=
  forEach (List.range 2) (fun m s => s.modPair m fun p => { p with st := 2, cause := 0, kickAt := s.time }) s

/-- The next phase starts. -/
def State.nextPhase (s : State) (n : Nat) : State := s.modBoot fun b => { b with phase := n, reached := n }

/-- The head candidate fails (R417): 1 marker, 2 checks, 3 watchdog. With none left the module halts. -/
def State.candFails (s : State) (c why : Nat) : State :=
  let s := s.record { unitRec 1 0x58 4 0x0F 0 with detail1 := c, detail2 := why }
  let s := s.modBoot fun b => { b with failed := b.failed ||| 2 ^ c, cands := b.cands.drop 1, candAt := s.time }
  if !s.boot.cands.isEmpty then s
  else
    let tried := (bitsOf 3 s.boot.failed).length
    (s.modBoot fun b => { b with halt := true, slot := 3, phase := 11 }).record { unitRec 4 0x59 4 0x0F 0 with detail1 := tried }

/-- FIRMWARE_WATCHDOG (R417): a released candidate has not run within 4.5 s; its trial began no later than its release. -/
def execFirmwareWatchdog (s : State) : Host.Outcome State Fault Refusal :=
  .next (match s.boot.cands with
    | c :: _ => if s.boot.phase = 4 ∧ s.boot.candAt + 1012500000 ≤ s.time ∧ s.candCode c true = 0 then s.candFails c 3 else s
    | [] => s)

/-! ### The memory test (R420 to R423) -/

/-- Whether the quick test may run (R422). -/
def State.quickOk (s : State) : Bool :=
  let j := s.nv.journal
  match (j.currents 0x31).find? fun r => recKey 0x31 r.body == 1 with
  | none => false
  | some m =>
    s.cis.st == 1 && decide (s.nv.phours ≤ u32 m.body 4 + 720) &&
      !(j.committed.any fun r => r.typ == 0x10 && (field (u64 r.body 0) 3 0 == 2 || field (u64 r.body 0) 3 0 == 3) &&
        decide (m.rseq < r.rseq)) &&
      s.reg (Reg.cisternCounter 4) == u32 m.body 12 && !bit (s.reg Reg.testMemsel) 0

/-- B7 starts (R422). -/
def State.startMemTest (s : State) : State :=
  let q := s.quickOk
  (s.nextPhase 7).modBoot fun b => { b with eligible := q, quick := q, memFull := !q, memStage := 1, memCands := 0 }

/-- A write of TEST_MEMSEL (R422): FORCE_FULL abandons a quick test that runs. -/
def State.writeMemsel (s : State) (w : Nat) : State :=
  let s := s.put Reg.testMemsel (field w 0 0)
  if bit w 0 ∧ s.boot.phase = 7 ∧ !s.boot.memFull then
    s.modBoot fun b => { b with quick := false, memFull := true, memStage := 1, memCands := 0 }
  else s

/-- FORCE_FULL. -/
def execForceFull (s : State) : Host.Outcome State Fault Refusal := .next (s.hostWrite Reg.testMemsel fun s => s.writeMemsel 1)

/-- A channel goes out of service for this power-on (R421): 1 PHY, 2 rows. -/
def State.channelOut (s : State) (c why : Nat) : State :=
  if s.boot.channelsOut.contains c then s
  else
    (s.modBoot fun b => { b with channelsOut := setInsert c b.channelsOut }).record
      { unitRec 4 0x5E (c / 96) 5 (64 * (c / 32) + 2 * (c % 32)) with detail1 := c, detail2 := why }

/-- B7 ends (R420, R421, R423): candidacies, remaps, channels out of service, the MEMTEST record, zeros everywhere. -/
def State.endMemTest (s : State) (pool hbm : List (Nat × Nat)) (phy : List Nat) : State :=
  let s := forEach pool (fun r s => s.testFinds 2 (r.1 / 64) (r.1 % 64) r.2) s
  let s := forEach hbm (fun r s => s.testFinds 3 (r.1 / 192) r.1 r.2) s
  let s := forEach s.cis.overlay (fun d s => if d.unrepaired ∨ field d.key 3 0 = 1 ∨ field d.key 3 0 = 4 then s else s.applyDefect d) s
  let s := forEach phy (fun c s => s.channelOut c 1) s
  let chans := (hbm.map fun r => r.1 / 2).eraseDups
  let s := forEach (chans.filter fun c => decide (64 < (hbm.filter fun r => r.1 / 2 == c).length)) (fun c s => s.channelOut c 2) s
  let n := min 0xFFFF (pool.length + hbm.length)
  let kind := b2n s.boot.memFull
  let s := s.modBoot fun b => { b with memStage := 6, memCands := n }
  let s := s.jsubmit 0x31 (packLE [(4, s.pwron), (4, s.nv.phours), (4, kind + at_ 16 n), (4, s.reg (Reg.cisternCounter 4))])
  let s := s.record { unitRec 0 0x5A 15 0 0 with detail1 := kind, detail2 := n }
  { s with mem := [], poison := [] }

/-! ### Licences (R424, R425) -/

/-- Result code of a licence record (R424): checks 3, 6, 8 and 9, and an OWNER signature under the key enrolled now. -/
def State.licenceCode (s : State) (o : List Byte) : Nat :=
  let d := objDigest o
  let key := slice o (64 + objPayload o) 2592
  if !s.formatOk o false then 2
  else if u64 o 0x18 ≠ s.reg64 Reg.globalSerialLo then 8
  else if sha3 key ≠ s.digestRegs Reg.secRootdig then 4
  else if !Config.mldsaVerify key d (slice o (64 + objPayload o + 2592) 4627) then 5
  else if objFlag o 18 ∧ (s.ownerKey.isNone ∨ !Config.mldsaVerify (s.ownerKey.getD []) d (slice o (objOwnerAt o) 4627)) then 6
  else 0

/-- B8: licences, role binding and what both set (R25, R26, R424, R425). -/
def State.evaluate (s : State) : State :=
  let j := s.nv.journal
  let nos := if s.cis.st = 1 then ((j.currents 0x18).map fun r => recKey 0x18 r.body).foldl (fun l n => setInsert n l) [] else []
  let body := fun n => (j.current 0x18 n).getD []
  let bad := fun (n c : Nat) (s : State) => s.record { unitRec 0 0x5B 4 0x0F 0 with layer := n, detail1 := c }
  let s := forEach (nos.take 256) (fun n s => let c := s.licenceCode (body n); if c = 0 then s else bad n c s) s
  let s := forEach (nos.drop 256) (fun n s => bad n 0 s) s
  let feats := ((nos.take 256).filter fun n => s.licenceCode (body n) == 0).foldl (fun f n => f ||| field (u32 (body n) 0x44) 5 0) 0
  let s := forEach (List.range 4) (fun d s => bindDie s d) s
  let roles := (List.range 4).foldl (fun w d => w + at_ (8 + 5 * d) (s.roleCount d)) 0
  let s := s.put Reg.globalLicstat (feats + roles + at_ 31 (b2n (feats == 0)))
  forEach (List.range 4) (fun d s =>
    let s := (s.modDie d fun x => { x with point := s.topPoint, target := s.topPoint }).publish d s.topPoint
    s.setVca d) s

/-! ### The phases (R413 to R418) -/

/-- PRESENCE events as the journal shows them: (event, key). -/
def State.presenceLog (s : State) : List (Nat × Nat) :=
  (s.nv.journal.committed.filter fun r => r.typ == 0x1B).map fun r => (u64 r.body 0, u64 r.body 16)

/-- What bring-up finds of presence after the mount (R399, R407): the seal's number, an opened loop, the jumper, the owner digest. -/
def State.checkPresence (s : State) : State :=
  let log := s.presenceLog
  let no := ((log.filter fun e => e.1 == 6).getLast?.map (·.2)).getD 0
  let intact := ((log.filter fun e => e.1 == 4 || e.1 == 6).getLast?.map fun e => e.1 == 6).getD false
  let s := s.modSec fun x => { x with sealNo := no, sealValid := s.sealed && intact }
  let s := if !s.sealed ∧ intact then s.presence 4 (no % 2 ^ 31 + 2 ^ 31) else s
  let s := if s.jumper then s.presence 2 0 else s
  match s.ownerKey with
  | some k => s.putDigestRegs Reg.secOwndig (sha3 k)
  | none => s

/-- B1 ends (R51, R437): module reset is released and GLOBAL_TIME starts. A thermal trip's record is placed (R444). -/
def State.release (s : State) : State :=
  let trip := s.boot.trip
  let s := { s with time := 0 }
  let s := (s.modBoot fun b => { b with released := true, trip := none }).sampleStraps
  let s := (s.modPower fun p => { p with order := 0, attempts := 0 }).nextPhase 2
  match trip with
  | some src => s.powerRecord { unitRec 4 0x63 4 0x11 0 with detail1 := src } true
  | none => s

/-- B2: the fuse map's registers (R419, R435, R459). -/
def State.loadFuses (s : State) : State :=
  let f := s.fuses
  let s := s.put Reg.globalId (0x2641 + at_ 16 (f.stepping % 16) + at_ 20 (f.pkgrev % 16) + at_ 24 0x52)
  let s := s.put64 Reg.globalSerialLo f.serial
  let s := s.putDigestRegs Reg.secRootdig f.rootDigest
  let s := s.put Reg.powerVguard f.guard
  forEach (List.range 60) (fun (i : Nat) (s : State) => s.put (Reg.powerVtab (i / 15) (i % 15)) (nth f.vtab i 0)) s

/-- B5: repairs, voltage tables, calibration scales and the test point (R413, R447). -/
def State.applyTables (s : State) : State :=
  let s := s.applyRepairs
  let s := match s.nv.journal.current 0x2A 0 with
    | some b => if s.cis.st = 1 then
        forEach (List.range 11) (fun (g : Nat) (s : State) => s.put (Reg.powerCalscale g) (u32 b (4 + 4 * g))) s
      else s
    | none => s
  let s := s.nextPhase 6
  forEach (List.range 4) (fun d s => s.setVca d) s

/-- B10 ends (R415): READY. -/
def State.becomeReady (s : State) : State :=
  let s := s.applyDefault
  let s := s.modBoot fun b => { b with ready := true, phase := 11 }
  let s := s.put64 Reg.testReadyLo s.time
  let per := field (s.reg Reg.testCtl) 4 0
  let s := forEach (List.range 72) (fun i s => s.modTest i fun t => { t with due := s.time + i * per * 810000000000 / 72 }) s
  let b := s.boot
  s.modEvent 0x28 (leBytes 4 (b.reached + at_ 4 b.slot + at_ 7 (b2n b.journalRo) + at_ 8 b.failed + at_ 11 (b2n b.quick)))

/-- BRINGUP_PHASE_END (R413): what the phase that ran found, and the next phase. -/
def execBringupPhaseEnd (found : BringupFindings) (s : State) : Host.Outcome State Fault Refusal :=
  .next (match s.boot.phase with
    | 1 => if s.railsOk then s.release else s
    | 2 => s.loadFuses.trainRill.nextPhase 3
    | 3 =>
      let s := (s.mount found.journalOk found.journalLost).checkPresence
      let c := s.nv.choice % 2
      (s.nextPhase 4).modBoot fun b => { b with candAt := s.time, cands := if found.journalOk then [c, 1 - c, 2] else [2] }
    | 4 => match s.boot.cands with
      | [] => s
      | c :: _ =>
        let code := s.candCode c found.imageOk
        if code ≠ 0 then s.candFails c code
        else (s.loadFirmware c).runPairs.nextPhase 5
    | 5 => s.applyTables
    | 6 => (forEach found.arraysFailed (fun i s => s.arrayFails i) s).startMemTest
    | 7 =>
      let s := s.endMemTest found.poolRows found.hbmRows found.phyFailed
      if s.boot.slot = 2 then s.modBoot fun b => { b with phase := 11 } else s.nextPhase 8
    | 8 =>
      let s := s.evaluate.nextPhase 9
      forEach (List.range 24) (fun p s => s.trainPort p) s
    | 9 =>
      if (List.range 24).any fun p => (s.halfIxs p).any fun h => (s.half p h).st == 1 then s else s.nextPhase 10
    | 10 => s.becomeReady
    | _ => s)

/-! ### In-field tests (R430 to R432) -/

/-- The Weir holds a role's calendar for a test in place, at most 45,000,000 S cycles (Table 16-6); the hold has a number beyond every
ADMNO. -/
def State.holdRole (s : State) (i : Nat) : State :=
  match (vget s.arrays i).role, s.arrayOwner i with
  | some r, some pt => s.modWeir fun w =>
      { w with resv := w.resv ++ [⟨pt, 2 ^ 32 + i, resRole (i / 18) r, s.quantum, s.quantum + 200000, 1⟩] }
  | _, _ => s

/-- The hold of a test ends. -/
def State.freeRole (s : State) (i : Nat) : State :=
  s.modWeir fun w => { w with resv := w.resv.filter fun r => r.admno != 2 ^ 32 + i }

/-- TEST_DUE (R430, R431); source 0x17 fires (R465). -/
def execTestDue (die : Die) (arr : ArrayIx) (s : State) : Host.Outcome State Fault Refusal :=
  let i := arrIx die arr
  let A := vget s.arrays i
  let idle := fun j => let t := vget s.tests j; t.st == 0 && !t.waiting && decide (t.due ≤ s.time) && !(vget s.arrays j).retired
  let mine := (List.range 18).map fun a => arrIx die a
  let code := 32 * die.val + arr.val
  .next (if !s.boot.ready ∨ !idle i ∨ (mine.any fun j => (vget s.tests j).st == 2 || (decide (j < i) && idle j)) then s
    else
      let s := s.fire 0x17
      let now := fun (s : State) => s.modTest i fun t => { t with st := 2, forced := false, waiting := false }
      match (if A.role.isSome then s.arrayOwner i else none) with
      | none => now s
      | some pt =>
        if (s.part pt).bed.isNone then (now s).holdRole i
        else if (s.freeSpare die).isSome then s.modTest i fun t => { t with waiting := true }
        else
          let s := (s.modTest i fun t => { t with st := 3, waiting := true }).bump Reg.testDefercnt 1
          let s := s.ptEvent pt 0x2A (leBytes 4 code)
          s.record { unitRec 0 0x5C die 1 arr with detail1 := code })

/-- TEST_FORCED (R431): 72 hours past its due time a deferred test is forced at the next boundary; without a BED, at once. -/
def execTestForced (die : Die) (arr : ArrayIx) (s : State) : Host.Outcome State Fault Refusal :=
  let i := arrIx die arr
  let t := vget s.tests i
  .next (if t.st ≠ 3 ∨ t.forcing ∨ s.time < t.due + 72 * 810000000000 then s
    else
      let s := s.modTest i fun t => { t with forcing := true }
      match s.arrayOwner i with
      | some pt => if (s.part pt).bed.isNone then (s.boundaryArray i).holdRole i else s
      | none => s.boundaryArray i)

/-- TEST_COMPLETE (R432): the next test falls due PERIOD hours later; a failure is reported, counted and acted on. -/
def execTestComplete (die : Die) (arr : ArrayIx) (failure : Option (Fin 6 × Nat)) (s : State) : Host.Outcome State Fault Refusal :=
  let i := arrIx die arr
  let t := vget s.tests i
  .next (if t.st ≠ 2 then s
    else
      let per := field (s.reg Reg.testCtl) 4 0
      let s := (s.freeRole i).modTest i fun t =>
        { t with last := some s.time, lastFail := failure.isSome, due := s.time + per * 810000000000 }
      match failure with
      | none =>
        if t.spare.isSome then s.modTest i fun t => { t with st := 1, waiting := true }
        else (s.modTest i fun t => { t with st := 0 }).rebind die
      | some (seg, pat) =>
        let base := match s.arrayOwner (t.spare.getD i) with
          | some pt => ptRec pt 2 0x1F die 1 arr
          | none => unitRec 2 0x1F die 1 arr
        let s := (s.record { base with detail1 := seg.val, detail2 := pat }).bump Reg.testFailcnt 1
        let (hit, s) := s.track 1 die arr 0 2 0
        let s := if hit then s.candidate 1 die arr 0 false true else s
        let s := s.modTest i fun t => { t with st := 0, spare := none, waiting := false }
        match (vget s.arrays i).role with
        -- in rotation the spare keeps the role; an array without a role stays out
        | none => s.modArr i fun x => { x with out := true }
        | some r =>
          let s := s.modArr i fun x => { x with out := true }
          match s.freeSpare die with
          | some a =>
            match s.arrayOwner i with
            | some pt => if (s.part pt).bed.isSome then s.modArr i fun x => { x with moveAway := true }
              else s.moveRole i (arrIx die a)
            | none => s.moveRole i (arrIx die a)
          | none =>
            (s.modArr i fun x => { x with role := none }).modBoot fun b => { b with unbound := b.unbound ++ [16 * die.val + r] })

/-! ### Firmware activation (R427 to R429) -/

/-- The activation ends: ACTIVATION, its record, and FW_ACTIVATE completes. Outcomes: 1 activated, 2 postponed, 3 verification failed. -/
def State.activationEnds (s : State) (outcome : Nat) : State :=
  let slot := s.act.slot
  let s := s.modAct fun a => { a with st := 0, outcome := outcome }
  let s := s.modEvent 0x29 (leBytes 4 outcome)
  (s.record { unitRec 0 0x5D 4 0x0F 0 with detail1 := outcome, detail2 := slot }).secFinish 0

/-- ACTIVATION_DRAIN_END (R427, R428): no STEP or SNAPSHOT is incomplete; a verified slot goes on to the withdrawal. -/
def execActivationDrainEnd (s : State) : Host.Outcome State Fault Refusal :=
  let left := s.comp.weir.adms.any fun a => dOp a.desc == 1 || dOp a.desc == 7
  .next (if s.act.st ≠ 1 ∨ left then s
    else if s.candCode s.act.slot true ≠ 0 then s.activationEnds 3
    else
      let s := (s.modAct fun a => { a with st := 2, since := s.time }).modFab fun f => { f with withdrawn := true }
      s.sendAdvert)

/-- DRAIN_TIMEOUT (R427): the drain has lasted beyond TEST_ACTDRAIN milliseconds. -/
def execDrainTimeout (s : State) : Host.Outcome State Fault Refusal :=
  .next (if s.act.st = 1 ∧ s.act.since + s.reg Reg.testActdrain * 225000 < s.time then s.activationEnds 2 else s)

/-- A write of TEST_ACTCMD (R427). -/
def State.writeActcmd (s : State) (w : Nat) : State :=
  if field w 15 8 ≠ 0x4B then s.accErr Reg.testActcmd .badKey
  else if bit w 0 ∧ s.act.st = 1 then s.activationEnds 2
  else s

/-- POSTPONE. -/
def execPostpone (key : Byte) (s : State) : Host.Outcome State Fault Refusal :=
  .next (s.hostWrite Reg.testActcmd fun s => s.writeActcmd (1 + at_ 8 key.toNat))

/-- REST_BEGIN (R428): the router rests, F0 to F3 start on the new slot. -/
def execRestBegin (s : State) : Host.Outcome State Fault Refusal :=
  .next (if s.act.st ≠ 2 ∨ s.time < s.act.since + 2250000 then s
    else
      let s := s.modBoot fun b => { b with routerRest := true }
      let s := forEach (List.range 2) (fun m s => (s.holdPair m 0).modPair m fun p => { p with st := 1 }) s
      let s := s.loadFirmware s.act.slot
      s.modAct fun a => { a with st := 3, restAt := s.time })

/-- REST_END (R428): the router forwards again on the kept table. -/
def execRestEnd (s : State) : Host.Outcome State Fault Refusal :=
  .next (if s.act.st ≠ 3 then s
    else (s.modBoot fun b => { b with routerRest := false }).modAct fun a => { a with st := 4 })

/-- ACTIVATION_COMPLETE (R428): the new firmware runs; the advert with WITHDRAW = 0 goes out, groups form anew. -/
def execActivationComplete (s : State) : Host.Outcome State Fault Refusal :=
  .next (if s.act.st ≠ 4 then s
    else
      let s := s.runPairs.modFab fun f => { f with withdrawn := false }
      let s := s.sendAdvert
      let open_ := (List.range 256).filter fun i => (s.group i).st == 2
      let s := forEach open_ (fun i s => (s.modGroup i fun g => { g with told := false }).setGroupSt i 1) s
      s.activationEnds 1)

/-- ACTIVATION_TIMEOUT (R429). -/
def execActivationTimeout (s : State) : Host.Outcome State Fault Refusal :=
  .next (if (s.act.st = 3 ∨ s.act.st = 4) ∧ s.act.restAt + 1012500000 ≤ s.time then s.moduleReset 7 0 else s)

end Sys2Proof.Machine
end

