-- ==== Sys2Proof/Machine/Scrub.lean ====
section
/-! DEFINITION. Scrub.lean: patrol scrub of pools and HBM, replayable state, HBM row remaps, die links (R343 to R346, R349, R369, R372,
R492, R493). -/
namespace Sys2Proof.Machine

/-! ### Whose memory, and whether a replay rewrites it (R349) -/

/-- Partition and space address of a byte of a pool (space 0) or an HBM channel (space 1), by the unit's number and the offset in it. -/
def State.logical (s : State) (space unit off : Nat) : Option (Nat × Nat) :=
  (s.ownerBy (if space = 0 then PtRes.pools else PtRes.hbm) unit).bind fun pt =>
    ((s.spaceUnits pt space).findIdx? (· == unit)).map fun i => (pt, i * (if space = 0 then 2 ^ 23 else 2 ^ 31) + off)

/-- A region that holds a location: whether it is replayable, the tag of its tensor (0 for none), and the step in flight whose
state it is; state that steps share belongs to the oldest in flight (R349, R351). -/
structure HeldIn where
  replayable : Bool
  tag : Nat
  step : Option Nat
deriving DecidableEq, Repr

/-- Regions of a BED that hold a location (R349). -/
def State.regionsAt (s : State) (pt space a : Nat) : List HeldIn :=
  match (s.part pt).bed with
  | none => []
  | some b =>
    let flying := (s.part pt).steps.filter fun x => x.st != 0 && x.st != 6
    let first := flying.head?.map (·.num)
    let inR := fun (shift : Nat) (r : Nat × Int × Int) => r.1 == space && decide (r.2.1 + shift ≤ (a : Int) ∧ (a : Int) < r.2.2 + shift)
    let inLay := fun (shift li : Nat) => li != none32 && (bedLayout b li).ranges.any (inR shift)
    let tensors := (List.range (secCount b 0x0203)).flatMap fun t =>
      let T := bedTensor b t
      let slots := if T.kind = 1 ∨ T.kind = 6 then 1 + jobAhead b else if T.kind = 0 ∨ T.kind = 4 ∨ T.kind = 5 then ringOf b t else 1
      ((List.range slots).filter fun k => inLay (k * T.stride) T.layout || (T.format < 2 && inLay (k * T.stride) T.spill)).map fun k =>
        let act := flying.find? fun x => (T.kind == 1 || T.kind == 6) && (s.part pt).slot b t x.num == k
        let ver := flying.find? fun x => (T.kind == 0 || T.kind == 4 || T.kind == 5) && decide (2 ≤ (s.part pt).ring b t) &&
          (updaterOf b t).isSome && (s.part pt).slot b t (x.num + 1) == k
        let own := act.orElse fun _ => ver
        ⟨own.isSome, T.tag, own.map (·.num)⟩
    let others := (List.range (secCount b 0x0203)).flatMap fun t =>
      let T := bedTensor b t
      [T.wideLayout, T.zpLayout].filterMap fun li => if inLay 0 li then some ⟨false, T.tag, none⟩ else none
    let copies := ((List.range (secCount b 0x0204)).filter fun u => inLay 0 (useCopy b u)).map fun u =>
      ⟨true, (bedTensor b (useTensor b u)).tag, first⟩
    let signs := (recsOf b 0x0208).filterMap fun r =>
      let base := u48 r 0x18
      let T := bedTensor b (u32 r 0x10)
      let n := cdiv (prodN (bedLayout b T.layout).globalExt) 4
      if base ≠ none48 ∧ space = 0 ∧ base ≤ a ∧ a < base + n then some ⟨true, T.tag, first⟩ else none
    let groups := (bedGroups b).filterMap fun g =>
      if space = 1 ∧ ((g.stageBase ≤ a ∧ a < g.stageBase + g.stageLen) ∨ (g.pipeBase ≤ a ∧ a < g.pipeBase + g.pipeLen)) then some ⟨true, 0, first⟩
      else none
    tensors ++ others ++ copies ++ signs ++ groups

/-- Whether a location lies wholly in replayable state: in some region, and replayable in each that holds it (R349). -/
def State.replayable (s : State) (pt space a : Nat) : Bool :=
  let r := s.regionsAt pt space a
  !r.isEmpty && r.all (·.replayable)

/-- Tag of a tensor whose region holds a location, or 0 (Table 13-6). -/
def State.tagAt (s : State) (pt space a : Nat) : Nat := (((s.regionsAt pt space a).head?).map (·.tag)).getD 0

/-- The oldest step in flight whose replayable state holds a location. -/
def State.stepAt (s : State) (pt space a : Nat) : Option Nat :=
  let r := s.regionsAt pt space a
  if r.all (·.replayable) then (r.filterMap (·.step)).foldl (fun m n => some (min n (m.getD n))) none else none

/-- A record about a memory location names its owner and says whether it is committed state (R349). -/
def State.memRec (s : State) (space unit off : Nat) (r : Rec) : Rec :=
  match s.logical space unit off with
  | some (pt, a) => { r with pt := some pt, committed := !s.replayable pt space a, layer := s.tagAt pt space a, step := s.stepAt pt space a }
  | none => { r with committed := true }

/-- Indices of a command's findings that are uncorrectable, each once, ascending. -/
def badOf (errors : List MemError) : List Nat :=
  (errors.filterMap fun e => match e with
    | .corrected _ _ => none
    | .uncorrectable i => some i
    | .address i _ => some i).foldl (fun l i => setInsert i l) []

/-- One record for one patrol read that found uncorrectable words or sectors: `rec` names the lowest, REPEAT counts them, COMMITTED
is set when any lies outside replayable state (R493); a step in flight whose replayable state was hit replays (R351, R370). -/
def State.scrubBad (s : State) (space unit size : Nat) (bad : List Nat) (r : Rec) : State :=
  let recs := bad.map fun i => s.memRec space unit (size * i) r
  match recs with
  | [] => s
  | r0 :: _ =>
    let s' := s.record { r0 with count := min 0xFFFF bad.length, coalesced := decide (1 < bad.length), committed := recs.any (·.committed) }
    let hit := recs.filterMap fun q => q.pt.bind fun pt => q.step.map fun n => (pt, n)
    forEach ((List.range 16).filterMap fun pt =>
        ((hit.filter fun h => h.1 == pt).map (·.2)).foldl (fun m n => some (pt, min n ((m.map (·.2)).getD n))) none)
      (fun h s => s.failReplay h.1 h.2 (some s'.lastUid)) s'

/-! ### Pools (R343, R345) -/

/-- A counted event of one row of a pool, and its candidacy at the threshold (R368). -/
def State.trackPool (s : State) (die pool row ev item : Nat) : State :=
  let (hit, s) := s.track 2 die pool row ev item
  if hit then s.candidate 2 die pool row false false else s

/-- One word of a pool that the patrol corrected. -/
def State.poolCorrected (s : State) (die pool i pos : Nat) : State :=
  let owner := (s.logical 0 (64 * die + pool) (8 * i)).map (·.1)
  let s := s.corrected { unitRec 1 0x04 die 4 pool with pt := owner, detail1 := i, detail2 := pos }
  s.trackPool die pool (i / 128) 4 i

/-- POOL_SCRUB (R345, R493): one patrol read of a pool (entry 84). Corrected words are written back; the uncorrectable ones are
poisoned in place and reported in one record, and count once for each row. A word with both kinds is uncorrectable (R370). -/
def execPoolScrub (die : Die) (pool : Fin 64) (errors : List MemError) (s : State) : Host.Outcome State Fault Refusal :=
  let bad := badOf errors
  .next (if !s.boot.ready then s
    else
      let s := forEach errors (fun e s => match e with
        | .corrected i pos => if bad.contains i then s else s.poolCorrected die pool i pos
        | _ => s) s
      let s := forEach bad (fun i s => s.poisonAt (poolAddr die pool (8 * i))) s
      let s := s.scrubBad 0 (64 * die + pool) 8 bad { unitRec 2 0x05 die 4 pool with detail1 := bad.headD 0 }
      forEach ((bad.map (· / 128)).eraseDups) (fun row s => s.trackPool die pool row 3 0) s)

/-! ### HBM (R344, R345, R369, R372, R492) -/

/-- Pseudo-channel and row of a channel-local sector index (R492). -/
def sectorPc (i : Nat) : Nat := i / 4 % 2
def sectorRow (i : Nat) : Nat := (4 * (i / 8) + i % 4) / 16

/-- An HBM row becomes a candidate: the controller remaps it while its channel has one of 128 entries free (R369). -/
def State.hbmCandidate (s : State) (stack inst row : Nat) : State :=
  let s := s.candidate 3 (stack / 3) inst row false false
  let used := (s.boot.hbmRemaps.filter fun r => r.1 / 2 == inst / 2).length
  if 128 ≤ used ∨ s.boot.hbmRemaps.contains (inst, row) then s
  else s.modBoot fun b => { b with hbmRemaps := b.hbmRemaps ++ [(inst, row)] }

/-- INSTANCE of a sector of a channel: stack, channel, pseudo-channel (R356, R492). -/
def sectorInst (stack ch i : Nat) : Nat := 64 * stack + 2 * ch + sectorPc i

/-- A counted event of one row of a channel, and its candidacy at the threshold (R368). -/
def State.trackHbm (s : State) (stack inst row ev item : Nat) : State :=
  let (hit, s) := s.track 3 (stack / 3) inst row ev item
  if hit then s.hbmCandidate stack inst row else s

/-- One sector of a channel that the patrol corrected. -/
def State.hbmCorrected (s : State) (stack ch i sym : Nat) : State :=
  let die := stack / 3
  let owner := (s.logical 1 (32 * stack + ch) (64 * i)).map (·.1)
  let s := s.bump (Reg.hbmCecnt die (stack % 3)) 1
  let s := s.corrected { unitRec 1 0x06 die 5 (sectorInst stack ch i) with pt := owner, detail1 := i % 2 ^ 25 + at_ 25 (sym % 64) }
  s.trackHbm stack (sectorInst stack ch i) (sectorRow i) 4 i

/-- Decoded index of a sector found with an address error, as one command reports it (R344). -/
def addrErr (errors : List MemError) (i : Nat) : Option Nat :=
  errors.findSome? fun e => match e with
    | .address j d => if j = i then some d else none
    | _ => none

/-- One uncorrectable sector of a channel: poisoned in place, counted, and named by HBM_LASTUE (R345, R372). -/
def State.hbmBad (s : State) (stack ch : Nat) (addr : Bool) (i : Nat) : State :=
  let die := stack / 3
  let s := s.poisonAt (hbmAddr stack ch (64 * i))
  let s := s.bump (if addr then Reg.hbmAddrcnt die (stack % 3) else Reg.hbmUecnt die (stack % 3)) 1
  s.put (Reg.hbmLastue die (stack % 3)) (i % 2 ^ 25 + at_ 25 (sectorPc i) + at_ 26 ch + at_ 31 (b2n addr))

/-- The findings of one patrol read of a channel (R345, R370, R493). -/
def State.hbmErrors (s : State) (stack ch : Nat) (errors : List MemError) : State :=
  let bad := badOf errors
  let first := bad.headD 0
  let isAddr := fun i => (addrErr errors i).isSome
  let s := forEach errors (fun e s => match e with
    | .corrected i sym => if bad.contains i then s else s.hbmCorrected stack ch i sym
    | _ => s) s
  let s := forEach bad.reverse (fun i s => s.hbmBad stack ch (isAddr i) i) s
  let s := s.scrubBad 1 (32 * stack + ch) 64 bad
    { unitRec 2 (if isAddr first then 0x08 else 0x07) (stack / 3) 5 (sectorInst stack ch first) with
      detail1 := first, detail2 := (addrErr errors first).getD 0 }
  forEach ((bad.map fun i => (sectorInst stack ch i, sectorRow i)).eraseDups) (fun r s => s.trackHbm stack r.1 r.2 3 0) s

/-- HBM_SCRUB (R345): one patrol read of a channel in service (entry 84); the pass of a stack ends with its highest channel in service
(entry 44). -/
def execHbmScrub (stack : Fin 12) (channel : Fin 32) (errors : List MemError) (s : State) : Host.Outcome State Fault Refusal :=
  let on := s.hbmInService
  let u := 32 * stack.val + channel.val
  .next (if !s.boot.ready ∨ !bit on u then s
    else
      let s := s.hbmErrors stack channel errors
      let last := ((List.range 32).filter fun c => bit on (32 * stack.val + c)).getLast?
      if last = some channel.val then s.bump (Reg.hbmScrubpass (stack / 3) (stack % 3)) 1 else s)

/-! ### Die links (R346) -/

/-- The other end of a ring link: link 1 of CDn is link 2 of CD(n + 1), link 0 is the hub's. -/
def otherEnd (die link : Nat) : Nat :=
  if link = 1 then 3 * ((die + 1) % 4) + 2 else if link = 2 then 3 * ((die + 3) % 4) + 1 else 3 * die

/-- DIELINK_FLIT_ERROR: a flit fails its CRC and is sent again; the eighth failed send in a row of one flit retrains the link. -/
def execDielinkFlitError (die : Die) (link : Fin 3) (sends : Fin 9) (s : State) : Host.Outcome State Fault Refusal :=
  let k := 3 * die.val + link.val
  .next (if !s.boot.released ∨ s.boot.linksDown.contains k ∨ s.boot.linksTraining.contains k ∨ sends.val = 0 then s
    else
      let s := s.corrected { unitRec 1 0x09 die 6 link with detail1 := 1 }
      if sends.val = 8 then s.modBoot fun b => { b with linksTraining := setInsert (otherEnd die link) (setInsert k b.linksTraining) }
      else s)

/-- DIELINK_RETRAIN_DONE: the link works again, or is down; a hub link down resets compute. -/
def execDielinkRetrainDone (die : Die) (link : Fin 3) (ok : Bool) (s : State) : Host.Outcome State Fault Refusal :=
  let k := 3 * die.val + link.val
  let e := otherEnd die link
  .next (if !s.boot.linksTraining.contains k then s
    else
      let s := s.modBoot fun b => { b with linksTraining := b.linksTraining.filter fun x => x != k && x != e }
      if ok then s
      else
        let s := s.modBoot fun b => { b with linksDown := setInsert e (setInsert k b.linksDown) }
        let s := s.record (unitRec 4 0x0A die 6 link)
        if link.val = 0 ∧ s.boot.ready then s.computeReset else s)

end Sys2Proof.Machine
end

