-- ==== Sys2Proof/Machine/View.lean ====
section
/-! DEFINITION. View.lean: what the RO registers read that are views of the state of a unit (R48, R81, R151, R180, R208, R232, R253,
R285, R319, R340, R341, R371, R372, R396, R412, R435, R459, R477, R478). A view answers none where a register reads what it stores. -/
namespace Sys2Proof.Machine

/-- Words of a 64-bit view. -/
def lo32 (v : Nat) : Nat := v % 2 ^ 32
def hi32 (v : Nat) : Nat := v / 2 ^ 32 % 2 ^ 32

/-! ### GLOBAL (R48), RILL (R340) -/

/-- GLOBAL views; the fields of GLOBAL_RSTSTAT as Table 01-16. -/
def State.viewGlobal (s : State) (off : Nat) : Option Nat :=
  if off = Reg.globalRststat then
    some (s.boot.ptResetting.toNat + at_ 16 (b2n s.boot.computeResetting) + at_ 17 (b2n s.boot.routerRest) + at_ 20 (b2n s.boot.ready))
  else if off = Reg.globalTimeLo then some (lo32 s.time)
  else if off = Reg.globalTimeHi then some (hi32 s.time)
  else none

/-- Status word of a ring (Table 12-14). PHASE is of the rings the module writes. -/
def State.ringStat (s : State) (id : RingId) : Nat :=
  let r := s.ring id
  let ph := match id with | .sq _ _ => false | _ => r.phase
  b2n (s.ringOn id) + at_ 1 (b2n ph) + at_ 2 r.fault + at_ 4 (b2n r.dberr)

/-- WIDTH of RILL_STAT (Table 12-12). -/
def Rill.widthCode (r : Rill) : Nat :=
  if r.width = 0 then 0 else if r.width = 8 then 3 else if field r.good 3 0 = 15 then 1 else 2

/-- RILL views (Table 12-12). -/
def State.viewRill (s : State) (off : Nat) : Option Nat :=
  let r := s.rill
  if off = Reg.rillStat then some (r.state + at_ 2 r.widthCode + at_ 8 r.good)
  else if off = Reg.rillMeqTail then some (s.ring .meq).tail
  else if 0x100100 ≤ off ∧ off < 0x100900 ∧ off % 32 = 0x14 then
    let w := (off - 0x100100) / 32
    some (s.windowOutstanding w + at_ 16 (b2n (r.winBad.contains w)))
  else none

/-! ### Arrays (R81, R232), engines (R151), controllers (R372) -/

/-- BASIN_STAT.STATE (Table 02-9): a tile of which a column has drained is draining; two tiles are both. -/
def ArraySt.basinState (A : ArraySt) : Nat :=
  match A.tiles with
  | [] => match A.stats with | none => 0 | some q => if q.col = 0 then 1 else 2
  | [t] => if t.col = 0 then 1 else 2
  | _ => 3

/-- BASIN_SHAPE of the accumulating tile, the last taken, or of the row statistics (Table 02-10). -/
def State.basinShape (s : State) (A : ArraySt) : Nat :=
  match A.tiles.reverse with
  | [] => at_ 4 ((A.stats.map (·.op)).getD 0)
  | t :: _ => match (s.part t.pt).bed with
    | none => 0
    | some b =>
      let p := s.place t.pt b t.step t.task.layer t.task.prod
      (bedLayer b t.task.layer).shape + at_ 3 (b2n p.anchored) + at_ 6 (b2n p.grid) + at_ 8 (b2n p.quarter)

/-- PASS of JET_STAT (Table 08-16). -/
def passCode (n : Nat) : Nat := if n ≤ 3 then n else 0

/-- Views of an array's window. -/
def State.viewArray (s : State) (off : Nat) : Option Nat :=
  let die := (off - 0x1000000) / 0x400000
  let x := (off - 0x1000000) % 0x400000 - 0x100000
  let i := arrIx die (x / 0x10000)
  let A := vget s.arrays i
  match x % 0x10000 with
  | 0x0 =>
    let word := match A.tiles.reverse with | t :: _ => t.word | [] => false
    some (A.basinState + at_ 2 (b2n word) + at_ 3 (b2n A.stall) + at_ 8 (A.role.getD 0x1F) + at_ 16 ((s.arrayOwner i).getD 0) +
      at_ 31 (b2n A.retired))
  | 0x4 => some (s.basinShape A)
  | 0x1000 =>
    let J := vget s.comp.jets i
    let pass := (J.run.map fun r => passCode r.pass).getD 0
    let owner := (J.run.map (·.pt)).orElse fun _ => (J.statWait ++ J.scalarWait).head?.map (·.pt)
    some (pass + at_ 2 (b2n !J.statWait.isEmpty) + at_ 4 (b2n !J.scalarWait.isEmpty) + at_ 8 J.lastPc + at_ 16 (owner.getD 0))
  | _ => none

/-- Whether an engine runs a COPY, GATHER or SCATTER (Table 05-11). -/
def State.copyRuns (s : State) (e : EngineSt) : Bool :=
  match e.run with
  | none => false
  | some r => s.comp.weir.adms.any fun a => a.pt == r.pt && a.admno == r.admno && [3, 4, 5].contains (dOp a.desc)

/-- Views of a Sluice engine's window (Table 05-11). A pass of ADD_EXACT and the next follow in one step, so PASS reads 0. -/
def State.viewSluice (s : State) (off : Nat) : Option Nat :=
  let die := (off - 0x1000000) / 0x400000
  let x := (off - 0x1000000) % 0x400000 - 0x300000
  let e := vget s.comp.engines (2 * die + x / 0x40000)
  if x % 0x40000 = 0 then
    let fused := match e.fills with | [] => none | f :: _ => some f.2
    some (b2n (s.copyRuns e) + at_ 1 (b2n fused.isSome) + at_ 8 ((e.run.map (·.pt)).getD 0) + at_ 12 (fused.getD 0))
  else none

/-- HBM_STAT (Table 13-16). -/
def State.viewHbm (s : State) (off : Nat) : Option Nat :=
  let die := (off - 0x1000000) / 0x400000
  let x := (off - 0x1000000) % 0x400000 - 0x380000
  if x % 0x10000 = 0 then
    let k := 3 * die + x / 0x10000
    if s.boot.reached < 7 ∨ s.boot.computeResetting then some 0
    else some ((bitsOf 32 (field s.hbmInService (32 * k + 31) (32 * k))).length +
      at_ 16 ((s.boot.hbmRemaps.filter fun r => r.1 / 64 == k).length))
  else none

/-! ### Die control (R208) -/

/-- DIE_ROLEMAP byte of a role (Table 07-10). -/
def State.roleByte (s : State) (die role : Nat) : Nat :=
  match s.arrayOf die role with
  | none => 0x1F
  | some a =>
    a + at_ 7 (b2n ((List.range 18).any fun j =>
      let t := vget s.tests (arrIx die j)
      t.spare == some (arrIx die a) && (t.st == 1 || t.st == 2)))

/-- Steps that have entered RUNNING and not committed. -/
def Part.inFlight (p : Part) : List StepSt := p.steps.filter fun x => decide (1 ≤ x.st ∧ x.st ≤ 5)

/-- DIE_STEPSTAT (Table 07-10). -/
def State.stepStat (s : State) (pt : Nat) : Nat :=
  let p := s.part pt
  let l := p.inFlight
  let waits := l.any fun x => x.upds.any fun u => u.waited && u.pass == 0
  let scal := s.comp.jets.toList.any fun j => j.scalarWait.any (·.pt == pt)
  let (st, rep) := match l with | x :: _ => (x.st, x.replay) | [] => (0, false)
  ((p.bed.map jobAhead).getD 0) + at_ 2 st + at_ 5 (min 3 l.length) + at_ 7 (b2n waits) + at_ 8 (b2n scal) + at_ 9 (b2n rep)

/-- Pools that hold a resident activation home of a partition (R189, R190): the homes of the USE_X tensors of the layers at the last
RESIDENCY positions at their current rung, in every step slot, as far as they lie in pool space (A8). -/
def State.residentPools (s : State) (pt : Nat) : List Nat :=
  match (s.part pt).bed with
  | none => []
  | some b =>
    let last := residentIds b
    let step := ((s.oldest pt).map (·.num)).getD ((s.part pt).commit + 1)
    let ts := (((bedLayers b).filter fun l => last.contains l.id).map fun l => useTensor b l.useX).eraseDups
    let units := s.spaceUnits pt 0
    let rs := ts.flatMap fun t => (List.range (1 + jobAhead b)).flatMap fun k =>
      (s.viewAt pt b t k 0 (s.rungAt pt t step)).ranges 0
    (rs.filter fun r => r.1 == 0 && decide (r.2.1 < r.2.2)).flatMap fun r =>
      let a := r.2.1.toNat / 2 ^ 23
      let z := (r.2.2 - 1).toNat / 2 ^ 23
      (List.range (z + 1 - a)).filterMap fun i => units[a + i]?

/-- DIE_POOLSTAT (Table 07-10). -/
def State.poolStat (s : State) (die pool : Nat) : Nat :=
  let u := 64 * die + pool
  match s.ownerBy PtRes.pools u with
  | none => 0
  | some pt => pt + at_ 4 1 + at_ 5 (b2n ((s.residentPools pt).contains u))

/-- Views of a die's control block. -/
def State.viewDie (s : State) (off : Nat) : Option Nat :=
  let die := (off - 0x1000000) / 0x400000
  let x := (off - 0x1000000) % 0x400000
  if x = 0 ∧ s.boot.computeResetting then some 0
  else if x = 0 then
    let spare := (List.range 18).filter fun a =>
      let A := vget s.arrays (arrIx die a)
      !A.retired && !A.out && A.role.isNone
    some (s.roleCount die + at_ 8 (min 2 spare.length))
  else if x = 4 then
    let busy := (List.range 18).filter fun a => !(vget s.arrays (arrIx die a)).tiles.isEmpty
    some (min 255 (s.readyTasks die false).length + at_ 8 busy.length)
  else if 0x10 ≤ x ∧ x < 0x20 then
    some ((List.range 4).foldl (fun n k => n + at_ (8 * k) (s.roleByte die ((x - 0x10) + k))) 0)
  else if 0x1000 ≤ x ∧ x < 0x1400 ∧ x % 0x40 = 8 then some (s.stepStat ((x - 0x1000) / 0x40))
  else if 0x2000 ≤ x ∧ x < 0x2100 then some (s.poolStat die ((x - 0x2000) / 4))
  else none

/-! ### Parterre (R180, R181) -/

/-- Whether the staged image passes its checks and takes effect at once (R170, R173). -/
def State.loadApplies (s : State) (im : List Byte) : Bool :=
  (s.validate im (s.reg Reg.parterreLen) false).isNone && (s.phase6 im).isNone &&
    (u8 im 4 == 1 || (s.part (field (u8 im 0x0C) 3 0)).bed.isNone)

/-- PARTERRE_STAT (Table 06-18): validating, with the phase by the C cycles since LOAD (Table 06-19), four to an S cycle; applying, once the
checks of an image that takes effect have had their cycles. -/
def State.parterreStat (s : State) : Nat :=
  let l := s.comp.loader
  if l.st = 0 then 0
  else
    let e := 4 * (s.time - l.since)
    if e < 4 then 0
    else
      let im := s.staged
      let n := imgDir im
      let dir := if 1 ≤ n.length ∧ n.length ≤ 32 then 4 * n.length else 0
      let dig := 18 * ((s.reg Reg.parterreLen - 64) / 72 + 1)
      let recs := sumN (n.map fun d => (if d.1 = 0x0202 then 40 else 2) * d.2.2.1)
      let w := ((bedTensors im).filter fun t => t.kind == 0).length
      let whole := 16 * (secCount im 0x0203 + secCount im 0x0205) + 24 * w * clog2 (w + 1)
      let ph := if e < 36 then 1 else if e < 36 + dir then 2 else if e < 36 + dir + dig then 3
        else if e < 36 + dir + dig + recs then 4 else if e < 36 + dir + dig + recs + whole then 5 else 6
      let masks := sumN ((List.range (secCount im 0x0207)).map fun m => cdiv (s.maskBytes (field (u8 im 0x0C) 3 0) (recOf im 0x0207 m)).length 64)
      if 36 + dir + dig + recs + whole + (if u8 im 4 = 2 then masks else 0) + 16 ≤ e ∧ s.loadApplies im then 2 else 1 + at_ 2 ph

/-- PARTERRE views. -/
def State.viewParterre (s : State) (off : Nat) : Option Nat :=
  if off = Reg.parterreStat then some s.parterreStat
  else if off = Reg.parterreBedstat then
    some ((List.range 16).foldl (fun n pt =>
      n + at_ pt (b2n (s.part pt).bed.isSome) + at_ (16 + pt) (b2n (s.part pt).pendBed.isSome)) 0)
  else none

/-! ### Weir (R253), Cascade (R285) -/

/-- WEIR views (Table 09-10, Table 09-11). -/
def State.viewWeir (s : State) (off : Nat) : Option Nat :=
  if off = Reg.weirStat then
    some (s.comp.weir.adms.length + at_ 16 (min 255 ((s.comp.weir.heads.map fun h => (h.1, h.2.1)).eraseDups).length))
  else if off = Reg.weirQuantumLo then some (lo32 s.quantum)
  else if off = Reg.weirQuantumHi then some (hi32 s.quantum)
  else if 0x201000 ≤ off ∧ off < 0x201400 then
    let pt := (off - 0x201000) / 0x40
    match off % 0x40 with
    | 0x4 => some (s.admsOf pt).length
    | 0x8 => some ((s.admsOf pt).filter fun a => decide (a.promise < s.time)).length
    | 0x1C => some (profileLen (s.profileOf pt))
    | _ => none
  else none

/-- Views of a group slot (Table 10-13). -/
def State.viewGroup (s : State) (slot r : Nat) : Option Nat :=
  let g := s.group slot
  match r with
  | 0x0 => some (g.pt + at_ 4 (b2n (g.st != 0)) + at_ 16 g.gid)
  | 0x4 => some (g.st + at_ 3 (b2n g.careful) + at_ 4 (b2n g.inr) + at_ 5 (b2n g.fallback) + at_ 8 g.proto)
  | 0x8 => some g.members.length
  | 0xC => some g.rank
  | 0x10 => some g.epoch
  | _ => none

/-- CASCADE views (Table 10-13). -/
def State.viewCascade (s : State) (off : Nat) : Option Nat :=
  if off = Reg.cascadeStat then
    let on := s.comp.casc.runs.filter fun r => r.on && r.phase != 4
    let busy := (List.range 8).foldl (fun n k => n + at_ k (b2n (on.any fun r => r.record % 8 == k))) 0
    some (busy + at_ 16 (s.comp.casc.groups.toList.filter fun g => g.st != 0).length)
  else if off = Reg.cascadeInrstat then some (s.inrClaimed + at_ 16 (s.inrTotal - s.inrClaimed))
  else if 0x2001000 ≤ off ∧ off < 0x2005000 then s.viewGroup ((off - 0x2001000) / 0x40) (off % 0x40)
  else none

/-! ### Fabric (R319) -/

/-- STATE of a port: of its halves the one that is up, else the one that trains, else half 0. -/
def State.portState (s : State) (p : Nat) : Nat :=
  if s.portHeld p then 5
  else
    let l := (s.halfIxs p).map fun h => (s.half p h).st
    if l.contains 2 then 2 else if l.contains 1 then 1 else nth l 0 0

/-- Views of a port's window (Table 11-11). -/
def State.viewPort (s : State) (p r : Nat) : Option Nat :=
  let hs := (s.halfIxs p).map fun h => s.half p h
  let both := fun (f : HalfSt → Nat) => hs.foldl (fun n h => n ||| f h) 0
  let width := fun h => if (s.half p h).st = 2 then (s.half p h).width else 0
  if r = 0x8 then
    some (s.portState p + at_ 3 (b2n (hs.any (·.std))) + at_ 4 (b2n (s.split p)) + at_ 8 (width 0) +
      at_ 12 (if s.split p then width 1 else 0))
  else if r = 0xC then some (both (·.own) + at_ 10 (both (·.partner)) + at_ 20 (both (·.used)))
  else if 0x80 ≤ r ∧ r < 0xA8 then
    let lane := (r - 0x80) / 4
    let clamp := if s.boot.reached < 3 then 0 else nth s.fuses.clamps (10 * p + lane) 0
    some (clamp % 4096 + at_ 13 (b2n (bit (both (·.used)) lane)))
  else none

/-- FABRIC views. -/
def State.viewFabric (s : State) (off : Nat) : Option Nat :=
  if off = Reg.fabricStat then
    some (s.portsUp.length + at_ 8 (b2n s.posLocked) + at_ 9 (field (s.reg Reg.fabricStat) 9 9) + at_ 10 (b2n s.boot.routerRest))
  else if off = Reg.fabricInject then some s.inject
  else if 0x2401000 ≤ off ∧ off < 0x2402800 then s.viewPort ((off - 0x2401000) / 0x100) (off % 0x100)
  else none

/-! ### Queue windows (R341) -/

/-- Views of a queue window (Table 12-13, Table 12-14). -/
def State.viewQueue (s : State) (off : Nat) : Option Nat :=
  let pt := windowPt off
  let P : Pt := Fin.ofNat 16 pt
  let x := off % 0x40000
  let n := Fin.ofNat 8 (x % 0x100 / 0x20)
  if x = 0 then
    some (pt + at_ 4 (b2n (s.defined pt)) + at_ 16 (vget s.queues pt).hold.length)
  else if 0x100 ≤ x ∧ x < 0x200 then
    match x % 0x20 with
    | 0xC => some (s.ring (.sq P n)).head
    | 0x10 => some (s.ringStat (.sq P n))
    | _ => none
  else if 0x200 ≤ x ∧ x < 0x300 then
    match x % 0x20 with
    | 0xC => some (s.ring (.cq P n)).tail
    | 0x10 => some (s.ringStat (.cq P n))
    | _ => none
  else if x = 0x30C then some (s.ring (.eq P)).tail
  else if x = 0x310 then some (s.ringStat (.eq P))
  else none

/-! ### Faults (R371), Cistern (R396), security (R412) -/

/-- FAULT views (Table 13-14). A record is handled within one step, so BUSY and HANDLING read 0. -/
def State.viewFault (s : State) (off : Nat) : Option Nat :=
  let f := s.fault
  if off = Reg.faultStat then
    some (f.queue.length + at_ 11 (b2n (f.queue.any fun r => r.seq.isSome && !r.issued)) + at_ 16 f.track.length)
  else if off = Reg.faultSeq then some f.seq
  else if off = Reg.faultRingTail then some (s.ring .faultRing).tail
  else if off = Reg.faultRingStat then some (s.ringStat .faultRing)
  else none

/-- ERASES of the usable pairs: unlisted pairs have 0. -/
def Journal.erases (j : Journal) : List Nat :=
  let l := (j.pairs.filter fun p => p.use != .bad).map (·.erases)
  if j.pairs.length < 2048 then 0 :: l else l

/-- CISTERN views (Table 14-8, Table 14-9). -/
def State.viewCistern (s : State) (off : Nat) : Option Nat :=
  let c := s.cis
  let j := s.nv.journal
  if off = Reg.cisternStat then
    some (c.st + at_ 2 (b2n c.govwait) + at_ 3 (b2n (c.page.any fun r => r.typ == 0x20)) + at_ 4 (b2n c.refreshing) +
      at_ 5 (b2n c.compacting.isSome) + at_ 16 (j.pairs.filter fun p => p.use == .bad).length)
  else if off = Reg.cisternRdstat then some (b2n c.rdValid + at_ 1 (b2n c.rdEnd) + at_ 16 c.rdbuf.length)
  else if off = Reg.cisternGovstat then some (c.bucket + at_ 16 c.reserve)
  else if off = Reg.cisternGovwin then some s.windowTotal
  else if off = Reg.cisternRseqLo then some (lo32 j.nextRseq)
  else if off = Reg.cisternRseqHi then some (hi32 j.nextRseq)
  else if off = Reg.cisternLive then some (j.live / 1024)
  else if off = Reg.cisternMount then some (min 0xFFFF c.torn + at_ 16 (min 0xFFFF c.lostPages))
  else if off = Reg.cisternErasemax then some (j.erases.foldl max 0)
  else if off = Reg.cisternErasemin then some (match j.erases with | [] => 0 | x :: l => l.foldl min x)
  else if off = Reg.cisternDefcnt then
    some ((c.overlay.filter fun d => d.state == 1).length + at_ 16 (c.overlay.filter fun d => d.state == 2).length)
  else if 0x2C01000 ≤ off ∧ off < 0x2C02000 then some (u32 c.rdbuf (off - 0x2C01000))
  else none

/-- SECURITY views (Table 15-13). -/
def State.viewSec (s : State) (off : Nat) : Option Nat :=
  if off = Reg.secStat then some (b2n s.sec.run.isSome + at_ 1 ((s.sec.run.map (·.cmd)).getD 0))
  else if off = Reg.secPres then
    let left := match s.sec.windowEnd with | some t => (t - s.time) / 225000000 | none => 0
    some (b2n s.pres + at_ 1 (b2n s.windowOpen) + at_ 2 (b2n s.jumper) + at_ 3 (b2n s.sealed) + at_ 4 (b2n s.sec.sealValid) +
      at_ 5 (b2n s.presHeld) + at_ 6 (b2n (s.inputMasked 0)) + at_ 8 (min 60 left))
  else none

/-! ### Test (R435), power (R459) -/

/-- TEST_ARRAY (Table 16-11). -/
def State.testArray (s : State) (i : Nat) : Nat :=
  let t := vget s.tests i
  let hours := match t.last with | some n => min 255 ((s.time - n) / 810000000000) | none => 0
  t.st + at_ 2 (b2n (vget s.arrays i).retired) + at_ 3 (b2n t.lastFail) + at_ 4 (b2n t.forced) + at_ 8 hours

/-- TEST views (Table 16-11). -/
def State.viewTest (s : State) (off : Nat) : Option Nat :=
  let b := s.boot
  if off = Reg.testBoot then
    some (b.reached + at_ 4 (if b.reached < 4 then 0 else if b.phase = 4 then 0 else b.slot) + at_ 6 (b2n b.halt) +
      at_ 7 (b2n b.journalRo) + at_ 8 b.failed + at_ 11 (b2n b.quick))
  else if off = Reg.testMemstat then
    some (b2n b.memFull + at_ 1 b.memStage + at_ 4 (b2n b.eligible) + at_ 16 (min 0xFFFF b.memCands))
  else if off = Reg.testAct then some (s.act.st + at_ 4 s.act.outcome)
  else if 0x3200100 ≤ off ∧ off < 0x3200220 then some (s.testArray ((off - 0x3200100) / 4))
  else none

/-- POWER views (Table 17-14). The current of a rail is not stated: POWER_RAIL's upper half is a free value (entry 2). -/
def State.viewPower (s : State) (off : Nat) : Option Nat :=
  let p := s.power
  if off = Reg.powerStat then
    some (b2n s.railsOk + at_ 1 (b2n p.absLimit) + at_ 2 (b2n (decide (p.fastK < 18))) + at_ 3 (b2n p.pfw) + at_ 4 (b2n s.cotActive) +
      at_ 5 (b2n p.leak) + at_ 6 (b2n p.lost))
  else if off = Reg.powerCapeff then some (if s.boot.ready then min 0xFFFF s.capM + at_ 16 (min 0xFFFF p.base) else 0)
  else if off = Reg.powerRstcause then some p.rstcause.toNat
  else if 0x2E00040 ≤ off ∧ off < 0x2E00050 then
    let die := (off - 0x2E00040) / 4
    let d := vget p.dies die
    some (d.point + at_ 3 (s.kA die) + at_ 8 (d.vca % 4096) + at_ 20 (s.kF die))
  else if 0x2E00050 ≤ off ∧ off < 0x2E00060 then
    some (toBits 16 (hottest (vget p.dies ((off - 0x2E00050) / 4)).sensors))
  else if 0x2E00080 ≤ off ∧ off < 0x2E000C0 then
    let r := (off - 0x2E00080) / 4
    some ((vget p.rails r).mv % 65536 + at_ 16 (field (Config.freeWord s.freshIx).toNat 15 0))
  else none

/-! ### Interrupts and Fountainer (R477, R478) -/

/-- INTC_SRC (Table 18-9). -/
def State.intcSrc (s : State) (n : Nat) : Nat :=
  let r := s.route n
  let fired := ((s.intc.fired.find? fun x => x.1 == n).map (·.2)).getD 0
  r.prio + at_ 4 r.target + at_ 8 r.pt + at_ 16 (b2n (s.intc.pending.getLsbD n)) + at_ 17 (b2n (s.intc.active.getLsbD n)) +
    at_ 24 (min 255 fired)

/-- INTC views (Table 18-9). -/
def State.viewIntc (s : State) (off : Nat) : Option Nat :=
  let x := s.intc
  if off = Reg.intcStat then some (field (s.reg Reg.intcGctl) 0 0 + at_ 1 (b2n x.eoiErr))
  else if 0x2A00010 ≤ off ∧ off < 0x2A00020 then
    let p := vget s.pairs ((off - 0x2A00010) / 8)
    let inner := match p.stack with | (n, _) :: _ => n | [] => 0
    some (p.thresh + at_ 4 p.level + at_ 8 (min 15 p.stack.length) + at_ 16 inner)
  else if 0x2A00100 ≤ off ∧ off < 0x2A00120 then some (field x.pending.toNat (8 * (off - 0x2A00100) + 31) (8 * (off - 0x2A00100)))
  else if 0x2A00120 ≤ off ∧ off < 0x2A00140 then some (field x.active.toNat (8 * (off - 0x2A00120) + 31) (8 * (off - 0x2A00120)))
  else if 0x2A00400 ≤ off ∧ off < 0x2A00800 then some (s.intcSrc ((off - 0x2A00400) / 4))
  else if 0x2A00800 ≤ off ∧ off < 0x2A008D0 ∧ off % 16 = 8 then
    let i := (off - 0x2A00800) / 16
    let I := vget x.inputs i
    some (if 7 ≤ i then b2n I.level
      else b2n I.raw + at_ 1 (b2n I.level) + at_ 2 (b2n I.masked) + at_ 3 I.reason)
  else none

/-- FOUNTAINER views (Table 18-11). -/
def State.viewFtn (s : State) (off : Nat) : Option Nat :=
  let box := fun m => let b := vget s.mailboxes m; b2n b.busy + at_ 1 (b2n b.valid)
  if off = Reg.ftnStat then some s.ftnStat
  else if off = Reg.ftnMbStat 0 then some (box 0)
  else if off = Reg.ftnMbStat 1 then some (box 1)
  else none

/-- What a register reads where it is a view. -/
def State.view? (s : State) (off : Nat) : Option Nat :=
  match blockOf off with
  | .global => s.viewGlobal off
  | .rill => s.viewRill off
  | .weir => s.viewWeir off
  | .parterre => s.viewParterre off
  | .staging => some (leNat (Memory.readBytes s.comp.loader.stage (off - 0x800000) 4))
  | .die => s.viewDie off
  | .array => s.viewArray off
  | .sluice => s.viewSluice off
  | .hbm => s.viewHbm off
  | .cascade => s.viewCascade off
  | .fabric => s.viewFabric off
  | .fault => s.viewFault off
  | .intc => s.viewIntc off
  | .cistern => s.viewCistern off
  | .power => s.viewPower off
  | .security => s.viewSec off
  | .test => s.viewTest off
  | .fountainer => s.viewFtn off
  | .queueWindow => s.viewQueue off
  | .none => none

/-- The current value of a register. -/
def State.regValue (s : State) (off : Nat) : Word :=
  match s.view? off with
  | some v => wd v
  | none => s.getReg off

end Sys2Proof.Machine
end

