-- ==== Sys2Proof/Machine/RegAccess.lean ====
section
/-! DEFINITION. RegAccess.lean: reads and writes of registers (R13 to R18, R50), the messages that carry them (R325 to R327), and the
mailbox commands that read the fabric's tables (R464). -/
namespace Sys2Proof.Machine

/-- A shadow word of a 64-bit pair, by the offset of its low word (R17). -/
def shadowOf (l : List (Nat × Word)) (off : Nat) : Option Word := (l.find? fun x => x.1 == off).map (·.2)
/-- Fill or empty a shadow. -/
def shadowPut (l : List (Nat × Word)) (off : Nat) (v : Option Word) : List (Nat × Word) :=
  let rest := l.filter fun x => x.1 != off
  match v with
  | some w => (rest.filter fun x => decide (x.1 < off)) ++ (off, w) :: rest.filter fun x => decide (off < x.1)
  | none => rest

/-! ### Reads (R16, R17, R18) -/

/-- Read a register that no access rule refuses: WO reads zero; RC clears what it returns; a low word latches the high word, and a high
word returns the latched one (R17). -/
def State.readRow (s : State) (off : Nat) (acc : Access) (pair : Nat) : Word × State :=
  let v := s.regValue off
  let s := if blockOf off = .power ∧ 0x2E00080 ≤ off ∧ off < 0x2E000C0 then s.fresh.2 else s
  match acc with
  | .wo => (0#32, s)
  | .rc => (v, s.setReg off 0#32)
  | _ =>
    if pair = 1 then (v, { s with rdShadow := shadowPut s.rdShadow (regHome off) (some (s.regValue (off + 4))) })
    else if pair = 2 then
      match shadowOf s.rdShadow (regHome (off - 4)) with
      | some w => (w, { s with rdShadow := shadowPut s.rdShadow (regHome (off - 4)) none })
      | none => (v, s)
    else (v, s)

/-- One aligned 32-bit read: a refused one returns zero and is recorded (R18). -/
def State.readReg (s : State) (off : Nat) : Word × State :=
  match s.accessCause off true with
  | some c => (0#32, s.accErr off c)
  | none =>
    match regRow off with
    | some r => s.readRow off r.acc r.pair
    | none => (s.regValue off, s)

/-- Words read in order from an offset on. -/
def State.readRegs : Nat → Nat → State → List Byte × State
  | 0, _, s => ([], s)
  | n + 1, off, s =>
    let (v, s) := s.readReg off
    let (l, s) := State.readRegs n (off + 4) s
    (leBytes 4 v.toNat ++ l, s)

/-- A read request of the host for a number of words (R327). A refused one returns STATUS REFUSED and zero data. -/
def State.hostRead (s : State) (tag off n : Nat) : State :=
  if off % 4 ≠ 0 ∨ n = 0 ∨ 16 < n ∨ 2 ^ 26 < off + 4 * n then
    (s.bump Reg.rillAccref 1).sendHost (.regCpl tag 1 (List.replicate (4 * min n 16) 0#8))
  else
    let (l, s) := State.readRegs n off s
    s.sendHost (.regCpl tag 0 l)

/-! ### Writes (R16, R17, R18) -/

/-- Whether a register is locked against writes now: RWL registers after LOCK (R16), a window's BASE and LEN while VALID (R340), a ring's
BASE while enabled (R331), a mailbox's request while busy (R463), the staging window while the loader works (R180). -/
def State.writeLocked (s : State) (off : Nat) : Bool :=
  match blockOf off with
  | .fabric => (off == Reg.fabricPos || off == Reg.fabricPrefixLo || off == Reg.fabricPrefixHi) && s.posLocked
  | .rill =>
    if 0x100100 ≤ off ∧ off < 0x100900 ∧ off % 32 < 0x10 then bit (s.winCtl ((off - 0x100100) / 32)) 0
    else (off == Reg.rillMeqBaseLo || off == Reg.rillMeqBaseHi) && s.ringOn .meq
  | .fault => (off == Reg.faultRingBaseLo || off == Reg.faultRingBaseHi) && s.ringOn .faultRing
  | .fountainer =>
    (decide (0x3401100 ≤ off ∧ off < 0x3401200) && (vget s.mailboxes 0).busy) ||
      (decide (0x3402100 ≤ off ∧ off < 0x3402200) && (vget s.mailboxes 1).busy)
  | .queueWindow =>
    let P : Pt := Fin.ofNat 16 (windowPt off)
    let x := off % 0x40000
    let n := Fin.ofNat 8 (x % 0x100 / 0x20)
    if 0x100 ≤ x ∧ x < 0x200 then decide (x % 0x20 < 8) && s.ringOn (.sq P n)
    else if 0x200 ≤ x ∧ x < 0x300 then decide (x % 0x20 < 8) && s.ringOn (.cq P n)
    else decide (0x300 ≤ x ∧ x < 0x308) && s.ringOn (.eq P)
  | .staging => s.parterreStat != 0
  | _ => false

/-- Store the bits a write can change (R13). -/
def State.storeMasked (s : State) (off mask : Nat) (val : Word) : State :=
  s.setReg off ((s.getReg off &&& ~~~(wd mask)) ||| (val &&& wd mask))

/-- The full value of a pair takes effect (R17). -/
def State.pairTakes (s : State) (lo : Nat) (vlo vhi : Word) : State :=
  if lo = Reg.cisternStampLo then s.hostStamp (vlo.toNat + 2 ^ 32 * vhi.toNat)
  else
    let m := fun o => ((regRow o).map (·.mask)).getD 0
    (s.storeMasked lo (m lo) vlo).storeMasked (lo + 4) (m (lo + 4)) vhi

/-- The current low word of a pair that a high word alone leaves unchanged (R17): of CISTERN_STAMP the low word of the latest stamp. -/
def State.pairLow (s : State) (lo : Nat) : Word :=
  if lo = Reg.cisternStampLo then wd ((s.cis.stamp.getD (0, 0)).1) else s.getReg lo

/-- A write of the low word is held in the write shadow (R17). -/
def State.writeLow (s : State) (off : Nat) (val : Word) : State :=
  { s with wrShadow := shadowPut s.wrShadow off (some val) }

/-- A write of the high word makes the pair take effect with the shadow, or with the current low word, and empties the shadow (R17). -/
def State.writeHigh (s : State) (off : Nat) (val : Word) : State :=
  let lo := off - 4
  let v := (shadowOf s.wrShadow lo).getD (s.pairLow lo)
  ({ s with wrShadow := shadowPut s.wrShadow lo none }).pairTakes lo v val

/-- Writes of the queue windows that act (Table 12-13). -/
def State.writeQueue (s : State) (off mask : Nat) (val : Word) : State :=
  let P : Pt := Fin.ofNat 16 (windowPt off)
  let x := off % 0x40000
  let n := Fin.ofNat 8 (x % 0x100 / 0x20)
  if 0x100 ≤ x ∧ x < 0x200 ∧ x % 0x20 = 8 then s.writeRingCtl (.sq P n) val
  else if 0x200 ≤ x ∧ x < 0x300 ∧ x % 0x20 = 8 then s.writeRingCtl (.cq P n) val
  else if x = 0x308 then s.writeRingCtl (.eq P) val
  else if 0x1000 ≤ x ∧ x < 0x1100 then s.writeSqDb P (Fin.ofNat 8 ((x - 0x1000) / 8)) val.toNat
  else if 0x1100 ≤ x ∧ x < 0x1200 then s.writeHeadDb (.cq P (Fin.ofNat 8 ((x - 0x1100) / 8))) val.toNat
  else if x = 0x1200 then s.writeHeadDb (.eq P) val.toNat
  else s.storeMasked off mask val

/-- A write of FABRIC_POS while it is unlocked (R296): RACK is stored, and LOCK locks. -/
def State.writePos (s : State) (v : Nat) : State :=
  if bit v 31 then s.lockPos (field v 26 16) else s.storeMasked Reg.fabricPos 0x7FF0000 (wd v)

/-- A write of FABRIC_PORT_CMD (Table 11-11). -/
def State.writePortCmd (s : State) (p v : Nat) : State :=
  if field v 15 8 ≠ 0x3C then s.accErr (Reg.fabricPortCmd p) .badKey
  else if bit v 0 then s.retrainPort p else s

/-- A write of CISTERN_DEFCLR (R390, R401). -/
def State.writeDefclr (s : State) (v : Nat) : State :=
  if !s.pres then s.noPres Reg.cisternDefclr Reg.cisternDefclr 0
  else
    let s := s.put Reg.cisternDefclr (field v 1 0)
    match field v 1 0 with
    | 1 => s.clearDefect
    | 2 => s.clearHistory
    | _ => s

/-- A write of INPUT_STORM (Table 18-9): WINDOW 0 stores 1; DURATION is fixed at 0 for inputs 1 and 2. -/
def State.writeStorm (s : State) (i v : Nat) : State :=
  let v := if field v 15 8 = 0 then setField v 15 8 1 else v
  s.put (Reg.inputStorm i) (if i = 1 ∨ i = 2 then setField v 31 16 0 else v)

/-- Writes that do more than store, by block; none where the access code says all. -/
def State.writeActs (s : State) (off mask : Nat) (val : Word) : Option State :=
  let v := val.toNat
  let least := fun (n : Nat) => s.put off (if v &&& mask = 0 then n else v &&& mask)
  match blockOf off with
  | .global =>
    if off = Reg.globalReset then some (s.writeGlobalReset v)
    else if off = Reg.globalAccerrInfo then some (if bit v 0 then s.put Reg.globalAccerrInfo 0 else s)
    else none
  | .rill =>
    if off = Reg.rillCmd then some (s.writeRillCmd v)
    else if off = Reg.rillMeqCtl then some (s.writeRingCtl .meq val)
    else if off = Reg.rillMeqDb then some (s.writeHeadDb .meq v)
    else if 0x100100 ≤ off ∧ off < 0x100900 ∧ off % 32 = 0x10 then some (s.writeWinCtl ((off - 0x100100) / 32) v)
    else none
  | .weir => if off = Reg.weirTransit then some (s.put off (min 100 (v &&& mask))) else none
  | .parterre =>
    if off = Reg.parterreCtl then some (s.writeParterreCtl v)
    else if off = Reg.parterrePersist then some (s.writePersist v)
    else none
  | .staging => some (s.modLoader fun l => { l with stage := Memory.writeBytes l.stage (off - 0x800000) (leBytes 4 v) })
  | .hbm => if off % 0x10000 = 0x10 then some (least 1) else none
  | .fabric =>
    if off = Reg.fabricPos then some (s.writePos v)
    else if 0x2401000 ≤ off ∧ off < 0x2402800 ∧ off % 0x100 = 0 then some (s.writePortCtl ((off - 0x2401000) / 0x100) v)
    else if 0x2401000 ≤ off ∧ off < 0x2402800 ∧ off % 0x100 = 4 then some (s.writePortCmd ((off - 0x2401000) / 0x100) v)
    else none
  | .fault =>
    if off = Reg.faultCtl then some (s.put off (if field v 3 0 = 0 then (v &&& mask) + 1 else v &&& mask))
    else if off = Reg.faultRingCtl then some (s.writeRingCtl .faultRing val)
    else if off = Reg.faultRingDb then some (s.writeHeadDb .faultRing v)
    else none
  | .intc =>
    if off = Reg.intcGctl then some (s.writeDisable (bit v 0))
    else if 0x2A00800 ≤ off ∧ off < 0x2A008D0 then
      let i := (off - 0x2A00800) / 16
      match off % 16 with
      | 0 => some (least 1)
      | 4 => some (s.writeStorm i v)
      | 8 => some (if bit v 2 ∧ i < 7 then s.unmask i else s)
      | _ => none
    else none
  | .cistern =>
    if off = Reg.cisternCmd then some (s.writeCisternCmd v)
    else if off = Reg.cisternDefclr then some (s.writeDefclr v)
    else none
  | .power => if off = Reg.powerCtl then some (s.put off (if field v 1 0 = 3 then 1 else field v 1 0)) else none
  | .security =>
    if off = Reg.secCmd then some (s.writeSecCmd v)
    else if off = Reg.secSealno then some (s.writeSealno v)
    else none
  | .test =>
    if off = Reg.testMemsel then some (s.writeMemsel v)
    else if off = Reg.testCtl then
      some (s.put off (if field v 4 0 = 0 ∨ 24 < field v 4 0 then 24 else field v 4 0))
    else if off = Reg.testActcmd then some (s.writeActcmd v)
    else none
  | .fountainer =>
    if off = Reg.ftnMbCtl 0 then some (s.writeMbCtl 0 v)
    else if off = Reg.ftnMbCtl 1 then some (s.writeMbCtl 1 v)
    else if off = Reg.ftnMbStat 0 then some (if bit v 1 then s.modBox 0 fun b => { b with valid := false } else s)
    else if off = Reg.ftnMbStat 1 then some (if bit v 1 then s.modBox 1 fun b => { b with valid := false } else s)
    else none
  | .queueWindow => some (s.writeQueue off mask val)
  | .die | .array | .sluice | .cascade | .none => none

/-- A write that no access rule refuses, by access code (R16, R17). -/
def State.writeRow (s : State) (off : Nat) (r : RegRow) (val : Word) : State :=
  match r.acc with
  | .ro => s.accErr off .roWrite
  | .rc => s
  | .w1c =>
    match s.writeActs off r.mask val with
    | some t => t
    | none => s.setReg off (s.getReg off &&& ~~~(val &&& wd r.mask))
  | _ =>
    if s.writeLocked off then s.accErr off .locked
    else if r.pair = 1 then s.writeLow off val
    else if r.pair = 2 then s.writeHigh off val
    else match s.writeActs off r.mask val with
      | some t => t
      | none => if r.acc = .wo then s else s.storeMasked off r.mask val

/-- One aligned 32-bit write: a refused one changes nothing and is recorded (R18). -/
def State.writeReg (s : State) (off : Nat) (val : Word) : State :=
  match s.accessCause off false with
  | some c => s.accErr off c
  | none =>
    match regRow off with
    | some r => s.writeRow off r val
    | none => if s.writeLocked off then s.accErr off .locked else (s.writeActs off 0 val).getD s

/-- Words written in order from an offset on; a word that resets the link ends the access, whose later words the reset discards
(R321, R327). -/
def State.writeRegs : List Word → Nat → State → State
  | [], _, s => s
  | w :: ws, off, s => if !s.hostUp then s else State.writeRegs ws (off + 4) (s.writeReg off w)

/-- A host write of one register, aligned and inside the space; another is refused as a whole (R14, R327). -/
def State.hostWriteReg (s : State) (off : Nat) (val : Word) : State :=
  if !s.hostUp then s
  else if off % 4 ≠ 0 ∨ 2 ^ 26 ≤ off then s.bump Reg.rillAccref 1
  else s.writeReg off val

/-- REGISTER_WRITE. -/
def execRegisterWrite (off : Nat) (val : Word) (s : State) : Host.Outcome State Fault Refusal := .next (s.hostWriteReg off val)

/-- RC_READ (R16): a read of one word, answered with TAG 0. -/
def execRcRead (off : Nat) (s : State) : Host.Outcome State Fault Refusal :=
  .next (if !s.hostUp then s else s.hostRead 0 off 1)

/-- PAIR_LOW_READ (R17): a read of one word, answered with TAG 0. -/
def execPairLowRead (off : Nat) (s : State) : Host.Outcome State Fault Refusal :=
  .next (if s.hostUp then s.hostRead 0 off 1 else s)

/-- PAIR_LOW_WRITE (R17). -/
def execPairLowWrite (off : Nat) (val : Word) (s : State) : Host.Outcome State Fault Refusal :=
  .next (if isPairLow off then s.hostWriteReg off val else s)

/-- PAIR_HIGH_WRITE (R17). -/
def execPairHighWrite (off : Nat) (val : Word) (s : State) : Host.Outcome State Fault Refusal :=
  .next (if isPairHigh off then s.hostWriteReg off val else s)

/-- ACCERR_CLEAR (R50): VALID, CAUSE and LOST clear, and the refused accesses of the same C cycle are captured in their order. -/
def execAccerrClear (refusedSameCycle : List (Nat × AccCause)) (s : State) : Host.Outcome State Fault Refusal :=
  .next (s.hostWrite Reg.globalAccerrInfo fun s =>
    forEach refusedSameCycle (fun x s => s.accErr x.1 x.2) (s.put Reg.globalAccerrInfo 0))

/-! ### Rows that are one register write -/

/-- RETRAIN. -/
def execRetrain (port : Port) (key : Byte) (s : State) : Host.Outcome State Fault Refusal :=
  .next (s.hostWriteReg (Reg.fabricPortCmd port) (wd (1 + at_ 8 key.toNat)))

/-- LOCK. -/
def execLock (rack : BitVec 11) (s : State) : Host.Outcome State Fault Refusal :=
  .next (s.hostWriteReg Reg.fabricPos (wd (at_ 16 rack.toNat + 2 ^ 31)))

/-- NEXT. -/
def execNext (key : Byte) (s : State) : Host.Outcome State Fault Refusal :=
  .next (s.hostWriteReg Reg.cisternCmd (wd (1 + at_ 8 key.toNat)))

/-- RESTART. -/
def execRestart (key : Byte) (s : State) : Host.Outcome State Fault Refusal :=
  .next (s.hostWriteReg Reg.cisternCmd (wd (2 + at_ 8 key.toNat)))

/-- CLEAR_ENTRY. -/
def execClearEntry (s : State) : Host.Outcome State Fault Refusal := .next (s.hostWriteReg Reg.cisternDefclr 1#32)

/-- CLEAR_SUMMARY. -/
def execClearSummary (s : State) : Host.Outcome State Fault Refusal := .next (s.hostWriteReg Reg.cisternDefclr 2#32)

/-- CISTERN_STAMP: the high word is written (R393, R17). -/
def execCisternStamp (high : Word) (s : State) : Host.Outcome State Fault Refusal :=
  .next (s.hostWriteReg Reg.cisternStampHi high)

/-- MASKED. -/
def execMasked (input : Fin 7) (s : State) : Host.Outcome State Fault Refusal :=
  .next (s.hostWriteReg (Reg.inputStat input) 4#32)

/-- DISABLE. -/
def execDisable (value : Bool) (s : State) : Host.Outcome State Fault Refusal :=
  .next (s.hostWriteReg Reg.intcGctl (wd (b2n value)))

/-- PORT_ENABLE. -/
def execPortEnable (port : Port) (ctl : Word) (s : State) : Host.Outcome State Fault Refusal :=
  .next (s.hostWriteReg (Reg.fabricPortCtl port) ctl)

/-! ### Messages (R325 to R327) -/

/-- REG_RD. -/
def execRegRd (h : MsgHeader) (s : State) : Host.Outcome State Fault Refusal :=
  .next (s.message h 1 fun s =>
    if h.dlen ≠ 0 then s.hostRead h.tag.toNat h.addr.toNat 0 else s.hostRead h.tag.toNat h.addr.toNat h.count)

/-- REG_WR: posted, so a refused one is only counted. -/
def execRegWr (h : MsgHeader) (words : List Word) (s : State) : Host.Outcome State Fault Refusal :=
  .next (s.message h 2 fun s =>
    let off := h.addr.toNat
    if off % 4 ≠ 0 ∨ h.dlen = 0 ∨ 64 < h.dlen ∨ h.dlen % 4 ≠ 0 ∨ words.length ≠ h.dlen / 4 ∨ 2 ^ 26 < off + h.dlen then
      s.bump Reg.rillAccref 1
    else State.writeRegs words off s)

/-! ### Mailbox commands of pair 0 (R464) -/

/-- The chassis ID and port ID TLVs among received TLVs, as received (R464). -/
def idTlvs : Nat → List Byte → List Byte
  | 0, _ => []
  | k + 1, l =>
    let w := 256 * u8 l 0 + u8 l 1
    let n := 2 + w % 512
    if l.length < n ∨ w / 512 = 0 then []
    else (if w / 512 = 1 ∨ w / 512 = 2 then l.take n else []) ++ idTlvs k (l.drop n)

/-- LLDP_READ. -/
def execLldpRead (mailbox : Pair) (s : State) : Host.Outcome State Fault Refusal :=
  .next (if s.mbHas mailbox 2 then
      if mailbox.val ≠ 0 then s.mbAnswer mailbox 2 []
      else
        let w := u32 (s.mbBody 0) 0
        let p := field w 4 0
        let l := if 24 ≤ p then none else (s.port p).lldp.find? fun x => x.1 == bit w 5
        s.mbAnswer 0 0 (match l with | some x => idTlvs x.2.length x.2 | none => [])
    else s)

/-- DISC_READ. -/
def execDiscRead (mailbox : Pair) (s : State) : Host.Outcome State Fault Refusal :=
  .next (if s.mbHas mailbox 3 then
      if mailbox.val ≠ 0 then s.mbAnswer mailbox 2 []
      else match s.comp.fab.adverts[field (u32 (s.mbBody 0) 0) 15 0]? with
        | some a => s.mbAnswer 0 0 (slice a.body 0 0x80)
        | none => s.mbAnswer 0 3 []
    else s)

/-- Route entries: the racks, the slots of this rack, the default (Table 11-10). -/
def routeRegs : List Nat := (List.range 2048).map Reg.fabricRtRack ++ (List.range 64).map Reg.fabricRtLocal

/-- ROUTE_RECOMPUTE (R300, R464). -/
def execRouteRecompute (mailbox : Pair) (s : State) : Host.Outcome State Fault Refusal :=
  .next (if s.mbHas mailbox 4 then
      if mailbox.val ≠ 0 then s.mbAnswer mailbox 2 []
      else
        let t := s.routes
        let n := (routeRegs.filter fun o => s.getReg o != t.getReg o).length
        t.mbAnswer 0 0 (leBytes 4 n)
    else s)

end Sys2Proof.Machine
end

