-- ==== Sys2Proof/Machine/Dispatch.lean ====
section
/-! DEFINITION. Dispatch.lean: exec, one arm per command. -/
namespace Sys2Proof.Machine

def exec (i : Instr) (s : State) : Host.Outcome State Fault Refusal :=
  match i with
  | .registerWrite off val => Sys2Proof.Machine.execRegisterWrite off val s
  | .rcRead off => Sys2Proof.Machine.execRcRead off s
  | .pairLowRead off => Sys2Proof.Machine.execPairLowRead off s
  | .pairLowWrite off val => Sys2Proof.Machine.execPairLowWrite off val s
  | .pairHighWrite off val => Sys2Proof.Machine.execPairHighWrite off val s
  | .accerrClear refusedSameCycle => Sys2Proof.Machine.execAccerrClear refusedSameCycle s
  | .partitionReset key ptmask => Sys2Proof.Machine.execPartitionReset key ptmask s
  | .computeReset key => Sys2Proof.Machine.execComputeReset key s
  | .moduleReset key => Sys2Proof.Machine.execModuleReset key s
  | .scrubComplete compute pt => Sys2Proof.Machine.execScrubComplete compute pt s
  | .taskChoose die => Sys2Proof.Machine.execTaskChoose die s
  | .fusedFillComplete die eng => Sys2Proof.Machine.execFusedFillComplete die eng s
  | .columnDrain die arr hits => Sys2Proof.Machine.execColumnDrain die arr hits s
  | .tileRepeat die arr => Sys2Proof.Machine.execTileRepeat die arr s
  | .basinStallEnd die arr => Sys2Proof.Machine.execBasinStallEnd die arr s
  | .settleRoundStart pt => Sys2Proof.Machine.execSettleRoundStart pt s
  | .settleRoundComplete pt => Sys2Proof.Machine.execSettleRoundComplete pt s
  | .rungReturn pt tensor => Sys2Proof.Machine.execRungReturn pt tensor s
  | .updateStart pt layerId => Sys2Proof.Machine.execUpdateStart pt layerId s
  | .statisticsComplete pt layerId => Sys2Proof.Machine.execStatisticsComplete pt layerId s
  | .nop die arr => Sys2Proof.Machine.execNop die arr s
  | .add die arr dst a b hits => Sys2Proof.Machine.execAdd die arr dst a b hits s
  | .sub die arr dst a b hits => Sys2Proof.Machine.execSub die arr dst a b hits s
  | .mul die arr dst a b hits => Sys2Proof.Machine.execMul die arr dst a b hits s
  | .max die arr dst a b hits => Sys2Proof.Machine.execMax die arr dst a b hits s
  | .abs die arr dst a hits => Sys2Proof.Machine.execAbs die arr dst a hits s
  | .sign die arr dst a hits => Sys2Proof.Machine.execSign die arr dst a hits s
  | .rsqrt die arr dst a hits => Sys2Proof.Machine.execRsqrt die arr dst a hits s
  | .select die arr dst a b c hits => Sys2Proof.Machine.execSelect die arr dst a b c hits s
  | .scale die arr dst a imm hits => Sys2Proof.Machine.execScale die arr dst a imm hits s
  | .layerReduce die arr tslot a rkind divn elsb hits => Sys2Proof.Machine.execLayerReduce die arr tslot a rkind divn elsb hits s
  | .store die arr target a pred round hits => Sys2Proof.Machine.execStore die arr target a pred round hits s
  | .commitRoundStart pt => Sys2Proof.Machine.execCommitRoundStart pt s
  | .stepCommit pt => Sys2Proof.Machine.execStepCommit pt s
  | .undoComplete pt => Sys2Proof.Machine.execUndoComplete pt s
  | .replayStart pt => Sys2Proof.Machine.execReplayStart pt s
  | .sluiceStart die eng => Sys2Proof.Machine.execSluiceStart die eng s
  | .sluiceComplete die eng residueAt => Sys2Proof.Machine.execSluiceComplete die eng residueAt s
  | .load key => Sys2Proof.Machine.execLoad key s
  | .clear key => Sys2Proof.Machine.execClear key s
  | .cancel key pt => Sys2Proof.Machine.execCancel key pt s
  | .loadFinish => Sys2Proof.Machine.execLoadFinish s
  | .bedTakeEffect pt => Sys2Proof.Machine.execBedTakeEffect pt s
  | .persist => Sys2Proof.Machine.execPersist s
  | .eraseDefault => Sys2Proof.Machine.execEraseDefault s
  | .step pt sq => Sys2Proof.Machine.execStep pt sq s
  | .seed pt sq => Sys2Proof.Machine.execSeed pt sq s
  | .copy pt sq => Sys2Proof.Machine.execCopy pt sq s
  | .gather pt sq => Sys2Proof.Machine.execGather pt sq s
  | .scatter pt sq => Sys2Proof.Machine.execScatter pt sq s
  | .scalarSet pt sq hostRecord => Sys2Proof.Machine.execScalarSet pt sq hostRecord s
  | .snapshot pt sq => Sys2Proof.Machine.execSnapshot pt sq s
  | .dmaIn pt sq => Sys2Proof.Machine.execDmaIn pt sq s
  | .dmaOut pt sq => Sys2Proof.Machine.execDmaOut pt sq s
  | .fence pt sq => Sys2Proof.Machine.execFence pt sq s
  | .promiseExpire pt admno => Sys2Proof.Machine.execPromiseExpire pt admno s
  | .cascEnd pt record => Sys2Proof.Machine.execCascEnd pt record s
  | .reduceScatter pt record mb => Sys2Proof.Machine.execReduceScatter pt record mb s
  | .allGather pt record mb => Sys2Proof.Machine.execAllGather pt record mb s
  | .allReduce pt record mb => Sys2Proof.Machine.execAllReduce pt record mb s
  | .allToAll pt record mb => Sys2Proof.Machine.execAllToAll pt record mb s
  | .sum residueHit => Sys2Proof.Machine.execSum residueHit s
  | .sumRepeat residueHit => Sys2Proof.Machine.execSumRepeat residueHit s
  | .anchor residueHit => Sys2Proof.Machine.execAnchor residueHit s
  | .deficit residueHit => Sys2Proof.Machine.execDeficit residueHit s
  | .dataChunk residueHit => Sys2Proof.Machine.execDataChunk residueHit s
  | .scalar residueHit => Sys2Proof.Machine.execScalar residueHit s
  | .confirm => Sys2Proof.Machine.execConfirm s
  | .retract => Sys2Proof.Machine.execRetract s
  | .recall => Sys2Proof.Machine.execRecall s
  | .abandon => Sys2Proof.Machine.execAbandon s
  | .suspect => Sys2Proof.Machine.execSuspect s
  | .groupFormation slot => Sys2Proof.Machine.execGroupFormation slot s
  | .groupWaiting slot => Sys2Proof.Machine.execGroupWaiting slot s
  | .peerTimeout slot position => Sys2Proof.Machine.execPeerTimeout slot position s
  | .data port p => Sys2Proof.Machine.execData port p s
  | .peerwrite => Sys2Proof.Machine.execPeerwrite s
  | .ack port p => Sys2Proof.Machine.execAck port p s
  | .nack port p => Sys2Proof.Machine.execNack port p s
  | .advert port p => Sys2Proof.Machine.execAdvert port p s
  | .ackTimer srcAddr flowId => Sys2Proof.Machine.execAckTimer srcAddr flowId s
  | .rtoExpire flowId => Sys2Proof.Machine.execRtoExpire flowId s
  | .idleFlowExpire srcAddr flowId => Sys2Proof.Machine.execIdleFlowExpire srcAddr flowId s
  | .pacingRaise flowId => Sys2Proof.Machine.execPacingRaise flowId s
  | .advertPeriod => Sys2Proof.Machine.execAdvertPeriod s
  | .advertExpire serial => Sys2Proof.Machine.execAdvertExpire serial s
  | .transitForward port p => Sys2Proof.Machine.execTransitForward port p s
  | .pfcFrame port prio sCycles => Sys2Proof.Machine.execPfcFrame port prio sCycles s
  | .pauseEnd port => Sys2Proof.Machine.execPauseEnd port s
  | .pauseFrame port => Sys2Proof.Machine.execPauseFrame port s
  | .neighbourSolicitation port srcAddr target => Sys2Proof.Machine.execNeighbourSolicitation port srcAddr target s
  | .echoRequest port srcAddr dstAddr body => Sys2Proof.Machine.execEchoRequest port srcAddr dstAddr body s
  | .lldpReceive port half tlvs => Sys2Proof.Machine.execLldpReceive port half tlvs s
  | .lldpSend port => Sys2Proof.Machine.execLldpSend port s
  | .trainingStage port half result => Sys2Proof.Machine.execTrainingStage port half result s
  | .laneFail port lane => Sys2Proof.Machine.execLaneFail port lane s
  | .fecWindow port corrected uncorrectable => Sys2Proof.Machine.execFecWindow port corrected uncorrectable s
  | .portRetry port => Sys2Proof.Machine.execPortRetry port s
  | .retrain port key => Sys2Proof.Machine.execRetrain port key s
  | .lock rack => Sys2Proof.Machine.execLock rack s
  | .flit f => Sys2Proof.Machine.execFlit f s
  | .regRd h => Sys2Proof.Machine.execRegRd h s
  | .regWr h words => Sys2Proof.Machine.execRegWr h words s
  | .memCpl h data => Sys2Proof.Machine.execMemCpl h data s
  | .memAck h => Sys2Proof.Machine.execMemAck h s
  | .modTimeExpire ring => Sys2Proof.Machine.execModTimeExpire ring s
  | .reset => Sys2Proof.Machine.execReset s
  | .linkrst key => Sys2Proof.Machine.execLinkrst key s
  | .linkDown => Sys2Proof.Machine.execLinkDown s
  | .rillTrainingStage cable result => Sys2Proof.Machine.execRillTrainingStage cable result s
  | .rillRetry => Sys2Proof.Machine.execRillRetry s
  | .cplTimeout tag => Sys2Proof.Machine.execCplTimeout tag s
  | .qwSqDb pt n tail => Sys2Proof.Machine.execQwSqDb pt n tail s
  | .qwCqDb pt n head => Sys2Proof.Machine.execQwCqDb pt n head s
  | .qwEqDb pt head => Sys2Proof.Machine.execQwEqDb pt head s
  | .rillMeqDb head => Sys2Proof.Machine.execRillMeqDb head s
  | .faultRingDb head => Sys2Proof.Machine.execFaultRingDb head s
  | .queueEnable ring ctl => Sys2Proof.Machine.execQueueEnable ring ctl s
  | .windowGrant w ctl => Sys2Proof.Machine.execWindowGrant w ctl s
  | .windowRevoke w ctl => Sys2Proof.Machine.execWindowRevoke w ctl s
  | .recordHandle => Sys2Proof.Machine.execRecordHandle s
  | .correctedWindowExpire die block instance_ detail => Sys2Proof.Machine.execCorrectedWindowExpire die block instance_ detail s
  | .suspectWindowExpire port => Sys2Proof.Machine.execSuspectWindowExpire port s
  | .poolScrub die pool errors => Sys2Proof.Machine.execPoolScrub die pool errors s
  | .hbmScrub stack channel errors => Sys2Proof.Machine.execHbmScrub stack channel errors s
  | .dielinkFlitError die link sends => Sys2Proof.Machine.execDielinkFlitError die link sends s
  | .dielinkRetrainDone die link ok => Sys2Proof.Machine.execDielinkRetrainDone die link ok s
  | .journalRecordSubmit typ body => Sys2Proof.Machine.execJournalRecordSubmit typ body s
  | .pageProgramDone plane0Ok plane1Ok => Sys2Proof.Machine.execPageProgramDone plane0Ok plane1Ok s
  | .eraseDone ok => Sys2Proof.Machine.execEraseDone ok s
  | .checkpoint => Sys2Proof.Machine.execCheckpoint s
  | .governorCredit => Sys2Proof.Machine.execGovernorCredit s
  | .governorBin => Sys2Proof.Machine.execGovernorBin s
  | .ledgerHour => Sys2Proof.Machine.execLedgerHour s
  | .journalPatrol page corrected0 corrected1 => Sys2Proof.Machine.execJournalPatrol page corrected0 corrected1 s
  | .compaction => Sys2Proof.Machine.execCompaction s
  | .defectExpire resource => Sys2Proof.Machine.execDefectExpire resource s
  | .next key => Sys2Proof.Machine.execNext key s
  | .restart key => Sys2Proof.Machine.execRestart key s
  | .clearEntry => Sys2Proof.Machine.execClearEntry s
  | .clearSummary => Sys2Proof.Machine.execClearSummary s
  | .cisternStamp high => Sys2Proof.Machine.execCisternStamp high s
  | .pfwPauseEnd => Sys2Proof.Machine.execPfwPauseEnd s
  | .fwInstall key arg => Sys2Proof.Machine.execFwInstall key arg s
  | .fwActivate key arg => Sys2Proof.Machine.execFwActivate key arg s
  | .licenceInstall key => Sys2Proof.Machine.execLicenceInstall key s
  | .ownerEnrol key => Sys2Proof.Machine.execOwnerEnrol key s
  | .ownerClear key => Sys2Proof.Machine.execOwnerClear key s
  | .recoveryWrite key => Sys2Proof.Machine.execRecoveryWrite key s
  | .fuseProgram key => Sys2Proof.Machine.execFuseProgram key s
  | .attest key arg ptv => Sys2Proof.Machine.execAttest key arg ptv s
  | .idkeyOut key => Sys2Proof.Machine.execIdkeyOut key s
  | .close key => Sys2Proof.Machine.execClose key s
  | .secCmdComplete norOk fuseOk => Sys2Proof.Machine.execSecCmdComplete norOk fuseOk s
  | .secSealno number => Sys2Proof.Machine.execSecSealno number s
  | .buttonPress => Sys2Proof.Machine.execButtonPress s
  | .buttonWindowExpire => Sys2Proof.Machine.execButtonWindowExpire s
  | .jumperFit => Sys2Proof.Machine.execJumperFit s
  | .jumperRemove => Sys2Proof.Machine.execJumperRemove s
  | .sealBreak => Sys2Proof.Machine.execSealBreak s
  | .inputValid => Sys2Proof.Machine.execInputValid s
  | .bringupPhaseEnd found => Sys2Proof.Machine.execBringupPhaseEnd found s
  | .firmwareWatchdog => Sys2Proof.Machine.execFirmwareWatchdog s
  | .forceFull => Sys2Proof.Machine.execForceFull s
  | .testDue die arr => Sys2Proof.Machine.execTestDue die arr s
  | .testComplete die arr failure => Sys2Proof.Machine.execTestComplete die arr failure s
  | .testForced die arr => Sys2Proof.Machine.execTestForced die arr s
  | .activationDrainEnd => Sys2Proof.Machine.execActivationDrainEnd s
  | .drainTimeout => Sys2Proof.Machine.execDrainTimeout s
  | .postpone key => Sys2Proof.Machine.execPostpone key s
  | .restBegin => Sys2Proof.Machine.execRestBegin s
  | .restEnd => Sys2Proof.Machine.execRestEnd s
  | .activationComplete => Sys2Proof.Machine.execActivationComplete s
  | .activationTimeout => Sys2Proof.Machine.execActivationTimeout s
  | .inputLoss lowest10mV => Sys2Proof.Machine.execInputLoss lowest10mV s
  | .inputReturn => Sys2Proof.Machine.execInputReturn s
  | .holdupExpire => Sys2Proof.Machine.execHoldupExpire s
  | .overVoltage => Sys2Proof.Machine.execOverVoltage s
  | .overvoltageClear => Sys2Proof.Machine.execOvervoltageClear s
  | .railPowerGood rail => Sys2Proof.Machine.execRailPowerGood rail s
  | .railFault rail => Sys2Proof.Machine.execRailFault rail s
  | .railRetry => Sys2Proof.Machine.execRailRetry s
  | .pllLockLoss => Sys2Proof.Machine.execPllLockLoss s
  | .pointChangeDone die => Sys2Proof.Machine.execPointChangeDone die s
  | .voltageUpdate => Sys2Proof.Machine.execVoltageUpdate s
  | .droopDetect die rail => Sys2Proof.Machine.execDroopDetect die rail s
  | .droopRelease die rail => Sys2Proof.Machine.execDroopRelease die rail s
  | .sensorRead dies hub => Sys2Proof.Machine.execSensorRead dies hub s
  | .thermalRestart => Sys2Proof.Machine.execThermalRestart s
  | .planningStepDown die => Sys2Proof.Machine.execPlanningStepDown die s
  | .estimatorWindow watts inputVolts10mV inputWatts energies => Sys2Proof.Machine.execEstimatorWindow watts inputVolts10mV inputWatts energies s
  | .measurementWindow microjoules => Sys2Proof.Machine.execMeasurementWindow microjoules s
  | .calibration scales => Sys2Proof.Machine.execCalibration scales s
  | .capControllerPeriod baseWatts samples => Sys2Proof.Machine.execCapControllerPeriod baseWatts samples s
  | .absoluteLimitEngage => Sys2Proof.Machine.execAbsoluteLimitEngage s
  | .absoluteLimitRelease => Sys2Proof.Machine.execAbsoluteLimitRelease s
  | .leakDetect active => Sys2Proof.Machine.execLeakDetect active s
  | .coolantOverTemperature active => Sys2Proof.Machine.execCoolantOverTemperature active s
  | .cotHoldExpire => Sys2Proof.Machine.execCotHoldExpire s
  | .powerFailWarning => Sys2Proof.Machine.execPowerFailWarning s
  | .chassisAttention active => Sys2Proof.Machine.execChassisAttention active s
  | .stormDuration input => Sys2Proof.Machine.execStormDuration input s
  | .masked input => Sys2Proof.Machine.execMasked input s
  | .strapChange straps => Sys2Proof.Machine.execStrapChange straps s
  | .lockstepMismatch pair => Sys2Proof.Machine.execLockstepMismatch pair s
  | .pairWatchdog pair => Sys2Proof.Machine.execPairWatchdog pair s
  | .pairRestartDone pair => Sys2Proof.Machine.execPairRestartDone pair s
  | .watchdogKick pair => Sys2Proof.Machine.execWatchdogKick pair s
  | .intcClaim pair => Sys2Proof.Machine.execIntcClaim pair s
  | .intcEoi pair source => Sys2Proof.Machine.execIntcEoi pair source s
  | .disable value => Sys2Proof.Machine.execDisable value s
  | .info mailbox => Sys2Proof.Machine.execInfo mailbox s
  | .lldpRead mailbox => Sys2Proof.Machine.execLldpRead mailbox s
  | .discRead mailbox => Sys2Proof.Machine.execDiscRead mailbox s
  | .routeRecompute mailbox => Sys2Proof.Machine.execRouteRecompute mailbox s
  | .phaseRead mailbox => Sys2Proof.Machine.execPhaseRead mailbox s
  | .hostDmaStageStart pt admno => Sys2Proof.Machine.execHostDmaStageStart pt admno s
  | .portEnable port ctl => Sys2Proof.Machine.execPortEnable port ctl s
  | .sealLoopClose => Sys2Proof.Machine.execSealLoopClose s
  | .powerFailWarningRelease => Sys2Proof.Machine.execPowerFailWarningRelease s
  | .buttonRelease => Sys2Proof.Machine.execButtonRelease s
  | .thresholdWrite pair thresh => Sys2Proof.Machine.execThresholdWrite pair thresh s

end Sys2Proof.Machine
end

