-- ==== Sys2Proof/Safety.lean ====
section
/-! DEFINITION. Safety.lean: the invariants and the frames that statements are made of. -/
namespace Sys2Proof.Machine

/-- The canonical form of the state's sparse data: memory (R131) and the register file list rising addresses and no default value, and the
poison marks (R343, R344) rise without repeats. -/
def State.Canonical (s : State) : Prop :=
  Memory.wf s.mem = true ∧ Sparse.wf regReset s.regs = true ∧ s.poison.Pairwise (· < ·)

/-- Every byte of memory reads as before and every poison mark stands as before. -/
def SameMemory (s t : State) : Prop := (∀ a, Memory.read t.mem a = Memory.read s.mem a) ∧ t.poison = s.poison

/-- Every register whose home is not listed is stored as before. -/
def SameRegsBut (offs : List Nat) (s t : State) : Prop := ∀ o, regHome o ∉ offs.map regHome → t.getReg o = s.getReg o

/-- What a Jet instruction leaves to the pass once its lanes are done (R209, R220): a further instruction of the pass is next; else, a vector more is
counted in JET_VECS and the unit's next vector starts with empty registers; else the unit is free, and takes the first run that waits for it. -/
def JetGoesOn (s t : State) (die : Die) (arr : ArrayIx) (b : List Byte) (r : JetRun) : Prop :=
  let ji := arrIx die arr
  let pcs := passPcs (progWords (recOf b 0x0208 r.prog)) r.pass (jobStrict b)
  let J := vget s.comp.jets ji
  (∀ p, (pcs.find? fun q => decide (r.pc < q)) = some p →
    vget t.comp.jets ji = { J with run := some { r with pc := p }, lastPc := r.pc } ∧ t.regs = s.regs) ∧
  ((pcs.find? fun q => decide (r.pc < q)) = none →
    ∀ v w rest, r.vecs = v :: w :: rest →
      vget t.comp.jets ji =
        { J with run := some { r with vecs := w :: rest, pc := pcs.headD 0, regs := Vector.replicate 8 [] }, lastPc := r.pc } ∧
      (s.Canonical → t.reg64 (Reg.jetVecsLo die arr) = (s.reg64 (Reg.jetVecsLo die arr) + 1) % 2 ^ 64) ∧
      SameRegsBut [Reg.jetVecsLo die arr, Reg.jetVecsLo die arr + 4] s t) ∧
  ((pcs.find? fun q => decide (r.pc < q)) = none → r.vecs.length ≤ 1 →
    ∃ s1 : State, (vget s1.comp.jets ji).run = J.queue.head? ∧ (vget s1.comp.jets ji).queue = J.queue.tail ∧
      SameRegsBut [Reg.jetVecsLo die arr, Reg.jetVecsLo die arr + 4, Reg.jetLayer die arr] s s1 ∧
      s1.comp.parts = s.comp.parts ∧
      t = if s1.passRuns r.pt r.step r.layerId then s1 else s1.endPass r.pt r.step b r.layerId) ∧
  ((pcs.find? fun q => decide (r.pc < q)) ≠ none ∨ 2 ≤ r.vecs.length →
    (∀ j : Fin 72, j.val ≠ ji → vget t.comp.jets j = vget s.comp.jets j) ∧
    { t with comp := { t.comp with jets := s.comp.jets }, regs := s.regs } = s)

/-- A Jet arithmetic row completes for the vector at the head of the unit's run (R211, R220), on a unit whose next instruction is the row's word:
every active lane that has its operands and a finite result puts it in the destination register; a lane whose operand or result is beyond binary32
is a numeric failure (State.numericLanes); a lane whose residue comparison mismatches takes poison. The other vector registers and the rest of the run
stand. Without a mismatch the unit goes on; with one, what R229 gives follows (State.jetHits). Lanes that the row counts (RSQRT alone: those whose
operand is not above zero) are added to JET_RSQRTZ first. -/
def JetCompletes (s : State) (c : List (Fin 256) → Instr) (die : Die) (arr : ArrayIx) (word : Nat) (dst : Fin 8) (codes : List Nat)
    (f : List JVal → Option JVal) (counts : JVal → Bool) : Prop :=
  ∀ (r : JetRun) (u : Upd) (b : List Byte) (hits : List (Fin 256)), s.diesStopped = false →
    s.jetHead die arr word = some (r, u, b) →
    let vs := fun (x : Nat × Nat) => codes.map fun k => s.laneVal b r u k x.2 x.1
    let res := fun (x : Nat × Nat) => if (vs x).all Option.isSome then f ((vs x).map fun v => v.getD {}) else none
    let bad := ((s.lanes b r).filter fun x => (res x).isNone).map (·.1)
    let z := ((s.lanes b r).filter fun x => (((vs x).headD none).map counts).getD false).length
    let hs := (hits.map (·.val)).filter fun h => (s.lanes b r).any fun x => x.1 == h
    ∃ (s0 t : State) (r' : JetRun), exec (c hits) s = .next t ∧
      s0 = (if z = 0 then s else s.bump (Reg.jetRsqrtz die arr) z).numericLanes (arrIx die arr) b r u bad ∧
      (bad = [] → s0 = if z = 0 then s else s.bump (Reg.jetRsqrtz die arr) z) ∧
      r' = { r with regs := r'.regs } ∧
      (∀ x ∈ s.lanes b r, nth (vget r'.regs dst) x.1 {} = if x.1 ∈ hs then { poison := true } else (res x).getD {}) ∧
      (∀ d : Fin 8, d ≠ dst → vget r'.regs d = vget r.regs d) ∧
      (hs = [] → JetGoesOn s0 t die arr b r') ∧ (hs ≠ [] → t = s0.jetHits die arr b r' hs)

/-- The rank of the failure an update carries, or 0 where there is no such update (R220). -/
def failOf (s : State) (r : JetRun) : Nat := (((s.stepSt r.pt r.step).bind (·.upd r.layerId)).map (·.fail)).getD 0

/-- The Weir's decision on the descriptor d at the head of a queue, whose turn it is, and the admission it finds (R236, R239): the verdict of
the opcode's checks is a grant whose stages the calendar places from the first quantum on, the deadline is met, and the limits of admitted
descriptors are not reached. -/
def WeirGrants (s : State) (pt : Pt) (sq : QueueIx) (op : Nat) (d : List Byte) (v : State → Verdict) (a : Adm) (promise : Nat) : Prop :=
  s.turn = some (pt.val, sq.val) ∧ s.headOf pt sq = some d ∧ dOp d = op ∧
    (∀ x ∈ s.comp.weir.adms, x.pt = pt.val → x.admno ≠ ((s.comp.weir.nextAdm.find? fun y => y.1 == pt.val).map (·.2)).getD 1) ∧
    ∃ (st : List Stage) (pl : Placing) (first : Nat), v (s.takeHead pt sq) = .grant a st ∧ a.desc = d ∧ a.pt = pt.val ∧
      (op = 6 ∨ ((s.admsOf pt).length < 4096 ∧ s.comp.weir.adms.length < 16384)) ∧
      first = (if st.isEmpty then (s.takeHead pt sq).firstQuantum a - 1 else (s.takeHead pt sq).firstQuantum a) ∧
      (s.takeHead pt sq).placeStages pt 0 first st = some pl ∧ promise = 225 * ((pl.span first).2 + 1) ∧
      (op = 7 → a.count = 0 ∨ (pl.span first).2 ≤ a.count) ∧ (op = 6 ∨ dDeadline d = 0 ∨ promise ≤ dDeadline d)

/-- The number the Weir gives the next descriptor of a partition (R237). -/
def nextNumber (s : State) (pt : Nat) : Nat := ((s.comp.weir.nextAdm.find? fun x => x.1 == pt).map (·.2)).getD 1

/-- An admitted descriptor (R237): it took the partition's next number, and, while it is incomplete, stands among the admitted ones with its
promise. -/
def Admitted (s t : State) (pt : Pt) (d : List Byte) (promise : Nat) (stays : Bool) : Prop :=
  nextNumber t pt = (nextNumber s pt + 1) % 2 ^ 32 ∧
    (stays = true → ∃ a ∈ t.comp.weir.adms, a.pt = pt.val ∧ a.admno = nextNumber s pt ∧ a.desc = d ∧ a.promise = promise)

/-- The oldest delivered message is a chunk of a kind, from a member of a group whose epoch is not above the chunk's, with no newer revision seen
(R257, R262, R281). s0 is the state without the message. -/
def ChunkArrives (s s0 : State) (kind slot rank pos pt : Nat) (c : Chunk) (rest : List (Nat × Nat × List Byte)) : Prop :=
  s0 = { s with comp := { s.comp with casc := { s.comp.casc with inbox := rest } } } ∧
  ∃ bytes, s.comp.casc.inbox = (pos, pt, bytes) :: rest ∧ isChunk kind bytes = true ∧ c = chunkOf bytes ∧
    s0.slotOfGid pt c.gid = some slot ∧ (s0.group slot).epoch ≤ c.epoch ∧
    (s0.group slot).members.findIdx? (· == pos) = some rank ∧ s0.oldRev pt pos c.key c.rev = false

/-- What an arriving chunk does, k being the instruction it belongs to, if any, and c hit the command that says whether the receiver's comparison
mismatches. A chunk whose residue, coding or base is not as it must be, or whose comparison mismatches, is recalled and its sender suspected (R264, R266,
R282, R366). Any other leaves the inbox, its revision is noted and its CONFIRM goes to the sender (R279, R281); with an instruction, it stands with the
instruction's run in place of what the member sent of it before, does what its kind does besides, and the run goes on as far as it now can. -/
def ChunkUsed (s0 : State) (cmd : Bool → State → Host.Outcome State Fault Refusal) (s : State) (slot rank pos pt : Nat) (c : Chunk) (k : Option CascCtx)
    (also : CascCtx → Chunk → State → State) : Prop :=
  (∀ hit, hit = true ∨ s0.chunkOk k c = false → cmd hit s = .next (s0.chunkBad slot rank pos pt c)) ∧
  (s0.chunkOk k c = true →
    ∃ s1 : State, s1 = (s0.noteRev pt pos c.key c.rev).cascMsg slot rank none (c.ctl 1 (s0.group slot).epoch) ∧
      (∀ v, s1.oldRev pt pos c.key v = decide (v < c.rev)) ∧ s1.comp.casc.inbox = s0.comp.casc.inbox ∧ SameMemory s0 s1 ∧
      s1.comp.parts = s0.comp.parts ∧ (k = none → cmd false s = .next s1) ∧
      ∀ k', k = some k' → ∃ s2 : State, cmd false s = .next ((also k' c (s2.peerLate pt k'.record c.step c.gid rank)).pump k') ∧
        (s2.crun k').recv = (rank, c) :: (s1.crun k').recv.filter (fun x => !(x.1 == rank && x.2.same c)) ∧
        { s2 with comp := { s2.comp with casc := { s2.comp.casc with runs := s1.comp.casc.runs } } } = s1)

/-- The oldest delivered message is a control message of a type from a member of a group whose epoch is not above the message's (R257, R279). -/
def CtlArrives (s s0 : State) (typ slot rank pos pt : Nat) (l : List Byte) (rest : List (Nat × Nat × List Byte)) : Prop :=
  s0 = { s with comp := { s.comp with casc := { s.comp.casc with inbox := rest } } } ∧
  s.comp.casc.inbox = (pos, pt, l) :: rest ∧ isCtl typ l = true ∧ s0.slotOfGid pt (u16 l 2) = some slot ∧
    (s0.group slot).epoch ≤ u32 l 4 ∧ (s0.group slot).members.findIdx? (· == pos) = some rank

/-- A port whose egress takes a frame at once (R301, R302): no pause, nothing waits, the buffers hold the frame, the port's rate has room by now, and a
MGMT frame is within its 1 %. -/
def EgressFree (s : State) (p : Nat) (m : PortMsg) : Prop :=
  let x := (s.rollPort p).port p
  (s.port p).pausedTo = none ∧ (s.port p).queue = [] ∧ (s.port p).backlog = false ∧ m.bytes ≤ 2 ^ 23 ∧
    sumN ((List.range 24).map fun i => sumN ((s.port i).queue.map PortMsg.bytes)) + m.bytes ≤ 2 ^ 26 ∧
    x.started < s.portQuantum p * (s.time % 225 + 1) / 225 ∧ (m.cls = 0 → 100 * x.used.1 < s.portQuantum p)

/-- t is s after a frame has left a port: only the port's measure of its egress changes besides (R301). -/
def FrameLeft (s t : State) (p : Nat) (m : PortMsg) : Prop :=
  ∃ (q a : Nat) (u : Nat × Nat × Nat),
    t = { s.modPort p (fun x => { x with quantum := q, used := u, ahead := a }) with portTx := s.portTx ++ [s.frame p m] }

end Sys2Proof.Machine
end

