-- ==== Sys2Proof/Certificates/Slice0/Obligations.lean ====
section
/-! DEFINITION. Obligations.lean: the statements about the device, for the provers. Every clause holds for every state that meets its hypotheses.
Names of the model stand for what the definitions of their docstrings say; log entries number the files of notes/assumptions. -/
open Sys2Proof Sys2Proof.Machine

/-! ### The queue and the step -/

/-- A step with a command at the front of the queue is exec of that command on the state with the queue's rest. -/
def Obligations.StepRunsFront : Prop :=
  ∀ (c : Instr) (s : State) (rest : List Instr),
    step { s with pending := c :: rest } = exec c { s with pending := rest }

/-- The module stops nowhere: every step answers a next state, and a step uses up exactly the command at the front; no command puts a command into the
queue. On an empty queue a cycle passes: one S cycle of local time while the module is out of module reset, none in it (R51), and while no frame waits at a
port nothing else changes (that the cycle passes on an empty queue is the model's choice, log entry 1). -/
def Obligations.StepConsumesOne : Prop :=
  (∀ s : State, ∃ t, step s = .next t ∧ t.pending = s.pending.tail) ∧
  (∀ s : State, s.pending = [] →
     ∃ t, step s = .next t ∧ t.time = (if s.boot.released then s.time + 1 else s.time) ∧
       ((∀ p : Fin 24, (s.port p).queue = []) → { t with time := s.time } = s))

/-- Every step keeps the canonical form of memory, of the register file and of the poison marks. -/
def Obligations.StepKeepsCanonical : Prop :=
  ∀ s t : State, s.Canonical → step s = .next t → t.Canonical

/-- The reset state has the canonical form; every register reads its reset value, every byte of memory zero, no poison stands and the queue is
empty. -/
def Obligations.ResetState : Prop :=
  State.reset.Canonical ∧ (∀ off, State.reset.getReg off = regReset (regHome off)) ∧
    (∀ a, Memory.read State.reset.mem a = 0#8 ∧ State.reset.poisoned a = false) ∧ State.reset.pending = []

/-! ### Registers (R13 to R18, R50) -/

/-- What a host write of one register does, by the row's access code. A writable register (RW, RWL or RWP) that is no half of a pair, is not locked and has
no action of its own stores the bits its row can change and leaves the others; one that has an action takes it, a WO register its action alone; a W1C register clears the bits
written 1; a word of a pair is written as PairAccess says; a write of an RO register is refused with RO_WRITE and one of a locked register with LOCKED; a write of an RC
register changes nothing (R13, R16, R18). A word of a window that holds no register of its own (staging) is written by the window's action alone. A write that is not aligned, or beyond the register space, is refused whole and counted in RILL_ACCREF (R327). -/
def Obligations.RegisterWrites : Prop :=
  (∀ (s : State) (off : Nat) (val : Word) (r : RegRow), s.hostUp = true → off % 4 = 0 → off < 2 ^ 26 →
     s.accessCause off false = none → regRow off = some r →
     ((r.acc = .rw ∨ r.acc = .rwl ∨ r.acc = .rwp) → r.pair = 0 → s.writeLocked off = false → s.writeActs off r.mask val = none → s.Canonical →
       ∃ t, exec (.registerWrite off val) s = .next t ∧
         t.getReg off = (s.getReg off &&& ~~~(wd r.mask)) ||| (val &&& wd r.mask) ∧
         SameRegsBut [off] s t ∧ { t with regs := s.regs } = s) ∧
     (∀ t, r.acc ≠ .ro → r.acc ≠ .rc → r.acc = .w1c ∨ r.pair = 0 ∧ s.writeLocked off = false → s.writeActs off r.mask val = some t →
       exec (.registerWrite off val) s = .next t) ∧
     (r.acc = .w1c → s.writeActs off r.mask val = none → s.Canonical →
       ∃ t, exec (.registerWrite off val) s = .next t ∧ t.getReg off = s.getReg off &&& ~~~(val &&& wd r.mask) ∧
         SameRegsBut [off] s t ∧ { t with regs := s.regs } = s) ∧
     (r.pair = 1 → exec (.registerWrite off val) s = exec (.pairLowWrite off val) s) ∧
     (r.pair = 2 → exec (.registerWrite off val) s = exec (.pairHighWrite off val) s) ∧
     (r.acc = .ro → exec (.registerWrite off val) s = .next (s.accErr off .roWrite)) ∧
     (r.acc ≠ .ro → r.acc ≠ .rc → r.acc ≠ .w1c → s.writeLocked off = true →
       exec (.registerWrite off val) s = .next (s.accErr off .locked)) ∧
     (r.acc = .rc → exec (.registerWrite off val) s = .next s)) ∧
  (∀ (s : State) (off : Nat) (val : Word), s.hostUp = true → off % 4 = 0 → off < 2 ^ 26 → s.accessCause off false = none → regRow off = none →
     (s.writeLocked off = true → exec (.registerWrite off val) s = .next (s.accErr off .locked)) ∧
     (∀ t, s.writeLocked off = false → s.writeActs off 0 val = some t → exec (.registerWrite off val) s = .next t)) ∧
  (∀ (s : State) (off : Nat) (val : Word), s.Canonical → s.hostUp = true → off % 4 ≠ 0 ∨ 2 ^ 26 ≤ off →
     ∃ t, exec (.registerWrite off val) s = .next t ∧ t.reg Reg.rillAccref = min (s.reg Reg.rillAccref + 1) 0xFFFFFFFF ∧
       SameRegsBut [Reg.rillAccref] s t ∧ { t with regs := s.regs } = s)

/-- An access to a block that does not answer before READY reads zero, writes nothing and is recorded with cause NOT_READY (R414); an access to an offset
of no block and of no compute die reads zero, writes nothing and is recorded with cause UNMAPPED (R18). Until READY every opcode's check refuses its
descriptor with NOT_READY (R414). -/
def Obligations.RefusedAccess : Prop :=
  (∀ (s : State) (off : Nat) (val : Word), s.hostUp = true → off % 4 = 0 → off < 2 ^ 26 →
     (s.boot.ready = false → earlyBlock (blockOf off) = false → blockOf off ≠ .none →
       s.readReg off = (0#32, s.accErr off .notReady) ∧
       exec (.registerWrite off val) s = .next (s.accErr off .notReady)) ∧
     (blockOf off = .none → off < 0x1000000 ∨ 0x2000000 ≤ off →
       s.readReg off = (0#32, s.accErr off .unmapped) ∧
       exec (.registerWrite off val) s = .next (s.accErr off .unmapped))) ∧
  (∀ (s : State) (pt : Nat) (sq : Nat) (d : List Byte), s.boot.ready = false →
     s.stepVerdict pt sq d = .refuse 0x110 ∧ s.seedVerdict pt sq d = .refuse 0x110 ∧ s.moveVerdict pt sq d = .refuse 0x110 ∧
       s.scalarVerdict pt sq d = .refuse 0x110 ∧ s.snapVerdict pt sq d = .refuse 0x110 ∧ s.dmaVerdict pt sq d = .refuse 0x110 ∧
       s.fenceVerdict pt sq d = .refuse 0x110)

/-- GLOBAL_ACCERR captures the first refused access while VALID is 0, and later ones only count in LOST, which saturates. ACCERR_CLEAR clears VALID,
CAUSE and LOST together; the refused accesses of the same cycle are captured after it in their order: the first as the new first access, a second in
LOST (R50). -/
def Obligations.AccerrRecord : Prop :=
  (∀ (s : State) (off : Nat) (c : AccCause), s.Canonical → off < 2 ^ 26 →
     (bit (s.reg Reg.globalAccerrInfo) 0 = false →
       (s.accErr off c).reg Reg.globalAccerrAddr = off ∧
       (s.accErr off c).reg Reg.globalAccerrInfo = 1 + 16 * causeCode c) ∧
     (bit (s.reg Reg.globalAccerrInfo) 0 = true →
       (s.accErr off c).reg Reg.globalAccerrInfo =
         s.reg Reg.globalAccerrInfo % 2 ^ 16 + 2 ^ 16 * min 0xFFFF (s.reg Reg.globalAccerrInfo / 2 ^ 16 + 1) ∧
       SameRegsBut [Reg.globalAccerrInfo] s (s.accErr off c) ∧ { s.accErr off c with regs := s.regs } = s)) ∧
  (∀ (s : State), s.Canonical → s.hostUp = true →
     (∃ t, exec (.accerrClear []) s = .next t ∧ t.reg Reg.globalAccerrInfo = 0 ∧
       SameRegsBut [Reg.globalAccerrInfo] s t ∧ { t with regs := s.regs } = s) ∧
     (∀ off c, off < 2 ^ 26 →
       ∃ t, exec (.accerrClear [(off, c)]) s = .next t ∧ t.reg Reg.globalAccerrAddr = off ∧
         t.reg Reg.globalAccerrInfo = 1 + 16 * causeCode c) ∧
     (∀ off c off' c', off < 2 ^ 26 →
       ∃ t, exec (.accerrClear [(off, c), (off', c')]) s = .next t ∧ t.reg Reg.globalAccerrAddr = off ∧
         t.reg Reg.globalAccerrInfo = 1 + 16 * causeCode c + 2 ^ 16))

/-- A read of an RC register returns its value to the host and clears it; nothing else changes but what the link carries (R16). -/
def Obligations.RcReadClears : Prop :=
  ∀ (s : State) (off : Nat) (r : RegRow), s.Canonical → s.hostUp = true → off % 4 = 0 → off + 4 ≤ 2 ^ 26 →
    s.accessCause off true = none → regRow off = some r → r.acc = .rc →
    ∃ t, exec (.rcRead off) s = .next t ∧ t.getReg off = 0#32 ∧
      t.hostTx = s.hostTx ++ [.regCpl 0 0 (leBytes 4 (s.regValue off).toNat)] ∧
      SameRegsBut [off] s t ∧ { t with regs := s.regs, hostTx := s.hostTx, rill := s.rill } = s

/-- A read of the low word of a pair returns it and latches the high word, and the next read of the high word returns the latched word and empties
the shadow; no register changes. A write of the low word is held in the write shadow and changes no register; the write of the high word makes both
words take effect and empties the shadow; a high word alone leaves the low word as it was (R17). CISTERN_STAMP, whose write is a command of its own, apart. -/
def Obligations.PairAccess : Prop :=
  (∀ (s : State) (lo : Nat) (r h : RegRow), s.hostUp = true → lo % 4 = 0 → lo + 8 ≤ 2 ^ 26 →
     s.accessCause lo true = none → s.accessCause (lo + 4) true = none →
     regRow lo = some r → r.pair = 1 → r.acc ≠ .wo → r.acc ≠ .rc →
     regRow (lo + 4) = some h → h.pair = 2 → h.acc ≠ .wo → h.acc ≠ .rc →
     ∃ t, exec (.pairLowRead lo) s = .next t ∧
       t.hostTx = s.hostTx ++ [.regCpl 0 0 (leBytes 4 (s.regValue lo).toNat)] ∧
       shadowOf t.rdShadow (regHome lo) = some (s.regValue (lo + 4)) ∧ t.regs = s.regs ∧
       ∃ u, t.readReg (lo + 4) = (s.regValue (lo + 4), u) ∧ shadowOf u.rdShadow (regHome lo) = none ∧ u.regs = s.regs) ∧
  (∀ (s : State) (lo : Nat) (vlo vhi : Word) (r h : RegRow), s.Canonical → s.hostUp = true → lo % 4 = 0 → lo + 8 ≤ 2 ^ 26 →
     lo ≠ Reg.cisternStampLo → s.accessCause lo false = none → s.accessCause (lo + 4) false = none →
     s.writeLocked lo = false → s.writeLocked (lo + 4) = false →
     regRow lo = some r → r.pair = 1 → (r.acc = .rw ∨ r.acc = .rwl ∨ r.acc = .rwp) →
     regRow (lo + 4) = some h → h.pair = 2 → (h.acc = .rw ∨ h.acc = .rwl ∨ h.acc = .rwp) →
     (∃ t, exec (.pairLowWrite lo vlo) s = .next t ∧ shadowOf t.wrShadow lo = some vlo ∧ { t with wrShadow := s.wrShadow } = s) ∧
     (∃ t, exec (.pairHighWrite (lo + 4) vhi) s = .next t ∧ shadowOf t.wrShadow lo = none ∧
       t.getReg lo = (s.getReg lo &&& ~~~(wd r.mask)) ||| (((shadowOf s.wrShadow lo).getD (s.getReg lo)) &&& wd r.mask) ∧
       t.getReg (lo + 4) = (s.getReg (lo + 4) &&& ~~~(wd h.mask)) ||| (vhi &&& wd h.mask) ∧
       SameRegsBut [lo, lo + 4] s t ∧ { t with regs := s.regs, wrShadow := s.wrShadow } = s))

/-! ### Resets (R42 to R49) -/

/-- A write of GLOBAL_RESET with a KEY other than 0xA5 has no effect and records BAD_KEY, whichever SCOPE it names (R49); a partition or compute reset
asked for before READY has no effect and records NOT_READY (R45, Table 01-8). A module reset puts everything at its reset value: registers, memory, the
compute side, local time, the host link, the Cistern controller and the security block; what outlives power stays, but for a page program that completes
first and an install that leaves its slot invalid (Table 01-8, R411); the queue stays. Bring-up starts with B1 when 54 V is applied and nothing holds the
rails, and else waits (R42, R49, R51). -/
def Obligations.ModuleReset : Prop :=
  (∀ (s : State) (key : Byte) (m : BitVec 16), s.hostUp = true →
     (key ≠ 0xA5#8 →
       exec (.partitionReset key m) s = .next (s.accErr Reg.globalReset .badKey) ∧
       exec (.computeReset key) s = .next (s.accErr Reg.globalReset .badKey) ∧
       exec (.moduleReset key) s = .next (s.accErr Reg.globalReset .badKey)) ∧
     (s.boot.ready = false →
       exec (.partitionReset 0xA5#8 m) s = .next (s.accErr Reg.globalReset .notReady) ∧
       exec (.computeReset 0xA5#8) s = .next (s.accErr Reg.globalReset .notReady))) ∧
  (∀ s : State, s.hostUp = true →
     ∃ t, exec (.moduleReset 0xA5#8) s = .next t ∧
       t.regs = [] ∧ t.mem = [] ∧ t.poison = [] ∧ t.time = 0 ∧ t.comp = State.reset.comp ∧ t.arrays = State.reset.arrays ∧
       t.rill = {} ∧ t.cis = {} ∧ t.sec = {} ∧ t.fault = {} ∧ t.queues = State.reset.queues ∧ t.pending = s.pending ∧
       t.nv = ((if s.cis.prog.isSome then s.programDone true else s).cutInstall).nv ∧
       (s.cis.prog = none → s.sec.run = none → t.nv = s.nv) ∧ t.boot.released = false ∧ t.boot.ready = false ∧
       (s.cis.prog = none → s.sec.run = none →
         t.boot.phase = (if s.boot.input ∧ !s.power.latched ∧ s.power.overAt.isNone then 1 else 0) ∧
         (t.boot.phase = 1 → t.power.order = 1 ∧ (vget t.power.rails 0).on = true)))

/-- A compute reset asked for while none lasts marks the compute dies and every defined partition resetting, clears every Sluice engine, takes every
tile off every array, whose role is unbound until the reset ends, and puts every register of the compute domain at its reset value (R15, R25, R42, R44);
while it lasts a second request, and one for a partition, change nothing (R45). -/
def Obligations.ComputeReset : Prop :=
  ∀ s : State, s.hostUp = true → s.boot.ready = true →
    (s.boot.computeResetting = false →
      ∃ t, exec (.computeReset 0xA5#8) s = .next t ∧ t.boot.computeResetting = true ∧
        (∀ p : Pt, s.defined p = true → t.boot.ptResetting.getLsbD p = true) ∧
        t.comp.engines = Vector.replicate 8 {} ∧
        (∀ i : Fin 72, (vget t.arrays i).tiles = [] ∧ (vget t.arrays i).role = none) ∧
        ∀ o, regDomain (regHome o) = .compute → t.getReg o = regReset (regHome o)) ∧
    (s.boot.computeResetting = true →
      (∀ m, exec (.partitionReset 0xA5#8 m) s = .next s) ∧ exec (.computeReset 0xA5#8) s = .next s)

/-- A reset of one partition marks it resetting, puts every register of the partition's domain at its reset value and leaves no descriptor, reservation or
queue entry of it, no BED and no job state (R43, R44, R338); one that is resetting already has no further effect (R45). -/
def Obligations.PartitionReset : Prop :=
  ∀ (s : State) (p : Pt), s.hostUp = true → s.boot.ready = true → s.boot.computeResetting = false → s.defined p = true →
    (s.boot.ptResetting.getLsbD p = false →
      ∃ t, exec (.partitionReset 0xA5#8 (BitVec.ofNat 16 (2 ^ p.val))) s = .next t ∧
        t.boot.ptResetting = s.boot.ptResetting ||| BitVec.ofNat 16 (2 ^ p.val) ∧
        (∀ o, regDomain (regHome o) = .partition p → t.getReg o = regReset (regHome o)) ∧
        t.part p = {} ∧ vget t.queues p = {} ∧ (∀ h ∈ t.comp.weir.heads, h.1 ≠ p.val) ∧
        (∀ a ∈ t.comp.weir.adms, a.pt ≠ p) ∧ (∀ r ∈ t.comp.weir.resv, r.pt ≠ p)) ∧
    (s.boot.ptResetting.getLsbD p = true →
      exec (.partitionReset 0xA5#8 (BitVec.ofNat 16 (2 ^ p.val))) s = .next s)

/-- The end of the scrub of a compute reset leaves every byte zero and unpoisoned, binds the roles of every die to its arrays, and ends the reset of every
partition; the end of the scrub of one partition zeroes the bytes of its pools and channels, takes their poison off, leaves every other byte as it was, and
ends its reset (R25, R44). -/
def Obligations.ScrubZeroes : Prop :=
  ∀ (s : State) (p : Pt), s.Canonical →
    (s.boot.computeResetting = true →
      ∃ t, exec (.scrubComplete true p) s = .next t ∧ t.mem = [] ∧ t.poison = [] ∧
        t.arrays = (forEach (List.range 4) (fun d s => bindDie s d) s).arrays ∧
        t.boot.computeResetting = false ∧ t.boot.ptResetting = 0#16 ∧ t.regs = s.regs) ∧
    (s.boot.computeResetting = false → s.boot.ptResetting.getLsbD p = true →
      ∃ t, exec (.scrubComplete false p) s = .next t ∧
        (∀ a, Memory.read t.mem a = if s.ownsKey p a then 0#8 else Memory.read s.mem a) ∧
        t.poison = s.poison.filter (fun g => !s.ownsKey p (granuleSpan g).1) ∧
        t.boot.ptResetting = s.boot.ptResetting &&& ~~~ BitVec.ofNat 16 (2 ^ p.val) ∧
        { t with mem := s.mem, poison := s.poison, boot := s.boot } = s)

/-! ### The Basin and the formats (R52 to R99) -/

/-- A product with a poison operand sets POISON and is not entered: B, MTOP, the residue, the anchor and the deficit stay, even when the other
operand is zero (R56); and the poison codes of the four output formats are 0x7F and 0xFF in QE43 and QE52 and the all-ones exponents in FP16 and
BF16 (R56). -/
def Obligations.PoisonProducts : Prop :=
  (∀ (p : Place) (d : Nat) (al : Option Int) (l : List (OpElem × OpElem)) (x y : OpElem), x.poison = true ∨ y.poison = true →
    p.accumulate d al (l ++ [(x, y)]) = { p.accumulate d al l with poison := true }) ∧
  (∀ code < 2 ^ 8, decodeFp 0 code = none ↔ code = 0x7F ∨ code = 0xFF) ∧
  (∀ code < 2 ^ 8, decodeFp 1 code = none ↔ code = 0x7F ∨ code = 0xFF) ∧
  (∀ code < 2 ^ 16, decodeFp 2 code = none ↔ code / 2 ^ 10 % 2 ^ 5 = 2 ^ 5 - 1) ∧
  (∀ code < 2 ^ 16, decodeFp 3 code = none ↔ code / 2 ^ 7 % 2 ^ 8 = 2 ^ 8 - 1)

/-- A sum whose set of products passes the headroom test is exact: B holds the sum of the products without wrap. A sum that fails, repeated with
its deficit, holds the sum of the products each truncated by the deficit, and the repeat never wraps (R54, R61, R62). -/
def Obligations.AcceptedSumsExact : Prop :=
  ∀ (ps : List Int) (m : Nat), ps ≠ [] → ps.length < 2 ^ 64 → (∀ p ∈ ps, msb p ≤ m) →
    (headroomOk m ps.length = true →
      (ps.foldl (fun w p => w.enter p false 0) ({} : Basin)).b = ps.foldl (· + ·) 0) ∧
    (headroomOk m ps.length = false →
      (ps.foldl (fun w p => w.enter p false (deficit m ps.length)) ({} : Basin)).b =
        (ps.map fun p => p / ((2 ^ deficit m ps.length : Nat) : Int)).foldl (· + ·) 0)

/-- The device writes 0x7F for a poisoned value in QE43 and QE52 and 0x7FFF in FP16 and BF16; a value that rounds to zero is written with the sign
of the exact value; an exact zero is written +0; and −0 decodes as 0 (R84). -/
def Obligations.ZeroAndPoisonCodes : Prop :=
  ∀ (f : Nat) (c : Int) (k mode bits : Nat) (x : Exact), f ≤ 3 →
    (x.poison = true → (storeCode f c k mode bits x).1 = if f ≤ 1 then 0x7F else 0x7FFF) ∧
    (x.poison = false → x.m = 0 → x.sticky = false → (storeCode f c k mode bits x).1 = 0) ∧
    (x.poison = false → (x.m ≠ 0 ∨ x.sticky = true) → (roundTo f c k mode bits x).1 = 0 →
      (storeCode f c k mode bits x).1 = (if x.neg then (if f ≤ 1 then 0x80 else 0x8000) else 0)) ∧
    ((decodeFp f (if f ≤ 1 then 0x80 else 0x8000)).map (·.1) = some 0)

/-- Before rounding a block its fine code is set from the largest exact magnitude among the elements that are not poisoned: with u that magnitude
times 2^(−c), k = min(15, T − ⌊log₂ u⌋) when that is at least 0, and k = 0 otherwise; a block of zeros or poison takes k = 0 (R91). -/
def Obligations.FineCodeRule : Prop :=
  ∀ (f : Nat) (c : Int) (xs : List Exact),
    ((∀ x ∈ xs, x.poison = true ∨ x.m = 0) → fineCode f c xs = 0) ∧
    (∀ x ∈ xs, ∀ l : Int, x.poison = false → x.lg = some l →
      (∀ y ∈ xs, ∀ l' : Int, y.poison = false → y.lg = some l' → l' ≤ l) →
      (fineCode f c xs : Int) = if 0 ≤ min 15 (fmtTop f - (l - c)) then min 15 (fmtTop f - (l - c)) else 0)

/-! ### Tasks, tiles and Jet (R187 to R227) -/

/-- TASK_CHOOSE starts, of the ready tasks of the die, one whose key no other ready task precedes, as the last tile of its role's array
(R188). -/
def Obligations.TaskChooseSmallest : Prop :=
  ∀ (s : State) (die : Die), s.diesStopped = false → s.readyTasks die true ≠ [] →
    ∃ t pt step tk a key, exec (.taskChoose die) s = .next t ∧
      (pt, step, tk, a, key) ∈ s.readyTasks die true ∧
      (∀ y ∈ s.readyTasks die true, lexLt y.2.2.2.2 key = false) ∧
      ∃ T, (vget t.arrays (arrIx die a)).tiles.getLast? = some T ∧ T.pt = pt ∧ T.step = step ∧ T.task = tk ∧ T.col = 0

/-- A column drains without a residue mismatch (R61 to R63, R73, R75, R202): of a discarded tile, it takes the tile off the array; where its consumer refuses
data, the array stalls and the tile waits; else the tile moves on by one column and keeps its words, the elements that fail the headroom test join
those to repeat, and of the registers only the count of poisoned elements may change. After its last column a tile with failing elements of a sum that is
complete here, not yet repeated, waits for its repeat; any other is finished and leaves the array. Row statistics drain by columns the same way (R70). A tile
that waits for its repeat drains again from its first column, in the other Basin word, and the repeat is final (R62, R63, R75). A stall ends once the other
Basin word is free, at most one tile standing on the array, or once the drain's consumer accepts data (R75). A fused fill that ends leaves its engine,
and the first tile of the array that waits for fills waits for one fewer (R146). -/
def Obligations.TilesDrain : Prop :=
  (∀ (s : State) (die : Die) (arr : ArrayIx) (T : Tile) (rest : List Tile) (b : List Byte), s.diesStopped = false →
     (vget s.arrays (arrIx die arr)).tiles = T :: rest → (s.part T.pt).bed = some b →
     (T.discard = true → ∃ t, exec (.columnDrain die arr []) s = .next t ∧ (vget t.arrays (arrIx die arr)).tiles = rest ∧
       { t with arrays := s.arrays } = s) ∧
     (T.discard = false → T.fills = 0 → T.again = false → T.col < 256 →
       (s.drainRefused b T = true → ∃ t, exec (.columnDrain die arr []) s = .next t ∧
         vget t.arrays (arrIx die arr) = { vget s.arrays (arrIx die arr) with stall := true, refused := true } ∧ { t with arrays := s.arrays } = s) ∧
       (s.drainRefused b T = false → ∃ (s1 : State) (T' : Tile), T'.col = T.col + 1 ∧ T'.words = T.words ∧ T'.task = T.task ∧ T'.rep = T.rep ∧
         (∀ e ∈ T'.deficits, e ∈ T.deficits ∨ T.rep = false ∧ 256 * T.col ≤ e.1 ∧ e.1 < 256 * (T.col + 1) ∧
           e.2.2 = (nth T.words e.1 {}).mtop ∧ ∃ n, headroomOk e.2.2 n = false ∧ e.2.1 = deficit e.2.2 n) ∧
         (T.col + 1 < 256 → exec (.columnDrain die arr []) s = .next s1 ∧ (vget s1.arrays (arrIx die arr)).tiles = T' :: rest) ∧
         (T.col + 1 = 256 → s.scopeLocal b T.task = true → T.cross = false → T.rep = false → T'.deficits ≠ [] →
           exec (.columnDrain die arr []) s = .next s1 ∧ (vget s1.arrays (arrIx die arr)).tiles = { T' with again := true } :: rest) ∧
         (T.col + 1 = 256 → s.scopeLocal b T.task = false ∨ T.cross = true ∨ T.rep = true ∨ T'.deficits = [] →
           exec (.columnDrain die arr []) s = .next (s1.finishTile b T') ∧ (vget s1.arrays (arrIx die arr)).tiles = rest) ∧
         SameRegsBut [Reg.basinPoison die arr] s s1 ∧ { s1 with arrays := s.arrays, regs := s.regs } = s))) ∧
  (∀ (s : State) (die : Die) (arr : ArrayIx) (q : RowStat) (b : List Byte), s.diesStopped = false →
     (vget s.arrays (arrIx die arr)).tiles = [] → (vget s.arrays (arrIx die arr)).stats = some q → (s.part q.pt).bed = some b → q.again = false →
     256 * (q.col + 1) < q.words.length →
     ∃ t q', exec (.columnDrain die arr []) s = .next t ∧ (vget t.arrays (arrIx die arr)).stats = some q' ∧
       q'.col = q.col + 1 ∧ q'.words = q.words ∧ SameRegsBut [Reg.basinPoison die arr] s t ∧ { t with arrays := s.arrays, regs := s.regs } = s) ∧
  (∀ (s : State) (die : Die) (arr : ArrayIx),
     (∀ (T : Tile) (rest : List Tile) (b : List Byte), s.diesStopped = false →
       (vget s.arrays (arrIx die arr)).tiles = T :: rest → (s.part T.pt).bed = some b → T.again = true →
       ∃ t T', exec (.tileRepeat die arr) s = .next t ∧ (vget t.arrays (arrIx die arr)).tiles = T' :: rest ∧
         T'.again = false ∧ T'.rep = true ∧ T'.col = 0 ∧ T'.task = T.task ∧ T'.step = T.step ∧
         T'.word = (vget s.arrays (arrIx die arr)).nextWord ∧ (vget t.arrays (arrIx die arr)).nextWord = !(vget s.arrays (arrIx die arr)).nextWord) ∧
     ((vget s.arrays (arrIx die arr)).stall = true →
       ((vget s.arrays (arrIx die arr)).refused = false ∧ (vget s.arrays (arrIx die arr)).tiles.length ≤ 1) ∨
       ((vget s.arrays (arrIx die arr)).refused = true ∧ ∃ T rest b, (vget s.arrays (arrIx die arr)).tiles = T :: rest ∧
         (s.part T.pt).bed = some b ∧ s.drainRefused b T = false) →
       ∃ t, exec (.basinStallEnd die arr) s = .next t ∧
         vget t.arrays (arrIx die arr) = { vget s.arrays (arrIx die arr) with stall := false, refused := false } ∧ { t with arrays := s.arrays } = s)) ∧
  (∀ (s : State) (die : Die) (eng : Engine) (ai pt i : Nat) (rest : List (Nat × Nat)), s.diesStopped = false →
     (vget s.comp.engines (2 * die + eng)).fills = (ai, pt) :: rest →
     (vget s.arrays ai).tiles.findIdx? (fun T => T.fills != 0) = some i →
     ∃ t, exec (.fusedFillComplete die eng) s = .next t ∧
       (vget t.comp.engines (2 * die + eng)).fills = rest ∧
       (((vget t.arrays ai).tiles[i]?).map (·.fills)) = (((vget s.arrays ai).tiles[i]?).map fun T => T.fills - 1) ∧
       (∀ j, j ≠ i → (vget t.arrays ai).tiles[j]? = (vget s.arrays ai).tiles[j]?) ∧
       { t with arrays := s.arrays, comp := { t.comp with engines := s.comp.engines } } = s)

/-- Zeros, signs and poison of the lane arithmetic (R211, Table 08-1): an exact zero sum is +0 unless both operands are −0; a zero difference is +0;
a zero product takes the exclusive OR of the signs; the larger of +0 and −0 is +0; SIGN gives +1, −1 or +0; RSQRT of a value that is not above zero
is +0; SELECT looks at its first operand alone, and is poisoned if that or the chosen one is; a poisoned operand poisons every other result. -/
def Obligations.LaneZeroRules : Prop :=
  (∀ a b : JVal, a.isZero = true → b.isZero = true → a.poison = false → b.poison = false →
    lift2 jAdd a b = some (if a.neg && b.neg then { bits := 0x80000000 } else { bits := 0 }) ∧
    lift2 jSub a b = some { bits := 0 }) ∧
  (∀ a b : JVal, a.isZero = true → a.poison = false → b.poison = false →
    lift2 jMul a b = some { bits := if a.neg != b.neg then 0x80000000 else 0 }) ∧
  lift2 jMax { bits := 0 } { bits := 0x80000000 } = some { bits := 0 } ∧
  lift2 jMax { bits := 0x80000000 } { bits := 0 } = some { bits := 0 } ∧
  (∀ a : JVal, a.poison = false →
    lift1 jSign a = some { bits := if a.isZero then 0 else if a.neg then 0xBF800000 else 0x3F800000 } ∧
    (a.isZero = true ∨ a.neg = true → lift1 jRsqrt a = some { bits := 0 })) ∧
  (∀ a b c : JVal, jSelect a b c = some (if a.poison then { poison := true } else if a.isZero then c else b)) ∧
  (∀ a b : JVal, a.poison = true ∨ b.poison = true →
    lift2 jAdd a b = some { poison := true } ∧ lift2 jSub a b = some { poison := true } ∧
    lift2 jMul a b = some { poison := true } ∧ lift2 jMax a b = some { poison := true }) ∧
  (∀ (a : JVal) (i : Int), a.poison = true →
    lift1 jAbs a = some { poison := true } ∧ lift1 jSign a = some { poison := true } ∧
    lift1 jRsqrt a = some { poison := true } ∧ lift1 (jScale i) a = some { poison := true })

/-- The nine arithmetic rows complete lane by lane with the result that Table 08-1 gives (R211, R218, R219), and the unit goes on to its next instruction,
to its next vector or to its next run; a lane without a finite result, or whose residue comparison mismatches, follows R211 and R229 (JetCompletes says
each case). A numeric failure marks every such lane OVERFLOW and raises the failure of an update that can still fail to rank 4 (R211, R220). -/
def Obligations.JetArithmetic : Prop :=
  (∀ (s : State) (die : Die) (arr : ArrayIx) (dst : Fin 8) (a b c : JOp) (imm : BitVec 6),
    JetCompletes s (.add die arr dst a b) die arr (jWord 1 dst a.toNat b.toNat 0 0) dst [a.toNat, b.toNat]
      (fun v => lift2 jAdd (nth v 0 {}) (nth v 1 {})) (fun _ => false) ∧
    JetCompletes s (.sub die arr dst a b) die arr (jWord 2 dst a.toNat b.toNat 0 0) dst [a.toNat, b.toNat]
      (fun v => lift2 jSub (nth v 0 {}) (nth v 1 {})) (fun _ => false) ∧
    JetCompletes s (.mul die arr dst a b) die arr (jWord 3 dst a.toNat b.toNat 0 0) dst [a.toNat, b.toNat]
      (fun v => lift2 jMul (nth v 0 {}) (nth v 1 {})) (fun _ => false) ∧
    JetCompletes s (.max die arr dst a b) die arr (jWord 4 dst a.toNat b.toNat 0 0) dst [a.toNat, b.toNat]
      (fun v => lift2 jMax (nth v 0 {}) (nth v 1 {})) (fun _ => false) ∧
    JetCompletes s (.abs die arr dst a) die arr (jWord 5 dst a.toNat 0 0 0) dst [a.toNat]
      (fun v => lift1 jAbs (nth v 0 {})) (fun _ => false) ∧
    JetCompletes s (.sign die arr dst a) die arr (jWord 6 dst a.toNat 0 0 0) dst [a.toNat]
      (fun v => lift1 jSign (nth v 0 {})) (fun _ => false) ∧
    JetCompletes s (.rsqrt die arr dst a) die arr (jWord 7 dst a.toNat 0 0 0) dst [a.toNat]
      (fun v => lift1 jRsqrt (nth v 0 {})) (fun v => !v.poison && (v.isZero || v.neg)) ∧
    JetCompletes s (.select die arr dst a b c) die arr (jWord 8 dst a.toNat b.toNat c.toNat 0) dst [a.toNat, b.toNat, c.toNat]
      (fun v => jSelect (nth v 0 {}) (nth v 1 {}) (nth v 2 {})) (fun _ => false) ∧
    JetCompletes s (.scale die arr dst a imm) die arr (jWord 9 dst a.toNat 0 0 imm.toNat) dst [a.toNat]
      (fun v => lift1 (jScale imm.toInt) (nth v 0 {})) (fun _ => false)) ∧
  (∀ (s : State) (die : Die) (arr : ArrayIx) (b : List Byte) (r : JetRun) (u : Upd) (lanes : List Nat), s.Canonical → lanes ≠ [] →
    ((s.stepSt r.pt r.step).bind (·.upd r.layerId)) = some u →
    bit ((s.numericLanes (arrIx die arr) b r u lanes).reg (Reg.jetErrstat die arr)) 2 = true ∧
    ((s.stepSt r.pt r.step).map (·.st) ≠ some 6 → failOf (s.numericLanes (arrIx die arr) b r u lanes) r = max u.fail 4))

/-- NOP moves the unit on and changes nothing else (R211). LAYER_REDUCE does so outside the statistics pass, and where its T slot is filled; in it,
every active lane that is not frozen and has its operand counts in the statistic (R223). STORE keeps for version t + 1, in a pass that stores, the value of
every active lane whose predicate is a nonzero value and whose element is not frozen, and keeps nothing in a statistics pass or the apply pass of an in-place
weight, which writes what its verify pass kept (R221, R225, R226). A poisoned operand raises the update's failure to rank 2 at least, one beyond
binary32 to rank 4, and a frozen element that would be stored under FROZEN_STRICT to rank 3 (R220, R223, R225, R226); while no lane fails so, nothing
changes but the update, the unit and the count of frozen stores. -/
def Obligations.JetReduceStore : Prop :=
  ∀ (s : State) (die : Die) (arr : ArrayIx) (r : JetRun) (u : Upd) (b : List Byte), s.diesStopped = false →
    let canFail := (s.stepSt r.pt r.step).map (·.st) ≠ some 6
    let wt := progW b r.prog
    let frz := fun (x : Nat × Nat) => (s.part r.pt).frozen b wt (unRow (s.view r.pt b wt r.step).used x.2)
    (s.jetHead die arr 0 = some (r, u, b) → ∃ t, exec (.nop die arr) s = .next t ∧ JetGoesOn s t die arr b r) ∧
    (∀ (tslot : Fin 4) (a : JOp) (rkind : Fin 3) (divn : Bool) (elsb : BitVec 8),
      s.jetHead die arr (at_ 27 0x0A + at_ 24 tslot.val + at_ 18 a.toNat + at_ 16 rkind.val + at_ 15 (b2n divn) + at_ 7 elsb.toNat) =
        some (r, u, b) →
      (r.pass ≠ 1 ∨ (u.tvals.any fun t => t.1 == tslot.val) = true →
        ∃ t, exec (.layerReduce die arr tslot a rkind divn elsb []) s = .next t ∧ JetGoesOn s t die arr b r) ∧
      (r.pass = 1 → (u.tvals.any fun t => t.1 == tslot.val) = false →
        let val := fun (x : Nat × Nat) => s.laneVal b r u a.toNat x.2 x.1
        let on := (s.lanes b r).filter fun x => !frz x
        ∃ s0 t u' acc, exec (.layerReduce die arr tslot a rkind divn elsb []) s = .next t ∧ JetGoesOn s0 t die arr b r ∧
          (s0.stepSt r.pt r.step).bind (·.upd r.layerId) = some u' ∧ acc ∈ u'.stats ∧ acc.slot = tslot.val ∧
          acc.n = ((u.stats.find? fun z => z.slot == tslot.val).map (·.n)).getD 0 + (on.filter fun x => (val x).isSome).length ∧
          (canFail → (∃ x ∈ on, ((val x).getD {}).poison = true) → 2 ≤ u'.fail) ∧
          (canFail → (∃ x ∈ on, val x = none) → 4 ≤ u'.fail) ∧
          ((∀ x ∈ on, ∃ v, val x = some v ∧ v.poison = false) → u'.fail = u.fail ∧
            { s0 with comp := { s0.comp with parts := s.comp.parts } } = s))) ∧
    (∀ (target : Fin 3) (a pred : JOp) (round : BitVec 2),
      s.jetHead die arr (at_ 27 0x0B + at_ 24 target.val + at_ 18 a.toNat + at_ 12 pred.toNat + at_ 10 round.toNat) = some (r, u, b) →
      let val := fun (x : Nat × Nat) => s.laneVal b r u a.toNat x.2 x.1
      let pv := fun (x : Nat × Nat) => s.laneVal b r u pred.toNat x.2 x.1
      let on := (s.lanes b r).filter fun x => ((pv x).map fun v => !v.poison && !v.isZero).getD false
      let stores := r.pass ≠ 1 ∧ ¬(r.pass = 3 ∧ (s.part r.pt).ring b wt = 1)
      ∃ s0 t u', exec (.store die arr target a pred round []) s = .next t ∧ JetGoesOn s0 t die arr b r ∧
        (s0.stepSt r.pt r.step).bind (·.upd r.layerId) = some u' ∧
        (stores → u'.stored = u.stored ++ (on.filter fun x => !frz x).filterMap fun x => (val x).map fun v => (target.val, x.2, v, round.toNat)) ∧
        (¬ stores → u'.stored = u.stored) ∧
        (canFail → (∃ x ∈ s.lanes b r, ((pv x).getD {}).poison = true) → 2 ≤ u'.fail) ∧
        (canFail → (∃ x ∈ s.lanes b r, pv x = none) → 4 ≤ u'.fail) ∧
        (canFail → stores → (∃ x ∈ on, frz x = false ∧ ((val x).getD {}).poison = true) → 2 ≤ u'.fail) ∧
        (canFail → jobStrict b = true → (∃ x ∈ on, frz x = true) → 3 ≤ u'.fail) ∧
        (s.Canonical → (∀ x ∈ s.lanes b r, ∃ v w, val x = some v ∧ v.poison = false ∧ pv x = some w ∧ w.poison = false) →
          jobStrict b = false ∨ (∀ x ∈ on, frz x = false) →
          u'.fail = u.fail ∧ { s0 with comp := { s0.comp with parts := s.comp.parts }, regs := s.regs } = s ∧
          SameRegsBut [Reg.jetFrozenst die arr] s s0 ∧
          s0.reg (Reg.jetFrozenst die arr) =
            min (s.reg (Reg.jetFrozenst die arr) + if r.pass = 3 ∧ jobStrict b = false then (on.filter frz).length else 0) 0xFFFFFFFF))

/-- The update of a layer starts for the oldest step that wants it once the gradients it reads are rounded, its scalar set is there and the slot of the next
version is free: the set is locked, the update stands with the set's slots, and its first pass is the statistics pass when the program has a LAYER_REDUCE, or
when FROZEN_STRICT stores have no verify pass, and else the verify or apply pass (R198, R199, R215, R220, R226); a pass that finds no vector on this module
ends at once. Without its scalar set it waits, every Jet unit of the layer with it (R217); without a free slot it waits, once counted (R194). When a layer's
statistics are those of every member, each is tested and converted in its turn (R223, R224): a maximum is taken as it stands; a sum that fails the
headroom test is found again with its deficit; any other is divided where DIVN says so, converted once, and fills its T slot, or fails the update where it is
beyond binary32. With nothing to repeat the next pass starts; else the statistics pass runs again. -/
def Obligations.UpdatePasses : Prop :=
  (∀ (s : State) (pt : Pt) (layerId li : Nat) (lrest : List Nat) (b : List Byte) (x : StepSt), s.diesStopped = false →
     (s.part pt).bed = some b → layerRecs b layerId = li :: lrest → (bedLayer b li).jet ≠ none32 →
     (s.part pt).heldWeight b (progW b (bedLayer b li).jet) = false →
     ((s.active pt).find? fun x =>
       ((x.upd layerId).map fun u => u.pass == 0).getD true &&
       (if jobAhead b = 0 then x.st == 3 || (x.st == 1 && x.settled) else decide (1 ≤ x.st ∧ x.st ≤ 3)) &&
       s.gradReady b x pt layerId) = some x →
     let prog := (bedLayer b li).jet
     let ws := progWords (recOf b 0x0208 prog)
     (∀ z, ((s.part pt).sets.find? fun y => y.step == x.num) = some z → s.slotFree pt b (progW b prog) x.num = true →
       ∃ (s1 : State) (u : Upd), exec (.updateStart pt layerId) s =
           .next (if s1.passRuns pt x.num layerId then s1 else if u.pass = 1 then s1.endPass pt x.num b layerId else s1.closePass pt x.num b u) ∧
         (s1.stepSt pt x.num).bind (·.upd layerId) = some u ∧
         u = { layerId := layerId, prog := prog, slots := z.slots,
               pass := if (lastReduce ws).isSome ∨ (jobStrict b ∧ (ws.any fun w => jOp w == 0x0B) ∧ (s.part pt).nextPass b prog = 3) then 1
                 else (s.part pt).nextPass b prog } ∧
         (∀ y ∈ (s1.part pt).sets, y.step = x.num → y.locked = true)) ∧
     (((s.part pt).sets.find? fun y => y.step == x.num) = none →
       ∃ t, exec (.updateStart pt layerId) s = .next t ∧
         (∀ j ∈ s.layerJets b layerId, ⟨pt.val, x.num, layerId⟩ ∈ (vget t.comp.jets j).scalarWait) ∧ SameMemory s t ∧ t.nv = s.nv) ∧
     ((((s.part pt).sets.find? fun y => y.step == x.num).isSome = true) → s.slotFree pt b (progW b prog) x.num = false →
       ∃ t, exec (.updateStart pt layerId) s = .next t ∧
         ((t.stepSt pt x.num).bind (·.upd layerId)).map (fun u => (u.pass, u.waited)) = some (0, true) ∧ SameMemory s t ∧ t.nv = s.nv)) ∧
  (∀ (s : State) (pt : Pt) (layerId : Nat) (b : List Byte) (x : StepSt) (u : Upd) (es : List (List Byte)), s.diesStopped = false →
     (s.part pt).bed = some b →
     ((s.part pt).steps.find? fun x => ((x.upd layerId).map fun u => u.pass == 5).getD false) = some x → x.upd layerId = some u →
     let li := ((layerRecs b layerId).head?).getD 0
     (s.roundResult pt 1 li x.num (u.statList b) = none → exec (.statisticsComplete pt layerId) s = .next s) ∧
     (s.roundResult pt 1 li x.num (u.statList b) = some es →
       let slots := (((progWords (recOf b 0x0208 u.prog)).filter fun w => jOp w == 0x0A).map fun w => (field w 25 24, w)).filter fun y =>
         !u.tvals.any fun t => t.1 == y.1
       let R := slots.foldl (fun (a : Upd × List Nat × State) y => a.2.2.settleStat pt x.num b a.1 a.2.1 (statOf y.1 (nth es y.1 [])) y.2)
         (u, [], s.leaveRound pt 1 li x.num)
       (R.1.fail ≠ 4 →
         ∃ (s1 : State) (u' : Upd), exec (.statisticsComplete pt layerId) s =
             .next (if s1.passRuns pt x.num layerId then s1 else if u'.pass = 1 then s1.endPass pt x.num b layerId
               else s1.closePass pt x.num b { u' with stored := R.1.stored }) ∧
           (∃ y ∈ (s1.part pt).steps, y.num = x.num ∧ y.upd layerId = some u') ∧
           u'.tvals = R.1.tvals ∧ u'.trunc = R.1.trunc ∧ u'.fail = R.1.fail ∧ (u'.stats = R.1.stats.filter fun t => !R.2.1.contains t.slot) ∧
           u'.pass = if R.2.1 = [] then (s.part pt).nextPass b u.prog else 1) ∧
       (R.1.fail = 4 → ∃ s1 : State, exec (.statisticsComplete pt layerId) s = .next (s1.endPass pt x.num b layerId) ∧
         ∃ y ∈ (s1.part pt).steps, y.num = x.num ∧ (y.upd layerId).map (·.fail) = some 4))) ∧
  (∀ (s : State) (pt : Pt) (step : Nat) (b : List Byte) (u : Upd) (again : List Nat) (c : StatAcc) (w : Nat),
     let d0 := ((u.trunc.find? fun t => t.1 == c.slot).map (·.2)).getD 0
     let R := s.settleStat pt step b u again c w
     let e := sN 8 (field w 14 7) + (d0 : Int)
     let q := if bit w 15 ∧ c.n ≠ 0 then quotient c.sum c.n e else exactZ c.sum e
     let out := if c.n = 0 ∨ q.m = 0 then some 0 else f32Round q.neg q.m q.e q.sticky
     (field w 17 16 = 2 → R = ({ u with tvals := (c.slot, { bits := c.max.getD 0 }) :: u.tvals }, again, s)) ∧
     (field w 17 16 ≠ 2 → d0 = 0 → headroomOk c.mtop c.n = false → c.n ≠ 0 →
       R.1 = { u with trunc := (c.slot, deficit c.mtop c.n) :: u.trunc } ∧ R.2.1 = c.slot :: again) ∧
     (field w 17 16 ≠ 2 → d0 ≠ 0 ∨ headroomOk c.mtop c.n = true ∨ c.n = 0 →
       R = ((match out with | some bits => { u with tvals := (c.slot, { bits := bits }) :: u.tvals } | none => { u with fail := 4 }), again, s)))

/-- A settle round starts for the oldest step that is ready for it, which goes to SETTLING and notes whether the round serves as its commit round. It
completes once the lists of every member have come, and waits until then. Where it finds a tensor that BF16 cannot hold, or a failure, the step takes that
outcome (R101, R220); where it finds a spill, the step's work is redone and the step is not settled (R99, R200); else the step has settled with the
magnitudes the round combined, and goes on to UPDATING, or, where the round served as the commit round, to its commit, which it makes at once when it is the
oldest (R197, R198). A commit round starts for a settled step whose updates are done, which goes to COMMITTING; it completes for the oldest step
alike: with neither failure nor spill the step commits, its number being the partition's committed step; a spill sends it back to UPDATING (R198, R222). -/
def Obligations.Rounds : Prop :=
  (∀ (s : State) (pt : Pt) (b : List Byte) (x : StepSt), (s.part pt).bed = some b →
     ((s.active pt).find? (s.settleOk pt b) = some x →
       ∃ t, exec (.settleRoundStart pt) s = .next t ∧
         (t.stepSt pt x.num).map (fun y => (y.st, y.both)) = some (2, s.updatesDone pt b x) ∧ SameMemory s t ∧ t.nv = s.nv) ∧
     (((s.part pt).steps.find? fun x => x.st == 2 && x.again.isEmpty) = some x →
       (s.roundOut pt b x 2 true x.both = none → exec (.settleRoundComplete pt) s = .next s) ∧
       ∀ o, s.roundOut pt b x 2 true x.both = some o →
         let s0 := s.leaveRound pt 2 0 x.num
         let sp := o.fits.filter fun f => decide (s.rungAt pt f.1 x.num < f.2)
         (∀ f, (sp.find? fun f => decide (4 ≤ f.2)) = some f → exec (.settleRoundComplete pt) s = .next (s0.overflowFail pt b x.num f.1)) ∧
         ((∀ f ∈ sp, f.2 < 4) → o.fail ≠ 0 → exec (.settleRoundComplete pt) s = .next (s0.failRank pt x.num o.fail)) ∧
         ((∀ f ∈ sp, f.2 < 4) → o.fail = 0 → sp ≠ [] → ∃ t, exec (.settleRoundComplete pt) s = .next t ∧
           ∀ y ∈ (t.part pt).steps, y.num = x.num → y.st = 1 ∧ y.settled = false ∧ y.both = false) ∧
         (sp = [] → o.fail = 0 → ∃ t, exec (.settleRoundComplete pt) s = .next t ∧
           (x.both = true → s.isOldest pt x.num = true → (t.part pt).commit = x.num) ∧
           (x.both = false ∨ s.isOldest pt x.num = false → ∃ y ∈ (t.part pt).steps, y.num = x.num ∧ y.settled = true ∧ y.xs = o.xs ∧
             y.st = if x.both then 4 else 3)))) ∧
  (∀ (s : State) (pt : Pt) (b : List Byte) (x : StepSt), (s.part pt).bed = some b →
     (((s.part pt).steps.find? fun x => x.st == 3 && s.updatesDone pt b x) = some x →
       ∃ t, exec (.commitRoundStart pt) s = .next t ∧ (t.stepSt pt x.num).map (·.st) = some 4 ∧ SameMemory s t ∧ t.nv = s.nv) ∧
     (s.oldest pt = some x → x.st = 4 →
       (x.both = true → ∃ t, exec (.stepCommit pt) s = .next t ∧ (t.part pt).commit = x.num) ∧
       (x.both = false → s.roundOut pt b x 3 false true = none → exec (.stepCommit pt) s = .next s) ∧
       ∀ o, x.both = false → s.roundOut pt b x 3 false true = some o →
         let s0 := s.leaveRound pt 3 0 x.num
         let sp := o.fits.filter fun f => decide (s.rungAt pt f.1 x.num < f.2)
         (∀ f, (sp.find? fun f => decide (4 ≤ f.2)) = some f → exec (.stepCommit pt) s = .next (s0.overflowFail pt b x.num f.1)) ∧
         ((∀ f ∈ sp, f.2 < 4) → o.fail ≠ 0 → exec (.stepCommit pt) s = .next (s0.failRank pt x.num o.fail)) ∧
         ((∀ f ∈ sp, f.2 < 4) → o.fail = 0 → sp ≠ [] → ∃ t, exec (.stepCommit pt) s = .next t ∧ ∀ y ∈ (t.part pt).steps, y.num = x.num → y.st = 3) ∧
         (sp = [] → o.fail = 0 → ∃ t, exec (.stepCommit pt) s = .next t ∧ (t.part pt).commit = x.num)))

/-- A tensor above its base rung returns once the hold of its last spill or move has committed: to its base rung, or down by one rung, which holds
again while it stands above the base (R102). Once nothing of an undone step drains on the arrays, the partition stands at the boundary before its failed step,
and every group it abandoned goes back to FORMED, or forms anew when it lost a member (R202, R258). A replay of an undone step then starts while the limit
FAULT_CTL allows: the step stands as admitted, marked as a replay, the partition's replays count one more and it recovers no longer; beyond the limit the
step ends and is no longer in flight (R351, R352). -/
def Obligations.RungsAndReplays : Prop :=
  (∀ (s : State) (pt : Pt) (tensor at0 : Nat) (b : List Byte) (j : TensorJob), (s.part pt).bed = some b →
     (s.part pt).job tensor = some j → j.since = some at0 → (bedTensor b tensor).ret ≠ 0 → (bedTensor b tensor).format < j.rung →
     at0 + (bedTensor b tensor).hold ≤ (s.part pt).commit →
     ∃ t j', exec (.rungReturn pt tensor) s = .next t ∧ (t.part pt).job tensor = some j' ∧
       j'.rung = (if (bedTensor b tensor).ret = 1 then (bedTensor b tensor).format else j.rung - 1) ∧
       j'.since = (if j'.rung = (bedTensor b tensor).format then none else some (at0 + (bedTensor b tensor).hold)) ∧ j'.xs = j.xs ∧
       { t with comp := { t.comp with parts := s.comp.parts } } = s ∧ (t.part pt).steps = (s.part pt).steps ∧
       (∀ q : Pt, q ≠ pt → t.part q = s.part q)) ∧
  (∀ (s : State) (pt : Pt), s.draining pt = false →
     ((s.part pt).steps.any fun x => x.st == 5 && !x.undone) = true ∨ (∃ i < 256, (s.group i).st = 3 ∧ (s.group i).pt = pt.val) →
     ∃ t, exec (.undoComplete pt) s = .next t ∧ (∀ y ∈ (t.part pt).steps, y.st = 5 → y.undone = true) ∧
       ∀ i < 256, (s.group i).st = 3 → (s.group i).pt = pt.val → (t.group i).st = if (s.group i).lost then 1 else 2) ∧
  (∀ (s : State) (pt : Pt) (x : StepSt), s.Canonical → ((s.part pt).steps.find? fun x => x.st == 5 && x.undone) = some x →
     (x.replays ≤ field (s.reg Reg.faultCtl) 3 0 → ∃ t, exec (.replayStart pt) s = .next t ∧
       (t.stepSt pt x.num).map (fun y => (y.st, y.replay)) = some (0, true) ∧
       t.reg (Reg.dieReplaycnt 0 pt) = min (s.reg (Reg.dieReplaycnt 0 pt) + 1) 0xFFFFFFFF ∧
       SameRegsBut [Reg.dieReplaycnt 0 pt] s t ∧ t.fault.recov = s.fault.recov.filter (· != pt.val) ∧
       { t with comp := s.comp, regs := s.regs, fault := s.fault } = s) ∧
     (field (s.reg Reg.faultCtl) 3 0 < x.replays → ∃ t, exec (.replayStart pt) s = .next t ∧ t.stepSt pt x.num = none))

/-! ### The Sluice, the Parterre loader and the Weir (R129 to R181, R233 to R253) -/

/-- The static collision test takes the dimensions of the destination with an extent above 1 in ascending order of |STRIDE| and passes when each one's
|STRIDE| exceeds the sum of |STRIDE| × (EXTENT − 1) over those before it, whichever order equal strides take (R145). -/
def Obligations.StaticCollisionTest : Prop :=
  ∀ (l : Layout) (ds : List (Nat × Nat)),
    ds.Perm (((l.stride.map Int.natAbs).zip l.extent).filter fun d => decide (1 < d.2)) →
    ds.Pairwise (fun a c => a.1 ≤ c.1) →
    (staticOk l = true ↔ ∀ i (h : i < ds.length), ((ds.take i).map fun d => d.1 * (d.2 - 1)).sum < ds[i].1)

/-- An idle Sluice engine takes, of the admitted operations that are ready for it, one with the earliest planned start (R140, R149, R239). A COPY, a SEED, a
SNAPSHOT, and a GATHER or SCATTER with a good list of at least one entry, starts: the engine runs it, it is marked started, and no other engine changes. A list
whose header fails ends its operation with the status of the failure, and an empty list with success (R141); the engine stays idle. When an engine's
operation has moved its data the engine is idle again, and its descriptor, when it does not wait for its remote condition and is no SNAPSHOT, which
ends once its bytes are accepted, has left the Weir (R140, R250, R251). -/
def Obligations.SluiceEngine : Prop :=
  ∀ (s : State) (die : Die) (eng : Engine), s.diesStopped = false →
    ((vget s.comp.engines (2 * die.val + eng.val)).run = none →
      let cand := s.comp.weir.adms.filter fun a => a.onSluice && a.engine a.bed == 2 * die.val + eng.val && s.opReady a
      cand ≠ [] →
      ∃ a ∈ cand, (∀ y ∈ cand, a.startQ ≤ y.startQ) ∧
        let listed := dOp a.desc = 4 ∨ dOp a.desc = 5
        let status := s.listStatus a.pt (dAddr a.desc 0x20) (layoutOf (if dOp a.desc = 4 then a.src else a.dst)).rank a.count (a.rank % 16)
        ((listed → status = 0 ∧ a.count ≠ 0) → ∃ t, exec (.sluiceStart die eng) s = .next t ∧
          (vget t.comp.engines (2 * die.val + eng.val)).run = some ⟨a.pt, a.admno⟩ ∧
          (∀ j : Fin 8, j.val ≠ 2 * die.val + eng.val → vget t.comp.engines j = vget s.comp.engines j) ∧
          (t.adm a.pt a.admno).map (·.started) = some true ∧
          { t with comp := s.comp } = s ∧ t.comp.parts = s.comp.parts ∧ t.comp.fab = s.comp.fab) ∧
        (listed → status ≠ 0 → ∃ s1 : State, exec (.sluiceStart die eng) s = .next (s1.complete a.pt a.admno status) ∧ SameMemory s s1 ∧
          s1.comp.engines = s.comp.engines) ∧
        (listed → status = 0 → a.count = 0 → exec (.sluiceStart die eng) s = .next (s.complete a.pt a.admno 0))) ∧
    (∀ r a, (vget s.comp.engines (2 * die.val + eng.val)).run = some r → s.adm r.pt r.admno = some a →
      ∃ t, exec (.sluiceComplete die eng none) s = .next t ∧ (vget t.comp.engines (2 * die.val + eng.val)).run = none ∧ t.nv = s.nv ∧
        (dOp a.desc ≠ 7 → dRemote a.desc = false → t.adm r.pt r.admno = none))

/-- LOAD starts validation of the staged image, CLEAR empties the staging window, CANCEL drops the pending BED of its partition and leaves everything else;
with another key they change nothing and record BAD_KEY, and LOAD and CLEAR while the loader works record NOT_READY (R176, R180). Under presence PERSIST
submits the plan in effect to the journal as class 0x30 and clears DEFSTAT.NO_PLAN, or sets it where no plan is in effect; ERASE_DEFAULT submits an empty
default; without presence neither changes the journal (R175, R401). -/
def Obligations.LoaderCommands : Prop :=
  (∀ (s : State) (pt : Pt) (key : Byte), s.hostUp = true → s.boot.ready = true →
     (s.comp.loader.st = 0 →
       (∃ t, exec (.load 0xC3#8) s = .next t ∧ t.comp.loader.st = 1 ∧ t.comp.loader.since = s.time ∧
         t.comp.loader.stage = s.comp.loader.stage ∧ { t with comp := s.comp } = s ∧ t.comp.parts = s.comp.parts) ∧
       (∃ t, exec (.clear 0xC3#8) s = .next t ∧ t.comp.loader.stage = [] ∧ { t with comp := s.comp } = s ∧
         t.comp.parts = s.comp.parts)) ∧
     (∃ t, exec (.cancel 0xC3#8 pt) s = .next t ∧ (t.part pt).pendBed = none ∧ (t.part pt).bed = (s.part pt).bed ∧
       (t.part pt).steps = (s.part pt).steps ∧ (∀ q : Pt, q ≠ pt → t.part q = s.part q) ∧
       { t with comp := { t.comp with parts := s.comp.parts } } = s) ∧
     (s.comp.loader.st ≠ 0 →
       exec (.load 0xC3#8) s = .next (s.accErr Reg.parterreCtl .notReady) ∧
       exec (.clear 0xC3#8) s = .next (s.accErr Reg.parterreCtl .notReady)) ∧
     (key ≠ 0xC3#8 →
       exec (.load key) s = .next (s.accErr Reg.parterreCtl .badKey) ∧
       exec (.clear key) s = .next (s.accErr Reg.parterreCtl .badKey) ∧
       exec (.cancel key pt) s = .next (s.accErr Reg.parterreCtl .badKey))) ∧
  (∀ (s : State), s.Canonical → s.hostUp = true → s.boot.ready = true →
     (s.pres = true → ∀ im, s.plan = some im →
       ∃ s1 : State, exec .persist s = .next (s1.jsubmit 0x30 im) ∧ s1.cis = s.cis ∧ s1.nv = s.nv ∧ bit (s1.reg Reg.parterreDefstat) 2 = false) ∧
     (s.pres = true → s.plan = none →
       ∃ t, exec .persist s = .next t ∧ bit (t.reg Reg.parterreDefstat) 2 = true ∧ t.nv = s.nv ∧ t.cis = s.cis) ∧
     (s.pres = true → ∃ s1 : State, exec .eraseDefault s = .next (s1.jsubmit 0x30 []) ∧ s1.cis = s.cis ∧ s1.nv = s.nv) ∧
     (s.pres = false →
       exec .persist s = .next (s.noPres Reg.parterrePersist Reg.parterrePersist 0) ∧
       exec .eraseDefault s = .next (s.noPres Reg.parterrePersist Reg.parterrePersist 0)))

/-- A load that has been started ends entirely or not at all (R169); while none has, its end changes nothing. A refused image, whether a check of the first
five phases or the state of the device refuses it, or a reset of its partition that fell within the load, leaves the plan, every partition, the Weir,
Cascade, memory, the arrays and what outlives power as they were, and RESULT, ERRSEC and ERRREC say where it failed (R170, R172, R176, R180); an accepted BED for a
partition with none takes effect, one for a partition with a BED is pending; an accepted PLAN is the plan in effect (R172 to R174). A pending BED
takes effect once the partition, not in reset, has no uncommitted step: it is the BED in effect with no BED pending, no step in flight and an empty job state,
and the committed step stays (R104, R173). That PARTERRE_LEN counts as it stands when the load ends is the model's choice (log entry 18). -/
def Obligations.LoadEnds : Prop :=
  (∀ (s : State), s.Canonical → s.comp.loader.st ≠ 0 →
     let im := s.staged
     let pt := field (u8 im 0x0C) 3 0
     let hit := u8 im 4 == 2 && s.comp.loader.hit.getLsbD pt && (s.headerCode im (s.reg Reg.parterreLen) false).isNone
     let refused := fun (c sec rec_ : Nat) => ∃ t, exec .loadFinish s = .next t ∧ t.comp.loader.st = 0 ∧ t.comp.parts = s.comp.parts ∧
       t.comp.loader.plan = s.comp.loader.plan ∧ t.comp.casc = s.comp.casc ∧ t.comp.weir = s.comp.weir ∧
       t.reg Reg.parterreResult = 3 + 2 ^ 16 * c ∧ t.reg Reg.parterreErrsec = sec ∧ t.reg Reg.parterreErrrec = rec_ ∧
       SameMemory s t ∧ t.nv = s.nv ∧ t.arrays = s.arrays
     (hit = true → refused 0x21 0xFF none32) ∧
     (hit = false →
       (∀ a c sec rec_, s.validate im (s.reg Reg.parterreLen) false = some (a, c, sec, rec_) → c < 2 ^ 16 → sec < 2 ^ 32 → rec_ < 2 ^ 32 →
         refused c sec rec_) ∧
       (s.validate im (s.reg Reg.parterreLen) false = none →
         (∀ c, s.phase6 im = some c → refused c 0xFF none32) ∧
         (s.phase6 im = none →
           ∃ t, exec .loadFinish s = .next t ∧ t.comp.loader.st = 0 ∧
             (u8 im 4 = 1 → t.comp.loader.plan = some im ∧ t.reg Reg.parterreResult = 1) ∧
             (u8 im 4 ≠ 1 → (s.part pt).bed = none → (t.part pt).bed = some im ∧ t.reg Reg.parterreResult = 1) ∧
             (u8 im 4 ≠ 1 → (s.part pt).bed ≠ none → (t.part pt).bed = (s.part pt).bed ∧ (t.part pt).pendBed = some im ∧
               t.reg Reg.parterreResult = 5))))) ∧
  (∀ s : State, s.comp.loader.st = 0 → exec .loadFinish s = .next s) ∧
  (∀ (s : State) (pt : Pt) (im : List Byte), (s.part pt).pendBed = some im → s.resetting pt = false →
     ((s.part pt).steps.all fun x => x.st == 0) = true →
     ∃ t, exec (.bedTakeEffect pt) s = .next t ∧ (t.part pt).bed = some im ∧ (t.part pt).pendBed = none ∧
       (t.part pt).steps = [] ∧ (t.part pt).jobs = [] ∧ (t.part pt).commit = (s.part pt).commit ∧ SameMemory s t ∧ t.nv = s.nv)

/-- A descriptor that the checks of its opcode and the calendar grant is admitted: it takes the partition's next admission number, and all but a
FENCE and a SCALAR_SET, which may complete at once, stand admitted with the promise of the calendar; a STEP is in flight as the partition's last
step (R236, R237, R239, R244). -/
def Obligations.DescriptorsAdmitted : Prop :=
  ∀ (s : State) (pt : Pt) (sq : QueueIx) (d : List Byte) (a : Adm) (promise : Nat),
    (WeirGrants s pt sq 1 d (fun s => s.stepVerdict pt sq d) a promise →
      ∃ t, exec (.step pt sq) s = .next t ∧ Admitted s t pt d promise true ∧ (t.part pt).lastStep = some (dStep d) ∧
        ∃ x ∈ (t.part pt).steps, x.num = dStep d ∧ x.st = 0) ∧
    (WeirGrants s pt sq 2 d (fun s => s.seedVerdict pt sq d) a promise →
      ∃ t, exec (.seed pt sq) s = .next t ∧ Admitted s t pt d promise true) ∧
    (WeirGrants s pt sq 3 d (fun s => s.moveVerdict pt sq d) a promise →
      ∃ t, exec (.copy pt sq) s = .next t ∧ Admitted s t pt d promise true) ∧
    (WeirGrants s pt sq 4 d (fun s => s.moveVerdict pt sq d) a promise →
      ∃ t, exec (.gather pt sq) s = .next t ∧ Admitted s t pt d promise true) ∧
    (WeirGrants s pt sq 5 d (fun s => s.moveVerdict pt sq d) a promise →
      ∃ t, exec (.scatter pt sq) s = .next t ∧ Admitted s t pt d promise true) ∧
    (∀ host, WeirGrants s pt sq 6 d (fun s => s.scalarVerdict pt sq d) a promise →
      ∃ t, exec (.scalarSet pt sq host) s = .next t ∧ Admitted s t pt d promise false) ∧
    (WeirGrants s pt sq 7 d (fun s => s.snapVerdict pt sq d) a promise →
      ∃ t, exec (.snapshot pt sq) s = .next t ∧ Admitted s t pt d promise true) ∧
    (WeirGrants s pt sq 8 d (fun s => s.dmaVerdict pt sq d) a promise →
      ∃ t, exec (.dmaIn pt sq) s = .next t ∧ Admitted s t pt d promise true) ∧
    (WeirGrants s pt sq 9 d (fun s => s.dmaVerdict pt sq d) a promise →
      ∃ t, exec (.dmaOut pt sq) s = .next t ∧ Admitted s t pt d promise true) ∧
    (WeirGrants s pt sq 0x0A d (fun s => s.fenceVerdict pt sq d) a promise →
      ∃ t, exec (.fence pt sq) s = .next t ∧ Admitted s t pt d promise false)

/-- A descriptor that a check refuses leaves its queue, when no other head waits, with nothing but its refusal: the registers that count it, its entry
of REFUSED with the code, and the fetches that follow; it takes no admission number (R237, R245). A descriptor whose queue does not have the turn, or
whose opcode is not the command's, is not decided (R236). -/
def Obligations.DescriptorsRefused : Prop :=
  (∀ (s : State) (pt : Pt) (sq : QueueIx) (d : List Byte) (c : Nat) (host : List Byte), s.turn = some (pt.val, sq.val) →
    s.comp.weir.heads = [(pt.val, sq.val, d)] →
    let t := (s.takeHead pt sq).refuse pt sq d c 0
    (dOp d = 1 → (s.takeHead pt sq).stepVerdict pt sq d = .refuse c → exec (.step pt sq) s = .next t) ∧
    (dOp d = 2 → (s.takeHead pt sq).seedVerdict pt sq d = .refuse c → exec (.seed pt sq) s = .next t) ∧
    (dOp d = 3 → (s.takeHead pt sq).moveVerdict pt sq d = .refuse c → exec (.copy pt sq) s = .next t) ∧
    (dOp d = 4 → (s.takeHead pt sq).moveVerdict pt sq d = .refuse c → exec (.gather pt sq) s = .next t) ∧
    (dOp d = 5 → (s.takeHead pt sq).moveVerdict pt sq d = .refuse c → exec (.scatter pt sq) s = .next t) ∧
    (dOp d = 6 → (s.takeHead pt sq).scalarVerdict pt sq d = .refuse c → exec (.scalarSet pt sq host) s = .next t) ∧
    (dOp d = 7 → (s.takeHead pt sq).snapVerdict pt sq d = .refuse c → exec (.snapshot pt sq) s = .next t) ∧
    (dOp d = 8 → (s.takeHead pt sq).dmaVerdict pt sq d = .refuse c → exec (.dmaIn pt sq) s = .next t) ∧
    (dOp d = 9 → (s.takeHead pt sq).dmaVerdict pt sq d = .refuse c → exec (.dmaOut pt sq) s = .next t) ∧
    (dOp d = 0x0A → (s.takeHead pt sq).fenceVerdict pt sq d = .refuse c → exec (.fence pt sq) s = .next t) ∧
    (dOp d ≠ 1 → exec (.step pt sq) s = .next s) ∧
    (dOp d ≠ 2 → exec (.seed pt sq) s = .next s) ∧
    (dOp d ≠ 3 → exec (.copy pt sq) s = .next s) ∧
    (dOp d ≠ 4 → exec (.gather pt sq) s = .next s) ∧
    (dOp d ≠ 5 → exec (.scatter pt sq) s = .next s) ∧
    (dOp d ≠ 6 → exec (.scalarSet pt sq host) s = .next s) ∧
    (dOp d ≠ 7 → exec (.snapshot pt sq) s = .next s) ∧
    (dOp d ≠ 8 → exec (.dmaIn pt sq) s = .next s) ∧
    (dOp d ≠ 9 → exec (.dmaOut pt sq) s = .next s) ∧
    (dOp d ≠ 0x0A → exec (.fence pt sq) s = .next s) ∧
    (t.comp.weir.heads = [] ∧ t.comp.weir.nextAdm = s.comp.weir.nextAdm ∧ t.comp.weir.adms = s.comp.weir.adms ∧
      t.comp.weir.resv = s.comp.weir.resv ∧ t.comp.parts = s.comp.parts ∧ SameMemory s t)) ∧
  (∀ (s : State) (pt : Pt) (sq : QueueIx) (host : List Byte), s.turn ≠ some (pt.val, sq.val) →
    exec (.step pt sq) s = .next s ∧
    exec (.seed pt sq) s = .next s ∧
    exec (.copy pt sq) s = .next s ∧
    exec (.gather pt sq) s = .next s ∧
    exec (.scatter pt sq) s = .next s ∧
    exec (.scalarSet pt sq host) s = .next s ∧
    exec (.snapshot pt sq) s = .next s ∧
    exec (.dmaIn pt sq) s = .next s ∧
    exec (.dmaOut pt sq) s = .next s ∧
    exec (.fence pt sq) s = .next s)

/-- An incomplete descriptor past its promise is overdue, keeps its promise, and changes nothing but what the Weir holds (R248). A host transfer whose fence and
overlap order allow it starts at its stage with all its bytes still to move, and so does a seed whose source the host holds (R234, R240, R326). -/
def Obligations.PromiseAndDma : Prop :=
  ∀ (s : State) (pt : Pt) (admno : Word) (a : Adm), s.adm pt admno.toNat = some a →
    (a.overdue = false → a.promise < s.time →
      ∃ t, exec (.promiseExpire pt admno) s = .next t ∧ (t.adm pt admno.toNat).map (·.overdue) = some true ∧
        (t.adm pt admno.toNat).map (·.promise) = some a.promise ∧ { t with comp := { t.comp with weir := s.comp.weir } } = s) ∧
    (s.opReady a = true → dOp a.desc = 8 ∨ dOp a.desc = 9 →
      ∃ s1 : State, exec (.hostDmaStageStart pt admno) s = .next s1.endStopped ∧
        (s1.adm pt admno.toNat).map (fun x => (x.started, x.left)) = some (true, u32 a.desc 0x18) ∧ SameMemory s s1 ∧ s1.nv = s.nv) ∧
    (s.opReady a = true → dOp a.desc = 2 → (dAddr a.desc 0x20).2 = 2 →
      ∃ s1 : State, exec (.hostDmaStageStart pt admno) s = .next s1.endStopped ∧
        (s1.adm pt admno.toNat).map (fun x => (x.started, x.left)) =
          some (true, sumN ([(seedSpans (s.seedView (s.holdScales a)) (dMb a.desc)).1, (seedSpans (s.seedView (s.holdScales a)) (dMb a.desc)).2].map
            fun r => (r.2 - r.1).toNat)) ∧ SameMemory s s1 ∧ s1.nv = s.nv)

/-! ### Cascade (R254 to R285) -/

/-- The command of a Cascade instruction runs it in every running step of its partition, in their order, and acts on no program that names another
instruction (R259). In one step it starts once its WHEN condition holds: its run is on, in the anchor phase where its sums are anchored, and goes on as far as
it can; until then it changes nothing; once it is on it goes on (R260). END has no effect of its own. -/
def Obligations.CascadeInstructions : Prop :=
  (∀ (s : State) (pt : Pt) (record mb : Nat) (b : List Byte) (first slot : Nat) (layer : Option Nat),
    exec (.cascEnd pt record) s = .next s ∧
    ((s.part pt).bed = some b → ((programs b).find? fun p => (progRecs b 64 p.1).contains record) = some (first, layer) →
     s.groupAt pt (bedCasc b record).group = some slot → ((bedCasc b record).permb = true → mb < jobMbs b) →
     let m := if (bedCasc b record).permb then mb else 0xFFFF
     let all := forEach ((s.active pt).filter fun x => decide (1 ≤ x.st ∧ x.st ≤ 4)) (fun x s =>
       s.runStep (s.cascCtx pt b x.num record m layer slot) first) s
     exec (.reduceScatter pt record mb) s = .next (if (bedCasc b record).opc = 1 then all else s) ∧
     exec (.allGather pt record mb) s = .next (if (bedCasc b record).opc = 2 then all else s) ∧
     exec (.allReduce pt record mb) s = .next (if (bedCasc b record).opc = 3 then all else s) ∧
     exec (.allToAll pt record mb) s = .next (if (bedCasc b record).opc = 4 then all else s))) ∧
  (∀ (s : State) (k : CascCtx) (first : Nat),
    ((s.crun k).on = true → s.runStep k first = s.pump k) ∧
    ((s.crun k).on = false → s.whenOk k first = false → s.runStep k first = s) ∧
    ((s.crun k).on = false → s.whenOk k first = true →
      ∃ s1 : State, s.runStep k first = s1.pump k ∧ (s1.crun k).on = true ∧ (s1.crun k).since = s.time ∧ (s1.crun k).recv = (s.crun k).recv ∧
        (s1.crun k).phase = (if k.c.opc = 2 then 3 else if (k.c.opc = 1 ∨ k.c.opc = 3) ∧ s.cascAnchored k then 1 else 0) ∧
        { s1 with comp := { s1.comp with casc := { s1.comp.casc with runs := s.comp.casc.runs } } } = s))

/-- An arriving chunk is used by the instruction it belongs to (ChunkUsed says each case): SUM, SUM_REPEAT and ANCHOR by a reduction, DATA by a gather or an
exchange (R266, R271, R272, R278, R279); a DEFICIT by a reduction, which passes it on and computes its tiles again (R271). A SCALAR list that is sound stands in
its round under its STAGE and revision, and its CONFIRM goes to the sender (R275, R279, R281); one that is not is recalled (R282). -/
def Obligations.ChunksReceived : Prop :=
  ∀ (s s0 : State) (slot rank pos pt : Nat) (c : Chunk) (rest : List (Nat × Nat × List Byte)),
    let sums := s0.ctxOf pt slot c.step c.mb c.tag (fun o => o == 1 || o == 3)
    let moves := s0.ctxOf pt slot c.step c.mb c.tag (fun o => o == 2 || o == 3 || o == 4)
    (ChunkArrives s s0 0 slot rank pos pt c rest → ChunkUsed s0 (fun hit => exec (.sum hit)) s slot rank pos pt c sums (fun _ _ s => s)) ∧
    (ChunkArrives s s0 1 slot rank pos pt c rest → ChunkUsed s0 (fun hit => exec (.sumRepeat hit)) s slot rank pos pt c sums (fun _ _ s => s)) ∧
    (ChunkArrives s s0 2 slot rank pos pt c rest → ChunkUsed s0 (fun hit => exec (.anchor hit)) s slot rank pos pt c sums (fun _ _ s => s)) ∧
    (ChunkArrives s s0 4 slot rank pos pt c rest → ChunkUsed s0 (fun hit => exec (.dataChunk hit)) s slot rank pos pt c moves (fun _ _ s => s)) ∧
    (ChunkArrives s s0 3 slot rank pos pt c rest → ChunkUsed s0 (fun hit => exec (.deficit hit)) s slot rank pos pt c sums State.takeDeficit) ∧
    (∀ bytes, s0 = { s with comp := { s.comp with casc := { s.comp.casc with inbox := rest } } } → s.comp.casc.inbox = (pos, pt, bytes) :: rest →
      isChunk 5 bytes = true → c = chunkOf bytes → s0.slotOfGid pt c.gid = some slot →
      let round := u8 c.payload 0
      let ident := u16 c.payload 2
      let key := { c.key with first := roundHead round ident }
      (round ≠ 0 → (s0.group slot).epoch ≤ c.epoch ∧ (s0.group slot).members.findIdx? (· == pos) = some rank) →
      (round = 0 → rank = ((s0.group slot).members.findIdx? (· == pos)).getD 0) → s0.oldRev pt pos key c.rev = false →
      (∀ hit, hit = true ∨ s0.chunkOk none c = false → exec (.scalar hit) s = .next (s0.chunkBad slot rank pos pt c)) ∧
      (s0.chunkOk none c = true →
        ∃ t, exec (.scalar false) s = .next t ∧ t.comp.casc.inbox = rest ∧ SameMemory s t ∧ t.comp.parts = s.comp.parts ∧
          (∀ v, t.oldRev pt pos key v = decide (v < c.rev)) ∧
          ∃ a ∈ t.comp.casc.rounds, a.slot = slot ∧ a.round = round ∧ a.ident = ident ∧ a.step = c.step ∧
            (c.stage, c.rev, (List.range (u8 c.payload 1)).map fun i => slice c.payload (8 + 32 * i) 32) ∈ a.recv))

/-- CONFIRM marks the named chunk confirmed and changes nothing else. RETRACT counts at its group, and, where nothing received is named, does nothing more.
RECALL gives a chunk that stands its next revision under the group's epoch, unconfirmed, and counts; the third recall of a chunk in an epoch, and ABANDON for a
group that has not abandoned already, abandon the step: the group's epoch advances and it waits at the boundary. SUSPECT opens a window for the port the
suspected chunk left by, or counts in the one that is open (R258, R279 to R282, R367). -/
def Obligations.ControlMessages : Prop :=
  ∀ (s s0 : State) (slot rank pos pt : Nat) (l : List Byte) (rest : List (Nat × Nat × List Byte)), s.Canonical →
    (CtlArrives s s0 1 slot rank pos pt l rest →
      ∃ t, exec .confirm s = .next t ∧ t.comp.casc.inbox = rest ∧
        { t with comp := { t.comp with casc := { t.comp.casc with sent := s.comp.casc.sent } } } = s0 ∧
        (∀ x ∈ s.comp.casc.sent, x.pt = pt → x.dst = rank → ctlNames l x.chunk = true → x.chunk.rev = u8 l 0x14 → x.gone = false →
          { x with confirmed := true } ∈ t.comp.casc.sent) ∧
        (∀ x ∈ s.comp.casc.sent, ¬ (x.pt = pt ∧ x.dst = rank ∧ ctlNames l x.chunk = true ∧ x.chunk.rev = u8 l 0x14 ∧ x.gone = false) →
          x ∈ t.comp.casc.sent)) ∧
    (CtlArrives s s0 2 slot rank pos pt l rest →
      (∃ t, exec .retract s = .next t ∧ t.comp.casc.inbox = rest ∧
        t.reg (Reg.cascadeGrpRetract slot) = min (s.reg (Reg.cascadeGrpRetract slot) + 1) 0xFFFFFFFF) ∧
      ((∀ r ∈ s.comp.casc.runs, r.pt = pt → r.slot = slot → r.step = u48 l 8 →
          ∀ x ∈ r.recv, ¬ (x.1 = rank ∧ ctlNames l x.2 = true ∧ x.2.rev = u8 l 0x14)) →
        (∀ a ∈ s.comp.casc.rounds, a.slot = slot → a.step = u48 l 8 → roundHead a.round a.ident = u48 l 0x18 →
          ∀ r ∈ a.recv, ¬ (r.1 = u8 l 0x15 ∧ r.2.1 = u8 l 0x14)) →
        ∃ t, exec .retract s = .next t ∧ SameRegsBut [Reg.cascadeGrpRetract slot] s t ∧ { t with regs := s.regs } = s0)) ∧
    (CtlArrives s s0 3 slot rank pos pt l rest → ∀ x,
      (s.comp.casc.sent.find? fun x => x.pt == pt && x.dst == rank && ctlNames l x.chunk && x.chunk.rev == u8 l 0x14) = some x →
      (x.recalls < 2 → x.gone = false → x.held = false →
        ∃ t, exec .recall s = .next t ∧ t.comp.casc.inbox = rest ∧ ∃ y ∈ t.comp.casc.sent,
          y.chunk = { x.chunk with rev := (x.chunk.rev + 1) % 256, epoch := (s.group slot).epoch } ∧ y.dst = rank ∧
          y.recalls = x.recalls + 1 ∧ y.confirmed = false) ∧
      (2 ≤ x.recalls → (s.group slot).st ≠ 3 →
        ∃ t, exec .recall s = .next t ∧ (t.group slot).st = 3 ∧ (t.group slot).epoch = ((s.group slot).epoch + 1) % 2 ^ 32)) ∧
    (CtlArrives s s0 4 slot rank pos pt l rest →
      ((s.group slot).st ≠ 3 →
        ∃ t, exec .abandon s = .next t ∧ (t.group slot).st = 3 ∧ (t.group slot).epoch = ((s.group slot).epoch + 1) % 2 ^ 32 ∧ SameMemory s t) ∧
      ((s.group slot).st = 3 → exec .abandon s = .next s0)) ∧
    (s.comp.casc.inbox = (pos, pt, l) :: rest → isCtl 5 l = true →
      let port := ((s.comp.fab.tx.find? fun f => f.pt == pt && addrPos f.dst == pos).map (·.port)).getD 0
      ∃ t, exec .suspect s = .next t ∧ t.comp.casc.inbox = rest ∧ t.reg Reg.faultNoticeIn = min (s.reg Reg.faultNoticeIn + 1) 0xFFFFFFFF ∧
        ((∀ v ∈ s.fault.suspects, v.port ≠ port) →
          t.fault.suspects = s.fault.suspects ++ [⟨port, s.time, 1, pos, u16 l 0x16⟩]) ∧
        (∀ v ∈ s.fault.suspects, v.port = port → { v with count := v.count + 1 } ∈ t.fault.suspects))

/-- At a step boundary a group that forms, of a locked position, with candidates enough, takes the candidates that its adverts show as its members and enters
its own entries into the formation round; it waits there until every list has come, and otherwise nothing happens (R255, R256). The completed round refuses the
group with the code of the first test that fails, the disagreement of numeric revisions being code 1 (R256), goes round again where the members do not see
the same candidates or one is behind, and else forms the group: its epoch is the combined maximum epoch plus 1 (R257). A group that forms for longer
than CASCADE_TIMEOUT tells its host once; a partner without progress for that long is lost: the running step is abandoned, or, with none, the group forms anew
(R258). -/
def Obligations.GroupForms : Prop :=
  (∀ (s : State) (slot : Fin 256) (b : List Byte), (s.part (s.group slot).pt).bed = some b →
     let cands := s.candidates slot
     let ready := (s.group slot).st = 1 ∧ s.posLocked = true ∧
       ((s.part (s.group slot).pt).steps.any fun x => decide (1 ≤ x.st ∧ x.st ≤ 4)) = false ∧ (bedGroup b (s.group slot).record).minMembers ≤ cands.length
     (¬ ready → exec (.groupFormation slot) s = .next s) ∧
     (ready → ∃ s1 : State, (s1.group slot).members = cands ∧ (s1.group slot).st = 1 ∧ (s1.group slot).epoch = (s.group slot).epoch ∧
       (s1.round slot 0 0 0).bind (·.own) = some (s1.formList slot b cands) ∧ SameMemory s s1 ∧ s1.comp.parts = s.comp.parts ∧
       ((s1.round slot 0 0 0).bind (fun a => a.result cands.length (s1.group slot).rank) = none → exec (.groupFormation slot) s = .next s1) ∧
       ∀ es, (s1.round slot 0 0 0).bind (fun a => a.result cands.length (s1.group slot).rank) = some es →
         let v := fun (i : Nat) => entryVal (nth es i [])
         (v 0 ≠ (cands.length : Int) ∨ s1.formCode slot es = none ∧ -v 8 ≠ v 7 →
           ∃ t, exec (.groupFormation slot) s = .next t ∧ (t.group slot).st = 1 ∧ (t.group slot).members = cands) ∧
         (∀ c, v 0 = (cands.length : Int) → s1.formCode slot es = some c → s.Canonical → c < 2 ^ 32 →
           ∃ t, exec (.groupFormation slot) s = .next t ∧ (t.group slot).st = 4 ∧ t.reg (Reg.cascadeGrpRefuse slot) = c) ∧
         (v 1 ≠ (field (s1.reg Reg.globalNumrev) 7 0 : Int) ∨ -v 2 ≠ (field (s1.reg Reg.globalNumrev) 7 0 : Int) → s1.formCode slot es = some 1) ∧
         (v 0 = (cands.length : Int) → s1.formCode slot es = none → -v 8 = v 7 →
           ∃ t, exec (.groupFormation slot) s = .next t ∧ (t.group slot).st = 2 ∧ (t.group slot).epoch = ((v 10).toNat + 1) % 2 ^ 32 ∧
             (t.group slot).members = cands ∧ (t.group slot).lost = false ∧ SameMemory s t ∧ t.nv = s.nv))) ∧
  (∀ (s : State) (slot : Fin 256) (position : Word) (rank : Nat),
     ((s.group slot).st = 1 → (s.group slot).told = false → (s.group slot).since + s.reg Reg.cascadeTimeout ≤ s.time →
       ∃ t, exec (.groupWaiting slot) s = .next t ∧ (t.group slot).told = true ∧ (t.group slot).st = 1 ∧ SameMemory s t ∧ t.nv = s.nv) ∧
     ((s.group slot).st ≠ 1 ∨ (s.group slot).told = true ∨ s.time < (s.group slot).since + s.reg Reg.cascadeTimeout →
       exec (.groupWaiting slot) s = .next s) ∧
     ((s.group slot).members.findIdx? (· == position.toNat) = some rank →
       (s.peerStuck slot rank = false → exec (.peerTimeout slot position) s = .next s) ∧
       ((s.group slot).st = 2 → position.toNat ≠ s.myPos → s.peerStuck slot rank = true →
         ∃ t, exec (.peerTimeout slot position) s = .next t ∧ SameMemory s t ∧
           ((∃ x ∈ (s.part (s.group slot).pt).steps, 1 ≤ x.st ∧ x.st ≤ 5) → (t.group slot).st = 3 ∧ (t.group slot).lost = true ∧
             (t.group slot).epoch = ((s.group slot).epoch + 1) % 2 ^ 32) ∧
           ((∀ x ∈ (s.part (s.group slot).pt).steps, ¬ (1 ≤ x.st ∧ x.st ≤ 5)) → (t.group slot).st = 1))))


/-! ### The fabric (R286 to R319) -/

/-- Training of a half that trains passes its stages in order, each within its limit (R289 to R291, Table 11-2): stage 1 ends in stage 2; stage 2 takes
the lanes that locked, but for those retired or marked bad; stage 3 takes the partner's lanes, or MISMATCH where the splits differ; stage 4 ends UP with
the width that the usable lanes allow, or DOWN with none. A stage that reaches its limit is over: stage 3 takes standard mode, any other ends DOWN, to be
tried again in one second. Before the limit a timeout does nothing, and a half that does not train is left alone. -/
def Obligations.PortTraining : Prop :=
  ∀ (s : State) (port : Port) (half : Bool) (own partner : BitVec 10) (frames psplit : Bool),
    let p := port.val
    let h := b2n half
    let x := s.half p h
    let ends := x.since + stageLimit x.stage
    let pass := exec (.trainingStage port half (.pass own partner frames psplit)) s
    let timeout := exec (.trainingStage port half .timeout) s
    let becomes := fun (o : Host.Outcome State Fault Refusal) (y : HalfSt) => ∃ t, o = .next t ∧ t.half p h = y ∧
      ∀ q < 24, ∀ k < 2, q ≠ p ∨ k ≠ h → t.half q k = s.half q k
    let down := fun (st : Nat) =>
      { x with st := st, stage := 0, fast := false, width := 0, used := 0, retryAt := some (s.time + 225000000) }
    ((s.halfIxs p).contains h = false ∨ x.st ≠ 1 → pass = .next s ∧ timeout = .next s) ∧
    ((s.halfIxs p).contains h = true → x.st = 1 →
      (s.time ≤ ends →
        (x.stage = 1 → becomes pass { x with stage := 2, since := s.time }) ∧
        (x.stage = 2 → becomes pass { x with
          stage := 3, since := s.time, own := own.toNat &&& s.testMask p h &&& (0x3FF - (s.badLanes p ||| x.bad)) }) ∧
        (x.stage = 3 →
          (frames = true → psplit = s.split p → becomes pass { x with
            stage := 4, since := s.time, std := false, partner := partner.toNat &&& s.laneMask p h }) ∧
          (frames = true → psplit ≠ s.split p → becomes pass (down 4)) ∧
          (frames = false → s.time < ends → pass = .next s)) ∧
        (x.stage = 4 →
          let use := x.own &&& if x.std then s.stdMask p h else x.partner
          let w := if x.std then (if use = s.stdMask p h then count10 use else 0) else widthOf (s.split p) (count10 use)
          becomes pass (if w = 0 then down 3 else { x with st := 2, stage := 5, fast := false, width := w, used := lowLanes use w }))) ∧
      (s.time < ends → timeout = .next s) ∧
      (ends ≤ s.time → becomes timeout (if x.stage = 3 then { x with stage := 4, since := s.time, std := true, partner := 0 } else down 3)) ∧
      (ends < s.time → pass = timeout))

/-- A lane in service that fails is marked bad, counted in FABRIC_PORT_RETRAINS, and its half retrains fast from stage 2; a lane
that is not in service is let be (R292). A FEC window adds the corrected symbols of every lane and the uncorrectable codewords to the port's counters, and
every lane above FABRIC_LANE_FAILTH fails. A half that did not train tries again from stage 1 when its retry is due (R293). RETRAIN with its key trains every
half that does not train already from stage 1 with every lane, and with another key records BAD_KEY; ENABLE 0 takes the port down with what it held, and
ENABLE 1 trains it (R292, R319). -/
def Obligations.PortService : Prop :=
  ∀ (s : State) (port : Port),
    let p := port.val
    let fresh := fun (x : HalfSt) (stage : Nat) (fast : Bool) =>
      { x with st := 1, stage := stage, fast := fast, width := 0, used := 0, retryAt := none, since := s.time }
    (∀ lane : Fin 10,
      let h := if s.split p ∧ (5 ≤ lane.val ∨ (lane.val = 4 ∧ (s.half p 1).std)) then 1 else 0
      let x := s.half p h
      let serves := (x.st == 2 && bit x.used lane) || (x.st == 1 && x.fast && !bit x.bad lane)
      (serves = false → exec (.laneFail port lane) s = .next s) ∧
      (serves = true → s.Canonical →
        ∃ t, exec (.laneFail port lane) s = .next t ∧ t.half p h = fresh { x with bad := x.bad ||| 2 ^ lane.val } 2 true ∧
          t.reg (Reg.fabricPortRetrains p) = min (s.reg (Reg.fabricPortRetrains p) + 1) 0xFFFFFFFF)) ∧
    (∀ (cor : Vector Nat 10) (unc : Nat), s.Canonical →
      ∃ s1 : State, exec (.fecWindow port cor unc) s =
          .next (forEach ((List.range 10).filter fun l => decide (s.reg Reg.fabricLaneFailth < nth cor.toList l 0)) (fun l s => s.laneFails p l 2) s1) ∧
        s1.reg64 (Reg.fabricPortFeccorrLo p) = (s.reg64 (Reg.fabricPortFeccorrLo p) + sumN cor.toList) % 2 ^ 64 ∧
        s1.reg (Reg.fabricPortFecunc p) = min (s.reg (Reg.fabricPortFecunc p) + unc) 0xFFFFFFFF ∧ { s1 with regs := s.regs } = s ∧
        SameRegsBut [Reg.fabricPortFeccorrLo p, Reg.fabricPortFeccorrLo p + 4, Reg.fabricPortFecunc p] s s1) ∧
    (∃ t, exec (.portRetry port) s = .next t ∧ ∀ h ∈ s.halfIxs p,
      t.half p h = if s.portOn p ∧ ((s.half p h).st = 3 ∨ (s.half p h).st = 4) ∧ s.due (s.half p h).retryAt
        then fresh (s.half p h) 1 false else s.half p h) ∧
    (s.hostUp = true → s.boot.ready = true →
      (∃ t, exec (.retrain port 0x3C#8) s = .next t ∧ ∀ h ∈ s.halfIxs p,
        t.half p h = if s.portOn p ∧ (s.half p h).st ≠ 1 then fresh { s.half p h with bad := 0 } 1 false else s.half p h) ∧
      (∀ key : Byte, key ≠ 0x3C#8 → exec (.retrain port key) s = .next (s.accErr (Reg.fabricPortCmd p) .badKey)) ∧
      (∀ ctl : Word, s.Canonical → bit (s.reg (Reg.fabricPortCtl p)) 0 = true → bit ctl.toNat 0 = false →
        ∃ t, exec (.portEnable port ctl) s = .next t ∧ (∀ h ∈ s.halfIxs p, t.half p h = {}) ∧ (t.port p).pausedTo = none ∧
          (t.port p).queue = [] ∧ t.reg (Reg.fabricPortCtl p) = ctl.toNat % 32) ∧
      (∀ ctl : Word, s.Canonical → s.portHeld p = false → bit (s.reg (Reg.fabricPortCtl p)) 0 = false → bit ctl.toNat 0 = true →
        ∃ t, exec (.portEnable port ctl) s = .next t ∧ (∀ h ∈ s.halfIxs p, t.half p h = fresh (s.half p h) 1 false) ∧
          t.reg (Reg.fabricPortCtl p) = ctl.toNat % 32))

/-- FABRIC_POS locks with its RACK and the first advert follows (R296); a period that has passed sends the next advert (R315). While the module takes part in
discovery an advert has a SEQ one above the last and starts a period; else none is sent (R33, R316). A sound advert of another module that is new is stored
with the time it came in place of that module's last, and is passed on by every other trained port with a hop limit one lower while it has one (R315); one
from the module's own position is counted and dropped (R304); one in an oversize frame is dropped (Table 11-1). An entry not refreshed within three periods
leaves the table. -/
def Obligations.FabricAdverts : Prop :=
  (∀ s : State,
    (s.discovers = true → (s.sendAdvert).comp.fab.advSeq = (s.comp.fab.advSeq + 1) % 2 ^ 32 ∧ (s.sendAdvert).comp.fab.advertAt = s.time ∧
      SameMemory s s.sendAdvert ∧ (s.sendAdvert).comp.parts = s.comp.parts) ∧
    (s.discovers = false → s.sendAdvert = s) ∧
    (s.posLocked = true → s.comp.fab.advertAt + s.reg Reg.fabricDiscPeriod ≤ s.time → exec .advertPeriod s = .next s.sendAdvert) ∧
    (s.posLocked = false ∨ s.time < s.comp.fab.advertAt + s.reg Reg.fabricDiscPeriod → exec .advertPeriod s = .next s)) ∧
  (∀ (s : State) (rack : BitVec 11), s.Canonical → s.hostUp = true → s.boot.ready = true → s.posLocked = false →
    ∃ s1 : State, exec (.lock rack) s = .next s1.sendAdvert ∧ s1.posLocked = true ∧
      field (s1.reg Reg.fabricPos) 26 16 = rack.toNat ∧ SameRegsBut [Reg.fabricPos] s s1 ∧ { s1 with regs := s.regs } = s) ∧
  (∀ (s : State) (port : Port) (k : Packet), s.boot.routerRest = false →
    (9216 < 98 + k.payload.length → exec (.advert port k) s = .next (s.bump (Reg.fabricPortDrop port) 1)) ∧
    (98 + k.payload.length ≤ 9216 →
      (s.isMine k.srcAddr = true → s.Canonical →
        ∃ t, exec (.advert port k) s = .next t ∧ t.comp = s.comp ∧ t.mem = s.mem ∧
          t.reg Reg.fabricSrcfilt = min (s.reg Reg.fabricSrcfilt + 1) 0xFFFFFFFF) ∧
      (s.isMine k.srcAddr = false → k.checksumOk = true → k.ver = 1 → k.typ = 3 →
        0x80 ≤ k.payload.length → u64 k.payload 0 ≠ s.nv.factory.serial →
        (∀ y, (s.comp.fab.adverts.find? fun y => y.serial == u64 k.payload 0) = some y → newer (u32 k.payload 0xC) y.seq = true) →
        ∃ s1 : State, exec (.advert port k) s = .next (if s1.discovers = false ∨ k.hopLimit ≤ 1 then s1
            else forEach (s1.portsUp.filter fun q => q != port.val) (fun q s => s.emit q (.qwt q { k with hopLimit := k.hopLimit - 1 })) s1) ∧
          (∃ y ∈ s1.comp.fab.adverts, y.serial = u64 k.payload 0 ∧ y.seq = u32 k.payload 0xC ∧ y.body = k.payload ∧ y.at_ = s.time) ∧
          (∀ y ∈ s1.comp.fab.adverts, y.serial = u64 k.payload 0 → y.body = k.payload) ∧
          (∀ y, y.serial ≠ u64 k.payload 0 → (y ∈ s1.comp.fab.adverts ↔ y ∈ s.comp.fab.adverts)) ∧ SameMemory s s1))) ∧
  (∀ (s : State) (serial : BitVec 64),
    (∀ a, (s.comp.fab.adverts.find? fun y => y.serial == serial.toNat) = some a → a.at_ + 3 * s.reg Reg.fabricDiscPeriod ≤ s.time →
      ∃ t, exec (.advertExpire serial) s = .next t ∧
        t.comp.fab.adverts = s.comp.fab.adverts.filter (fun y => y.serial != serial.toNat) ∧ SameMemory s t) ∧
    ((∀ a, (s.comp.fab.adverts.find? fun y => y.serial == serial.toNat) = some a → s.time < a.at_ + 3 * s.reg Reg.fabricDiscPeriod) →
      exec (.advertExpire serial) s = .next s))

/-- A receiver answers DATA that reaches a partition with NACK DEST_RESETTING while it resets, DATA of a flow it does not hold with NACK NO_FLOW without
OPEN and FLOW_FULL with OPEN beyond 16,384 flows, and a message without a user with NACK NO_ENDPOINT (R308, R311). On a flow it holds, or opens, the expected
packet advances the next PSN and, as a whole message, reaches its user (R307); a packet ahead within 255 waits; one further ahead is dropped; a duplicate is
answered with an ACK. The acknowledgement timer clears what is unacknowledged (R309), an idle flow is forgotten (R308), and a peer write lands in the receive
window at its offset, which must hold all of it, or is answered NO_TARGET (R313). -/
def Obligations.FlowReceive : Prop :=
  (∀ (s : State) (port : Port) (k : Packet) (pt : Nat), s.accept port k 0 = .ok pt →
    let held := s.rxFlow k.srcAddr k.flowId.toNat pt
    (s.resetting pt = true → exec (.data port k) s = .next (s.sendNack port pt k 1)) ∧
    (s.resetting pt = false →
      (held = none → k.isOpen = false → exec (.data port k) s = .next (s.sendNack port pt k 3)) ∧
      (held = none → k.isOpen = true → 16384 ≤ s.comp.fab.rx.length → exec (.data port k) s = .next (s.sendNack port pt k 5)) ∧
      (held ≠ none ∨ (k.isOpen = true ∧ s.comp.fab.rx.length < 16384) →
        (s.hasUser pt k = false → exec (.data port k) s = .next (s.sendNack port pt k 2)) ∧
        (s.hasUser pt k = true → ∀ f : RxFlow, f = held.getD { src := k.srcAddr, fid := k.flowId.toNat, pt := pt, port := port, lastAt := s.time } →
          f.expect < 2 ^ 32 →
          let d := (k.psn.toNat + 2 ^ 32 - f.expect) % 2 ^ 32
          let dup := decide (2 ^ 31 ≤ d) || f.buf.any fun x => x.psn == k.psn
          let g : RxFlow := { f with lastAt := s.time, port := port, ce := f.ce || k.ce }
          (dup = true → ∃ s1 : State, exec (.data port k) s = .next (s1.sendAck g) ∧ s1.rxFlow k.srcAddr k.flowId.toNat pt = some g ∧
            s1.comp.casc = s.comp.casc ∧ s1.comp.fab.peerIn = s.comp.fab.peerIn ∧ { s1 with comp := s.comp } = s) ∧
          (dup = false → 255 < d → ∃ s1 : State, exec (.data port k) s = .next (s1.bump (Reg.fabricPortDrop port) 1) ∧
            s1.rxFlow k.srcAddr k.flowId.toNat pt = some g ∧ s1.comp.casc = s.comp.casc ∧ s1.comp.fab.peerIn = s.comp.fab.peerIn ∧
            { s1 with comp := s.comp } = s) ∧
          (dup = false → 0 < d → d ≤ 255 → (∀ y ∈ f.buf, y.psn.toNat ≠ f.expect) →
            ∃ t, exec (.data port k) s = .next t ∧
              (t.rxFlow k.srcAddr k.flowId.toNat pt).map (fun y => (y.expect, y.buf)) = some (f.expect, f.buf ++ [k]) ∧
              t.comp.casc.inbox = s.comp.casc.inbox ∧ t.comp.fab.peerIn = s.comp.fab.peerIn ∧ SameMemory s t) ∧
          (d = 0 → f.buf = [] → k.first = true → k.last = true →
            ∃ t, exec (.data port k) s = .next t ∧
              (t.rxFlow k.srcAddr k.flowId.toNat pt).map (·.expect) = some ((f.expect + 1) % 2 ^ 32) ∧
              (k.cls = 0 → t.comp.casc.inbox = s.comp.casc.inbox ++ [(addrPos k.srcAddr, pt, k.payload)]) ∧
              (k.cls ≠ 0 → t.comp.fab.peerIn = s.comp.fab.peerIn ++ [(pt, k.srcAddr, k.flowId.toNat, k.payload)]) ∧ SameMemory s t))))) ∧
  (∀ (s : State) (src : BitVec 128) (fid : Word),
    (∀ f, (s.comp.fab.rx.find? fun y => y.src == src && y.fid == fid.toNat && s.due (y.firstAt.map (· + 450))) = some f →
      ∃ t, exec (.ackTimer src fid) s = .next t ∧
        ((s.rxFlow src fid.toNat f.pt) = some f → (t.rxFlow src fid.toNat f.pt).map (fun y => (y.unacked, y.firstAt, y.ce)) = some (0, none, false)) ∧
        SameMemory s t ∧ t.comp.parts = s.comp.parts) ∧
    (∃ t, exec (.idleFlowExpire src fid) s = .next t ∧
      (∀ y, y ∈ t.comp.fab.rx ↔ y ∈ s.comp.fab.rx ∧ ¬ (y.src = src ∧ y.fid = fid.toNat ∧
        y.lastAt + 64 * s.reg Reg.fabricQwtRto * s.reg Reg.fabricQwtRetry ≤ s.time)) ∧
      { t with comp := { t.comp with fab := { t.comp.fab with rx := s.comp.fab.rx } } } = s)) ∧
  (∀ (s s1 : State) (pt : Nat) (src : BitVec 128) (fid : Nat) (m : List Byte) rest, s.comp.fab.peerIn = (pt, src, fid, m) :: rest →
    s1 = { s with comp := { s.comp with fab := { s.comp.fab with peerIn := rest } } } →
    let base : Nat := s.reg64 (Reg.fabricPtRxwinBaseLo pt) % 2 ^ 48
    let len : Nat := s.reg64 (Reg.fabricPtRxwinLenLo pt) % 2 ^ 48
    let fits := s.inSpace pt 1 base len = true ∧ len ≠ 0 ∧ 8 ≤ m.length ∧ u48 m 0 + (m.length - 8) ≤ len
    (fits → exec .peerwrite s = .next (s1.writeSpace pt 1 (base + u48 m 0) (m.drop 8))) ∧
    (¬ fits → exec .peerwrite s = .next (s1.originate pt { s1.qwt pt src fid 2 with
      word4 := wd (((s.rxFlow src fid pt).map (·.expect)).getD 0), nackCode := 4 })))

/-- An ACK that names a sending flow releases the messages it covers wholly, and progress resets the timeout (R309); with ECE, at most once in 2,250
cycles, it halves the pacing rate, not below 1/64 of the port's rate (R310). NACK NO_FLOW renumbers the unacknowledged packets from 0, the first with
OPEN; another code ends the flow: a snapshot's with PEER_REFUSED, a Cascade partner as lost (R258, R311, R313). A timeout sends the oldest packet that is not
acknowledged again and doubles the next, up to 64 times FABRIC_QWT_RTO; at FABRIC_QWT_RETRY timeouts in a row the flow ends so too; before its time, and with
nothing unacknowledged, it does nothing. The pacing rate rises by 1/16 of the port's rate every 4,500 cycles, up to that rate. -/
def Obligations.FlowSender : Prop :=
  ∀ (s : State) (port : Port) (k : Packet) (f : TxFlow) (fid : Word),
    let ended := s.closeFlows fun x => x.fid == f.fid
    (s.ackFlow port k 1 = .ok f → s.txFlow f.fid = some f →
      let before := fun (x y : Nat) => let d := (y + 2 ^ 32 - x % 2 ^ 32) % 2 ^ 32; decide (0 < d ∧ d < 2 ^ 31)
      let acked := if before f.acked k.word4.toNat then k.word4.toNat else f.acked
      let cap := 1000 * s.portRate f.port
      ∃ s1 g, exec (.ack port k) s = .next ((State.flowIdle s1 g).settleRemote f.pt) ∧ s1.txFlow f.fid = some g ∧ g.acked = acked ∧
        (∀ y ∈ f.unacked, (∀ z ∈ f.unacked, z.word4 = y.word4 → before z.psn.toNat acked = true) → y ∉ g.unacked) ∧
        (∀ y ∈ f.unacked, before y.psn.toNat acked = false → y ∈ g.unacked) ∧
        (before f.acked k.word4.toNat = true → g.since = s.time ∧ g.backoff = 1 ∧ g.expiries = 0) ∧
        (before f.acked k.word4.toNat = false → g.since = f.since ∧ g.backoff = f.backoff ∧ g.expiries = f.expiries) ∧
        (k.ece = false ∨ (∃ u, f.halvedAt = some u ∧ s.time < u + 2250) → g.rate = f.rate) ∧
        (k.ece = true → (∀ u, f.halvedAt = some u → u + 2250 ≤ s.time) →
          g.rate = max (f.rate / 2) (cap / 64) ∧ g.halvedAt = some s.time) ∧ SameMemory s s1) ∧
    (s.ackFlow port k 2 = .ok f → s.txFlow f.fid = some f →
      (k.nackCode = 3 → ∃ t g, exec (.nack port k) s = .next t ∧ t.txFlow f.fid = some g ∧ g.acked = 0 ∧ g.next = f.unacked.length ∧
        g.unacked.map (fun y => (y.psn, y.isOpen, y.retx)) =
          (List.range f.unacked.length).map (fun i => (wd i, i == 0, true)) ∧
        g.unacked.map (·.payload) = f.unacked.map (·.payload) ∧ SameMemory s t) ∧
      (k.nackCode ≠ 3 → f.user ≠ 0 → exec (.nack port k) s = .next (ended.complete f.pt f.key 0x0D)) ∧
      (k.nackCode ≠ 3 → f.user = 0 →
        exec (.nack port k) s = .next (ended.memberLost f.key (addrPos f.dst) (if k.nackCode = 1 then 2 else 4)))) ∧
    (s.txFlow fid.toNat = some f →
      let pend := f.unacked.filter fun y => decide ((y.psn.toNat + 2 ^ 32 - f.acked) % 2 ^ 32 < 2 ^ 31)
      (pend = [] ∨ s.time < f.since + s.reg Reg.fabricQwtRto * f.backoff → exec (.rtoExpire fid) s = .next s) ∧
      (∀ x rest, pend = x :: rest → f.since + s.reg Reg.fabricQwtRto * f.backoff ≤ s.time →
        (f.expiries + 1 < s.reg Reg.fabricQwtRetry → ∃ s1 : State, exec (.rtoExpire fid) s = .next (s1.originate f.pt { x with retx := true }) ∧
          s1.txFlow fid.toNat = some { f with expiries := f.expiries + 1, backoff := min 64 (2 * f.backoff), since := s.time } ∧
          { s1 with comp := { s1.comp with fab := { s1.comp.fab with tx := s.comp.fab.tx } } } = s) ∧
        (s.reg Reg.fabricQwtRetry ≤ f.expiries + 1 →
          exec (.rtoExpire fid) s = .next (if f.user = 0 then ended.memberLost f.key (addrPos f.dst) 4 else ended.complete f.pt f.key 0x0D)))) ∧
    (s.txFlow fid.toNat = some f → f.raisedAt + 4500 ≤ s.time → ∃ t, exec (.pacingRaise fid) s = .next t ∧
      t.txFlow fid.toNat = some { f with
        rate := min (1000 * s.portRate f.port) (f.rate + 1000 * s.portRate f.port / 16), raisedAt := s.time } ∧
      { t with comp := { t.comp with fab := { t.comp.fab with tx := s.comp.fab.tx } } } = s) ∧
    (s.txFlow fid.toNat = some f → s.time < f.raisedAt + 4500 → exec (.pacingRaise fid) s = .next s)

/-- A frame goes at once from a port whose egress is free (EgressFree), waits at the end of the queue of a paused one, marked CE where it can be and the
queue is beyond FABRIC_ECNTH, and is dropped and counted where the buffers are full; serving a port sends frames of its queue and loses none (R301, R302).
The router forwards a transit packet from the port its route picks, untagged and with the hop limit one lower, answers one whose hop limit is used up with
Time Exceeded, and drops one that carries the module's own source, a frame over 9,216 bytes and one of another EtherType (R286, R298, R299, R304). A pause of
the port's priority holds its frames until it ends or a pause of time 0 ends it, and then the port serves them (R302); a PAUSE frame without priority is
discarded (Table 11-1). A neighbour solicitation for an own address and an echo request to the management endpoint are answered; received LLDP is kept; LLDP
is sent from each half that is UP every 30 s (R298). -/
def Obligations.RouterServes : Prop :=
  (∀ (s : State) (p : Port) (m : PortMsg),
    let waits := sumN ((s.port p).queue.map PortMsg.bytes)
    let all := sumN ((List.range 24).map fun i => sumN ((s.port i).queue.map PortMsg.bytes))
    (EgressFree s p m → FrameLeft s (s.emit p m) p m) ∧
    (2 ^ 23 < waits + m.bytes ∨ 2 ^ 26 < all + m.bytes → s.emit p m = s.bump (Reg.fabricPortDrop p) 1) ∧
    ((s.port p).pausedTo ≠ none → waits + m.bytes ≤ 2 ^ 23 → all + m.bytes ≤ 2 ^ 26 →
      ((s.emit p m).port p).queue = (s.port p).queue ++ [if m.ect ∧ s.reg Reg.fabricEcnth < waits then m.mark else m] ∧
        (s.emit p m).portTx = s.portTx) ∧
    (∃ l, (s.servePort p).portTx = s.portTx ++ l ∧ (l.map (·.msg) ++ ((s.servePort p).port p).queue).Perm (s.port p).queue)) ∧
  (∀ (s : State) (port : Port) (k : IpPacket), s.boot.routerRest = false →
    (9216 < ipFrameBytes k ∨ 1 < k.vlans ∨ (k.etherType ≠ 0x86DD ∧ k.etherType ≠ 0x88CC) →
      exec (.transitForward port k) s = .next (s.bump (Reg.fabricPortDrop port) 1)) ∧
    (ipFrameBytes k ≤ 9216 → k.vlans ≤ 1 → k.etherType = 0x86DD →
      (s.isMine k.srcAddr = true → exec (.transitForward port k) s = .next (s.bump Reg.fabricSrcfilt 1)) ∧
      (s.isMine k.srcAddr = false → s.isMine k.dstAddr = false → ipMulticast k = false → s.posLocked = true →
        (∀ q, 1 < k.hopLimit → s.pickPort (bitsOf 24 (s.routeSet k.dstAddr)) k.srcAddr k.dstAddr k.flowLabel = some q →
          exec (.transitForward port k) s = .next (s.emit q (.transit q { k with vlans := 0, hopLimit := k.hopLimit - 1 }))) ∧
        (k.hopLimit ≤ 1 → s.time < (s.port port).icmp.1 + 225000000 → (s.port port).icmp.2.1 < 1000 →
          let s1 := s.modPort port fun x => { x with icmp := (x.icmp.1, x.icmp.2.1 + 1, x.icmp.2.2) }
          exec (.transitForward port k) s = .next (s1.emit port (.icmp port 3 0 (s.addr 0xF0) k.srcAddr (errorBody k))))))) ∧
  (∀ (s : State) (port : Port),
    (∀ (prio : Fin 8) (n : Nat),
      (bit (s.reg (Reg.fabricPortCtl port)) 1 = false ∨ field (s.reg (Reg.fabricPortCtl port)) 4 2 ≠ prio.val →
        exec (.pfcFrame port prio n) s = .next s) ∧
      (bit (s.reg (Reg.fabricPortCtl port)) 1 = true → field (s.reg (Reg.fabricPortCtl port)) 4 2 = prio.val →
        (n ≠ 0 → ∃ t, exec (.pfcFrame port prio n) s = .next t ∧ (t.port port).pausedTo = some (s.time + n) ∧
          (t.port port).queue = (s.port port).queue ∧ { t with comp := s.comp } = s) ∧
        (n = 0 → exec (.pfcFrame port prio n) s = .next ((s.modPort port fun x => { x with pausedTo := none }).servePort port)))) ∧
    (∀ u, (s.port port).pausedTo = some u → u ≤ s.time →
      exec (.pauseEnd port) s = .next ((s.modPort port fun x => { x with pausedTo := none }).servePort port)) ∧
    ((∀ u, (s.port port).pausedTo = some u → s.time < u) → exec (.pauseEnd port) s = .next s) ∧
    exec (.pauseFrame port) s = .next s ∧
    (∀ src target : BitVec 128, s.ownAddr target = true → s.boot.routerRest = false → src ≠ 0 →
      exec (.neighbourSolicitation port src target) s =
        .next (s.emit port (.icmp port 136 0 s.linkLocal src (s.neighbourBody port true target)))) ∧
    (∀ (src dst : BitVec 128) (body : List Byte), s.ownAddr dst = true → addrEnd dst = 0xF0 → s.boot.routerRest = false →
      62 + body.length ≤ 9216 → s.isMine src = false →
      exec (.echoRequest port src dst body) s = .next (s.emit port (.icmp port 129 0 dst src body))) ∧
    (∀ (half : Bool) (tlvs : List Byte), s.boot.routerRest = false → 18 + tlvs.length ≤ 9216 →
      ∃ t, exec (.lldpReceive port half tlvs) s = .next t ∧ (half, tlvs) ∈ (t.port port).lldp ∧ t.comp.parts = s.comp.parts) ∧
    (s.boot.routerRest = false → (s.port port).lldpAt + 6750000000 ≤ s.time →
      exec (.lldpSend port) s = .next (forEach ((s.halfIxs port).filter fun h => (s.half port h).st == 2)
        (fun h s => s.emit port (.lldp port h (s.lldpBody port h))) (s.modPort port fun x => { x with lldpAt := s.time }))))

/-! ### The host link and its queues (R320 to R340, R363) -/

/-- Writing ENABLE of a disabled ring enables it when its size and base fit one window of its owner, its pointers 0 and its phase 1, and it then runs;
otherwise it stays disabled with QFAULT 1 (R331). A doorbell within a ring that is enabled sets the tail or the head and the ring goes on, one out of
range sets DBERR and changes nothing else (R332, R334, R335, R363). When MOD_TIME has passed since the first unsignalled entry, its interrupt is
signalled (R336). A window with a length of 1 byte to 4 TiB is granted by VALID; a wrong length leaves it as it was and marks it BAD (R328). VALID 0
revokes it: its control word is stored without VALID, and State.revoke then ends the rings and messages that used it (R330). -/
def Obligations.RingsAndWindows : Prop :=
  (∀ (s : State), s.hostUp = true →
     (∀ (ring : RingId) (ctl : Word) (s0 : State), s.Canonical → s.accessCause (ringCtl ring) false = none → s.ringOn ring = false →
       bit ctl.toNat 0 = true →
       s0 = s.put (ringCtl ring) (setField (ctl.toNat &&& ((regRow (ringCtl ring)).map (·.mask)).getD 0) 0 0 0) →
       (s0.ringFits ring = true →
         ∃ s1 : State, exec (.queueEnable ring ctl) s = .next (s1.ringPump ring) ∧ s1.ringOn ring = true ∧
           s1.ring ring = { phase := true, dberr := (s.ring ring).dberr } ∧ SameRegsBut [ringCtl ring] s s1 ∧ SameMemory s s1 ∧
           s1.comp = s.comp) ∧
       (s0.ringFits ring = false →
         ∃ t, exec (.queueEnable ring ctl) s = .next t ∧ t.ringOn ring = false ∧ t.ring ring = { s.ring ring with fault := 1 } ∧
           SameRegsBut [ringCtl ring] s t ∧ t.comp = s.comp ∧ t.hostTx = s.hostTx)) ∧
     (∀ (pt : Pt) (n : QueueIx) (v : BitVec 16), s.accessCause (Reg.qwSqDb pt n) false = none →
       (s.ringOn (.sq pt n) = true → v.toNat < s.ringSize (.sq pt n) →
         ∃ s1 : State, exec (.qwSqDb pt n v) s = .next (s1.ringPump (.sq pt n)) ∧
           s1.ring (.sq pt n) = { s.ring (.sq pt n) with tail := v.toNat, dberr := false } ∧ { s1 with queues := s.queues } = s) ∧
       (s.ringOn (.sq pt n) = false ∨ s.ringSize (.sq pt n) ≤ v.toNat →
         ∃ t, exec (.qwSqDb pt n v) s = .next t ∧ t.ring (.sq pt n) = { s.ring (.sq pt n) with dberr := true } ∧
           { t with queues := s.queues } = s)) ∧
     (∀ (ring : RingId) (c : Instr) (v : BitVec 16),
       (∃ pt n, ring = .cq pt n ∧ c = .qwCqDb pt n v ∧ s.accessCause (Reg.qwCqDb pt n) false = none) ∨
         (∃ pt, ring = .eq pt ∧ c = .qwEqDb pt v ∧ s.accessCause (Reg.qwEqDb pt) false = none) ∨
         (ring = .meq ∧ c = .rillMeqDb v) ∨ (ring = .faultRing ∧ c = .faultRingDb v) →
       let size := s.ringSize ring
       let r := s.ring ring
       let fits := v.toNat < size ∧ (v.toNat + size - r.head) % size ≤ (r.tail + size - r.head) % size
       (s.ringOn ring = true → fits → ∃ s1 : State, exec c s = .next (s1.ringPump ring) ∧
         s1.ring ring = { r with head := v.toNat, dberr := false } ∧ s1.comp = s.comp ∧ s1.regs = s.regs ∧ s1.mem = s.mem) ∧
       (s.ringOn ring = false ∨ ¬ fits → ∃ t, exec c s = .next t ∧ t.ring ring = { r with dberr := true } ∧ t.comp = s.comp ∧
         t.regs = s.regs ∧ t.hostTx = s.hostTx)) ∧
     (∀ (ring : RingId) (u : Nat), (∀ pt n, ring ≠ .sq pt n) → (s.ring ring).firstAt = some u → s.ringOn ring = true →
       field (s.reg (ringCtl ring)) 31 24 ≠ 0 → u + 225 * field (s.reg (ringCtl ring)) 31 24 ≤ s.time → 0 < (s.ring ring).unsig →
       ∃ t, exec (.modTimeExpire ring) s = .next t ∧ (t.ring ring).unsig = 0 ∧ (t.ring ring).firstAt = none ∧
         (HostMsg.attn (field (s.reg (ringCtl ring)) 15 8) ∈ t.hostTx ∨ HostMsg.attn (field (s.reg (ringCtl ring)) 15 8) ∈ t.rill.held) ∧
         t.regs = s.regs ∧ t.comp = s.comp)) ∧
  (∀ (s : State) (w : Fin 64) (ctl : Word), s.Canonical → s.hostUp = true →
     (bit (s.reg (Reg.rillWinCtl w)) 0 = false →
       (s.winLen w ≠ 0 → s.winLen w ≤ 2 ^ 42 →
         ∃ t, exec (.windowGrant w ctl) s = .next t ∧ t.reg (Reg.rillWinCtl w) = (ctl.toNat ||| 1) &&& 0x1F07 ∧
           bit (t.reg (Reg.rillWinCtl w)) 0 = true ∧ w.val ∉ t.rill.winBad ∧ SameRegsBut [Reg.rillWinCtl w] s t ∧ t.comp = s.comp) ∧
       (s.winLen w = 0 ∨ 2 ^ 42 < s.winLen w →
         ∃ t, exec (.windowGrant w ctl) s = .next t ∧ t.regs = s.regs ∧ w.val ∈ t.rill.winBad ∧ t.comp = s.comp) ∧
       (∃ t, exec (.windowRevoke w ctl) s = .next t ∧ bit (t.reg (Reg.rillWinCtl w)) 0 = false ∧ w.val ∉ t.rill.winBad ∧
         SameRegsBut [Reg.rillWinCtl w] s t ∧ t.comp = s.comp)) ∧
     (bit (s.reg (Reg.rillWinCtl w)) 0 = true → field ctl.toNat 12 8 = field (s.reg (Reg.rillWinCtl w)) 12 8 →
       ∃ s1 : State, exec (.windowRevoke w ctl) s =
           .next (State.pumpLink (s1.revoke w (if bit (s.reg (Reg.rillWinCtl w)) 12 then none
             else some (field (s.reg (Reg.rillWinCtl w)) 11 8)))) ∧
         bit (s1.reg (Reg.rillWinCtl w)) 0 = false ∧ SameRegsBut [Reg.rillWinCtl w] s s1 ∧ s1.comp = s.comp))

/-- The stages of Rill training (R321, R322, Table 12-1), each within its limit: stages 1 and 2 pass to the next and stage 2 keeps the lanes that locked;
stage 3 keeps those that are good too and passes where they make a width; stage 4 ends with the link up at x8, or at x4 on either half. A failed stage, one
beyond its limit and too few lanes wait 0.1 s and training starts again. Without the cable the link stays in stage 1 (R482). A loss of the link, a RESET
message and RILL_CMD under its key end in a Rill reset: the link trains from stage 1 with nothing outstanding, and the compute side goes on (R337). -/
def Obligations.LinkTraining : Prop :=
  ∀ (s : State) (good key : Byte) (cable : Bool) (result : RillStageEnd),
    let limit := s.rill.since + rillLimit s.rill.stage
    let fails := fun (o : Host.Outcome State Fault Refusal) => ∃ t, o = .next t ∧ t.rill.stage = 0 ∧ t.rill.up = s.rill.up ∧
      t.rill.retryAt = some (s.time + 22500000) ∧ t.comp = s.comp ∧ SameMemory s t
    let passes := fun (st : Nat) (g : Nat) => ∃ t, exec (.rillTrainingStage true (.pass good)) s = .next t ∧
      t.rill = { s.rill with stage := st, since := s.time, good := g, cable := true } ∧ { t with rill := s.rill } = s
    (s.rill.stage = 0 → ∃ t, exec (.rillTrainingStage cable result) s = .next t ∧ t.rill = { s.rill with cable := cable } ∧ { t with rill := s.rill } = s) ∧
    (s.rill.stage ≠ 0 → ∃ t, exec (.rillTrainingStage false result) s = .next t ∧
      t.rill = { s.rill with stage := 1, since := s.time, cable := false } ∧ { t with rill := s.rill } = s) ∧
    (s.rill.stage ≠ 0 → fails (exec (.rillTrainingStage true .fail) s)) ∧
    (s.rill.stage ≠ 0 → limit < s.time → fails (exec (.rillTrainingStage true (.pass good)) s)) ∧
    (s.time ≤ limit →
      (s.rill.stage = 1 → passes 2 s.rill.good) ∧
      (s.rill.stage = 2 → passes 3 good.toNat) ∧
      (s.rill.stage = 3 →
        (laneWidth (s.rill.good &&& good.toNat) ≠ 0 → passes 4 (s.rill.good &&& good.toNat)) ∧
        (laneWidth (s.rill.good &&& good.toNat) = 0 → fails (exec (.rillTrainingStage true (.pass good)) s))) ∧
      (s.rill.stage = 4 →
        (laneWidth s.rill.good ≠ 0 → ∃ t, exec (.rillTrainingStage true (.pass good)) s = .next t ∧ t.rill.up = true ∧ t.rill.stage = 0 ∧
          t.rill.width = laneWidth s.rill.good ∧ SameMemory s t ∧ t.comp.parts = s.comp.parts) ∧
        (laneWidth s.rill.good = 0 → fails (exec (.rillTrainingStage true (.pass good)) s)))) ∧
    (∀ u, s.rill.retryAt = some u → u ≤ s.time → ∃ t, exec .rillRetry s = .next t ∧ t.rill.stage = 1 ∧ t.rill.since = s.time ∧
      t.rill.retryAt = none ∧ t.comp = s.comp) ∧
    ((∀ u, s.rill.retryAt = some u → s.time < u) → exec .rillRetry s = .next s) ∧
    (s.rill.up = true → exec .linkDown s = .next s.rillReset) ∧ (s.rill.up = false → exec .linkDown s = .next s) ∧
    (s.hostUp = true → exec .reset s = .next s.rillReset ∧ exec (.linkrst 0x5A#8) s = .next s.rillReset ∧
      (key ≠ 0x5A#8 → exec (.linkrst key) s = .next (s.accErr Reg.rillCmd .badKey))) ∧
    (∃ s1 : State, s.rillReset = s1.endStopped.trainRill ∧ s1.rill.up = false ∧ s1.rill.outst = [] ∧ s1.rill.waiting = [] ∧
      s1.rill.held = [] ∧ SameMemory s s1 ∧ s1.comp = s.comp) ∧
    (s.trainRill.rill.stage = 1 ∧ s.trainRill.comp = s.comp)

/-- A flit with a bad CRC counts and is answered by a NAK of the last one received; the next flit in order advances the sequence and brings its credit
(R324). A REG_RD is answered with the words it asks for under its TAG, or refused as a whole; a REG_WR writes its words in order or, refused, only
counts (R327). A message of an undefined type counts (R325). A MEM_CPL or MEM_ACK of an outstanding message, and its time-out, take it out of the
outstanding ones (R326). -/
def Obligations.LinkMessages : Prop :=
  ∀ (s : State) (h : MsgHeader), s.hostUp = true →
    (∀ f : Flit, f.crcOk = false →
      ∃ t, exec (.flit f) s = .next t ∧ t.hostTx = s.hostTx ++ [.nak ((s.rill.rxNext + 4095) % 4096)] ∧ t.rill.rxNext = s.rill.rxNext ∧
        t.comp = s.comp ∧ SameMemory s t) ∧
    (∀ f : Flit, f.crcOk = true → f.nak = false → f.fseq.toNat = s.rill.rxNext →
      ∃ s1 : State, exec (.flit f) s = .next (s1.pumpHeld s.rill.held.length) ∧ s1.rill.rxNext = (s.rill.rxNext + 1) % 4096 ∧
        s1.rill.creditReq = s.rill.creditReq + f.credReq.toNat ∧ s1.rill.creditCpl = s.rill.creditCpl + f.credCpl.toNat ∧
        { s1 with rill := s.rill } = s) ∧
    (h.mt = 1#4 → h.dlen = 0 → h.addr.toNat % 4 = 0 → 0 < h.count → h.count ≤ 16 → h.addr.toNat + 4 * h.count ≤ 2 ^ 26 →
      exec (.regRd h) s = .next
        ((State.readRegs h.count h.addr.toNat s).2.sendHost (.regCpl h.tag.toNat 0 (State.readRegs h.count h.addr.toNat s).1))) ∧
    (h.mt = 1#4 → h.dlen ≠ 0 ∨ h.addr.toNat % 4 ≠ 0 ∨ h.count = 0 ∨ 16 < h.count ∨ 2 ^ 26 < h.addr.toNat + 4 * h.count →
      ∃ t data, exec (.regRd h) s = .next t ∧ t.hostTx = s.hostTx ++ [.regCpl h.tag.toNat 1 data] ∧ (∀ x ∈ data, x = 0#8) ∧
        t.comp = s.comp ∧ SameMemory s t) ∧
    (∀ w : List Word, h.mt = 2#4 →
      (h.addr.toNat % 4 = 0 → 0 < h.dlen → h.dlen ≤ 64 → w.length * 4 = h.dlen → h.addr.toNat + h.dlen ≤ 2 ^ 26 →
        exec (.regWr h w) s = .next (State.writeRegs w h.addr.toNat s)) ∧
      (h.addr.toNat % 4 ≠ 0 ∨ h.dlen = 0 ∨ 64 < h.dlen ∨ h.dlen % 4 ≠ 0 ∨ 2 ^ 26 < h.addr.toNat + h.dlen →
        exec (.regWr h w) s = .next (s.bump Reg.rillAccref 1))) ∧
    (∀ (w : List Word) (d : List Byte), mtDefined h.mt.toNat = false →
      exec (.regRd h) s = .next (s.bump Reg.rillProterr 1) ∧ exec (.regWr h w) s = .next (s.bump Reg.rillProterr 1) ∧
        exec (.memCpl h d) s = .next (s.bump Reg.rillProterr 1) ∧ exec (.memAck h) s = .next (s.bump Reg.rillProterr 1)) ∧
    (∀ (o : Outstanding) (d : List Byte), h.mt = 5#4 → (s.rill.outst.find? fun x => x.tag == h.tag.toNat && x.read == true) = some o →
      ∃ s1 : State, exec (.memCpl h d) s = .next s1.pumpLink ∧
        ((h.status ≠ 0#4 → s1 = (s.takeOut o.tag true).2.transferFails o.purpose) ∧
          (∀ pt sq n, h.status = 0#4 → o.purpose = .fetch pt sq n →
            s1 = (s.takeOut o.tag true).2.takeDescriptors pt sq n (slice d 0 o.len)) ∧
          (∀ pt n off, h.status = 0#4 → o.purpose = .dmaIn pt n off →
            s1 = (s.takeOut o.tag true).2.dmaArrives pt n off (slice d 0 o.len)))) ∧
    (∀ o : Outstanding, h.mt = 7#4 → (s.rill.outst.find? fun x => x.tag == h.tag.toNat && x.read == false) = some o →
      ∃ s1 : State, exec (.memAck h) s = .next s1.pumpLink ∧
        ((∀ uid, o.purpose = .record uid → s1 = (s.takeOut o.tag false).2.ringAcked uid) ∧
          (∀ pt n, o.purpose = .dmaOut pt n → s1 = (s.takeOut o.tag false).2.dmaAccepted pt n o.len) ∧
          (o.purpose = .entry → s1 = (s.takeOut o.tag false).2))) ∧
    (∀ (tag : BitVec 16) (o : Outstanding),
      (s.rill.outst.find? fun o => o.tag == tag.toNat && decide (o.deadline ≤ s.time) && s.isSent o) = some o →
      exec (.cplTimeout tag) s = .next (State.pumpLink ((s.takeOut o.tag o.read).2.transferFails o.purpose)) ∧
        (s.takeOut o.tag o.read).2.rill.outst.length + 1 = s.rill.outst.length)

/-! ### Errors, scrub and die links (R343 to R369) -/

/-- The record handled next has the highest severity in the fault queue and, within it, the oldest detection; it takes the next SEQ (R360). A window of
corrected errors, and a window of accusations, ends with one coalesced record of its count (R362, R367). -/
def Obligations.RecordsHandled : Prop :=
  ∀ (s : State) (r : Rec),
    (s.nextRecord = some r →
      (r ∈ s.fault.queue ∧ ∀ x ∈ s.fault.queue, s.handleable x = true → x.sev < r.sev ∨ (x.sev = r.sev ∧ r.uid ≤ x.uid)) ∧
      ∃ s1 : State, exec .recordHandle s =
          .next (match r.cand with | none => s1 | some k => s1.candidacy k s.fault.seq r.candTest) ∧
        s1.fault.seq = (s.fault.seq + 1) % 2 ^ 32 ∧ (r.uid, s.fault.seq) ∈ s1.fault.named ∧ SameMemory s s1 ∧ s1.nv = s.nv) ∧
    (∀ (die block inst detail : Nat) (c : Coalesce),
      (s.fault.coalesce.find? fun c => c.first.die == die && c.first.block == block && c.first.inst == inst &&
        c.first.detail1 == detail && decide (c.start + 225000000 ≤ s.time)) = some c →
      ∃ s1 : State, exec (.correctedWindowExpire die block inst detail) s =
          .next (s1.enqueue { c.first with coalesced := true, count := min 0xFFFF c.count }) ∧
        c ∉ s1.fault.coalesce ∧ s1.fault.queue = s.fault.queue ∧ { s1 with fault := s.fault } = s) ∧
    (∀ (port : Port) (w : SuspectWin),
      (s.fault.suspects.find? fun w => w.port == port.val && decide (w.start + 2250000 ≤ s.time)) = some w →
      ∃ s1 q, exec (.suspectWindowExpire port) s = .next (State.enqueue s1 q) ∧ w ∉ s1.fault.suspects ∧ q.count = min 0xFFFF w.count ∧
        q.coalesced = true ∧ q.cls = 0x17 ∧ q.inst = 16 * port.val + 15 ∧ q.detail1 = w.accuser ∧ q.time = w.start ∧ SameMemory s s1)

/-- A patrol changes no byte: it poisons the granule of each word or sector it found uncorrectable or misaddressed, and no other (R343 to R345); one that
found neither leaves the compute side as it was. Before READY, and for a channel out of service, it does nothing. A flit error of a die link that works is corrected; the eighth failed send in a row takes
the link and its other end into retraining; retraining that succeeds leaves the link working, and one that fails takes it down with its other end
and, on a link to the hub of a READY module, resets compute (R346). -/
def Obligations.ScrubAndDieLinks : Prop :=
  (∀ (s : State) (die : Die) (pool : Fin 64) (stack : Fin 12) (ch : Fin 32) (errs : List MemError),
     let bad := errs.filterMap fun e => match e with | .corrected _ _ => none | .uncorrectable i => some i | .address i _ => some i
     (s.boot.ready = true → ∃ t, exec (.poolScrub die pool errs) s = .next t ∧ t.mem = s.mem ∧ (bad = [] → t.comp = s.comp) ∧
       ∀ g, g ∈ t.poison ↔ g ∈ s.poison ∨ ∃ i ∈ bad, g = granule (poolAddr die pool (8 * i))) ∧
     (s.boot.ready = true → bit s.hbmInService (32 * stack.val + ch.val) = true →
       ∃ t, exec (.hbmScrub stack ch errs) s = .next t ∧ t.mem = s.mem ∧ (bad = [] → t.comp = s.comp) ∧
         ∀ g, g ∈ t.poison ↔ g ∈ s.poison ∨ ∃ i ∈ bad, g = granule (hbmAddr stack ch (64 * i))) ∧
     (s.boot.ready = false → exec (.poolScrub die pool errs) s = .next s ∧ exec (.hbmScrub stack ch errs) s = .next s) ∧
     (bit s.hbmInService (32 * stack.val + ch.val) = false → exec (.hbmScrub stack ch errs) s = .next s)) ∧
  (∀ (s : State) (die : Die) (link : Fin 3) (sends : Fin 9),
     let k := 3 * die.val + link.val
     (s.boot.released = true → k ∉ s.boot.linksDown → k ∉ s.boot.linksTraining → sends ≠ 0 →
       ∃ t, exec (.dielinkFlitError die link sends) s = .next t ∧
         (sends.val = 8 → k ∈ t.boot.linksTraining ∧ otherEnd die link ∈ t.boot.linksTraining) ∧
         (sends.val < 8 → t.boot = s.boot) ∧ SameMemory s t ∧ t.comp = s.comp) ∧
     (s.boot.released = false ∨ k ∈ s.boot.linksDown ∨ k ∈ s.boot.linksTraining ∨ sends = 0 → exec (.dielinkFlitError die link sends) s = .next s) ∧
     (k ∉ s.boot.linksTraining → ∀ ok, exec (.dielinkRetrainDone die link ok) s = .next s) ∧
     (k ∈ s.boot.linksTraining →
       (∃ t, exec (.dielinkRetrainDone die link true) s = .next t ∧ k ∉ t.boot.linksTraining ∧ otherEnd die link ∉ t.boot.linksTraining ∧
         t.boot.linksDown = s.boot.linksDown ∧ { t with boot := s.boot } = s) ∧
       (link = 0 → s.boot.ready = true → ∃ s1 : State, exec (.dielinkRetrainDone die link false) s = .next s1.computeReset ∧
         k ∈ s1.boot.linksDown ∧ k ∉ s1.boot.linksTraining ∧ SameMemory s s1 ∧ s1.comp = s.comp) ∧
       ((link ≠ 0 ∨ s.boot.ready = false) → ∃ t, exec (.dielinkRetrainDone die link false) s = .next t ∧
         k ∈ t.boot.linksDown ∧ otherEnd die link ∈ t.boot.linksDown ∧ k ∉ t.boot.linksTraining ∧ SameMemory s t)))

/-! ### The Cistern (R373 to R396) -/

/-- A submitted record of an assigned type takes the next RSEQ and waits in the open page, cut into fragments (R378, R379); a type that is not assigned
is not taken. A page that verifies in both planes stands in the journal with its records; one that fails retires its pair and is programmed again
(R375). An erased pair becomes available with one erase more, and one that fails is retired. A checkpoint follows 4,096 programs (R378), and
compaction copies forward the committed records of a pair that are still needed, above 384 MiB of live data once the oldest ledgers of each tag are merged
(R386). -/
def Obligations.JournalWrites : Prop :=
  ∀ (s : State) (typ : Byte) (body : List Byte) (ok0 ok1 : Bool),
    let j := s.nv.journal
    (typeKnown typ.toNat = true → (typ = 0x10#8 → ∀ r ∈ s.cis.page, r.typ = 0x10 → recKey 0x10 r.body ≠ recKey 0x10 body) →
      s.cis.st = 1 ∨ s.cis.st = 3 →
      ∃ s1 l, exec (.journalRecordSubmit typ body) s = .next ((State.startProgram s1).noteWait typ.toNat) ∧
        s1.cis.page = s.cis.page ++ l ∧ (∀ r ∈ l, r.typ = typ.toNat ∧ r.committed = false) ∧ l.flatMap JRec.body = body ∧
        (∀ i (h : i < l.length), l[i].rseq = j.nextRseq + i ∧ l[i].frag = i) ∧ s1.nv.journal.nextRseq = j.nextRseq + l.length ∧
        { s1 with nv := s.nv, cis := s.cis } = s) ∧
    (typeKnown typ.toNat = false → exec (.journalRecordSubmit typ body) s = .next s) ∧
    (∀ p, s.cis.prog = some p →
      (p.copy = false → ok0 = true → ok1 = true → ∃ t, exec (.pageProgramDone ok0 ok1) s = .next t ∧ p.page ∈ t.nv.journal.pages ∧
        (∀ r ∈ p.recs, ∃ x ∈ t.nv.journal.recs, x.rseq = r.rseq ∧ x.typ = r.typ ∧ x.body = r.body ∧ x.page = p.page.seq) ∧ SameMemory s t) ∧
      (p.copy = true → ok0 = true → ok1 = true → ∃ t, exec (.pageProgramDone ok0 ok1) s = .next t ∧ p.page ∈ t.nv.journal.pages ∧
        t.cis.refreshing = false ∧ SameMemory s t) ∧
      (ok0 = false ∨ ok1 = false → ∃ s1 : State, exec (.pageProgramDone ok0 ok1) s = .next s1.startProgram ∧
        s1.nv.journal.pairOf p.page.pair = ⟨p.page.pair, (j.pairOf p.page.pair).erases, .bad⟩ ∧ s1.nv.journal.index = 64 ∧
        s1.cis.prog = none ∧ s1.nv.journal.recs = j.recs ∧
        (if p.copy then s1.cis.copies = p.recs ++ s.cis.copies else s1.cis.page = p.recs ++ s.cis.page))) ∧
    (∀ p, (j.pairs.find? fun x => x.use == .erasing) = some p →
      (∃ s1 : State, exec (.eraseDone true) s = .next s1.startProgram ∧
        s1.nv.journal.pairOf p.pair = ⟨p.pair, p.erases + 1, .erased⟩ ∧ (∀ g ∈ s1.nv.journal.pages, g.pair ≠ p.pair) ∧
        (∀ g ∈ j.pages, g.pair ≠ p.pair → g ∈ s1.nv.journal.pages) ∧ { s1 with nv := s.nv } = s) ∧
      (∃ t, exec (.eraseDone false) s = .next t ∧ t.nv.journal.pairOf p.pair = ⟨p.pair, p.erases, .bad⟩ ∧ t.nv.journal.recs = j.recs)) ∧
    (4096 ≤ s.cis.sinceCheckpoint → ∃ s1 b, exec .checkpoint s = .next (State.jsubmit s1 2 b) ∧
      b = (j.committed.filter fun r => stateType r.typ && r.typ != 0x30 && j.needed r).flatMap JRec.bytes ∧
      s1.cis.sinceCheckpoint = 0 ∧ { s1 with cis := s.cis } = s) ∧
    (s.cis.compacting = none → s.cis.st = 1 → (∃ g ∈ j.pages, g.pair < 2048 ∧ (j.pairOf g.pair).use = .written ∧ g.pair ≠ j.pair) →
      let j1 := if 384 * 2 ^ 20 < j.live then { j with recs := (j.ledgerTags.map (·.tag)).foldl (fun l t => mergeDay t l) j.recs } else j
      ∃ s1 p, exec .compaction s = .next ((State.startErase s1).startProgram) ∧ s1.cis.compacting = some p ∧
        (j.pairOf p).use = .written ∧ p ≠ j.pair ∧
        s1.cis.copies = s.cis.copies ++
          j1.recs.filter (fun r => r.committed && j1.needed r && j1.pages.any fun g => g.pair == p && g.seq == r.page) ∧
        s1.nv = { s.nv with journal := j1 } ∧ SameMemory s s1 ∧ s1.comp = s.comp)

/-- The write governor's reserve is refilled before its bucket, and its window of 96 bins rolls (R383, R384). The hour boundary counts one powered hour
(R391 to R393). A patrolled page that neither copy gives is lost with its records, one with a failed or worn copy, or older than a year, is copied
forward, and a sound one is left (R385). A suspect defect without a candidacy for 2,160 powered hours expires (R388), and writes resume after a pause
of the power-fail warning (R381). -/
def Obligations.JournalTime : Prop :=
  ∀ (s : State),
    let j := s.nv.journal
    (∃ s1 : State, exec .governorCredit s = .next s1.startProgram ∧
      (s.cis.reserve < 64 → s1.cis.reserve = s.cis.reserve + 1 ∧ s1.cis.bucket = s.cis.bucket) ∧
      (64 ≤ s.cis.reserve → s1.cis.reserve = s.cis.reserve ∧ s1.cis.bucket = min 32768 (s.cis.bucket + 1)) ∧
      { s1 with cis := s.cis } = s) ∧
    (∃ s1 : State, exec .governorBin s = .next ((s1.jsubmit 3 (packLE (s1.cis.bins.map fun b => (4, b)))).startProgram) ∧
      s1.cis.bins = 0 :: s.cis.bins.take 95 ∧ { s1 with cis := s.cis } = s) ∧
    (s.cis.hour < s.hourNow → ∃ t, exec .ledgerHour s = .next t ∧ t.cis.hour = s.cis.hour + 1 ∧ t.nv.phours = s.nv.phours + 1 ∧
      SameMemory s t) ∧
    (∀ (page : Nat) (c0 c1 : Option Nat) (p : JPage), (j.pages.find? fun p => p.seq == page) = some p →
      (c0 = none → c1 = none → ∃ s1 r, exec (.journalPatrol page c0 c1) s = .next (State.record s1 r) ∧
        s1.nv.journal.recs = j.recs.filter (fun r => r.page != page) ∧ r.sev = 4 ∧ r.cls = 0x42 ∧ { s1 with nv := s.nv } = s) ∧
      (∀ a : Nat, c0 = some a → a < 16 → c1.getD 0 < 16 → s.nv.phours < p.phours + 8760 →
        exec (.journalPatrol page c0 c1) s = .next s) ∧
      (c0.isSome ∨ c1.isSome → c0 = none ∨ 16 ≤ c0.getD 0 ∨ 16 ≤ c1.getD 0 ∨ p.phours + 8760 ≤ s.nv.phours →
        ∃ s1 : State, exec (.journalPatrol page c0 c1) s = .next s1.startProgram ∧ s1.nv = s.nv ∧
          s1.cis.copies = s.cis.copies ++ j.recs.filter fun r => r.page == page && r.committed && j.needed r)) ∧
    (∀ (key : BitVec 64) (d : Defect), s.defect key.toNat = some d → d.state = 1 → d.lastPhours + 2160 ≤ s.nv.phours →
      exec (.defectExpire key) s = .next (s.defectState { d with state := 3 }) ∧
        (s.defectState { d with state := 3 }).defect key.toNat = some { d with state := 3 }) ∧
    (∀ u, s.cis.pausedUntil = some u → u ≤ s.time → ∃ s1 : State, exec .pfwPauseEnd s = .next s1.startProgram ∧
      s1.cis.pausedUntil = none ∧ (s.cis.st = 3 → s.cis.flushing = false → s.diesStopped = false → s1.cis.st = 1) ∧ s1.nv = s.nv)

/-- NEXT brings the committed record with the lowest RSEQ above CISTERN_QFROM that the query matches into the read buffer and moves CISTERN_QFROM to it,
or sets END; RESTART clears the read status (R396); another key is BAD_KEY. Under presence, clearing an entry makes a suspect or confirmed defect
CLEARED, and clearing the summary makes every count 0 (R390); without presence neither happens (R401). A host stamp is taken whole when its high word
is written (R393). -/
def Obligations.JournalQueries : Prop :=
  ∀ (s : State) (key : Byte) (high : Word), s.Canonical → s.hostUp = true →
    let j := s.nv.journal
    let q := s.reg Reg.cisternQuery
    let hit := fun (r : JRec) => s.reg64 Reg.cisternQfromLo < r.rseq ∧ (field q 7 0 = 0 ∨ r.typ = field q 7 0) ∧
      (bit q 8 = true ∨ stateType r.typ = false ∨ j.needed r = true) ∧
      (bit q 9 = false ∨ recKey r.typ r.body = s.reg64 Reg.cisternQkeyLo)
    (∀ r ∈ j.committed, hit r → (∀ x ∈ j.committed, hit x → x = r ∨ r.rseq < x.rseq) → r.rseq < 2 ^ 64 →
      ∃ t, exec (.next 0x96#8) s = .next t ∧ t.cis.rdbuf = r.bytes ∧ t.cis.rdValid = true ∧ t.cis.rdEnd = false ∧
        t.reg64 Reg.cisternQfromLo = r.rseq ∧ SameRegsBut [Reg.cisternQfromLo, Reg.cisternQfromLo + 4] s t ∧
        { t with regs := s.regs, cis := s.cis } = s) ∧
    ((∀ r ∈ j.committed, ¬ hit r) → ∃ t, exec (.next 0x96#8) s = .next t ∧ t.cis.rdEnd = true ∧ t.cis.rdbuf = s.cis.rdbuf ∧
      { t with cis := s.cis } = s) ∧
    (∃ t, exec (.restart 0x96#8) s = .next t ∧ t.cis.rdValid = false ∧ t.cis.rdEnd = false ∧ { t with cis := s.cis } = s) ∧
    (key ≠ 0x96#8 → exec (.next key) s = .next (s.accErr Reg.cisternCmd .badKey) ∧
      exec (.restart key) s = .next (s.accErr Reg.cisternCmd .badKey)) ∧
    (s.pres = true → ∀ d, s.defect (s.reg64 Reg.cisternQkeyLo) = some d → d.state = 1 ∨ d.state = 2 →
      let s1 := (s.put Reg.cisternDefclr 1).defectState { d with state := 4 }
      exec .clearEntry s = .next ((s1.presence 5 (s.reg64 Reg.cisternQkeyLo)).put Reg.cisternDefres 1) ∧
        s1.defect (s.reg64 Reg.cisternQkeyLo) = some { d with state := 4 }) ∧
    (s.pres = true → (∀ d, s.defect (s.reg64 Reg.cisternQkeyLo) = some d → d.state ≠ 1 ∧ d.state ≠ 2) →
      ∃ t, exec .clearEntry s = .next t ∧ t.reg Reg.cisternDefres = 2 ∧ { t with regs := s.regs } = s) ∧
    (s.pres = true → ∃ s1 : State,
      exec .clearSummary s = .next ((s1.writeErrhist.presence 5 (s.reg64 Reg.cisternQkeyLo)).put Reg.cisternDefres 1) ∧
      s1.cis.errhist = s.cis.errhist.map (fun e => (e.1, 0)) ∧ s1.nv = s.nv) ∧
    (s.pres = false → exec .clearEntry s = .next (s.noPres Reg.cisternDefclr Reg.cisternDefclr 0) ∧
      exec .clearSummary s = .next (s.noPres Reg.cisternDefclr Reg.cisternDefclr 0)) ∧
    (∃ t, exec (.cisternStamp high) s = .next t ∧ t.cis.stampNew = true ∧
      t.cis.stamp = some (((shadowOf s.wrShadow Reg.cisternStampLo).getD (s.pairLow Reg.cisternStampLo)).toNat + 2 ^ 32 * high.toNat,
        s.time) ∧ { t with cis := s.cis, wrShadow := s.wrShadow } = s)

/-! ### Security (R397 to R413) -/

/-- A command of SEC_CMD under its key, with none running, becomes the running one with its argument and refusal code (R403): without presence it is
to end NO_PRESENCE, but for ATTEST and IDKEY_OUT, which need none, and OWNER_CLEAR, which needs the jumper (R401); FW_ACTIVATE that passes its checks
starts the activation, once the counter it raises is in the journal (R407, R427). A wrong key is BAD_KEY, a command while another runs NOT_READY, and CLOSE ends the button window (R399). -/
def Obligations.SecurityCommands : Prop :=
  ∀ (s : State) (key : Byte) (arg : Fin 16) (ptv : Bool), s.hostUp = true →
    let objs : List (Nat × Instr) := [(1, .fwInstall 0xA9#8 arg), (3, .licenceInstall 0xA9#8), (4, .ownerEnrol 0xA9#8),
      (6, .recoveryWrite 0xA9#8), (7, .fuseProgram 0xA9#8)]
    let outs : List (Nat × Instr) := [(8, .attest 0xA9#8 arg ptv), (9, .idkeyOut 0xA9#8)]
    let bad : List Instr := [.fwInstall key arg, .fwActivate key arg, .licenceInstall key, .ownerEnrol key, .ownerClear key,
      .recoveryWrite key, .fuseProgram key, .attest key arg ptv, .idkeyOut key]
    (s.sec.run = none →
      (s.pres = true → ∀ x ∈ objs, ∃ t r, exec x.2 s = .next t ∧ t.sec.run = some r ∧ r.cmd = x.1 ∧ (x.1 = 1 → r.arg = arg.val) ∧
        (r.code = 0 ∨ r.code = 0xA) ∧ t.nv = s.nv ∧ t.comp = s.comp) ∧
      (s.pres = false → ∀ x ∈ objs, ∃ t r, exec x.2 s = .next t ∧ t.sec.run = some r ∧ r.cmd = x.1 ∧ r.code = 1 ∧ t.comp = s.comp) ∧
      (∀ x ∈ outs, ∃ t r, exec x.2 s = .next t ∧ t.sec.run = some r ∧ r.cmd = x.1 ∧ (r.code = 0 ∨ r.code = 0xA) ∧ t.nv = s.nv ∧
        t.comp = s.comp) ∧
      (∃ t r, exec (.ownerClear 0xA9#8) s = .next t ∧ t.sec.run = some r ∧ r.cmd = 5 ∧
        r.code = (if s.jumper then 0 else 0x12) ∧ t.comp = s.comp) ∧
      (s.pres = true → s.activateCode arg = 0 →
        ∃ s1 r, exec (.fwActivate 0xA9#8 arg) s = .next (State.startActivation s1 arg) ∧ s1.sec.run = some r ∧ r.cmd = 2 ∧ r.code = 0 ∧
          { s1 with sec := s.sec } = s) ∧
      (s.pres = true → s.activateCode arg ≠ 0 →
        ∃ t r, exec (.fwActivate 0xA9#8 arg) s = .next t ∧ t.sec.run = some r ∧ r.code = s.activateCode arg ∧ t.act = s.act ∧
          t.nv = s.nv)) ∧
    (let raise := s.raiseRec 0 (u32 (s.slot arg).obj 0x10)
      let started := fun (t : State) => t.act.st = 1 ∧ t.act.slot = arg.val ∧ t.act.since = s.time ∧ t.nv.choice = arg.val ∧ t.sec.run = s.sec.run ∧
        t.comp = s.comp
      (raise = [] → started (s.startActivation arg) ∧ (s.startActivation arg).nv.journal = s.nv.journal) ∧
      (raise ≠ [] → ∀ t, s.commitGroup raise = some t → started (s.startActivation arg) ∧ (s.startActivation arg).nv.journal = t.nv.journal) ∧
      (raise ≠ [] → s.commitGroup raise = none → s.startActivation arg = s)) ∧
    (s.sec.run ≠ none → ∀ x ∈ objs ++ outs ++ [(5, .ownerClear 0xA9#8), (2, .fwActivate 0xA9#8 arg)],
      exec x.2 s = .next (s.accErr Reg.secCmd .notReady)) ∧
    (key ≠ 0xA9#8 → ∀ c ∈ bad ++ [.close key], exec c s = .next (s.accErr Reg.secCmd .badKey)) ∧
    (∃ t, exec (.close 0xA9#8) s = .next t ∧ t.sec.windowEnd = none ∧ { t with sec := s.sec } = s)

/-- A running command ends once its transfers have (R403): one refused ends with its code; an output ends with code 0 once all of it is written, and WINDOW
where a transfer failed; an object that did not come whole ends WINDOW and one that fails a check with that check's code, the slot of an install left
invalid; one that passes its checks has its effect (R407). Installs: firmware in its slot, the other slot unchanged, but not in the running one nor beyond;
recovery firmware in its region, with the counter it raises; a licence or an owner key in the journal with its counter; fuse bits set in the rows of the entries
and no bit of another row changed. Where the journal does not take records they end JOURNAL, and until it has credit and pages the command waits. At the end no
command runs. FW_ACTIVATE that waits for the journal starts again. -/
def Obligations.SecurityEnds : Prop :=
  ∀ (s : State) (r : SecRun) (norOk fuseOk : Bool), s.sec.run = some r →
    let run := exec (.secCmdComplete norOk fuseOk) s
    (s.secBusy = true → run = .next s) ∧
    (s.secBusy = false →
      (r.code ≠ 0 → run = .next (s.secFinish r.code)) ∧
      (r.code = 0 →
        (r.cmd = 8 ∨ r.cmd = 9 → run = .next (s.secFinish (if r.failed ∨ 0 < r.writes then 0xA else 0))) ∧
        (r.cmd = 2 → run = .next (if s.act.st = 0 then s.startActivation r.arg else s)) ∧
        (r.cmd = 5 → run = .next (s.ownerClear.getD s)) ∧
        (r.cmd ∉ [2, 5, 8, 9] →
          (s.secObject r = none → run = .next ((s.dropSlot r).secFinish 0xA)) ∧
          (∀ o, s.secObject r = some o →
            let code := s.objCode o (s.reg Reg.secLen) (cmdType r.cmd) true true
            (code ≠ 0 → run = .next ((s.dropSlot r).secFinish code)) ∧
            (code = 0 → run = .next ((s.secEffect r o norOk fuseOk).getD s)))))) ∧
    (∀ o : List Byte,
      let effect := s.secEffect r o
      let logged := fun (x : Option State) (l : List (Nat × List Byte)) (c : Nat) (f : State → State) =>
        (∀ t, s.commitGroup l = some t → x = some (((f t).raiseNote s c).secFinish 0)) ∧ (s.commitGroup l = none → x = none)
      (r.cmd = 1 →
        (r.arg = s.boot.slot → effect norOk fuseOk = some (s.secFinish 0xB)) ∧
        (2 ≤ r.arg → r.arg ≠ s.boot.slot → effect norOk fuseOk = some (s.secFinish 0xE)) ∧
        (r.arg < 2 → r.arg ≠ s.boot.slot →
          effect false fuseOk = some ((s.modSlot r.arg {}).secFinish 0xE) ∧
          ∃ s1 : State, effect true fuseOk = some (s1.secFinish 0) ∧ s1.slot r.arg = ⟨true, o⟩ ∧ s1.slot (1 - r.arg) = s.slot (1 - r.arg) ∧
            { s1 with nv := s.nv } = s ∧ s1.nv.journal = s.nv.journal)) ∧
      (r.cmd ≠ 1 → s.journalUp = false → effect norOk fuseOk = some (s.secFinish 0xF)) ∧
      (s.journalUp = true →
        (r.cmd = 3 → logged (effect norOk fuseOk) ((0x18, o) :: s.raiseRec 2 (u32 o 0x10)) 2 id) ∧
        (r.cmd = 4 → logged (effect norOk fuseOk) ((0x1A, slice o 64 2592) :: s.raiseRec 3 (u32 o 0x10)) 3 fun t => t.putDigestRegs Reg.secOwndig (sha3 (slice o 64 2592))) ∧
        (r.cmd = 6 →
          effect false fuseOk = some ((s.modSlot 2 {}).secFinish 0xE) ∧
          (s.raiseRec 1 (u32 o 0x10) = [] → effect true fuseOk = some ((s.modSlot 2 ⟨true, o⟩).secFinish 0)) ∧
          (s.raiseRec 1 (u32 o 0x10) ≠ [] → logged (effect true fuseOk) (s.raiseRec 1 (u32 o 0x10)) 1 fun t => t.modSlot 2 ⟨true, o⟩)) ∧
        (r.cmd = 7 →
          effect norOk false = some ((s.programFuses o false).secFinish 0x10) ∧
          (s.raiseRec 4 (u32 o 0x10) = [] → effect norOk true = some ((s.programFuses o true).secFinish 0)) ∧
          (s.raiseRec 4 (u32 o 0x10) ≠ [] → logged (effect norOk true) (s.raiseRec 4 (u32 o 0x10)) 4 fun t => t.programFuses o true))) ∧
      (∀ row, row ∉ (List.range (objPayload o / 8)).map (fun i => u16 o (64 + 8 * i)) → ∀ ok,
        ((s.programFuses o ok).nv.fuseRows.find? fun x => x.1 == row) = s.nv.fuseRows.find? fun x => x.1 == row) ∧
      (∀ i < objPayload o / 8, ∃ w : Word,
        ((s.programFuses o true).nv.fuseRows.find? fun x => x.1 == u16 o (64 + 8 * i)) = some (u16 o (64 + 8 * i), w) ∧
          w &&& wd (u32 o (68 + 8 * i)) = wd (u32 o (68 + 8 * i)))) ∧
    (∀ code, (s.secFinish code).sec.run = none ∧ SameMemory s (s.secFinish code) ∧ (s.secFinish code).nv = s.nv ∧ (s.secFinish code).comp = s.comp)

/-- Presence inputs (R398 to R400): a press that is seen opens or restarts the 60 s window, which ends when its time has come; the jumper and the seal
loop follow their levels; a break of the seal clears what is known of the plug and opens the window; closing the loop leaves no number recorded. A
seal number is recorded under presence, and refused without. While an input is masked its level alone is followed, and so it is in module reset. -/
def Obligations.PresenceInputs : Prop :=
  ∀ (s : State) (number : Word),
    (s.boot.released = true →
      (s.inputLevel 0 = false → s.inputMasked 0 = false → ∃ s1 : State, exec .buttonPress s = .next (s1.presence 1 0) ∧
        s1.sec.windowEnd = some (s.time + 13500000000) ∧ s1.nv = s.nv ∧ s1.comp = s.comp) ∧
      (s.inputLevel 1 = false → s.inputMasked 1 = false →
        exec .jumperFit s = .next ((s.inputChange 1 true).2.presence 2 0)) ∧
      (s.inputLevel 1 = true → s.inputMasked 1 = false →
        exec .jumperRemove s = .next ((s.inputChange 1 false).2.presence 3 0)) ∧
      (s.inputLevel 2 = false → s.inputMasked 2 = false → ∃ s1 : State, exec .sealBreak s = .next (s1.presence 4 s1.sec.sealNo) ∧
        s1.sec.sealValid = false ∧ s1.sec.windowEnd = some (s.time + 13500000000) ∧ s1.sec.sealNo = s.sec.sealNo ∧ s1.nv = s.nv) ∧
      (s.inputLevel 2 = true → ∃ t, exec .sealLoopClose s = .next t ∧ t.inputLevel 2 = false ∧ t.sec.sealValid = false ∧ t.nv = s.nv ∧ t.comp = s.comp) ∧
      (s.inputLevel 0 = false → s.inputMasked 0 = true → exec .buttonPress s = .next (s.inputChange 0 true).2) ∧
      (s.inputLevel 1 = false → s.inputMasked 1 = true → exec .jumperFit s = .next (s.inputChange 1 true).2) ∧
      (s.inputLevel 1 = true → s.inputMasked 1 = true → exec .jumperRemove s = .next (s.inputChange 1 false).2) ∧
      (s.inputLevel 2 = false → s.inputMasked 2 = true → ∃ t, exec .sealBreak s = .next t ∧ t.inputLevel 2 = true ∧
        t.sec = { s.sec with sealValid := false } ∧ t.nv = s.nv ∧ t.comp = s.comp) ∧
      (∀ i lvl, i < 13 → (s.inputChange i lvl).2.inputLevel i = lvl ∧ (s.inputChange i lvl).2.sec = s.sec ∧ (s.inputChange i lvl).2.nv = s.nv ∧
        (s.inputChange i lvl).2.comp = s.comp)) ∧
    (s.boot.released = false →
      ∀ x ∈ [((0 : Nat), true, Instr.buttonPress), (1, true, .jumperFit), (1, false, .jumperRemove), (2, true, .sealBreak), (2, false, .sealLoopClose)],
        ∃ t, exec x.2.2 s = .next t ∧ t.inputLevel x.1 = x.2.1 ∧ { t with intc := s.intc } = s) ∧
    (∀ u, s.sec.windowEnd = some u → u ≤ s.time → ∃ t, exec .buttonWindowExpire s = .next t ∧ t.sec.windowEnd = none ∧
      { t with sec := s.sec } = s) ∧
    (s.hostUp = true → s.pres = true → ∃ s1 : State, exec (.secSealno number) s = .next (s1.presence 6 number.toNat) ∧
      s1.sec.sealNo = number.toNat ∧ s1.sec.sealValid = s.sealed ∧ s1.nv = s.nv ∧ s1.comp = s.comp) ∧
    (s.hostUp = true → s.pres = false → exec (.secSealno number) s = .next (s.noPres Reg.secSealno Reg.secSealno 0))

/-! ### Bring-up, in-field tests, activation (R413 to R435) -/

/-- The phases of bring-up in order (R413 to R421): with its rails good the module leaves module reset at local time 0; the fuses load and the link
trains; the journal mounts and names the candidates; the first candidate that may boot runs on both pairs, and one that may not is struck, the last
one halting the module (R416, R417); the memory test leaves every byte zero and unpoisoned, after which the recovery firmware stops and other firmware
goes on; when no port trains any more the next phase makes the module READY. A released candidate that has not run 4.5 s after its trial began is struck
too (R417). -/
def Obligations.BringupPhases : Prop :=
  ∀ (s : State) (f : BringupFindings),
    let run := exec (.bringupPhaseEnd f) s
    (s.boot.phase = 1 → s.railsOk = true → ∃ t, run = .next t ∧ t.boot.released = true ∧ t.boot.phase = 2 ∧ t.time = 0 ∧ SameMemory s t) ∧
    (s.boot.phase = 1 → s.railsOk = false → run = .next s) ∧
    (s.boot.phase = 2 → ∃ t, run = .next t ∧ t.boot.phase = 3 ∧ t.rill.stage = 1 ∧ SameMemory s t) ∧
    (s.boot.phase = 3 → ∃ t, run = .next t ∧ t.boot.phase = 4 ∧
      t.boot.cands = (if f.journalOk then [s.nv.choice % 2, 1 - s.nv.choice % 2, 2] else [2])) ∧
    (∀ c rest, s.boot.phase = 4 → s.boot.cands = c :: rest →
      (s.candCode c f.imageOk = 0 → ∃ t, run = .next t ∧ t.boot.phase = 5 ∧ t.boot.slot = c ∧
        (vget t.pairs 0).st = 2 ∧ (vget t.pairs 1).st = 2 ∧ SameMemory s t) ∧
      (s.candCode c f.imageOk ≠ 0 → run = .next (s.candFails c (s.candCode c f.imageOk))) ∧
      (s.candCode c true = 0 → s.boot.candAt + 1012500000 ≤ s.time → exec .firmwareWatchdog s = .next (s.candFails c 3)) ∧
      (s.time < s.boot.candAt + 1012500000 → exec .firmwareWatchdog s = .next s) ∧
      ((s.candFails c 3).boot.cands = rest ∧ (s.candFails c 3).boot.failed = s.boot.failed ||| 2 ^ c ∧
        (rest = [] → (s.candFails c 3).boot.halt = true ∧ (s.candFails c 3).boot.phase = 11))) ∧
    (s.boot.phase = 5 → ∃ t, run = .next t ∧ t.boot.phase = 6 ∧ SameMemory s t) ∧
    (s.boot.phase = 6 → ∃ t, run = .next t ∧ t.boot.phase = 7 ∧ t.boot.memStage = 1 ∧ (t.boot.memFull = !t.boot.quick)) ∧
    (s.boot.phase = 7 → ∃ t, run = .next t ∧ t.mem = [] ∧ t.poison = [] ∧
      (s.boot.slot = 2 → t.boot.phase = 11) ∧ (s.boot.slot ≠ 2 → t.boot.phase = 8)) ∧
    (s.boot.phase = 8 → ∃ t, run = .next t ∧ t.boot.phase = 9) ∧
    (s.boot.phase = 9 → (∀ p < 24, ∀ h ∈ s.halfIxs p, (s.half p h).st ≠ 1) →
      ∃ t, run = .next t ∧ t.boot.phase = 10 ∧ { t with boot := s.boot } = s) ∧
    (s.boot.phase = 9 → (∃ p < 24, ∃ h ∈ s.halfIxs p, (s.half p h).st = 1) → run = .next s) ∧
    (s.boot.phase = 10 → ∃ t, run = .next t ∧ t.boot.ready = true ∧ t.boot.phase = 11) ∧
    (s.Canonical → s.hostUp = true → ∃ t, exec .forceFull s = .next t ∧ t.reg Reg.testMemsel = 1 ∧
      (s.boot.phase = 7 → t.boot.memFull = true) ∧ { t with regs := s.regs, boot := s.boot } = s)

/-- A due test of an idle array, with no other test of its die running or earlier due, runs at once where no partition owns the array's role, and where no
BED uses it, whose calendar the Weir then holds; else it waits for the boundary where a spare can take the role, and is deferred otherwise (R430, R431); 72 hours
past its due time a deferred test is forced at the boundary, or at once without a BED. A test that ends frees what the Weir held; one that passes gives its array
back, or waits for the boundary where a spare has the role; one that fails takes the array out of service, and its role goes to a free spare, at the
boundary where a BED runs, or is left unbound (R432). Firmware activation (R427 to R429): with no STEP or SNAPSHOT incomplete and the slot verified the module
withdraws, and one that fails its checks ends the activation; the drain ends postponed when it has lasted too long or POSTPONE is written; 10 ms after the
withdrawal the router rests and the new slot starts; the router forwards again, the new firmware runs and the activation ends; one that has not ended 4.5 s after
the rest resets the module. -/
def Obligations.TestsAndActivation : Prop :=
  (∀ (s : State) (die : Die) (arr : ArrayIx),
     let i := arrIx die arr
     let per := field (s.reg Reg.testCtl) 4 0 * 810000000000
     let idle := fun j => (vget s.tests j).st = 0 ∧ (vget s.tests j).waiting = false ∧ (vget s.tests j).due ≤ s.time ∧
       (vget s.arrays j).retired = false
     let own := if (vget s.arrays i).role.isSome then s.arrayOwner i else none
     (s.boot.ready = false ∨ ¬ idle i → exec (.testDue die arr) s = .next s) ∧
     (s.boot.ready = true → idle i →
       (∀ a < 18, (vget s.tests (arrIx die a)).st ≠ 2 ∧ ¬ (arrIx die a < i ∧ idle (arrIx die a))) →
       (own = none → ∃ t, exec (.testDue die arr) s = .next t ∧ (vget t.tests i).st = 2 ∧ t.arrays = s.arrays ∧ t.comp = s.comp) ∧
       (∀ pt, own = some pt → (s.part pt).bed = none → ∃ t, exec (.testDue die arr) s = .next t ∧ (vget t.tests i).st = 2 ∧ t.arrays = s.arrays ∧
         t.comp = (s.holdRole i).comp) ∧
       (∀ pt, own = some pt → (s.part pt).bed ≠ none →
         (∀ a, s.freeSpare die = some a → ∃ t, exec (.testDue die arr) s = .next t ∧ (vget t.tests i).waiting = true ∧
           (vget t.tests i).st = 0 ∧ t.arrays = s.arrays ∧ t.comp = s.comp) ∧
         (s.freeSpare die = none → ∃ t, exec (.testDue die arr) s = .next t ∧ (vget t.tests i).waiting = true ∧
           (vget t.tests i).st = 3 ∧ t.arrays = s.arrays ∧ t.comp = s.comp))) ∧
     (∀ pt r, (vget s.arrays i).role = some r → s.arrayOwner i = some pt →
       (s.holdRole i).comp.weir.resv = s.comp.weir.resv ++ [⟨pt, 2 ^ 32 + i, resRole (i / 18) r, s.quantum, s.quantum + 200000, 1⟩]) ∧
     ((vget s.tests i).st = 3 → (vget s.tests i).forcing = false → (vget s.tests i).due + 72 * 810000000000 ≤ s.time →
       ∃ s1 : State, (vget s1.tests i).forcing = true ∧ { s1 with tests := s.tests } = s ∧
         (∀ pt, s.arrayOwner i = some pt → (s.part pt).bed ≠ none → exec (.testForced die arr) s = .next s1) ∧
         (∀ pt, s.arrayOwner i = some pt → (s.part pt).bed = none → exec (.testForced die arr) s = .next ((s1.boundaryArray i).holdRole i)) ∧
         (s.arrayOwner i = none → exec (.testForced die arr) s = .next (s1.boundaryArray i))) ∧
     ((vget s.tests i).st ≠ 2 → exec (.testComplete die arr none) s = .next s) ∧
     ((vget s.tests i).st = 2 →
       let s0 := s.freeRole i
       (∀ r ∈ s0.comp.weir.resv, r.admno ≠ 2 ^ 32 + i) ∧ { s0 with comp := s.comp } = s ∧
       ((vget s.tests i).spare = none → ∃ s1 : State, exec (.testComplete die arr none) s = .next (s1.rebind die) ∧
         (vget s1.tests i).st = 0 ∧ (vget s1.tests i).last = some s.time ∧ (vget s1.tests i).lastFail = false ∧
         (vget s1.tests i).due = s.time + per ∧ { s1 with tests := s.tests } = s0) ∧
       ((vget s.tests i).spare ≠ none → ∃ t, exec (.testComplete die arr none) s = .next t ∧ (vget t.tests i).st = 1 ∧
         (vget t.tests i).waiting = true ∧ (vget t.tests i).due = s.time + per ∧ { t with tests := s.tests } = s0) ∧
       (∀ x : Fin 6 × Nat, ∃ s1 t : State, exec (.testComplete die arr (some x)) s = .next t ∧
         (vget s1.tests i).st = 0 ∧ (vget s1.tests i).lastFail = true ∧ (vget s1.tests i).due = s.time + per ∧ (vget s1.arrays i).out = true ∧
         (vget s1.arrays i).role = (vget s.arrays i).role ∧ s1.boot = s.boot ∧ s1.comp = s0.comp ∧ SameMemory s s1 ∧
         ((vget s.arrays i).role = none → t = s1) ∧
         (∀ r, (vget s.arrays i).role = some r → s1.freeSpare die = none →
           t.boot.unbound = s.boot.unbound ++ [16 * die.val + r] ∧ (vget t.arrays i).role = none ∧ t.comp = s1.comp ∧ t.tests = s1.tests) ∧
         (∀ a, (vget s.arrays i).role ≠ none → s1.freeSpare die = some a →
           (∀ pt, s.arrayOwner i = some pt → (s.part pt).bed ≠ none →
             t = { s1 with arrays := vmod s1.arrays i fun A => { A with moveAway := true } }) ∧
           ((∀ pt, s.arrayOwner i = some pt → (s.part pt).bed = none) → t = s1.moveRole i (arrIx die a)))))) ∧
  (∀ (s : State) (key : Byte),
     (s.act.st = 1 → (∀ a ∈ s.comp.weir.adms, dOp a.desc ≠ 1 ∧ dOp a.desc ≠ 7) →
       (s.candCode s.act.slot true = 0 → ∃ s1 : State, exec .activationDrainEnd s = .next s1.sendAdvert ∧ s1.act.st = 2 ∧
         s1.act.since = s.time ∧ s1.act.slot = s.act.slot ∧ s1.comp.fab.withdrawn = true ∧
         { s1 with act := s.act, comp := s.comp } = s ∧ s1.comp.parts = s.comp.parts) ∧
       (s.candCode s.act.slot true ≠ 0 → exec .activationDrainEnd s = .next (s.activationEnds 3))) ∧
     (s.act.st = 1 → s.act.since + s.reg Reg.testActdrain * 225000 < s.time → exec .drainTimeout s = .next (s.activationEnds 2)) ∧
     (s.hostUp = true →
       (s.act.st = 1 → exec (.postpone 0x4B#8) s = .next (s.activationEnds 2)) ∧
       (s.act.st ≠ 1 → exec (.postpone 0x4B#8) s = .next s) ∧
       (key ≠ 0x4B#8 → exec (.postpone key) s = .next (s.accErr Reg.testActcmd .badKey))) ∧
     (∀ n, (s.activationEnds n).act.st = 0 ∧ (s.activationEnds n).act.outcome = n ∧ (s.activationEnds n).sec.run = none ∧
       (s.activationEnds n).comp = s.comp) ∧
     (s.act.st = 2 → s.act.since + 2250000 ≤ s.time → ∃ t, exec .restBegin s = .next t ∧ t.act.st = 3 ∧ t.act.restAt = s.time ∧
       t.boot.routerRest = true ∧ t.boot.slot = s.act.slot ∧ t.comp = s.comp) ∧
     (s.act.st = 3 → ∃ t, exec .restEnd s = .next t ∧ t.act.st = 4 ∧ t.boot.routerRest = false ∧
       { t with act := s.act, boot := s.boot } = s) ∧
     (s.act.st = 4 → ∃ s1 : State, exec .activationComplete s = .next (s1.activationEnds 1) ∧ s1.comp.fab.withdrawn = false ∧
       s1.act = s.act ∧ (vget s1.pairs 0).st = 2 ∧ (vget s1.pairs 1).st = 2 ∧ SameMemory s s1) ∧
     (s.act.st = 3 ∨ s.act.st = 4 → s.act.restAt + 1012500000 ≤ s.time → exec .activationTimeout s = .next (s.moduleReset 7 0)))

/-! ### Power and thermal (R436 to R458) -/

/-- The input and the rails (R437, R442, R443, R458): a valid input starts bring-up with the first rail; a rail that is good lets the next of the order
follow once all of its order are good; a rail that fails switches every rail off, to be tried again after 1 s, the third time for good. A loss of the
input after release is noted with its time; its return within the hold-up ends it, and the end of the hold-up powers the module down, as an
over-voltage does at once. A loss of lock of the PLL resets the module. -/
def Obligations.InputAndRails : Prop :=
  ∀ (s : State) (rail : Fin 16) (low : Nat),
    (s.boot.input = false → s.power.overAt = none → s.boot.trip = none → ∃ t, exec .inputValid s = .next t ∧ t.boot.input = true ∧
      t.boot.phase = 1 ∧ t.power.order = 1 ∧ (vget t.power.rails 0).on = true ∧ t.power.latched = false ∧ t.power.attempts = 0 ∧
      t.comp = s.comp ∧ t.nv = s.nv) ∧
    (s.boot.phase = 1 → (vget s.power.rails rail).on = true → (vget s.power.rails rail).good = false →
      (∃ t, exec (.railPowerGood rail) s = .next t ∧ (vget t.power.rails rail).good = true ∧
        ((∀ r < 16, railOrder r = s.power.order → r ≠ rail.val → (vget s.power.rails r).good = true) →
          t.power.order = s.power.order + 1) ∧ t.boot = s.boot ∧ t.comp = s.comp) ∧
      (∃ t, exec (.railFault rail) s = .next t ∧ t.power.attempts = s.power.attempts + 1 ∧ t.power.order = 0 ∧
        (∀ r < 16, (vget t.power.rails r).on = false ∧ (vget t.power.rails r).good = false) ∧
        (3 ≤ s.power.attempts + 1 → t.power.latched = true ∧ t.power.retryAt = none) ∧
        (s.power.attempts + 1 < 3 → t.power.latched = s.power.latched ∧ t.power.retryAt = some (s.time + 225000000)) ∧
        t.comp = s.comp)) ∧
    (s.boot.phase = 1 → s.power.retryAt ≠ none → s.power.latched = false → ∃ t, exec .railRetry s = .next t ∧ t.power.order = 1 ∧
      (vget t.power.rails 0).on = true ∧ t.power.retryAt = none ∧ { t with power := s.power } = s) ∧
    (s.boot.input = true → s.power.lost = false → s.boot.released = true → ∃ t, exec (.inputLoss low) s = .next t ∧
      t.power.lost = true ∧ t.power.lossAt = s.time ∧ t.power.lowest = low ∧ SameMemory s t ∧ t.comp.parts = s.comp.parts) ∧
    (s.boot.input = true → s.power.lost = false → s.boot.released = false → ∃ t, exec (.inputLoss low) s = .next t ∧
      t.boot.input = false ∧ t.boot.phase = 0 ∧ t.mem = []) ∧
    (s.power.lost = true → ∃ t, exec .inputReturn s = .next t ∧ t.power.lost = false ∧ SameMemory s t ∧ t.comp = s.comp) ∧
    (s.power.lost = true → s.power.lossAt + 1350000 ≤ s.time → ∃ t, exec .holdupExpire s = .next t ∧ t.boot.input = false ∧
      t.boot.released = false ∧ t.power.lost = false ∧ t.mem = [] ∧ t.comp = State.reset.comp) ∧
    (s.boot.input = true → s.power.overAt = none → ∃ t, exec .overVoltage s = .next t ∧ t.power.overAt ≠ none ∧
      t.boot.released = false ∧ t.power.lost = false ∧ t.mem = [] ∧ t.comp = State.reset.comp) ∧
    (s.power.overAt ≠ none → s.boot.input = true → s.power.latched = false → s.boot.trip = none →
      ∃ t, exec .overvoltageClear s = .next t ∧ t.power.overAt = none ∧ t.boot.phase = 1 ∧ t.nv = s.nv) ∧
    (s.boot.released = true → exec .pllLockLoss s = .next (s.moduleReset 4 0))

/-- Operating points, droops and caps (R438, R439, R446 to R455): the array rails follow their table values; a die takes the point it is allowed; a
droop slows its domain until it is released; a die above 105 °C for 10 ms takes the next lower point; the cap controller aims every die at a point
from the licensed top one on; the absolute limit holds both clocks low until it is released. -/
def Obligations.ClocksAndPoints : Prop :=
  ∀ (s : State) (die : Die) (base : Nat) (samples : List (Nat × Nat × Nat × Nat)),
    (6 ≤ s.boot.phase → s.diesStopped = false → ∃ t, exec .voltageUpdate s = .next t ∧
      (∀ d < 4, (vget t.power.dies d).vca = s.vcaAt d (vget s.power.dies d).point) ∧ { t with power := s.power } = s) ∧
    (s.allowedPoint die ≠ (vget s.power.dies die).point → s.boot.ready = true → s.diesStopped = false →
      ∃ t, exec (.pointChangeDone die) s = .next t ∧ (vget t.power.dies die).point = s.allowedPoint die ∧
        (vget t.power.dies die).vca = s.vcaAt die (s.allowedPoint die) ∧ { t with power := s.power } = s) ∧
    (s.boot.released = true →
      ((vget s.power.dies die).droopA = false → ∃ t, exec (.droopDetect die .vca) s = .next t ∧
        (vget t.power.dies die).droopA = true ∧ t.kA die ≤ 9 ∧ (vget t.power.dies die).droopF = (vget s.power.dies die).droopF ∧ SameMemory s t) ∧
      ((vget s.power.dies die).droopF = false → ∃ t, exec (.droopDetect die .vcf) s = .next t ∧
        (vget t.power.dies die).droopF = true ∧ t.kF die ≤ 9 ∧ (vget t.power.dies die).droopA = (vget s.power.dies die).droopA ∧ SameMemory s t)) ∧
    (∃ t, exec (.droopRelease die .vca) s = .next t ∧ (vget t.power.dies die).droopA = false ∧ { t with power := s.power } = s) ∧
    (∃ t, exec (.droopRelease die .vcf) s = .next t ∧ (vget t.power.dies die).droopF = false ∧ { t with power := s.power } = s) ∧
    (s.boot.ready = true → (vget s.pairs 1).st = 2 → (vget s.power.dies die).planAt ≠ 0 →
      (vget s.power.dies die).planAt - 1 + 2250000 ≤ s.time → ∃ t, exec (.planningStepDown die) s = .next t ∧
        (vget t.power.dies die).planDown = (vget s.power.dies die).planDown + 1 ∧
        (vget t.power.dies die).target = (if (vget s.power.dies die).target < 4 then (vget s.power.dies die).target + 1
          else (vget s.power.dies die).target) ∧ t.comp = s.comp) ∧
    (s.boot.ready = true → (vget s.pairs 1).st = 2 → s.power.lost = false → ∃ t, exec (.capControllerPeriod base samples) s = .next t ∧
      t.power.base = base ∧ (∀ d < 4, s.topPoint ≤ (vget t.power.dies d).target ∧ (vget t.power.dies d).target ≤ 4) ∧
      t.comp = s.comp ∧ SameMemory s t) ∧
    (s.power.absLimit = false → s.boot.released = true → ∃ t, exec .absoluteLimitEngage s = .next t ∧ t.power.absLimit = true ∧
      (∀ d < 4, t.kA d ≤ 9 ∧ t.kF d ≤ 9) ∧ t.power.dies = s.power.dies ∧ SameMemory s t) ∧
    (∃ t, exec .absoluteLimitRelease s = .next t ∧ t.power.absLimit = false ∧ { t with power := s.power } = s)

/-- Temperatures, energy and the power inputs (R440 to R445, R450 to R457): a reading of the sensors stands as read; from 110 °C on a die is slowed and
below 105 °C no more; from 120 °C on the module trips. A trip's module is reset once its flush is over. The estimator moves the fast factor by one step between 6 and 18 and adds the energy of
each block to the estimates of the tags that Table 17-9 names (State.attributed; R455); a measured window attributes its energy over them; a calibration follows 100 windows; the leak, over-temperature and power-fail inputs set and clear their states. -/
def Obligations.ThermalAndEnergy : Prop :=
  ∀ (s : State) (dies : List (List Int)) (hub : List Int),
    (s.boot.released = false → ∃ t, exec (.sensorRead dies hub) s = .next t ∧ t.power.hub = hub ∧
      (∀ d < 4, (vget t.power.dies d).sensors = nth dies d []) ∧ { t with power := s.power } = s) ∧
    (s.boot.released = true → s.boot.trip = none →
      let hot := fun d => hottest (nth dies d [])
      ((∀ d < 4, hot d < 1920) → hottest hub < 1920 → ∃ t, exec (.sensorRead dies hub) s = .next t ∧ t.power.hub = hub ∧
        (∀ d < 4, (vget t.power.dies d).sensors = nth dies d [] ∧ (1760 ≤ hot d → (vget t.power.dies d).thermal = true ∧ t.kA d ≤ 9 ∧ t.kF d ≤ 9) ∧
          (hot d < 1680 → (vget t.power.dies d).thermal = false) ∧
          (1680 ≤ hot d → hot d < 1760 → (vget t.power.dies d).thermal = (vget s.power.dies d).thermal) ∧
          ((vget t.power.dies d).planAt ≠ 0 ↔ 1680 < hot d)) ∧ t.boot = s.boot ∧ SameMemory s t) ∧
      (∀ d < 4, (∀ e < d, hot e < 1920) → 1920 ≤ hot d → ∃ t, exec (.sensorRead dies hub) s = .next t ∧ t.boot.trip = some d ∧
        (∀ r, 6 ≤ r → r < 14 → (vget t.power.rails r).on = false) ∧ SameMemory s t) ∧
      ((∀ d < 4, hot d < 1920) → 1920 ≤ hottest hub → ∃ t, exec (.sensorRead dies hub) s = .next t ∧ t.boot.trip = some 4 ∧
        (∀ r, 6 ≤ r → r < 14 → (vget t.power.rails r).on = false) ∧ SameMemory s t)) ∧
    (s.boot.released = true → s.boot.trip ≠ none → ∃ t, exec (.sensorRead dies hub) s = .next t ∧ t.power.hub = hub ∧
      (∀ d < 4, (vget t.power.dies d).sensors = nth dies d []) ∧ t.boot.trip = s.boot.trip ∧
      (s.cis.flushing = true → { t with power := s.power } = s) ∧
      (s.cis.flushing = false → t.boot.released = false ∧ t.mem = [] ∧ t.comp = State.reset.comp)) ∧
    (s.boot.trip ≠ none → s.boot.released = false → s.boot.phase = 0 → s.boot.input = true → s.power.overAt = none →
      s.power.latched = false → (∀ d < 4, hottest (vget s.power.dies d).sensors < 1520) → hottest s.power.hub < 1520 →
      ∃ t, exec .thermalRestart s = .next t ∧ t.boot.phase = 1 ∧ t.boot.trip = s.boot.trip ∧ t.nv = s.nv) ∧
    (∀ (w v iw : Nat) (energies : List (EnergyBlock × Nat)), s.boot.released = true → s.Canonical →
      ∃ t, exec (.estimatorWindow w v iw energies) s = .next t ∧ t.power.meas = s.power.meas + 10 * iw ∧ t.power.moved = [] ∧
        t.power.est = (energies.flatMap fun x => s.attributed x.1 x.2).foldl addEst s.power.est ∧
        (s.capM < w → t.power.fastK = max 6 (s.power.fastK - 1)) ∧
        (w ≤ s.capM → w * 100 < 97 * s.capM → t.power.fastK = min 18 (s.power.fastK + 1)) ∧
        (w ≤ s.capM → 97 * s.capM ≤ w * 100 → t.power.fastK = s.power.fastK) ∧ SameMemory s t) ∧
    (∀ uj : Nat, s.boot.released = true → s.power.lost = false → ∃ t, exec (.measurementWindow uj) s = .next t ∧
      t.power.windows = s.power.windows + 1 ∧ t.power.est = [] ∧ t.power.meas = 0 ∧ t.comp = s.comp ∧ SameMemory s t) ∧
    (∀ sc : Vector Nat 11, (vget s.pairs 1).st = 2 → 100 ≤ s.power.windows → ∃ t, exec (.calibration sc) s = .next t ∧
      t.power.windows = 0 ∧ t.power.calHour = some s.nv.phours ∧ t.comp = s.comp ∧ SameMemory s t) ∧
    (s.Canonical → s.boot.released = true →
      (s.inputLevel 3 = false → s.leakAction ≠ 2 → ∃ t, exec (.leakDetect true) s = .next t ∧ t.power.leak = true ∧ SameMemory s t) ∧
      (s.inputLevel 3 = false → s.leakAction = 2 → ∃ t, exec (.leakDetect true) s = .next t ∧ t.power.latched = true ∧
        t.boot.released = false ∧ t.mem = []) ∧
      (s.inputLevel 3 = true → ∃ t, exec (.leakDetect false) s = .next t ∧ t.power.leak = false ∧ SameMemory s t) ∧
      (s.inputLevel 4 = false → ∃ t, exec (.coolantOverTemperature true) s = .next t ∧ t.power.cot = true ∧ t.power.cotUntil = none ∧
        SameMemory s t) ∧
      (s.inputLevel 4 = true → ∃ t, exec (.coolantOverTemperature false) s = .next t ∧ t.power.cot = false ∧
        t.power.cotUntil = some (s.time + 13500000000) ∧ SameMemory s t) ∧
      (s.inputLevel 5 = false → ∃ t, exec .powerFailWarning s = .next t ∧ t.power.pfw = true ∧
        t.cis.pausedUntil = some (s.time + 22500000) ∧ SameMemory s t) ∧
      (s.inputLevel 5 = true → ∃ t, exec .powerFailWarningRelease s = .next t ∧ t.power.pfw = false ∧ SameMemory s t)) ∧
    (∀ u, s.power.cotUntil = some u → u ≤ s.time → ∃ t, exec .cotHoldExpire s = .next t ∧ t.power.cotUntil = none ∧
      { t with power := s.power } = s)

/-! ### The Fountainer (R459 to R474) -/

/-- A claim gives the pair the source it is offered, which becomes active and pending no more, or all ones where none is offered; an EOI of the innermost
handler ends it, and another sets EOIERR (R468). The threshold is the pair's; DISABLE 1 stores and stops offers, and 0 resumes the postings (R467,
R469). Chassis inputs (R465, R472 to R474): a filtered change of level is taken; an input active for longer than its DURATION is masked with reason 2,
and writing 1 to MASKED unmasks it with both conditions restarted; a change of the straps after release leaves the sampled ones. -/
def Obligations.InterruptsAndInputs : Prop :=
  (∀ (s : State) (pair : Pair) (src : Byte) (th : Fin 16),
     (∀ n pr, s.offer pair = some (n, pr) → ∃ t, exec (.intcClaim pair) s = .next t ∧
       (vget t.pairs pair).stack = (n, pr) :: (vget s.pairs pair).stack ∧ (vget t.pairs pair).claimed = wd n ∧
       t.intc.pending = setBit256 s.intc.pending n false ∧ t.intc.active = setBit256 s.intc.active n true ∧
       { t with intc := s.intc, pairs := s.pairs } = s) ∧
     (s.offer pair = none → ∃ t, exec (.intcClaim pair) s = .next t ∧ (vget t.pairs pair).claimed = 0xFFFFFFFF#32 ∧
       { t with pairs := s.pairs } = s) ∧
     (∀ n l rest, (vget s.pairs pair).stack = (n, l) :: rest →
       (n = src.toNat → ∃ t, exec (.intcEoi pair src) s = .next t ∧ (vget t.pairs pair).stack = rest ∧ t.intc.eoiErr = false ∧
         t.intc.active = setBit256 s.intc.active n false ∧ { t with intc := s.intc, pairs := s.pairs } = s) ∧
       (n ≠ src.toNat → ∃ t, exec (.intcEoi pair src) s = .next t ∧ t.intc.eoiErr = true ∧ t.pairs = s.pairs ∧
         { t with intc := s.intc } = s)) ∧
     ((vget s.pairs pair).stack = [] → ∃ t, exec (.intcEoi pair src) s = .next t ∧ t.intc.eoiErr = true ∧ { t with intc := s.intc } = s) ∧
     (∃ t, exec (.thresholdWrite pair th) s = .next t ∧ (vget t.pairs pair).thresh = th ∧ { t with pairs := s.pairs } = s) ∧
     (s.hostUp = true → s.Canonical →
       (∃ t, exec (.disable true) s = .next t ∧ bit (t.reg Reg.intcGctl) 0 = true ∧ SameRegsBut [Reg.intcGctl] s t ∧
         { t with regs := s.regs } = s ∧ ∀ m : Pair, t.offer m = none) ∧
       (∃ s1 : State, exec (.disable false) s = .next s1.postIntrs ∧ bit (s1.reg Reg.intcGctl) 0 = false ∧
         { s1 with regs := s.regs } = s))) ∧
  (∀ (s : State) (input : Fin 7) (straps : BitVec 6) (active : Bool),
     (s.inputLevel 6 ≠ active → ∃ t, exec (.chassisAttention active) s = .next t ∧ t.inputLevel 6 = active ∧ SameMemory s t ∧
       t.comp = s.comp) ∧
     (s.inputLevel 0 = true → ∃ t, exec .buttonRelease s = .next t ∧ t.inputLevel 0 = false ∧ t.sec = s.sec ∧ t.comp = s.comp) ∧
     (∀ u, (vget s.intc.inputs input).activeAt = some u → (vget s.intc.inputs input).masked = false → 0 < (s.storm input).2.2 →
       u + (s.storm input).2.2 * 225000000 < s.time → ∃ t, exec (.stormDuration input) s = .next t ∧
         (vget t.intc.inputs input).masked = true ∧ (vget t.intc.inputs input).reason = 2 ∧
         (vget t.intc.inputs input).level = (vget s.intc.inputs input).level ∧ t.comp = s.comp) ∧
     (s.hostUp = true → ∃ t, exec (.masked input) s = .next t ∧ (vget t.intc.inputs input).masked = false ∧
       (vget t.intc.inputs input).reason = 0 ∧ (vget t.intc.inputs input).changes = [] ∧
       (vget t.intc.inputs input).level = (vget s.intc.inputs input).level ∧ { t with intc := s.intc } = s) ∧
     (straps.toNat ≠ s.strapLines → ∃ t, exec (.strapChange straps) s = .next t ∧ t.strapLines = straps.toNat ∧
       t.strapsSampled = s.strapsSampled ∧ t.boot = s.boot ∧ t.comp = s.comp))

/-- A pair that mismatches or whose watchdog expires is held in reset: its handlers end, their sources are active no more, and an outstanding request of its
mailbox is answered (R460, R461); it runs again after its restart
unless it has restarted three times within 24 hours, when it stays out of service; a kick restarts its watchdog. A mailbox request of a command that
its running pair serves is answered, one of the other pair with WRONG_PAIR, one that names nothing with BAD_ARG (R463, R464,
Table 18-2): the box is no longer busy and its
response valid. -/
def Obligations.FountainerPairs : Prop :=
  (∀ (s : State) (pair : Pair),
     ((vget s.pairs pair).st ≠ 3 → s.boot.released = true → ∃ t, exec (.lockstepMismatch pair) s = .next t ∧
       (vget t.pairs pair).st = 0 ∧ (vget t.pairs pair).cause = 1 ∧ (vget t.pairs pair).stack = [] ∧
       (∀ x ∈ (vget s.pairs pair).stack, t.intc.active.getLsbD x.1 = false) ∧
       ((vget s.mailboxes pair).busy = true → (vget t.mailboxes pair).busy = false) ∧ SameMemory s t ∧ t.comp = s.comp) ∧
     ((vget s.pairs pair).st = 2 → (vget s.pairs pair).kickAt + 225000000 ≤ s.time → ∃ t, exec (.pairWatchdog pair) s = .next t ∧
       (vget t.pairs pair).st = 0 ∧ (vget t.pairs pair).cause = 2 ∧ (vget t.pairs pair).stack = [] ∧
       (∀ x ∈ (vget s.pairs pair).stack, t.intc.active.getLsbD x.1 = false) ∧
       ((vget s.mailboxes pair).busy = true → (vget t.mailboxes pair).busy = false) ∧ SameMemory s t ∧ t.comp = s.comp) ∧
     ((vget s.pairs pair).st = 0 → (vget s.pairs pair).cause ≠ 0 →
       (s.pairRestarts pair < 3 → ∃ t, exec (.pairRestartDone pair) s = .next t ∧ (vget t.pairs pair).st = 2 ∧
         (vget t.pairs pair).kickAt = s.time ∧ (vget t.pairs pair).restarts = (vget s.pairs pair).restarts ++ [s.time] ∧ t.comp = s.comp) ∧
       (3 ≤ s.pairRestarts pair → ∃ t, exec (.pairRestartDone pair) s = .next t ∧ (vget t.pairs pair).st = 3 ∧ t.comp = s.comp)) ∧
     ((vget s.pairs pair).st = 2 → ∃ t, exec (.watchdogKick pair) s = .next t ∧ (vget t.pairs pair).kickAt = s.time ∧
       (vget t.pairs pair).st = 2 ∧ { t with pairs := s.pairs } = s)) ∧
  (∀ (s : State) (m : Pair),
     (s.mbHas m 1 = true → exec (.info m) s = .next (s.mbAnswer m 0
       (packLE [(4, s.reg Reg.ftnFwver), (4, s.ftnStat), (4, field (s.reg Reg.globalNumrev) 15 8)]))) ∧
     (s.mbHas 0 2 = true → ∃ body, exec (.lldpRead 0) s = .next (s.mbAnswer 0 0 body)) ∧
     (s.mbHas 0 3 = true →
       (∀ a, s.comp.fab.adverts[field (u32 (s.mbBody 0) 0) 15 0]? = some a →
         exec (.discRead 0) s = .next (s.mbAnswer 0 0 (slice a.body 0 0x80))) ∧
       (s.comp.fab.adverts[field (u32 (s.mbBody 0) 0) 15 0]? = none → exec (.discRead 0) s = .next (s.mbAnswer 0 3 []))) ∧
     (s.mbHas 0 4 = true → ∃ n : Nat, exec (.routeRecompute 0) s = .next (s.routes.mbAnswer 0 0 (leBytes 4 n))) ∧
     (s.mbHas 1 5 = true →
       let w := u32 (s.mbBody 1) 0
       let l := s.power.learned.find? fun l => l.pt == field w 3 0 && l.phase == field w 15 8 && l.die == field w 17 16
       (∀ x, l = some x → exec (.phaseRead 1) s = .next (s.mbAnswer 1 0 (leBytes 4 (min 0xFFFF (x.watts8 / 8) + at_ 16 x.point)))) ∧
       (l = none → exec (.phaseRead 1) s = .next (s.mbAnswer 1 3 []))) ∧
     ((s.mbHas 1 2 = true → exec (.lldpRead 1) s = .next (s.mbAnswer 1 2 [])) ∧
       (s.mbHas 1 3 = true → exec (.discRead 1) s = .next (s.mbAnswer 1 2 [])) ∧
       (s.mbHas 1 4 = true → exec (.routeRecompute 1) s = .next (s.mbAnswer 1 2 [])) ∧
       (s.mbHas 0 5 = true → exec (.phaseRead 0) s = .next (s.mbAnswer 0 2 []))) ∧
     (∀ st body, (vget (s.mbAnswer m st body).mailboxes m).busy = false ∧ (vget (s.mbAnswer m st body).mailboxes m).valid = true ∧
       SameMemory s (s.mbAnswer m st body) ∧ (s.mbAnswer m st body).comp = s.comp))
end

