-- ==== Sys2Proof/Laws/Sparse.lean ====
section
/-! SUPPORT. Sparse.lean: the laws of sparse data: a read after a write, writes leave every other key alone, and every operation
keeps the canonical form. Memory and the register file inherit them. -/
namespace Sys2Proof.Machine
variable {α : Type} [DecidableEq α] {dflt : Nat → α}

omit [DecidableEq α] in
theorem Sparse.above_mono {b c : Nat} (h : c ≤ b) : ∀ {m : List (Nat × α)}, Sparse.above b m = true → Sparse.above c m = true := by
  intro m hm
  simp only [Sparse.above, List.all_eq_true, decide_eq_true_eq] at *
  exact fun e he => Nat.lt_of_le_of_lt h (hm e he)

omit [DecidableEq α] in
/-- A key at or below a bound of the list is unlisted. -/
theorem Sparse.get_above {b k : Nat} (hk : k ≤ b) {m : List (Nat × α)} (h : Sparse.above b m = true) :
    Sparse.get dflt m k = dflt k := by
  cases m with
  | nil => rfl
  | cons e t =>
    obtain ⟨k', v⟩ := e
    simp only [Sparse.above, List.all_cons, Bool.and_eq_true, decide_eq_true_eq] at h
    have h1 : ¬ k = k' := by omega
    have h2 : k < k' := by omega
    simp [Sparse.get, h1, h2]

theorem Sparse.above_set {b k : Nat} {v : α} (hk : b < k) : ∀ {m : List (Nat × α)}, Sparse.above b m = true →
    Sparse.above b (Sparse.set dflt m k v) = true
  | [], _ => by simp only [Sparse.set]; split <;> simp [Sparse.above, hk]
  | (k', v') :: t, h => by
    have h' := h
    simp only [Sparse.above, List.all_cons, Bool.and_eq_true, decide_eq_true_eq] at h'
    have ht : Sparse.above b t = true := h'.2
    have ih := Sparse.above_set (v := v) hk ht
    simp only [Sparse.set]
    split
    · split
      · exact ht
      · simpa [Sparse.above, hk] using h'.2
    · split
      · split
        · exact h
        · simpa [Sparse.above, hk] using h'
      · simpa [Sparse.above, h'.1] using ih

/-- Writing a key keeps the canonical form. -/
theorem Sparse.set_wf {k : Nat} {v : α} : ∀ {m : List (Nat × α)}, Sparse.wf dflt m = true →
    Sparse.wf dflt (Sparse.set dflt m k v) = true
  | [], _ => by simp only [Sparse.set]; split <;> simp_all [Sparse.wf, Sparse.above]
  | (k', v') :: t, h => by
    have h0 := h
    simp only [Sparse.wf, Bool.and_eq_true, decide_eq_true_eq] at h
    obtain ⟨⟨ha, hv⟩, ht⟩ := h
    simp only [Sparse.set]
    split
    · next hk => subst hk; split <;> simp_all [Sparse.wf]
    · split
      · next hk hlt =>
        split
        · exact h0
        · have hb : Sparse.above k t = true := Sparse.above_mono (Nat.le_of_lt hlt) ha
          have hb' : Sparse.above k ((k', v') :: t) = true := by simpa [Sparse.above, hlt] using hb
          simp_all [Sparse.wf]
      · next hk hlt =>
        have hgt : k' < k := by omega
        simp [Sparse.wf, Sparse.above_set hgt ha, hv, Sparse.set_wf ht]

omit [DecidableEq α] in
theorem Sparse.above_clear {b : Nat} {p : Nat → Bool} {m : List (Nat × α)} (h : Sparse.above b m = true) :
    Sparse.above b (Sparse.clear p m) = true := by
  simp only [Sparse.above, Sparse.clear, List.all_eq_true, decide_eq_true_eq, List.mem_filter] at *
  exact fun e he => h e he.1

/-- Forgetting keys keeps the canonical form. -/
theorem Sparse.clear_wf {p : Nat → Bool} : ∀ {m : List (Nat × α)}, Sparse.wf dflt m = true →
    Sparse.wf dflt (Sparse.clear p m) = true
  | [], _ => rfl
  | (k, v) :: t, h => by
    simp only [Sparse.wf, Bool.and_eq_true, decide_eq_true_eq] at h
    obtain ⟨⟨ha, hv⟩, ht⟩ := h
    have ih := Sparse.clear_wf (p := p) ht
    have hc := Sparse.above_clear (p := p) ha
    by_cases hp : p k
    · simpa [Sparse.clear, hp] using ih
    · simpa [Sparse.clear, hp, Sparse.wf, hv] using And.intro hc ih

/-- A read after a write of the same key gives the value written. -/
theorem Sparse.get_set_same {k : Nat} {v : α} : ∀ {m : List (Nat × α)}, Sparse.wf dflt m = true →
    Sparse.get dflt (Sparse.set dflt m k v) k = v
  | [], _ => by simp only [Sparse.set]; split <;> simp_all [Sparse.get]
  | (k', v') :: t, h => by
    simp only [Sparse.wf, Bool.and_eq_true, decide_eq_true_eq] at h
    obtain ⟨⟨ha, hv⟩, ht⟩ := h
    have ih := Sparse.get_set_same (k := k) (v := v) ht
    simp only [Sparse.set]
    split
    · next hk =>
      subst hk
      split
      · next hd => rw [Sparse.get_above (Nat.le_refl k) ha, hd]
      · simp [Sparse.get]
    · split
      · next hk hlt => split <;> simp_all [Sparse.get]
      · next hk hlt => simp [Sparse.get, hk, hlt, ih]

/-- A write leaves every other key alone. -/
theorem Sparse.get_set_ne {k j : Nat} {v : α} (hj : j ≠ k) : ∀ {m : List (Nat × α)}, Sparse.wf dflt m = true →
    Sparse.get dflt (Sparse.set dflt m k v) j = Sparse.get dflt m j
  | [], _ => by simp only [Sparse.set]; split <;> simp [Sparse.get, hj]
  | (k', v') :: t, h => by
    simp only [Sparse.wf, Bool.and_eq_true, decide_eq_true_eq] at h
    obtain ⟨⟨ha, hv⟩, ht⟩ := h
    have ih := Sparse.get_set_ne (v := v) hj ht
    simp only [Sparse.set]
    split
    · next hk =>
      subst hk
      split
      · by_cases hlt : j < k
        · rw [Sparse.get_above (Nat.le_of_lt hlt) ha]; simp [Sparse.get, hj, hlt]
        · simp [Sparse.get, hj, hlt]
      · simp [Sparse.get, hj]
    · split
      · next hk hlt =>
        split
        · rfl
        · by_cases hjk : j < k
          · have h1 : ¬ j = k' := by omega
            have h2 : j < k' := by omega
            simp [Sparse.get, hj, hjk, h1, h2]
          · simp [Sparse.get, hj, hjk]
      · simp only [Sparse.get, ih]

/-- A key that has been forgotten reads as unlisted; every other key reads as before. -/
theorem Sparse.get_clear {p : Nat → Bool} {k : Nat} : ∀ {m : List (Nat × α)}, Sparse.wf dflt m = true →
    Sparse.get dflt (Sparse.clear p m) k = if p k then dflt k else Sparse.get dflt m k
  | [], _ => by simp [Sparse.clear, Sparse.get]
  | (k', v) :: t, h => by
    simp only [Sparse.wf, Bool.and_eq_true, decide_eq_true_eq] at h
    obtain ⟨⟨ha, hv⟩, ht⟩ := h
    have ih := Sparse.get_clear (p := p) (k := k) ht
    by_cases hp : p k'
    · have hc : Sparse.clear p ((k', v) :: t) = Sparse.clear p t := by simp [Sparse.clear, hp]
      rw [hc, ih]
      by_cases hk : k = k'
      · subst hk; simp [hp]
      · by_cases hlt : k < k'
        · have hg : Sparse.get dflt t k = dflt k := Sparse.get_above (Nat.le_of_lt hlt) ha
          simp [Sparse.get, hk, hlt, hg]
        · simp [Sparse.get, hk, hlt]
    · have hc : Sparse.clear p ((k', v) :: t) = (k', v) :: Sparse.clear p t := by simp [Sparse.clear, hp]
      rw [hc]
      by_cases hk : k = k'
      · subst hk; simp [Sparse.get, hp]
      · by_cases hlt : k < k'
        · simp [Sparse.get, hk, hlt]
        · simp [Sparse.get, hk, hlt, ih]

/-! ### Memory -/

theorem Memory.write_wf {m : Memory} {a : Nat} {b : Byte} (h : Memory.wf m = true) : Memory.wf (Memory.write m a b) = true :=
  Sparse.set_wf h

theorem Memory.writeBytes_wf : ∀ {bs : List Byte} {m : Memory} {a : Nat}, Memory.wf m = true →
    Memory.wf (Memory.writeBytes m a bs) = true
  | [], _, _, h => h
  | _ :: bs, _, _, h => Memory.writeBytes_wf (bs := bs) (Memory.write_wf h)

theorem Memory.scrub_wf {m : Memory} {p : Nat → Bool} (h : Memory.wf m = true) : Memory.wf (Memory.scrub m p) = true :=
  Sparse.clear_wf h

theorem Memory.read_write_same {m : Memory} {a : Nat} {b : Byte} (h : Memory.wf m = true) :
    Memory.read (Memory.write m a b) a = b := Sparse.get_set_same h

theorem Memory.read_write_ne {m : Memory} {a c : Nat} {b : Byte} (h : Memory.wf m = true) (hc : c ≠ a) :
    Memory.read (Memory.write m a b) c = Memory.read m c := Sparse.get_set_ne hc h

/-- Bytes outside a stored range read as before. -/
theorem Memory.read_writeBytes_outside : ∀ {bs : List Byte} {m : Memory} {a c : Nat}, Memory.wf m = true →
    (c < a ∨ a + bs.length ≤ c) → Memory.read (Memory.writeBytes m a bs) c = Memory.read m c
  | [], _, _, _, _, _ => rfl
  | b :: bs, m, a, c, h, hc => by
    have hl : (b :: bs).length = bs.length + 1 := rfl
    have h1 := Memory.read_writeBytes_outside (bs := bs) (a := a + 1) (c := c) (Memory.write_wf (a := a) (b := b) h) (by omega)
    simp only [Memory.writeBytes]
    rw [h1, Memory.read_write_ne h (by omega)]

/-- Byte i of a stored range reads as stored. -/
theorem Memory.read_writeBytes_inside : ∀ {bs : List Byte} {m : Memory} {a i : Nat} (_ : Memory.wf m = true)
    (hi : i < bs.length), Memory.read (Memory.writeBytes m a bs) (a + i) = bs[i]
  | [], _, _, _, _, hi => absurd hi (Nat.not_lt_zero _)
  | b :: bs, m, a, 0, h, _ => by
    simp only [Memory.writeBytes]
    rw [Memory.read_writeBytes_outside (Memory.write_wf h) (by omega)]
    exact Memory.read_write_same h
  | b :: bs, m, a, i + 1, h, hi => by
    simp only [Memory.writeBytes]
    have := Memory.read_writeBytes_inside (bs := bs) (a := a + 1) (i := i) (Memory.write_wf (a := a) (b := b) h)
      (by simpa using hi)
    simpa [Nat.add_comm, Nat.add_left_comm, Nat.add_assoc] using this

/-- A scrubbed byte reads zero; every other byte reads as before. -/
theorem Memory.read_scrub {m : Memory} {p : Nat → Bool} {a : Nat} (h : Memory.wf m = true) :
    Memory.read (Memory.scrub m p) a = if p a then 0#8 else Memory.read m a := Sparse.get_clear h

/-! ### The register file -/

theorem State.getReg_setReg_same (s : State) (off : Nat) (v : Word) (h : Sparse.wf regReset s.regs = true) :
    (s.setReg off v).getReg off = v := Sparse.get_set_same h

theorem State.getReg_setReg_ne (s : State) (off o : Nat) (v : Word) (h : Sparse.wf regReset s.regs = true)
    (ho : regHome o ≠ regHome off) : (s.setReg off v).getReg o = s.getReg o := Sparse.get_set_ne ho h

theorem State.setReg_regs_wf (s : State) (off : Nat) (v : Word) (h : Sparse.wf regReset s.regs = true) :
    Sparse.wf regReset (s.setReg off v).regs = true := Sparse.set_wf h

/-- A store keeps the canonical form of memory. -/
theorem State.writeMem_mem_wf (s : State) (a : Nat) (bs : List Byte) (h : Memory.wf s.mem = true) :
    Memory.wf (s.writeMem a bs).mem = true := Memory.writeBytes_wf h

/-- A scrub keeps the canonical form of memory. -/
theorem State.scrubMem_mem_wf (s : State) (p : Nat → Bool) (h : Memory.wf s.mem = true) :
    Memory.wf (s.scrubMem p).mem = true := Memory.scrub_wf h

/-- Reset memory has the canonical form, and so has the reset register file. -/
theorem State.reset_mem_wf : Memory.wf State.reset.mem = true := rfl
theorem State.reset_regs_wf : Sparse.wf regReset State.reset.regs = true := rfl

end Sys2Proof.Machine
end

