-- ==== Sys2Proof/Laws/Digest.lean ====
section
/-! SUPPORT. Digest.lean: the digest is 64 bytes, staged bytes read back, and an image that ends in the digest of its body passes the
digest check. -/
namespace Sys2Proof.Machine

theorem spongeRound_length (p : Planes) (rc : Nat) : (spongeRound p rc).flatten.length = 25 := by
  unfold spongeRound
  simp [turnAndMove, mixPlane, nextLane, xorPlane, List.range_succ]

theorem roundConsts_ne_nil (k : Nat) (l : List Nat) : roundConsts (k + 1) l ≠ [] := by simp [roundConsts]

theorem rounds_length : ∀ (l : List Nat) (q : Planes), l ≠ [] → (l.foldl spongeRound q).flatten.length = 25
  | [], _, h => absurd rfl h
  | [x], q, _ => by rw [List.foldl_cons, List.foldl_nil]; exact spongeRound_length q x
  | x :: y :: l, q, _ => by rw [List.foldl_cons]; exact rounds_length (y :: l) _ (List.cons_ne_nil y l)

theorem permute_length (p : Planes) : (permute p).flatten.length = 25 := by
  unfold permute
  exact rounds_length _ p (roundConsts_ne_nil 23 _)

theorem takeMessage_length : ∀ (k : Nat) (p : Planes) (l : List Byte), p.flatten.length = 25 → (takeMessage k p l).flatten.length = 25
  | 0, _, _, h => h
  | k + 1, p, l, _ => by
    unfold takeMessage
    split
    · exact takeMessage_length k _ _ (permute_length _)
    · exact permute_length _

theorem leBytes_length : ∀ n v : Nat, (leBytes n v).length = n
  | 0, _ => rfl
  | n + 1, v => by simp [leBytes, leBytes_length n]

/-- A digest is 64 bytes (R154). -/
theorem sha3_length (l : List Byte) : (sha3 l).length = 64 := by
  have h := takeMessage_length (l.length / 72 + 1) (List.replicate 5 (List.replicate 5 0)) l (by simp)
  have key : ∀ k : List Nat, (k.flatMap fun x => leBytes 8 x).length = 8 * k.length := by
    intro k
    induction k with
    | nil => rfl
    | cons x t ih => simp [leBytes_length, ih]; omega
  unfold sha3
  rw [key, List.length_take, h]; rfl

theorem slice_append_right (a d : List Byte) : slice (a ++ d) a.length d.length = d := by
  simp [slice]

/-- Bytes stored read back. -/
theorem Memory.readBytes_writeBytes {m : Memory} (h : Memory.wf m = true) (a : Nat) (bs : List Byte) :
    Memory.readBytes (Memory.writeBytes m a bs) a bs.length = bs := by
  have key : ∀ (M : Memory) (n b : Nat), Memory.readBytes M b n = (List.range n).map fun i => Memory.read M (b + i) := by
    intro M n
    induction n with
    | zero => intro b; rfl
    | succ n ih =>
      intro b
      rw [List.range_succ_eq_map]
      simp only [Memory.readBytes, ih, List.map_cons, List.map_map, Nat.add_zero]
      congr 1
      apply List.map_congr_left
      intro i _
      simp only [Function.comp_apply]
      congr 1
      omega
  rw [key]
  apply List.ext_getElem
  · simp
  · intro i h1 h2
    simp only [List.getElem_map, List.getElem_range]
    exact Memory.read_writeBytes_inside h h2

/-- An image of a body and its digest passes every phase up to 5 when its header, directory, records and whole pass (R154, R170). -/
theorem State.validate_signed (s : State) (body : List Byte) (len : Nat) (planOnly : Bool) (hl : u32 (body ++ sha3 body) 8 = body.length + 64)
    (h1 : s.headerCode (body ++ sha3 body) len planOnly = none) (h2 : dirCode (body ++ sha3 body) = none)
    (h4 : s.phase4 (body ++ sha3 body) = none)
    (h5 : leastFinding (if u8 (body ++ sha3 body) 4 = 1 then s.planFindings (body ++ sha3 body) else s.bedFindings (body ++ sha3 body)) = none) :
    s.validate (body ++ sha3 body) len planOnly = none := by
  have hs : slice (body ++ sha3 body) body.length 64 = sha3 body := by
    have := slice_append_right body (sha3 body)
    rwa [sha3_length] at this
  unfold State.validate
  rw [h1, h2]
  simp only [hl, Nat.add_sub_cancel, List.take_left, hs, ne_eq, not_true_eq_false, if_false, h4, h5, Option.map_none]

end Sys2Proof.Machine
end

