-- ==== Sys2Proof/Laws/State.lean ====
section
/-! SUPPORT. State.lean: for each update of the state, the fields it leaves alone and the one it changes, as simplification rules true by
unfolding, so that no later proof unfolds a record update. -/
namespace Sys2Proof.Machine
variable (s : State)


/-! ### State.setReg -/
@[simp] theorem State.setReg_pending (off : Nat) (v : Word) : (s.setReg off v).pending = s.pending := rfl
@[simp] theorem State.setReg_time (off : Nat) (v : Word) : (s.setReg off v).time = s.time := rfl
@[simp] theorem State.setReg_freshIx (off : Nat) (v : Word) : (s.setReg off v).freshIx = s.freshIx := rfl
@[simp] theorem State.setReg_rdShadow (off : Nat) (v : Word) : (s.setReg off v).rdShadow = s.rdShadow := rfl
@[simp] theorem State.setReg_wrShadow (off : Nat) (v : Word) : (s.setReg off v).wrShadow = s.wrShadow := rfl
@[simp] theorem State.setReg_mem (off : Nat) (v : Word) : (s.setReg off v).mem = s.mem := rfl
@[simp] theorem State.setReg_poison (off : Nat) (v : Word) : (s.setReg off v).poison = s.poison := rfl
@[simp] theorem State.setReg_hostTx (off : Nat) (v : Word) : (s.setReg off v).hostTx = s.hostTx := rfl
@[simp] theorem State.setReg_nv (off : Nat) (v : Word) : (s.setReg off v).nv = s.nv := rfl
@[simp] theorem State.setReg_boot (off : Nat) (v : Word) : (s.setReg off v).boot = s.boot := rfl
@[simp] theorem State.setReg_fault (off : Nat) (v : Word) : (s.setReg off v).fault = s.fault := rfl
@[simp] theorem State.setReg_rill (off : Nat) (v : Word) : (s.setReg off v).rill = s.rill := rfl
@[simp] theorem State.setReg_queues (off : Nat) (v : Word) : (s.setReg off v).queues = s.queues := rfl
@[simp] theorem State.setReg_intc (off : Nat) (v : Word) : (s.setReg off v).intc = s.intc := rfl
@[simp] theorem State.setReg_pairs (off : Nat) (v : Word) : (s.setReg off v).pairs = s.pairs := rfl
@[simp] theorem State.setReg_mailboxes (off : Nat) (v : Word) : (s.setReg off v).mailboxes = s.mailboxes := rfl
@[simp] theorem State.setReg_cis (off : Nat) (v : Word) : (s.setReg off v).cis = s.cis := rfl
@[simp] theorem State.setReg_sec (off : Nat) (v : Word) : (s.setReg off v).sec = s.sec := rfl
@[simp] theorem State.setReg_tests (off : Nat) (v : Word) : (s.setReg off v).tests = s.tests := rfl
@[simp] theorem State.setReg_act (off : Nat) (v : Word) : (s.setReg off v).act = s.act := rfl
@[simp] theorem State.setReg_power (off : Nat) (v : Word) : (s.setReg off v).power = s.power := rfl
@[simp] theorem State.setReg_arrays (off : Nat) (v : Word) : (s.setReg off v).arrays = s.arrays := rfl
@[simp] theorem State.setReg_comp (off : Nat) (v : Word) : (s.setReg off v).comp = s.comp := rfl
@[simp] theorem State.setReg_portTx (off : Nat) (v : Word) : (s.setReg off v).portTx = s.portTx := rfl
@[simp] theorem State.setReg_regs (off : Nat) (v : Word) : (s.setReg off v).regs = Sparse.set regReset s.regs (regHome off) v := rfl

/-! ### State.put -/
@[simp] theorem State.put_pending (off v : Nat) : (s.put off v).pending = s.pending := rfl
@[simp] theorem State.put_time (off v : Nat) : (s.put off v).time = s.time := rfl
@[simp] theorem State.put_freshIx (off v : Nat) : (s.put off v).freshIx = s.freshIx := rfl
@[simp] theorem State.put_rdShadow (off v : Nat) : (s.put off v).rdShadow = s.rdShadow := rfl
@[simp] theorem State.put_wrShadow (off v : Nat) : (s.put off v).wrShadow = s.wrShadow := rfl
@[simp] theorem State.put_mem (off v : Nat) : (s.put off v).mem = s.mem := rfl
@[simp] theorem State.put_poison (off v : Nat) : (s.put off v).poison = s.poison := rfl
@[simp] theorem State.put_hostTx (off v : Nat) : (s.put off v).hostTx = s.hostTx := rfl
@[simp] theorem State.put_nv (off v : Nat) : (s.put off v).nv = s.nv := rfl
@[simp] theorem State.put_boot (off v : Nat) : (s.put off v).boot = s.boot := rfl
@[simp] theorem State.put_fault (off v : Nat) : (s.put off v).fault = s.fault := rfl
@[simp] theorem State.put_rill (off v : Nat) : (s.put off v).rill = s.rill := rfl
@[simp] theorem State.put_queues (off v : Nat) : (s.put off v).queues = s.queues := rfl
@[simp] theorem State.put_intc (off v : Nat) : (s.put off v).intc = s.intc := rfl
@[simp] theorem State.put_pairs (off v : Nat) : (s.put off v).pairs = s.pairs := rfl
@[simp] theorem State.put_mailboxes (off v : Nat) : (s.put off v).mailboxes = s.mailboxes := rfl
@[simp] theorem State.put_cis (off v : Nat) : (s.put off v).cis = s.cis := rfl
@[simp] theorem State.put_sec (off v : Nat) : (s.put off v).sec = s.sec := rfl
@[simp] theorem State.put_tests (off v : Nat) : (s.put off v).tests = s.tests := rfl
@[simp] theorem State.put_act (off v : Nat) : (s.put off v).act = s.act := rfl
@[simp] theorem State.put_power (off v : Nat) : (s.put off v).power = s.power := rfl
@[simp] theorem State.put_arrays (off v : Nat) : (s.put off v).arrays = s.arrays := rfl
@[simp] theorem State.put_comp (off v : Nat) : (s.put off v).comp = s.comp := rfl
@[simp] theorem State.put_portTx (off v : Nat) : (s.put off v).portTx = s.portTx := rfl

/-! ### State.bump -/
@[simp] theorem State.bump_pending (off n : Nat) : (s.bump off n).pending = s.pending := rfl
@[simp] theorem State.bump_time (off n : Nat) : (s.bump off n).time = s.time := rfl
@[simp] theorem State.bump_freshIx (off n : Nat) : (s.bump off n).freshIx = s.freshIx := rfl
@[simp] theorem State.bump_rdShadow (off n : Nat) : (s.bump off n).rdShadow = s.rdShadow := rfl
@[simp] theorem State.bump_wrShadow (off n : Nat) : (s.bump off n).wrShadow = s.wrShadow := rfl
@[simp] theorem State.bump_mem (off n : Nat) : (s.bump off n).mem = s.mem := rfl
@[simp] theorem State.bump_poison (off n : Nat) : (s.bump off n).poison = s.poison := rfl
@[simp] theorem State.bump_hostTx (off n : Nat) : (s.bump off n).hostTx = s.hostTx := rfl
@[simp] theorem State.bump_nv (off n : Nat) : (s.bump off n).nv = s.nv := rfl
@[simp] theorem State.bump_boot (off n : Nat) : (s.bump off n).boot = s.boot := rfl
@[simp] theorem State.bump_fault (off n : Nat) : (s.bump off n).fault = s.fault := rfl
@[simp] theorem State.bump_rill (off n : Nat) : (s.bump off n).rill = s.rill := rfl
@[simp] theorem State.bump_queues (off n : Nat) : (s.bump off n).queues = s.queues := rfl
@[simp] theorem State.bump_intc (off n : Nat) : (s.bump off n).intc = s.intc := rfl
@[simp] theorem State.bump_pairs (off n : Nat) : (s.bump off n).pairs = s.pairs := rfl
@[simp] theorem State.bump_mailboxes (off n : Nat) : (s.bump off n).mailboxes = s.mailboxes := rfl
@[simp] theorem State.bump_cis (off n : Nat) : (s.bump off n).cis = s.cis := rfl
@[simp] theorem State.bump_sec (off n : Nat) : (s.bump off n).sec = s.sec := rfl
@[simp] theorem State.bump_tests (off n : Nat) : (s.bump off n).tests = s.tests := rfl
@[simp] theorem State.bump_act (off n : Nat) : (s.bump off n).act = s.act := rfl
@[simp] theorem State.bump_power (off n : Nat) : (s.bump off n).power = s.power := rfl
@[simp] theorem State.bump_arrays (off n : Nat) : (s.bump off n).arrays = s.arrays := rfl
@[simp] theorem State.bump_comp (off n : Nat) : (s.bump off n).comp = s.comp := rfl
@[simp] theorem State.bump_portTx (off n : Nat) : (s.bump off n).portTx = s.portTx := rfl

/-! ### State.orReg -/
@[simp] theorem State.orReg_pending (off v : Nat) : (s.orReg off v).pending = s.pending := rfl
@[simp] theorem State.orReg_time (off v : Nat) : (s.orReg off v).time = s.time := rfl
@[simp] theorem State.orReg_freshIx (off v : Nat) : (s.orReg off v).freshIx = s.freshIx := rfl
@[simp] theorem State.orReg_rdShadow (off v : Nat) : (s.orReg off v).rdShadow = s.rdShadow := rfl
@[simp] theorem State.orReg_wrShadow (off v : Nat) : (s.orReg off v).wrShadow = s.wrShadow := rfl
@[simp] theorem State.orReg_mem (off v : Nat) : (s.orReg off v).mem = s.mem := rfl
@[simp] theorem State.orReg_poison (off v : Nat) : (s.orReg off v).poison = s.poison := rfl
@[simp] theorem State.orReg_hostTx (off v : Nat) : (s.orReg off v).hostTx = s.hostTx := rfl
@[simp] theorem State.orReg_nv (off v : Nat) : (s.orReg off v).nv = s.nv := rfl
@[simp] theorem State.orReg_boot (off v : Nat) : (s.orReg off v).boot = s.boot := rfl
@[simp] theorem State.orReg_fault (off v : Nat) : (s.orReg off v).fault = s.fault := rfl
@[simp] theorem State.orReg_rill (off v : Nat) : (s.orReg off v).rill = s.rill := rfl
@[simp] theorem State.orReg_queues (off v : Nat) : (s.orReg off v).queues = s.queues := rfl
@[simp] theorem State.orReg_intc (off v : Nat) : (s.orReg off v).intc = s.intc := rfl
@[simp] theorem State.orReg_pairs (off v : Nat) : (s.orReg off v).pairs = s.pairs := rfl
@[simp] theorem State.orReg_mailboxes (off v : Nat) : (s.orReg off v).mailboxes = s.mailboxes := rfl
@[simp] theorem State.orReg_cis (off v : Nat) : (s.orReg off v).cis = s.cis := rfl
@[simp] theorem State.orReg_sec (off v : Nat) : (s.orReg off v).sec = s.sec := rfl
@[simp] theorem State.orReg_tests (off v : Nat) : (s.orReg off v).tests = s.tests := rfl
@[simp] theorem State.orReg_act (off v : Nat) : (s.orReg off v).act = s.act := rfl
@[simp] theorem State.orReg_power (off v : Nat) : (s.orReg off v).power = s.power := rfl
@[simp] theorem State.orReg_arrays (off v : Nat) : (s.orReg off v).arrays = s.arrays := rfl
@[simp] theorem State.orReg_comp (off v : Nat) : (s.orReg off v).comp = s.comp := rfl
@[simp] theorem State.orReg_portTx (off v : Nat) : (s.orReg off v).portTx = s.portTx := rfl

/-! ### State.put64 -/
@[simp] theorem State.put64_pending (off v : Nat) : (s.put64 off v).pending = s.pending := rfl
@[simp] theorem State.put64_time (off v : Nat) : (s.put64 off v).time = s.time := rfl
@[simp] theorem State.put64_freshIx (off v : Nat) : (s.put64 off v).freshIx = s.freshIx := rfl
@[simp] theorem State.put64_rdShadow (off v : Nat) : (s.put64 off v).rdShadow = s.rdShadow := rfl
@[simp] theorem State.put64_wrShadow (off v : Nat) : (s.put64 off v).wrShadow = s.wrShadow := rfl
@[simp] theorem State.put64_mem (off v : Nat) : (s.put64 off v).mem = s.mem := rfl
@[simp] theorem State.put64_poison (off v : Nat) : (s.put64 off v).poison = s.poison := rfl
@[simp] theorem State.put64_hostTx (off v : Nat) : (s.put64 off v).hostTx = s.hostTx := rfl
@[simp] theorem State.put64_nv (off v : Nat) : (s.put64 off v).nv = s.nv := rfl
@[simp] theorem State.put64_boot (off v : Nat) : (s.put64 off v).boot = s.boot := rfl
@[simp] theorem State.put64_fault (off v : Nat) : (s.put64 off v).fault = s.fault := rfl
@[simp] theorem State.put64_rill (off v : Nat) : (s.put64 off v).rill = s.rill := rfl
@[simp] theorem State.put64_queues (off v : Nat) : (s.put64 off v).queues = s.queues := rfl
@[simp] theorem State.put64_intc (off v : Nat) : (s.put64 off v).intc = s.intc := rfl
@[simp] theorem State.put64_pairs (off v : Nat) : (s.put64 off v).pairs = s.pairs := rfl
@[simp] theorem State.put64_mailboxes (off v : Nat) : (s.put64 off v).mailboxes = s.mailboxes := rfl
@[simp] theorem State.put64_cis (off v : Nat) : (s.put64 off v).cis = s.cis := rfl
@[simp] theorem State.put64_sec (off v : Nat) : (s.put64 off v).sec = s.sec := rfl
@[simp] theorem State.put64_tests (off v : Nat) : (s.put64 off v).tests = s.tests := rfl
@[simp] theorem State.put64_act (off v : Nat) : (s.put64 off v).act = s.act := rfl
@[simp] theorem State.put64_power (off v : Nat) : (s.put64 off v).power = s.power := rfl
@[simp] theorem State.put64_arrays (off v : Nat) : (s.put64 off v).arrays = s.arrays := rfl
@[simp] theorem State.put64_comp (off v : Nat) : (s.put64 off v).comp = s.comp := rfl
@[simp] theorem State.put64_portTx (off v : Nat) : (s.put64 off v).portTx = s.portTx := rfl

/-! ### State.modQ -/
@[simp] theorem State.modQ_pending (pt : Nat) (f : PtQueues → PtQueues) : (s.modQ pt f).pending = s.pending := rfl
@[simp] theorem State.modQ_time (pt : Nat) (f : PtQueues → PtQueues) : (s.modQ pt f).time = s.time := rfl
@[simp] theorem State.modQ_freshIx (pt : Nat) (f : PtQueues → PtQueues) : (s.modQ pt f).freshIx = s.freshIx := rfl
@[simp] theorem State.modQ_regs (pt : Nat) (f : PtQueues → PtQueues) : (s.modQ pt f).regs = s.regs := rfl
@[simp] theorem State.modQ_rdShadow (pt : Nat) (f : PtQueues → PtQueues) : (s.modQ pt f).rdShadow = s.rdShadow := rfl
@[simp] theorem State.modQ_wrShadow (pt : Nat) (f : PtQueues → PtQueues) : (s.modQ pt f).wrShadow = s.wrShadow := rfl
@[simp] theorem State.modQ_mem (pt : Nat) (f : PtQueues → PtQueues) : (s.modQ pt f).mem = s.mem := rfl
@[simp] theorem State.modQ_poison (pt : Nat) (f : PtQueues → PtQueues) : (s.modQ pt f).poison = s.poison := rfl
@[simp] theorem State.modQ_hostTx (pt : Nat) (f : PtQueues → PtQueues) : (s.modQ pt f).hostTx = s.hostTx := rfl
@[simp] theorem State.modQ_nv (pt : Nat) (f : PtQueues → PtQueues) : (s.modQ pt f).nv = s.nv := rfl
@[simp] theorem State.modQ_boot (pt : Nat) (f : PtQueues → PtQueues) : (s.modQ pt f).boot = s.boot := rfl
@[simp] theorem State.modQ_fault (pt : Nat) (f : PtQueues → PtQueues) : (s.modQ pt f).fault = s.fault := rfl
@[simp] theorem State.modQ_rill (pt : Nat) (f : PtQueues → PtQueues) : (s.modQ pt f).rill = s.rill := rfl
@[simp] theorem State.modQ_intc (pt : Nat) (f : PtQueues → PtQueues) : (s.modQ pt f).intc = s.intc := rfl
@[simp] theorem State.modQ_pairs (pt : Nat) (f : PtQueues → PtQueues) : (s.modQ pt f).pairs = s.pairs := rfl
@[simp] theorem State.modQ_mailboxes (pt : Nat) (f : PtQueues → PtQueues) : (s.modQ pt f).mailboxes = s.mailboxes := rfl
@[simp] theorem State.modQ_cis (pt : Nat) (f : PtQueues → PtQueues) : (s.modQ pt f).cis = s.cis := rfl
@[simp] theorem State.modQ_sec (pt : Nat) (f : PtQueues → PtQueues) : (s.modQ pt f).sec = s.sec := rfl
@[simp] theorem State.modQ_tests (pt : Nat) (f : PtQueues → PtQueues) : (s.modQ pt f).tests = s.tests := rfl
@[simp] theorem State.modQ_act (pt : Nat) (f : PtQueues → PtQueues) : (s.modQ pt f).act = s.act := rfl
@[simp] theorem State.modQ_power (pt : Nat) (f : PtQueues → PtQueues) : (s.modQ pt f).power = s.power := rfl
@[simp] theorem State.modQ_arrays (pt : Nat) (f : PtQueues → PtQueues) : (s.modQ pt f).arrays = s.arrays := rfl
@[simp] theorem State.modQ_comp (pt : Nat) (f : PtQueues → PtQueues) : (s.modQ pt f).comp = s.comp := rfl
@[simp] theorem State.modQ_portTx (pt : Nat) (f : PtQueues → PtQueues) : (s.modQ pt f).portTx = s.portTx := rfl
@[simp] theorem State.modQ_queues (pt : Nat) (f : PtQueues → PtQueues) : (s.modQ pt f).queues = vmod s.queues pt f := rfl
@[simp] theorem State.modQ_getReg (pt : Nat) (f : PtQueues → PtQueues) (o : Nat) : (s.modQ pt f).getReg o = s.getReg o := rfl
@[simp] theorem State.modQ_reg (pt : Nat) (f : PtQueues → PtQueues) (o : Nat) : (s.modQ pt f).reg o = s.reg o := rfl

/-! ### State.modFault -/
@[simp] theorem State.modFault_pending (f : FaultUnit → FaultUnit) : (s.modFault f).pending = s.pending := rfl
@[simp] theorem State.modFault_time (f : FaultUnit → FaultUnit) : (s.modFault f).time = s.time := rfl
@[simp] theorem State.modFault_freshIx (f : FaultUnit → FaultUnit) : (s.modFault f).freshIx = s.freshIx := rfl
@[simp] theorem State.modFault_regs (f : FaultUnit → FaultUnit) : (s.modFault f).regs = s.regs := rfl
@[simp] theorem State.modFault_rdShadow (f : FaultUnit → FaultUnit) : (s.modFault f).rdShadow = s.rdShadow := rfl
@[simp] theorem State.modFault_wrShadow (f : FaultUnit → FaultUnit) : (s.modFault f).wrShadow = s.wrShadow := rfl
@[simp] theorem State.modFault_mem (f : FaultUnit → FaultUnit) : (s.modFault f).mem = s.mem := rfl
@[simp] theorem State.modFault_poison (f : FaultUnit → FaultUnit) : (s.modFault f).poison = s.poison := rfl
@[simp] theorem State.modFault_hostTx (f : FaultUnit → FaultUnit) : (s.modFault f).hostTx = s.hostTx := rfl
@[simp] theorem State.modFault_nv (f : FaultUnit → FaultUnit) : (s.modFault f).nv = s.nv := rfl
@[simp] theorem State.modFault_boot (f : FaultUnit → FaultUnit) : (s.modFault f).boot = s.boot := rfl
@[simp] theorem State.modFault_rill (f : FaultUnit → FaultUnit) : (s.modFault f).rill = s.rill := rfl
@[simp] theorem State.modFault_queues (f : FaultUnit → FaultUnit) : (s.modFault f).queues = s.queues := rfl
@[simp] theorem State.modFault_intc (f : FaultUnit → FaultUnit) : (s.modFault f).intc = s.intc := rfl
@[simp] theorem State.modFault_pairs (f : FaultUnit → FaultUnit) : (s.modFault f).pairs = s.pairs := rfl
@[simp] theorem State.modFault_mailboxes (f : FaultUnit → FaultUnit) : (s.modFault f).mailboxes = s.mailboxes := rfl
@[simp] theorem State.modFault_cis (f : FaultUnit → FaultUnit) : (s.modFault f).cis = s.cis := rfl
@[simp] theorem State.modFault_sec (f : FaultUnit → FaultUnit) : (s.modFault f).sec = s.sec := rfl
@[simp] theorem State.modFault_tests (f : FaultUnit → FaultUnit) : (s.modFault f).tests = s.tests := rfl
@[simp] theorem State.modFault_act (f : FaultUnit → FaultUnit) : (s.modFault f).act = s.act := rfl
@[simp] theorem State.modFault_power (f : FaultUnit → FaultUnit) : (s.modFault f).power = s.power := rfl
@[simp] theorem State.modFault_arrays (f : FaultUnit → FaultUnit) : (s.modFault f).arrays = s.arrays := rfl
@[simp] theorem State.modFault_comp (f : FaultUnit → FaultUnit) : (s.modFault f).comp = s.comp := rfl
@[simp] theorem State.modFault_portTx (f : FaultUnit → FaultUnit) : (s.modFault f).portTx = s.portTx := rfl
@[simp] theorem State.modFault_fault (f : FaultUnit → FaultUnit) : (s.modFault f).fault = f s.fault := rfl
@[simp] theorem State.modFault_getReg (f : FaultUnit → FaultUnit) (o : Nat) : (s.modFault f).getReg o = s.getReg o := rfl
@[simp] theorem State.modFault_reg (f : FaultUnit → FaultUnit) (o : Nat) : (s.modFault f).reg o = s.reg o := rfl

/-! ### State.modRill -/
@[simp] theorem State.modRill_pending (f : Rill → Rill) : (s.modRill f).pending = s.pending := rfl
@[simp] theorem State.modRill_time (f : Rill → Rill) : (s.modRill f).time = s.time := rfl
@[simp] theorem State.modRill_freshIx (f : Rill → Rill) : (s.modRill f).freshIx = s.freshIx := rfl
@[simp] theorem State.modRill_regs (f : Rill → Rill) : (s.modRill f).regs = s.regs := rfl
@[simp] theorem State.modRill_rdShadow (f : Rill → Rill) : (s.modRill f).rdShadow = s.rdShadow := rfl
@[simp] theorem State.modRill_wrShadow (f : Rill → Rill) : (s.modRill f).wrShadow = s.wrShadow := rfl
@[simp] theorem State.modRill_mem (f : Rill → Rill) : (s.modRill f).mem = s.mem := rfl
@[simp] theorem State.modRill_poison (f : Rill → Rill) : (s.modRill f).poison = s.poison := rfl
@[simp] theorem State.modRill_hostTx (f : Rill → Rill) : (s.modRill f).hostTx = s.hostTx := rfl
@[simp] theorem State.modRill_nv (f : Rill → Rill) : (s.modRill f).nv = s.nv := rfl
@[simp] theorem State.modRill_boot (f : Rill → Rill) : (s.modRill f).boot = s.boot := rfl
@[simp] theorem State.modRill_fault (f : Rill → Rill) : (s.modRill f).fault = s.fault := rfl
@[simp] theorem State.modRill_queues (f : Rill → Rill) : (s.modRill f).queues = s.queues := rfl
@[simp] theorem State.modRill_intc (f : Rill → Rill) : (s.modRill f).intc = s.intc := rfl
@[simp] theorem State.modRill_pairs (f : Rill → Rill) : (s.modRill f).pairs = s.pairs := rfl
@[simp] theorem State.modRill_mailboxes (f : Rill → Rill) : (s.modRill f).mailboxes = s.mailboxes := rfl
@[simp] theorem State.modRill_cis (f : Rill → Rill) : (s.modRill f).cis = s.cis := rfl
@[simp] theorem State.modRill_sec (f : Rill → Rill) : (s.modRill f).sec = s.sec := rfl
@[simp] theorem State.modRill_tests (f : Rill → Rill) : (s.modRill f).tests = s.tests := rfl
@[simp] theorem State.modRill_act (f : Rill → Rill) : (s.modRill f).act = s.act := rfl
@[simp] theorem State.modRill_power (f : Rill → Rill) : (s.modRill f).power = s.power := rfl
@[simp] theorem State.modRill_arrays (f : Rill → Rill) : (s.modRill f).arrays = s.arrays := rfl
@[simp] theorem State.modRill_comp (f : Rill → Rill) : (s.modRill f).comp = s.comp := rfl
@[simp] theorem State.modRill_portTx (f : Rill → Rill) : (s.modRill f).portTx = s.portTx := rfl
@[simp] theorem State.modRill_rill (f : Rill → Rill) : (s.modRill f).rill = f s.rill := rfl
@[simp] theorem State.modRill_getReg (f : Rill → Rill) (o : Nat) : (s.modRill f).getReg o = s.getReg o := rfl
@[simp] theorem State.modRill_reg (f : Rill → Rill) (o : Nat) : (s.modRill f).reg o = s.reg o := rfl

/-! ### State.modIntc -/
@[simp] theorem State.modIntc_pending (f : Intc → Intc) : (s.modIntc f).pending = s.pending := rfl
@[simp] theorem State.modIntc_time (f : Intc → Intc) : (s.modIntc f).time = s.time := rfl
@[simp] theorem State.modIntc_freshIx (f : Intc → Intc) : (s.modIntc f).freshIx = s.freshIx := rfl
@[simp] theorem State.modIntc_regs (f : Intc → Intc) : (s.modIntc f).regs = s.regs := rfl
@[simp] theorem State.modIntc_rdShadow (f : Intc → Intc) : (s.modIntc f).rdShadow = s.rdShadow := rfl
@[simp] theorem State.modIntc_wrShadow (f : Intc → Intc) : (s.modIntc f).wrShadow = s.wrShadow := rfl
@[simp] theorem State.modIntc_mem (f : Intc → Intc) : (s.modIntc f).mem = s.mem := rfl
@[simp] theorem State.modIntc_poison (f : Intc → Intc) : (s.modIntc f).poison = s.poison := rfl
@[simp] theorem State.modIntc_hostTx (f : Intc → Intc) : (s.modIntc f).hostTx = s.hostTx := rfl
@[simp] theorem State.modIntc_nv (f : Intc → Intc) : (s.modIntc f).nv = s.nv := rfl
@[simp] theorem State.modIntc_boot (f : Intc → Intc) : (s.modIntc f).boot = s.boot := rfl
@[simp] theorem State.modIntc_fault (f : Intc → Intc) : (s.modIntc f).fault = s.fault := rfl
@[simp] theorem State.modIntc_rill (f : Intc → Intc) : (s.modIntc f).rill = s.rill := rfl
@[simp] theorem State.modIntc_queues (f : Intc → Intc) : (s.modIntc f).queues = s.queues := rfl
@[simp] theorem State.modIntc_pairs (f : Intc → Intc) : (s.modIntc f).pairs = s.pairs := rfl
@[simp] theorem State.modIntc_mailboxes (f : Intc → Intc) : (s.modIntc f).mailboxes = s.mailboxes := rfl
@[simp] theorem State.modIntc_cis (f : Intc → Intc) : (s.modIntc f).cis = s.cis := rfl
@[simp] theorem State.modIntc_sec (f : Intc → Intc) : (s.modIntc f).sec = s.sec := rfl
@[simp] theorem State.modIntc_tests (f : Intc → Intc) : (s.modIntc f).tests = s.tests := rfl
@[simp] theorem State.modIntc_act (f : Intc → Intc) : (s.modIntc f).act = s.act := rfl
@[simp] theorem State.modIntc_power (f : Intc → Intc) : (s.modIntc f).power = s.power := rfl
@[simp] theorem State.modIntc_arrays (f : Intc → Intc) : (s.modIntc f).arrays = s.arrays := rfl
@[simp] theorem State.modIntc_comp (f : Intc → Intc) : (s.modIntc f).comp = s.comp := rfl
@[simp] theorem State.modIntc_portTx (f : Intc → Intc) : (s.modIntc f).portTx = s.portTx := rfl
@[simp] theorem State.modIntc_intc (f : Intc → Intc) : (s.modIntc f).intc = f s.intc := rfl
@[simp] theorem State.modIntc_getReg (f : Intc → Intc) (o : Nat) : (s.modIntc f).getReg o = s.getReg o := rfl
@[simp] theorem State.modIntc_reg (f : Intc → Intc) (o : Nat) : (s.modIntc f).reg o = s.reg o := rfl

/-! ### State.modCis -/
@[simp] theorem State.modCis_pending (f : Cistern → Cistern) : (s.modCis f).pending = s.pending := rfl
@[simp] theorem State.modCis_time (f : Cistern → Cistern) : (s.modCis f).time = s.time := rfl
@[simp] theorem State.modCis_freshIx (f : Cistern → Cistern) : (s.modCis f).freshIx = s.freshIx := rfl
@[simp] theorem State.modCis_regs (f : Cistern → Cistern) : (s.modCis f).regs = s.regs := rfl
@[simp] theorem State.modCis_rdShadow (f : Cistern → Cistern) : (s.modCis f).rdShadow = s.rdShadow := rfl
@[simp] theorem State.modCis_wrShadow (f : Cistern → Cistern) : (s.modCis f).wrShadow = s.wrShadow := rfl
@[simp] theorem State.modCis_mem (f : Cistern → Cistern) : (s.modCis f).mem = s.mem := rfl
@[simp] theorem State.modCis_poison (f : Cistern → Cistern) : (s.modCis f).poison = s.poison := rfl
@[simp] theorem State.modCis_hostTx (f : Cistern → Cistern) : (s.modCis f).hostTx = s.hostTx := rfl
@[simp] theorem State.modCis_nv (f : Cistern → Cistern) : (s.modCis f).nv = s.nv := rfl
@[simp] theorem State.modCis_boot (f : Cistern → Cistern) : (s.modCis f).boot = s.boot := rfl
@[simp] theorem State.modCis_fault (f : Cistern → Cistern) : (s.modCis f).fault = s.fault := rfl
@[simp] theorem State.modCis_rill (f : Cistern → Cistern) : (s.modCis f).rill = s.rill := rfl
@[simp] theorem State.modCis_queues (f : Cistern → Cistern) : (s.modCis f).queues = s.queues := rfl
@[simp] theorem State.modCis_intc (f : Cistern → Cistern) : (s.modCis f).intc = s.intc := rfl
@[simp] theorem State.modCis_pairs (f : Cistern → Cistern) : (s.modCis f).pairs = s.pairs := rfl
@[simp] theorem State.modCis_mailboxes (f : Cistern → Cistern) : (s.modCis f).mailboxes = s.mailboxes := rfl
@[simp] theorem State.modCis_sec (f : Cistern → Cistern) : (s.modCis f).sec = s.sec := rfl
@[simp] theorem State.modCis_tests (f : Cistern → Cistern) : (s.modCis f).tests = s.tests := rfl
@[simp] theorem State.modCis_act (f : Cistern → Cistern) : (s.modCis f).act = s.act := rfl
@[simp] theorem State.modCis_power (f : Cistern → Cistern) : (s.modCis f).power = s.power := rfl
@[simp] theorem State.modCis_arrays (f : Cistern → Cistern) : (s.modCis f).arrays = s.arrays := rfl
@[simp] theorem State.modCis_comp (f : Cistern → Cistern) : (s.modCis f).comp = s.comp := rfl
@[simp] theorem State.modCis_portTx (f : Cistern → Cistern) : (s.modCis f).portTx = s.portTx := rfl
@[simp] theorem State.modCis_cis (f : Cistern → Cistern) : (s.modCis f).cis = f s.cis := rfl
@[simp] theorem State.modCis_getReg (f : Cistern → Cistern) (o : Nat) : (s.modCis f).getReg o = s.getReg o := rfl
@[simp] theorem State.modCis_reg (f : Cistern → Cistern) (o : Nat) : (s.modCis f).reg o = s.reg o := rfl

/-! ### State.modSec -/
@[simp] theorem State.modSec_pending (f : Sec → Sec) : (s.modSec f).pending = s.pending := rfl
@[simp] theorem State.modSec_time (f : Sec → Sec) : (s.modSec f).time = s.time := rfl
@[simp] theorem State.modSec_freshIx (f : Sec → Sec) : (s.modSec f).freshIx = s.freshIx := rfl
@[simp] theorem State.modSec_regs (f : Sec → Sec) : (s.modSec f).regs = s.regs := rfl
@[simp] theorem State.modSec_rdShadow (f : Sec → Sec) : (s.modSec f).rdShadow = s.rdShadow := rfl
@[simp] theorem State.modSec_wrShadow (f : Sec → Sec) : (s.modSec f).wrShadow = s.wrShadow := rfl
@[simp] theorem State.modSec_mem (f : Sec → Sec) : (s.modSec f).mem = s.mem := rfl
@[simp] theorem State.modSec_poison (f : Sec → Sec) : (s.modSec f).poison = s.poison := rfl
@[simp] theorem State.modSec_hostTx (f : Sec → Sec) : (s.modSec f).hostTx = s.hostTx := rfl
@[simp] theorem State.modSec_nv (f : Sec → Sec) : (s.modSec f).nv = s.nv := rfl
@[simp] theorem State.modSec_boot (f : Sec → Sec) : (s.modSec f).boot = s.boot := rfl
@[simp] theorem State.modSec_fault (f : Sec → Sec) : (s.modSec f).fault = s.fault := rfl
@[simp] theorem State.modSec_rill (f : Sec → Sec) : (s.modSec f).rill = s.rill := rfl
@[simp] theorem State.modSec_queues (f : Sec → Sec) : (s.modSec f).queues = s.queues := rfl
@[simp] theorem State.modSec_intc (f : Sec → Sec) : (s.modSec f).intc = s.intc := rfl
@[simp] theorem State.modSec_pairs (f : Sec → Sec) : (s.modSec f).pairs = s.pairs := rfl
@[simp] theorem State.modSec_mailboxes (f : Sec → Sec) : (s.modSec f).mailboxes = s.mailboxes := rfl
@[simp] theorem State.modSec_cis (f : Sec → Sec) : (s.modSec f).cis = s.cis := rfl
@[simp] theorem State.modSec_tests (f : Sec → Sec) : (s.modSec f).tests = s.tests := rfl
@[simp] theorem State.modSec_act (f : Sec → Sec) : (s.modSec f).act = s.act := rfl
@[simp] theorem State.modSec_power (f : Sec → Sec) : (s.modSec f).power = s.power := rfl
@[simp] theorem State.modSec_arrays (f : Sec → Sec) : (s.modSec f).arrays = s.arrays := rfl
@[simp] theorem State.modSec_comp (f : Sec → Sec) : (s.modSec f).comp = s.comp := rfl
@[simp] theorem State.modSec_portTx (f : Sec → Sec) : (s.modSec f).portTx = s.portTx := rfl
@[simp] theorem State.modSec_sec (f : Sec → Sec) : (s.modSec f).sec = f s.sec := rfl
@[simp] theorem State.modSec_getReg (f : Sec → Sec) (o : Nat) : (s.modSec f).getReg o = s.getReg o := rfl
@[simp] theorem State.modSec_reg (f : Sec → Sec) (o : Nat) : (s.modSec f).reg o = s.reg o := rfl

/-! ### State.modBoot -/
@[simp] theorem State.modBoot_pending (f : Boot → Boot) : (s.modBoot f).pending = s.pending := rfl
@[simp] theorem State.modBoot_time (f : Boot → Boot) : (s.modBoot f).time = s.time := rfl
@[simp] theorem State.modBoot_freshIx (f : Boot → Boot) : (s.modBoot f).freshIx = s.freshIx := rfl
@[simp] theorem State.modBoot_regs (f : Boot → Boot) : (s.modBoot f).regs = s.regs := rfl
@[simp] theorem State.modBoot_rdShadow (f : Boot → Boot) : (s.modBoot f).rdShadow = s.rdShadow := rfl
@[simp] theorem State.modBoot_wrShadow (f : Boot → Boot) : (s.modBoot f).wrShadow = s.wrShadow := rfl
@[simp] theorem State.modBoot_mem (f : Boot → Boot) : (s.modBoot f).mem = s.mem := rfl
@[simp] theorem State.modBoot_poison (f : Boot → Boot) : (s.modBoot f).poison = s.poison := rfl
@[simp] theorem State.modBoot_hostTx (f : Boot → Boot) : (s.modBoot f).hostTx = s.hostTx := rfl
@[simp] theorem State.modBoot_nv (f : Boot → Boot) : (s.modBoot f).nv = s.nv := rfl
@[simp] theorem State.modBoot_fault (f : Boot → Boot) : (s.modBoot f).fault = s.fault := rfl
@[simp] theorem State.modBoot_rill (f : Boot → Boot) : (s.modBoot f).rill = s.rill := rfl
@[simp] theorem State.modBoot_queues (f : Boot → Boot) : (s.modBoot f).queues = s.queues := rfl
@[simp] theorem State.modBoot_intc (f : Boot → Boot) : (s.modBoot f).intc = s.intc := rfl
@[simp] theorem State.modBoot_pairs (f : Boot → Boot) : (s.modBoot f).pairs = s.pairs := rfl
@[simp] theorem State.modBoot_mailboxes (f : Boot → Boot) : (s.modBoot f).mailboxes = s.mailboxes := rfl
@[simp] theorem State.modBoot_cis (f : Boot → Boot) : (s.modBoot f).cis = s.cis := rfl
@[simp] theorem State.modBoot_sec (f : Boot → Boot) : (s.modBoot f).sec = s.sec := rfl
@[simp] theorem State.modBoot_tests (f : Boot → Boot) : (s.modBoot f).tests = s.tests := rfl
@[simp] theorem State.modBoot_act (f : Boot → Boot) : (s.modBoot f).act = s.act := rfl
@[simp] theorem State.modBoot_power (f : Boot → Boot) : (s.modBoot f).power = s.power := rfl
@[simp] theorem State.modBoot_arrays (f : Boot → Boot) : (s.modBoot f).arrays = s.arrays := rfl
@[simp] theorem State.modBoot_comp (f : Boot → Boot) : (s.modBoot f).comp = s.comp := rfl
@[simp] theorem State.modBoot_portTx (f : Boot → Boot) : (s.modBoot f).portTx = s.portTx := rfl
@[simp] theorem State.modBoot_boot (f : Boot → Boot) : (s.modBoot f).boot = f s.boot := rfl
@[simp] theorem State.modBoot_getReg (f : Boot → Boot) (o : Nat) : (s.modBoot f).getReg o = s.getReg o := rfl
@[simp] theorem State.modBoot_reg (f : Boot → Boot) (o : Nat) : (s.modBoot f).reg o = s.reg o := rfl

/-! ### State.modAct -/
@[simp] theorem State.modAct_pending (f : Activation → Activation) : (s.modAct f).pending = s.pending := rfl
@[simp] theorem State.modAct_time (f : Activation → Activation) : (s.modAct f).time = s.time := rfl
@[simp] theorem State.modAct_freshIx (f : Activation → Activation) : (s.modAct f).freshIx = s.freshIx := rfl
@[simp] theorem State.modAct_regs (f : Activation → Activation) : (s.modAct f).regs = s.regs := rfl
@[simp] theorem State.modAct_rdShadow (f : Activation → Activation) : (s.modAct f).rdShadow = s.rdShadow := rfl
@[simp] theorem State.modAct_wrShadow (f : Activation → Activation) : (s.modAct f).wrShadow = s.wrShadow := rfl
@[simp] theorem State.modAct_mem (f : Activation → Activation) : (s.modAct f).mem = s.mem := rfl
@[simp] theorem State.modAct_poison (f : Activation → Activation) : (s.modAct f).poison = s.poison := rfl
@[simp] theorem State.modAct_hostTx (f : Activation → Activation) : (s.modAct f).hostTx = s.hostTx := rfl
@[simp] theorem State.modAct_nv (f : Activation → Activation) : (s.modAct f).nv = s.nv := rfl
@[simp] theorem State.modAct_boot (f : Activation → Activation) : (s.modAct f).boot = s.boot := rfl
@[simp] theorem State.modAct_fault (f : Activation → Activation) : (s.modAct f).fault = s.fault := rfl
@[simp] theorem State.modAct_rill (f : Activation → Activation) : (s.modAct f).rill = s.rill := rfl
@[simp] theorem State.modAct_queues (f : Activation → Activation) : (s.modAct f).queues = s.queues := rfl
@[simp] theorem State.modAct_intc (f : Activation → Activation) : (s.modAct f).intc = s.intc := rfl
@[simp] theorem State.modAct_pairs (f : Activation → Activation) : (s.modAct f).pairs = s.pairs := rfl
@[simp] theorem State.modAct_mailboxes (f : Activation → Activation) : (s.modAct f).mailboxes = s.mailboxes := rfl
@[simp] theorem State.modAct_cis (f : Activation → Activation) : (s.modAct f).cis = s.cis := rfl
@[simp] theorem State.modAct_sec (f : Activation → Activation) : (s.modAct f).sec = s.sec := rfl
@[simp] theorem State.modAct_tests (f : Activation → Activation) : (s.modAct f).tests = s.tests := rfl
@[simp] theorem State.modAct_power (f : Activation → Activation) : (s.modAct f).power = s.power := rfl
@[simp] theorem State.modAct_arrays (f : Activation → Activation) : (s.modAct f).arrays = s.arrays := rfl
@[simp] theorem State.modAct_comp (f : Activation → Activation) : (s.modAct f).comp = s.comp := rfl
@[simp] theorem State.modAct_portTx (f : Activation → Activation) : (s.modAct f).portTx = s.portTx := rfl
@[simp] theorem State.modAct_act (f : Activation → Activation) : (s.modAct f).act = f s.act := rfl
@[simp] theorem State.modAct_getReg (f : Activation → Activation) (o : Nat) : (s.modAct f).getReg o = s.getReg o := rfl
@[simp] theorem State.modAct_reg (f : Activation → Activation) (o : Nat) : (s.modAct f).reg o = s.reg o := rfl

/-! ### State.modPower -/
@[simp] theorem State.modPower_pending (f : Power → Power) : (s.modPower f).pending = s.pending := rfl
@[simp] theorem State.modPower_time (f : Power → Power) : (s.modPower f).time = s.time := rfl
@[simp] theorem State.modPower_freshIx (f : Power → Power) : (s.modPower f).freshIx = s.freshIx := rfl
@[simp] theorem State.modPower_regs (f : Power → Power) : (s.modPower f).regs = s.regs := rfl
@[simp] theorem State.modPower_rdShadow (f : Power → Power) : (s.modPower f).rdShadow = s.rdShadow := rfl
@[simp] theorem State.modPower_wrShadow (f : Power → Power) : (s.modPower f).wrShadow = s.wrShadow := rfl
@[simp] theorem State.modPower_mem (f : Power → Power) : (s.modPower f).mem = s.mem := rfl
@[simp] theorem State.modPower_poison (f : Power → Power) : (s.modPower f).poison = s.poison := rfl
@[simp] theorem State.modPower_hostTx (f : Power → Power) : (s.modPower f).hostTx = s.hostTx := rfl
@[simp] theorem State.modPower_nv (f : Power → Power) : (s.modPower f).nv = s.nv := rfl
@[simp] theorem State.modPower_boot (f : Power → Power) : (s.modPower f).boot = s.boot := rfl
@[simp] theorem State.modPower_fault (f : Power → Power) : (s.modPower f).fault = s.fault := rfl
@[simp] theorem State.modPower_rill (f : Power → Power) : (s.modPower f).rill = s.rill := rfl
@[simp] theorem State.modPower_queues (f : Power → Power) : (s.modPower f).queues = s.queues := rfl
@[simp] theorem State.modPower_intc (f : Power → Power) : (s.modPower f).intc = s.intc := rfl
@[simp] theorem State.modPower_pairs (f : Power → Power) : (s.modPower f).pairs = s.pairs := rfl
@[simp] theorem State.modPower_mailboxes (f : Power → Power) : (s.modPower f).mailboxes = s.mailboxes := rfl
@[simp] theorem State.modPower_cis (f : Power → Power) : (s.modPower f).cis = s.cis := rfl
@[simp] theorem State.modPower_sec (f : Power → Power) : (s.modPower f).sec = s.sec := rfl
@[simp] theorem State.modPower_tests (f : Power → Power) : (s.modPower f).tests = s.tests := rfl
@[simp] theorem State.modPower_act (f : Power → Power) : (s.modPower f).act = s.act := rfl
@[simp] theorem State.modPower_arrays (f : Power → Power) : (s.modPower f).arrays = s.arrays := rfl
@[simp] theorem State.modPower_comp (f : Power → Power) : (s.modPower f).comp = s.comp := rfl
@[simp] theorem State.modPower_portTx (f : Power → Power) : (s.modPower f).portTx = s.portTx := rfl
@[simp] theorem State.modPower_power (f : Power → Power) : (s.modPower f).power = f s.power := rfl
@[simp] theorem State.modPower_getReg (f : Power → Power) (o : Nat) : (s.modPower f).getReg o = s.getReg o := rfl
@[simp] theorem State.modPower_reg (f : Power → Power) (o : Nat) : (s.modPower f).reg o = s.reg o := rfl

/-! ### State.modNv -/
@[simp] theorem State.modNv_pending (f : Nv → Nv) : (s.modNv f).pending = s.pending := rfl
@[simp] theorem State.modNv_time (f : Nv → Nv) : (s.modNv f).time = s.time := rfl
@[simp] theorem State.modNv_freshIx (f : Nv → Nv) : (s.modNv f).freshIx = s.freshIx := rfl
@[simp] theorem State.modNv_regs (f : Nv → Nv) : (s.modNv f).regs = s.regs := rfl
@[simp] theorem State.modNv_rdShadow (f : Nv → Nv) : (s.modNv f).rdShadow = s.rdShadow := rfl
@[simp] theorem State.modNv_wrShadow (f : Nv → Nv) : (s.modNv f).wrShadow = s.wrShadow := rfl
@[simp] theorem State.modNv_mem (f : Nv → Nv) : (s.modNv f).mem = s.mem := rfl
@[simp] theorem State.modNv_poison (f : Nv → Nv) : (s.modNv f).poison = s.poison := rfl
@[simp] theorem State.modNv_hostTx (f : Nv → Nv) : (s.modNv f).hostTx = s.hostTx := rfl
@[simp] theorem State.modNv_boot (f : Nv → Nv) : (s.modNv f).boot = s.boot := rfl
@[simp] theorem State.modNv_fault (f : Nv → Nv) : (s.modNv f).fault = s.fault := rfl
@[simp] theorem State.modNv_rill (f : Nv → Nv) : (s.modNv f).rill = s.rill := rfl
@[simp] theorem State.modNv_queues (f : Nv → Nv) : (s.modNv f).queues = s.queues := rfl
@[simp] theorem State.modNv_intc (f : Nv → Nv) : (s.modNv f).intc = s.intc := rfl
@[simp] theorem State.modNv_pairs (f : Nv → Nv) : (s.modNv f).pairs = s.pairs := rfl
@[simp] theorem State.modNv_mailboxes (f : Nv → Nv) : (s.modNv f).mailboxes = s.mailboxes := rfl
@[simp] theorem State.modNv_cis (f : Nv → Nv) : (s.modNv f).cis = s.cis := rfl
@[simp] theorem State.modNv_sec (f : Nv → Nv) : (s.modNv f).sec = s.sec := rfl
@[simp] theorem State.modNv_tests (f : Nv → Nv) : (s.modNv f).tests = s.tests := rfl
@[simp] theorem State.modNv_act (f : Nv → Nv) : (s.modNv f).act = s.act := rfl
@[simp] theorem State.modNv_power (f : Nv → Nv) : (s.modNv f).power = s.power := rfl
@[simp] theorem State.modNv_arrays (f : Nv → Nv) : (s.modNv f).arrays = s.arrays := rfl
@[simp] theorem State.modNv_comp (f : Nv → Nv) : (s.modNv f).comp = s.comp := rfl
@[simp] theorem State.modNv_portTx (f : Nv → Nv) : (s.modNv f).portTx = s.portTx := rfl
@[simp] theorem State.modNv_nv (f : Nv → Nv) : (s.modNv f).nv = f s.nv := rfl
@[simp] theorem State.modNv_getReg (f : Nv → Nv) (o : Nat) : (s.modNv f).getReg o = s.getReg o := rfl
@[simp] theorem State.modNv_reg (f : Nv → Nv) (o : Nat) : (s.modNv f).reg o = s.reg o := rfl

/-! ### State.modJournal -/
@[simp] theorem State.modJournal_pending (f : Journal → Journal) : (s.modJournal f).pending = s.pending := rfl
@[simp] theorem State.modJournal_time (f : Journal → Journal) : (s.modJournal f).time = s.time := rfl
@[simp] theorem State.modJournal_freshIx (f : Journal → Journal) : (s.modJournal f).freshIx = s.freshIx := rfl
@[simp] theorem State.modJournal_regs (f : Journal → Journal) : (s.modJournal f).regs = s.regs := rfl
@[simp] theorem State.modJournal_rdShadow (f : Journal → Journal) : (s.modJournal f).rdShadow = s.rdShadow := rfl
@[simp] theorem State.modJournal_wrShadow (f : Journal → Journal) : (s.modJournal f).wrShadow = s.wrShadow := rfl
@[simp] theorem State.modJournal_mem (f : Journal → Journal) : (s.modJournal f).mem = s.mem := rfl
@[simp] theorem State.modJournal_poison (f : Journal → Journal) : (s.modJournal f).poison = s.poison := rfl
@[simp] theorem State.modJournal_hostTx (f : Journal → Journal) : (s.modJournal f).hostTx = s.hostTx := rfl
@[simp] theorem State.modJournal_boot (f : Journal → Journal) : (s.modJournal f).boot = s.boot := rfl
@[simp] theorem State.modJournal_fault (f : Journal → Journal) : (s.modJournal f).fault = s.fault := rfl
@[simp] theorem State.modJournal_rill (f : Journal → Journal) : (s.modJournal f).rill = s.rill := rfl
@[simp] theorem State.modJournal_queues (f : Journal → Journal) : (s.modJournal f).queues = s.queues := rfl
@[simp] theorem State.modJournal_intc (f : Journal → Journal) : (s.modJournal f).intc = s.intc := rfl
@[simp] theorem State.modJournal_pairs (f : Journal → Journal) : (s.modJournal f).pairs = s.pairs := rfl
@[simp] theorem State.modJournal_mailboxes (f : Journal → Journal) : (s.modJournal f).mailboxes = s.mailboxes := rfl
@[simp] theorem State.modJournal_cis (f : Journal → Journal) : (s.modJournal f).cis = s.cis := rfl
@[simp] theorem State.modJournal_sec (f : Journal → Journal) : (s.modJournal f).sec = s.sec := rfl
@[simp] theorem State.modJournal_tests (f : Journal → Journal) : (s.modJournal f).tests = s.tests := rfl
@[simp] theorem State.modJournal_act (f : Journal → Journal) : (s.modJournal f).act = s.act := rfl
@[simp] theorem State.modJournal_power (f : Journal → Journal) : (s.modJournal f).power = s.power := rfl
@[simp] theorem State.modJournal_arrays (f : Journal → Journal) : (s.modJournal f).arrays = s.arrays := rfl
@[simp] theorem State.modJournal_comp (f : Journal → Journal) : (s.modJournal f).comp = s.comp := rfl
@[simp] theorem State.modJournal_portTx (f : Journal → Journal) : (s.modJournal f).portTx = s.portTx := rfl
@[simp] theorem State.modJournal_getReg (f : Journal → Journal) (o : Nat) : (s.modJournal f).getReg o = s.getReg o := rfl
@[simp] theorem State.modJournal_reg (f : Journal → Journal) (o : Nat) : (s.modJournal f).reg o = s.reg o := rfl

/-! ### State.modPair -/
@[simp] theorem State.modPair_pending (m : Nat) (f : PairSt → PairSt) : (s.modPair m f).pending = s.pending := rfl
@[simp] theorem State.modPair_time (m : Nat) (f : PairSt → PairSt) : (s.modPair m f).time = s.time := rfl
@[simp] theorem State.modPair_freshIx (m : Nat) (f : PairSt → PairSt) : (s.modPair m f).freshIx = s.freshIx := rfl
@[simp] theorem State.modPair_regs (m : Nat) (f : PairSt → PairSt) : (s.modPair m f).regs = s.regs := rfl
@[simp] theorem State.modPair_rdShadow (m : Nat) (f : PairSt → PairSt) : (s.modPair m f).rdShadow = s.rdShadow := rfl
@[simp] theorem State.modPair_wrShadow (m : Nat) (f : PairSt → PairSt) : (s.modPair m f).wrShadow = s.wrShadow := rfl
@[simp] theorem State.modPair_mem (m : Nat) (f : PairSt → PairSt) : (s.modPair m f).mem = s.mem := rfl
@[simp] theorem State.modPair_poison (m : Nat) (f : PairSt → PairSt) : (s.modPair m f).poison = s.poison := rfl
@[simp] theorem State.modPair_hostTx (m : Nat) (f : PairSt → PairSt) : (s.modPair m f).hostTx = s.hostTx := rfl
@[simp] theorem State.modPair_nv (m : Nat) (f : PairSt → PairSt) : (s.modPair m f).nv = s.nv := rfl
@[simp] theorem State.modPair_boot (m : Nat) (f : PairSt → PairSt) : (s.modPair m f).boot = s.boot := rfl
@[simp] theorem State.modPair_fault (m : Nat) (f : PairSt → PairSt) : (s.modPair m f).fault = s.fault := rfl
@[simp] theorem State.modPair_rill (m : Nat) (f : PairSt → PairSt) : (s.modPair m f).rill = s.rill := rfl
@[simp] theorem State.modPair_queues (m : Nat) (f : PairSt → PairSt) : (s.modPair m f).queues = s.queues := rfl
@[simp] theorem State.modPair_intc (m : Nat) (f : PairSt → PairSt) : (s.modPair m f).intc = s.intc := rfl
@[simp] theorem State.modPair_mailboxes (m : Nat) (f : PairSt → PairSt) : (s.modPair m f).mailboxes = s.mailboxes := rfl
@[simp] theorem State.modPair_cis (m : Nat) (f : PairSt → PairSt) : (s.modPair m f).cis = s.cis := rfl
@[simp] theorem State.modPair_sec (m : Nat) (f : PairSt → PairSt) : (s.modPair m f).sec = s.sec := rfl
@[simp] theorem State.modPair_tests (m : Nat) (f : PairSt → PairSt) : (s.modPair m f).tests = s.tests := rfl
@[simp] theorem State.modPair_act (m : Nat) (f : PairSt → PairSt) : (s.modPair m f).act = s.act := rfl
@[simp] theorem State.modPair_power (m : Nat) (f : PairSt → PairSt) : (s.modPair m f).power = s.power := rfl
@[simp] theorem State.modPair_arrays (m : Nat) (f : PairSt → PairSt) : (s.modPair m f).arrays = s.arrays := rfl
@[simp] theorem State.modPair_comp (m : Nat) (f : PairSt → PairSt) : (s.modPair m f).comp = s.comp := rfl
@[simp] theorem State.modPair_portTx (m : Nat) (f : PairSt → PairSt) : (s.modPair m f).portTx = s.portTx := rfl
@[simp] theorem State.modPair_pairs (m : Nat) (f : PairSt → PairSt) : (s.modPair m f).pairs = vmod s.pairs m f := rfl
@[simp] theorem State.modPair_getReg (m : Nat) (f : PairSt → PairSt) (o : Nat) : (s.modPair m f).getReg o = s.getReg o := rfl
@[simp] theorem State.modPair_reg (m : Nat) (f : PairSt → PairSt) (o : Nat) : (s.modPair m f).reg o = s.reg o := rfl

/-! ### State.modBox -/
@[simp] theorem State.modBox_pending (m : Nat) (f : Mailbox → Mailbox) : (s.modBox m f).pending = s.pending := rfl
@[simp] theorem State.modBox_time (m : Nat) (f : Mailbox → Mailbox) : (s.modBox m f).time = s.time := rfl
@[simp] theorem State.modBox_freshIx (m : Nat) (f : Mailbox → Mailbox) : (s.modBox m f).freshIx = s.freshIx := rfl
@[simp] theorem State.modBox_regs (m : Nat) (f : Mailbox → Mailbox) : (s.modBox m f).regs = s.regs := rfl
@[simp] theorem State.modBox_rdShadow (m : Nat) (f : Mailbox → Mailbox) : (s.modBox m f).rdShadow = s.rdShadow := rfl
@[simp] theorem State.modBox_wrShadow (m : Nat) (f : Mailbox → Mailbox) : (s.modBox m f).wrShadow = s.wrShadow := rfl
@[simp] theorem State.modBox_mem (m : Nat) (f : Mailbox → Mailbox) : (s.modBox m f).mem = s.mem := rfl
@[simp] theorem State.modBox_poison (m : Nat) (f : Mailbox → Mailbox) : (s.modBox m f).poison = s.poison := rfl
@[simp] theorem State.modBox_hostTx (m : Nat) (f : Mailbox → Mailbox) : (s.modBox m f).hostTx = s.hostTx := rfl
@[simp] theorem State.modBox_nv (m : Nat) (f : Mailbox → Mailbox) : (s.modBox m f).nv = s.nv := rfl
@[simp] theorem State.modBox_boot (m : Nat) (f : Mailbox → Mailbox) : (s.modBox m f).boot = s.boot := rfl
@[simp] theorem State.modBox_fault (m : Nat) (f : Mailbox → Mailbox) : (s.modBox m f).fault = s.fault := rfl
@[simp] theorem State.modBox_rill (m : Nat) (f : Mailbox → Mailbox) : (s.modBox m f).rill = s.rill := rfl
@[simp] theorem State.modBox_queues (m : Nat) (f : Mailbox → Mailbox) : (s.modBox m f).queues = s.queues := rfl
@[simp] theorem State.modBox_intc (m : Nat) (f : Mailbox → Mailbox) : (s.modBox m f).intc = s.intc := rfl
@[simp] theorem State.modBox_pairs (m : Nat) (f : Mailbox → Mailbox) : (s.modBox m f).pairs = s.pairs := rfl
@[simp] theorem State.modBox_cis (m : Nat) (f : Mailbox → Mailbox) : (s.modBox m f).cis = s.cis := rfl
@[simp] theorem State.modBox_sec (m : Nat) (f : Mailbox → Mailbox) : (s.modBox m f).sec = s.sec := rfl
@[simp] theorem State.modBox_tests (m : Nat) (f : Mailbox → Mailbox) : (s.modBox m f).tests = s.tests := rfl
@[simp] theorem State.modBox_act (m : Nat) (f : Mailbox → Mailbox) : (s.modBox m f).act = s.act := rfl
@[simp] theorem State.modBox_power (m : Nat) (f : Mailbox → Mailbox) : (s.modBox m f).power = s.power := rfl
@[simp] theorem State.modBox_arrays (m : Nat) (f : Mailbox → Mailbox) : (s.modBox m f).arrays = s.arrays := rfl
@[simp] theorem State.modBox_comp (m : Nat) (f : Mailbox → Mailbox) : (s.modBox m f).comp = s.comp := rfl
@[simp] theorem State.modBox_portTx (m : Nat) (f : Mailbox → Mailbox) : (s.modBox m f).portTx = s.portTx := rfl
@[simp] theorem State.modBox_mailboxes (m : Nat) (f : Mailbox → Mailbox) : (s.modBox m f).mailboxes = vmod s.mailboxes m f := rfl
@[simp] theorem State.modBox_getReg (m : Nat) (f : Mailbox → Mailbox) (o : Nat) : (s.modBox m f).getReg o = s.getReg o := rfl
@[simp] theorem State.modBox_reg (m : Nat) (f : Mailbox → Mailbox) (o : Nat) : (s.modBox m f).reg o = s.reg o := rfl

/-! ### State.modInput -/
@[simp] theorem State.modInput_pending (i : Nat) (f : InputSt → InputSt) : (s.modInput i f).pending = s.pending := rfl
@[simp] theorem State.modInput_time (i : Nat) (f : InputSt → InputSt) : (s.modInput i f).time = s.time := rfl
@[simp] theorem State.modInput_freshIx (i : Nat) (f : InputSt → InputSt) : (s.modInput i f).freshIx = s.freshIx := rfl
@[simp] theorem State.modInput_regs (i : Nat) (f : InputSt → InputSt) : (s.modInput i f).regs = s.regs := rfl
@[simp] theorem State.modInput_rdShadow (i : Nat) (f : InputSt → InputSt) : (s.modInput i f).rdShadow = s.rdShadow := rfl
@[simp] theorem State.modInput_wrShadow (i : Nat) (f : InputSt → InputSt) : (s.modInput i f).wrShadow = s.wrShadow := rfl
@[simp] theorem State.modInput_mem (i : Nat) (f : InputSt → InputSt) : (s.modInput i f).mem = s.mem := rfl
@[simp] theorem State.modInput_poison (i : Nat) (f : InputSt → InputSt) : (s.modInput i f).poison = s.poison := rfl
@[simp] theorem State.modInput_hostTx (i : Nat) (f : InputSt → InputSt) : (s.modInput i f).hostTx = s.hostTx := rfl
@[simp] theorem State.modInput_nv (i : Nat) (f : InputSt → InputSt) : (s.modInput i f).nv = s.nv := rfl
@[simp] theorem State.modInput_boot (i : Nat) (f : InputSt → InputSt) : (s.modInput i f).boot = s.boot := rfl
@[simp] theorem State.modInput_fault (i : Nat) (f : InputSt → InputSt) : (s.modInput i f).fault = s.fault := rfl
@[simp] theorem State.modInput_rill (i : Nat) (f : InputSt → InputSt) : (s.modInput i f).rill = s.rill := rfl
@[simp] theorem State.modInput_queues (i : Nat) (f : InputSt → InputSt) : (s.modInput i f).queues = s.queues := rfl
@[simp] theorem State.modInput_pairs (i : Nat) (f : InputSt → InputSt) : (s.modInput i f).pairs = s.pairs := rfl
@[simp] theorem State.modInput_mailboxes (i : Nat) (f : InputSt → InputSt) : (s.modInput i f).mailboxes = s.mailboxes := rfl
@[simp] theorem State.modInput_cis (i : Nat) (f : InputSt → InputSt) : (s.modInput i f).cis = s.cis := rfl
@[simp] theorem State.modInput_sec (i : Nat) (f : InputSt → InputSt) : (s.modInput i f).sec = s.sec := rfl
@[simp] theorem State.modInput_tests (i : Nat) (f : InputSt → InputSt) : (s.modInput i f).tests = s.tests := rfl
@[simp] theorem State.modInput_act (i : Nat) (f : InputSt → InputSt) : (s.modInput i f).act = s.act := rfl
@[simp] theorem State.modInput_power (i : Nat) (f : InputSt → InputSt) : (s.modInput i f).power = s.power := rfl
@[simp] theorem State.modInput_arrays (i : Nat) (f : InputSt → InputSt) : (s.modInput i f).arrays = s.arrays := rfl
@[simp] theorem State.modInput_comp (i : Nat) (f : InputSt → InputSt) : (s.modInput i f).comp = s.comp := rfl
@[simp] theorem State.modInput_portTx (i : Nat) (f : InputSt → InputSt) : (s.modInput i f).portTx = s.portTx := rfl
@[simp] theorem State.modInput_getReg (i : Nat) (f : InputSt → InputSt) (o : Nat) : (s.modInput i f).getReg o = s.getReg o := rfl
@[simp] theorem State.modInput_reg (i : Nat) (f : InputSt → InputSt) (o : Nat) : (s.modInput i f).reg o = s.reg o := rfl

/-! ### State.modDie -/
@[simp] theorem State.modDie_pending (d : Nat) (f : DiePower → DiePower) : (s.modDie d f).pending = s.pending := rfl
@[simp] theorem State.modDie_time (d : Nat) (f : DiePower → DiePower) : (s.modDie d f).time = s.time := rfl
@[simp] theorem State.modDie_freshIx (d : Nat) (f : DiePower → DiePower) : (s.modDie d f).freshIx = s.freshIx := rfl
@[simp] theorem State.modDie_regs (d : Nat) (f : DiePower → DiePower) : (s.modDie d f).regs = s.regs := rfl
@[simp] theorem State.modDie_rdShadow (d : Nat) (f : DiePower → DiePower) : (s.modDie d f).rdShadow = s.rdShadow := rfl
@[simp] theorem State.modDie_wrShadow (d : Nat) (f : DiePower → DiePower) : (s.modDie d f).wrShadow = s.wrShadow := rfl
@[simp] theorem State.modDie_mem (d : Nat) (f : DiePower → DiePower) : (s.modDie d f).mem = s.mem := rfl
@[simp] theorem State.modDie_poison (d : Nat) (f : DiePower → DiePower) : (s.modDie d f).poison = s.poison := rfl
@[simp] theorem State.modDie_hostTx (d : Nat) (f : DiePower → DiePower) : (s.modDie d f).hostTx = s.hostTx := rfl
@[simp] theorem State.modDie_nv (d : Nat) (f : DiePower → DiePower) : (s.modDie d f).nv = s.nv := rfl
@[simp] theorem State.modDie_boot (d : Nat) (f : DiePower → DiePower) : (s.modDie d f).boot = s.boot := rfl
@[simp] theorem State.modDie_fault (d : Nat) (f : DiePower → DiePower) : (s.modDie d f).fault = s.fault := rfl
@[simp] theorem State.modDie_rill (d : Nat) (f : DiePower → DiePower) : (s.modDie d f).rill = s.rill := rfl
@[simp] theorem State.modDie_queues (d : Nat) (f : DiePower → DiePower) : (s.modDie d f).queues = s.queues := rfl
@[simp] theorem State.modDie_intc (d : Nat) (f : DiePower → DiePower) : (s.modDie d f).intc = s.intc := rfl
@[simp] theorem State.modDie_pairs (d : Nat) (f : DiePower → DiePower) : (s.modDie d f).pairs = s.pairs := rfl
@[simp] theorem State.modDie_mailboxes (d : Nat) (f : DiePower → DiePower) : (s.modDie d f).mailboxes = s.mailboxes := rfl
@[simp] theorem State.modDie_cis (d : Nat) (f : DiePower → DiePower) : (s.modDie d f).cis = s.cis := rfl
@[simp] theorem State.modDie_sec (d : Nat) (f : DiePower → DiePower) : (s.modDie d f).sec = s.sec := rfl
@[simp] theorem State.modDie_tests (d : Nat) (f : DiePower → DiePower) : (s.modDie d f).tests = s.tests := rfl
@[simp] theorem State.modDie_act (d : Nat) (f : DiePower → DiePower) : (s.modDie d f).act = s.act := rfl
@[simp] theorem State.modDie_arrays (d : Nat) (f : DiePower → DiePower) : (s.modDie d f).arrays = s.arrays := rfl
@[simp] theorem State.modDie_comp (d : Nat) (f : DiePower → DiePower) : (s.modDie d f).comp = s.comp := rfl
@[simp] theorem State.modDie_portTx (d : Nat) (f : DiePower → DiePower) : (s.modDie d f).portTx = s.portTx := rfl
@[simp] theorem State.modDie_getReg (d : Nat) (f : DiePower → DiePower) (o : Nat) : (s.modDie d f).getReg o = s.getReg o := rfl
@[simp] theorem State.modDie_reg (d : Nat) (f : DiePower → DiePower) (o : Nat) : (s.modDie d f).reg o = s.reg o := rfl

/-! ### State.modTest -/
@[simp] theorem State.modTest_pending (i : Nat) (f : ArrayTest → ArrayTest) : (s.modTest i f).pending = s.pending := rfl
@[simp] theorem State.modTest_time (i : Nat) (f : ArrayTest → ArrayTest) : (s.modTest i f).time = s.time := rfl
@[simp] theorem State.modTest_freshIx (i : Nat) (f : ArrayTest → ArrayTest) : (s.modTest i f).freshIx = s.freshIx := rfl
@[simp] theorem State.modTest_regs (i : Nat) (f : ArrayTest → ArrayTest) : (s.modTest i f).regs = s.regs := rfl
@[simp] theorem State.modTest_rdShadow (i : Nat) (f : ArrayTest → ArrayTest) : (s.modTest i f).rdShadow = s.rdShadow := rfl
@[simp] theorem State.modTest_wrShadow (i : Nat) (f : ArrayTest → ArrayTest) : (s.modTest i f).wrShadow = s.wrShadow := rfl
@[simp] theorem State.modTest_mem (i : Nat) (f : ArrayTest → ArrayTest) : (s.modTest i f).mem = s.mem := rfl
@[simp] theorem State.modTest_poison (i : Nat) (f : ArrayTest → ArrayTest) : (s.modTest i f).poison = s.poison := rfl
@[simp] theorem State.modTest_hostTx (i : Nat) (f : ArrayTest → ArrayTest) : (s.modTest i f).hostTx = s.hostTx := rfl
@[simp] theorem State.modTest_nv (i : Nat) (f : ArrayTest → ArrayTest) : (s.modTest i f).nv = s.nv := rfl
@[simp] theorem State.modTest_boot (i : Nat) (f : ArrayTest → ArrayTest) : (s.modTest i f).boot = s.boot := rfl
@[simp] theorem State.modTest_fault (i : Nat) (f : ArrayTest → ArrayTest) : (s.modTest i f).fault = s.fault := rfl
@[simp] theorem State.modTest_rill (i : Nat) (f : ArrayTest → ArrayTest) : (s.modTest i f).rill = s.rill := rfl
@[simp] theorem State.modTest_queues (i : Nat) (f : ArrayTest → ArrayTest) : (s.modTest i f).queues = s.queues := rfl
@[simp] theorem State.modTest_intc (i : Nat) (f : ArrayTest → ArrayTest) : (s.modTest i f).intc = s.intc := rfl
@[simp] theorem State.modTest_pairs (i : Nat) (f : ArrayTest → ArrayTest) : (s.modTest i f).pairs = s.pairs := rfl
@[simp] theorem State.modTest_mailboxes (i : Nat) (f : ArrayTest → ArrayTest) : (s.modTest i f).mailboxes = s.mailboxes := rfl
@[simp] theorem State.modTest_cis (i : Nat) (f : ArrayTest → ArrayTest) : (s.modTest i f).cis = s.cis := rfl
@[simp] theorem State.modTest_sec (i : Nat) (f : ArrayTest → ArrayTest) : (s.modTest i f).sec = s.sec := rfl
@[simp] theorem State.modTest_act (i : Nat) (f : ArrayTest → ArrayTest) : (s.modTest i f).act = s.act := rfl
@[simp] theorem State.modTest_power (i : Nat) (f : ArrayTest → ArrayTest) : (s.modTest i f).power = s.power := rfl
@[simp] theorem State.modTest_arrays (i : Nat) (f : ArrayTest → ArrayTest) : (s.modTest i f).arrays = s.arrays := rfl
@[simp] theorem State.modTest_comp (i : Nat) (f : ArrayTest → ArrayTest) : (s.modTest i f).comp = s.comp := rfl
@[simp] theorem State.modTest_portTx (i : Nat) (f : ArrayTest → ArrayTest) : (s.modTest i f).portTx = s.portTx := rfl
@[simp] theorem State.modTest_tests (i : Nat) (f : ArrayTest → ArrayTest) : (s.modTest i f).tests = vmod s.tests i f := rfl
@[simp] theorem State.modTest_getReg (i : Nat) (f : ArrayTest → ArrayTest) (o : Nat) : (s.modTest i f).getReg o = s.getReg o := rfl
@[simp] theorem State.modTest_reg (i : Nat) (f : ArrayTest → ArrayTest) (o : Nat) : (s.modTest i f).reg o = s.reg o := rfl

/-! ### State.modArr -/
@[simp] theorem State.modArr_pending (i : Nat) (f : ArraySt → ArraySt) : (s.modArr i f).pending = s.pending := rfl
@[simp] theorem State.modArr_time (i : Nat) (f : ArraySt → ArraySt) : (s.modArr i f).time = s.time := rfl
@[simp] theorem State.modArr_freshIx (i : Nat) (f : ArraySt → ArraySt) : (s.modArr i f).freshIx = s.freshIx := rfl
@[simp] theorem State.modArr_regs (i : Nat) (f : ArraySt → ArraySt) : (s.modArr i f).regs = s.regs := rfl
@[simp] theorem State.modArr_rdShadow (i : Nat) (f : ArraySt → ArraySt) : (s.modArr i f).rdShadow = s.rdShadow := rfl
@[simp] theorem State.modArr_wrShadow (i : Nat) (f : ArraySt → ArraySt) : (s.modArr i f).wrShadow = s.wrShadow := rfl
@[simp] theorem State.modArr_mem (i : Nat) (f : ArraySt → ArraySt) : (s.modArr i f).mem = s.mem := rfl
@[simp] theorem State.modArr_poison (i : Nat) (f : ArraySt → ArraySt) : (s.modArr i f).poison = s.poison := rfl
@[simp] theorem State.modArr_hostTx (i : Nat) (f : ArraySt → ArraySt) : (s.modArr i f).hostTx = s.hostTx := rfl
@[simp] theorem State.modArr_nv (i : Nat) (f : ArraySt → ArraySt) : (s.modArr i f).nv = s.nv := rfl
@[simp] theorem State.modArr_boot (i : Nat) (f : ArraySt → ArraySt) : (s.modArr i f).boot = s.boot := rfl
@[simp] theorem State.modArr_fault (i : Nat) (f : ArraySt → ArraySt) : (s.modArr i f).fault = s.fault := rfl
@[simp] theorem State.modArr_rill (i : Nat) (f : ArraySt → ArraySt) : (s.modArr i f).rill = s.rill := rfl
@[simp] theorem State.modArr_queues (i : Nat) (f : ArraySt → ArraySt) : (s.modArr i f).queues = s.queues := rfl
@[simp] theorem State.modArr_intc (i : Nat) (f : ArraySt → ArraySt) : (s.modArr i f).intc = s.intc := rfl
@[simp] theorem State.modArr_pairs (i : Nat) (f : ArraySt → ArraySt) : (s.modArr i f).pairs = s.pairs := rfl
@[simp] theorem State.modArr_mailboxes (i : Nat) (f : ArraySt → ArraySt) : (s.modArr i f).mailboxes = s.mailboxes := rfl
@[simp] theorem State.modArr_cis (i : Nat) (f : ArraySt → ArraySt) : (s.modArr i f).cis = s.cis := rfl
@[simp] theorem State.modArr_sec (i : Nat) (f : ArraySt → ArraySt) : (s.modArr i f).sec = s.sec := rfl
@[simp] theorem State.modArr_tests (i : Nat) (f : ArraySt → ArraySt) : (s.modArr i f).tests = s.tests := rfl
@[simp] theorem State.modArr_act (i : Nat) (f : ArraySt → ArraySt) : (s.modArr i f).act = s.act := rfl
@[simp] theorem State.modArr_power (i : Nat) (f : ArraySt → ArraySt) : (s.modArr i f).power = s.power := rfl
@[simp] theorem State.modArr_comp (i : Nat) (f : ArraySt → ArraySt) : (s.modArr i f).comp = s.comp := rfl
@[simp] theorem State.modArr_portTx (i : Nat) (f : ArraySt → ArraySt) : (s.modArr i f).portTx = s.portTx := rfl
@[simp] theorem State.modArr_arrays (i : Nat) (f : ArraySt → ArraySt) : (s.modArr i f).arrays = vmod s.arrays i f := rfl
@[simp] theorem State.modArr_getReg (i : Nat) (f : ArraySt → ArraySt) (o : Nat) : (s.modArr i f).getReg o = s.getReg o := rfl
@[simp] theorem State.modArr_reg (i : Nat) (f : ArraySt → ArraySt) (o : Nat) : (s.modArr i f).reg o = s.reg o := rfl

/-! ### State.dropLearned -/
@[simp] theorem State.dropLearned_pending (pt : Nat) : (s.dropLearned pt).pending = s.pending := rfl
@[simp] theorem State.dropLearned_time (pt : Nat) : (s.dropLearned pt).time = s.time := rfl
@[simp] theorem State.dropLearned_freshIx (pt : Nat) : (s.dropLearned pt).freshIx = s.freshIx := rfl
@[simp] theorem State.dropLearned_regs (pt : Nat) : (s.dropLearned pt).regs = s.regs := rfl
@[simp] theorem State.dropLearned_rdShadow (pt : Nat) : (s.dropLearned pt).rdShadow = s.rdShadow := rfl
@[simp] theorem State.dropLearned_wrShadow (pt : Nat) : (s.dropLearned pt).wrShadow = s.wrShadow := rfl
@[simp] theorem State.dropLearned_mem (pt : Nat) : (s.dropLearned pt).mem = s.mem := rfl
@[simp] theorem State.dropLearned_poison (pt : Nat) : (s.dropLearned pt).poison = s.poison := rfl
@[simp] theorem State.dropLearned_hostTx (pt : Nat) : (s.dropLearned pt).hostTx = s.hostTx := rfl
@[simp] theorem State.dropLearned_nv (pt : Nat) : (s.dropLearned pt).nv = s.nv := rfl
@[simp] theorem State.dropLearned_boot (pt : Nat) : (s.dropLearned pt).boot = s.boot := rfl
@[simp] theorem State.dropLearned_fault (pt : Nat) : (s.dropLearned pt).fault = s.fault := rfl
@[simp] theorem State.dropLearned_rill (pt : Nat) : (s.dropLearned pt).rill = s.rill := rfl
@[simp] theorem State.dropLearned_queues (pt : Nat) : (s.dropLearned pt).queues = s.queues := rfl
@[simp] theorem State.dropLearned_intc (pt : Nat) : (s.dropLearned pt).intc = s.intc := rfl
@[simp] theorem State.dropLearned_pairs (pt : Nat) : (s.dropLearned pt).pairs = s.pairs := rfl
@[simp] theorem State.dropLearned_mailboxes (pt : Nat) : (s.dropLearned pt).mailboxes = s.mailboxes := rfl
@[simp] theorem State.dropLearned_cis (pt : Nat) : (s.dropLearned pt).cis = s.cis := rfl
@[simp] theorem State.dropLearned_sec (pt : Nat) : (s.dropLearned pt).sec = s.sec := rfl
@[simp] theorem State.dropLearned_tests (pt : Nat) : (s.dropLearned pt).tests = s.tests := rfl
@[simp] theorem State.dropLearned_act (pt : Nat) : (s.dropLearned pt).act = s.act := rfl
@[simp] theorem State.dropLearned_arrays (pt : Nat) : (s.dropLearned pt).arrays = s.arrays := rfl
@[simp] theorem State.dropLearned_comp (pt : Nat) : (s.dropLearned pt).comp = s.comp := rfl
@[simp] theorem State.dropLearned_portTx (pt : Nat) : (s.dropLearned pt).portTx = s.portTx := rfl
@[simp] theorem State.dropLearned_getReg (pt : Nat) (o : Nat) : (s.dropLearned pt).getReg o = s.getReg o := rfl
@[simp] theorem State.dropLearned_reg (pt : Nat) (o : Nat) : (s.dropLearned pt).reg o = s.reg o := rfl

/-! ### State.modComp -/
@[simp] theorem State.modComp_pending (f : Comp → Comp) : (s.modComp f).pending = s.pending := rfl
@[simp] theorem State.modComp_time (f : Comp → Comp) : (s.modComp f).time = s.time := rfl
@[simp] theorem State.modComp_freshIx (f : Comp → Comp) : (s.modComp f).freshIx = s.freshIx := rfl
@[simp] theorem State.modComp_regs (f : Comp → Comp) : (s.modComp f).regs = s.regs := rfl
@[simp] theorem State.modComp_rdShadow (f : Comp → Comp) : (s.modComp f).rdShadow = s.rdShadow := rfl
@[simp] theorem State.modComp_wrShadow (f : Comp → Comp) : (s.modComp f).wrShadow = s.wrShadow := rfl
@[simp] theorem State.modComp_mem (f : Comp → Comp) : (s.modComp f).mem = s.mem := rfl
@[simp] theorem State.modComp_poison (f : Comp → Comp) : (s.modComp f).poison = s.poison := rfl
@[simp] theorem State.modComp_hostTx (f : Comp → Comp) : (s.modComp f).hostTx = s.hostTx := rfl
@[simp] theorem State.modComp_nv (f : Comp → Comp) : (s.modComp f).nv = s.nv := rfl
@[simp] theorem State.modComp_boot (f : Comp → Comp) : (s.modComp f).boot = s.boot := rfl
@[simp] theorem State.modComp_fault (f : Comp → Comp) : (s.modComp f).fault = s.fault := rfl
@[simp] theorem State.modComp_rill (f : Comp → Comp) : (s.modComp f).rill = s.rill := rfl
@[simp] theorem State.modComp_queues (f : Comp → Comp) : (s.modComp f).queues = s.queues := rfl
@[simp] theorem State.modComp_intc (f : Comp → Comp) : (s.modComp f).intc = s.intc := rfl
@[simp] theorem State.modComp_pairs (f : Comp → Comp) : (s.modComp f).pairs = s.pairs := rfl
@[simp] theorem State.modComp_mailboxes (f : Comp → Comp) : (s.modComp f).mailboxes = s.mailboxes := rfl
@[simp] theorem State.modComp_cis (f : Comp → Comp) : (s.modComp f).cis = s.cis := rfl
@[simp] theorem State.modComp_sec (f : Comp → Comp) : (s.modComp f).sec = s.sec := rfl
@[simp] theorem State.modComp_tests (f : Comp → Comp) : (s.modComp f).tests = s.tests := rfl
@[simp] theorem State.modComp_act (f : Comp → Comp) : (s.modComp f).act = s.act := rfl
@[simp] theorem State.modComp_power (f : Comp → Comp) : (s.modComp f).power = s.power := rfl
@[simp] theorem State.modComp_arrays (f : Comp → Comp) : (s.modComp f).arrays = s.arrays := rfl
@[simp] theorem State.modComp_portTx (f : Comp → Comp) : (s.modComp f).portTx = s.portTx := rfl
@[simp] theorem State.modComp_comp (f : Comp → Comp) : (s.modComp f).comp = f s.comp := rfl
@[simp] theorem State.modComp_getReg (f : Comp → Comp) (o : Nat) : (s.modComp f).getReg o = s.getReg o := rfl
@[simp] theorem State.modComp_reg (f : Comp → Comp) (o : Nat) : (s.modComp f).reg o = s.reg o := rfl

/-! ### State.modWeir -/
@[simp] theorem State.modWeir_pending (f : Weir → Weir) : (s.modWeir f).pending = s.pending := rfl
@[simp] theorem State.modWeir_time (f : Weir → Weir) : (s.modWeir f).time = s.time := rfl
@[simp] theorem State.modWeir_freshIx (f : Weir → Weir) : (s.modWeir f).freshIx = s.freshIx := rfl
@[simp] theorem State.modWeir_regs (f : Weir → Weir) : (s.modWeir f).regs = s.regs := rfl
@[simp] theorem State.modWeir_rdShadow (f : Weir → Weir) : (s.modWeir f).rdShadow = s.rdShadow := rfl
@[simp] theorem State.modWeir_wrShadow (f : Weir → Weir) : (s.modWeir f).wrShadow = s.wrShadow := rfl
@[simp] theorem State.modWeir_mem (f : Weir → Weir) : (s.modWeir f).mem = s.mem := rfl
@[simp] theorem State.modWeir_poison (f : Weir → Weir) : (s.modWeir f).poison = s.poison := rfl
@[simp] theorem State.modWeir_hostTx (f : Weir → Weir) : (s.modWeir f).hostTx = s.hostTx := rfl
@[simp] theorem State.modWeir_nv (f : Weir → Weir) : (s.modWeir f).nv = s.nv := rfl
@[simp] theorem State.modWeir_boot (f : Weir → Weir) : (s.modWeir f).boot = s.boot := rfl
@[simp] theorem State.modWeir_fault (f : Weir → Weir) : (s.modWeir f).fault = s.fault := rfl
@[simp] theorem State.modWeir_rill (f : Weir → Weir) : (s.modWeir f).rill = s.rill := rfl
@[simp] theorem State.modWeir_queues (f : Weir → Weir) : (s.modWeir f).queues = s.queues := rfl
@[simp] theorem State.modWeir_intc (f : Weir → Weir) : (s.modWeir f).intc = s.intc := rfl
@[simp] theorem State.modWeir_pairs (f : Weir → Weir) : (s.modWeir f).pairs = s.pairs := rfl
@[simp] theorem State.modWeir_mailboxes (f : Weir → Weir) : (s.modWeir f).mailboxes = s.mailboxes := rfl
@[simp] theorem State.modWeir_cis (f : Weir → Weir) : (s.modWeir f).cis = s.cis := rfl
@[simp] theorem State.modWeir_sec (f : Weir → Weir) : (s.modWeir f).sec = s.sec := rfl
@[simp] theorem State.modWeir_tests (f : Weir → Weir) : (s.modWeir f).tests = s.tests := rfl
@[simp] theorem State.modWeir_act (f : Weir → Weir) : (s.modWeir f).act = s.act := rfl
@[simp] theorem State.modWeir_power (f : Weir → Weir) : (s.modWeir f).power = s.power := rfl
@[simp] theorem State.modWeir_arrays (f : Weir → Weir) : (s.modWeir f).arrays = s.arrays := rfl
@[simp] theorem State.modWeir_portTx (f : Weir → Weir) : (s.modWeir f).portTx = s.portTx := rfl
@[simp] theorem State.modWeir_getReg (f : Weir → Weir) (o : Nat) : (s.modWeir f).getReg o = s.getReg o := rfl
@[simp] theorem State.modWeir_reg (f : Weir → Weir) (o : Nat) : (s.modWeir f).reg o = s.reg o := rfl

/-! ### State.modPart -/
@[simp] theorem State.modPart_pending (pt : Nat) (f : Part → Part) : (s.modPart pt f).pending = s.pending := rfl
@[simp] theorem State.modPart_time (pt : Nat) (f : Part → Part) : (s.modPart pt f).time = s.time := rfl
@[simp] theorem State.modPart_freshIx (pt : Nat) (f : Part → Part) : (s.modPart pt f).freshIx = s.freshIx := rfl
@[simp] theorem State.modPart_regs (pt : Nat) (f : Part → Part) : (s.modPart pt f).regs = s.regs := rfl
@[simp] theorem State.modPart_rdShadow (pt : Nat) (f : Part → Part) : (s.modPart pt f).rdShadow = s.rdShadow := rfl
@[simp] theorem State.modPart_wrShadow (pt : Nat) (f : Part → Part) : (s.modPart pt f).wrShadow = s.wrShadow := rfl
@[simp] theorem State.modPart_mem (pt : Nat) (f : Part → Part) : (s.modPart pt f).mem = s.mem := rfl
@[simp] theorem State.modPart_poison (pt : Nat) (f : Part → Part) : (s.modPart pt f).poison = s.poison := rfl
@[simp] theorem State.modPart_hostTx (pt : Nat) (f : Part → Part) : (s.modPart pt f).hostTx = s.hostTx := rfl
@[simp] theorem State.modPart_nv (pt : Nat) (f : Part → Part) : (s.modPart pt f).nv = s.nv := rfl
@[simp] theorem State.modPart_boot (pt : Nat) (f : Part → Part) : (s.modPart pt f).boot = s.boot := rfl
@[simp] theorem State.modPart_fault (pt : Nat) (f : Part → Part) : (s.modPart pt f).fault = s.fault := rfl
@[simp] theorem State.modPart_rill (pt : Nat) (f : Part → Part) : (s.modPart pt f).rill = s.rill := rfl
@[simp] theorem State.modPart_queues (pt : Nat) (f : Part → Part) : (s.modPart pt f).queues = s.queues := rfl
@[simp] theorem State.modPart_intc (pt : Nat) (f : Part → Part) : (s.modPart pt f).intc = s.intc := rfl
@[simp] theorem State.modPart_pairs (pt : Nat) (f : Part → Part) : (s.modPart pt f).pairs = s.pairs := rfl
@[simp] theorem State.modPart_mailboxes (pt : Nat) (f : Part → Part) : (s.modPart pt f).mailboxes = s.mailboxes := rfl
@[simp] theorem State.modPart_cis (pt : Nat) (f : Part → Part) : (s.modPart pt f).cis = s.cis := rfl
@[simp] theorem State.modPart_sec (pt : Nat) (f : Part → Part) : (s.modPart pt f).sec = s.sec := rfl
@[simp] theorem State.modPart_tests (pt : Nat) (f : Part → Part) : (s.modPart pt f).tests = s.tests := rfl
@[simp] theorem State.modPart_act (pt : Nat) (f : Part → Part) : (s.modPart pt f).act = s.act := rfl
@[simp] theorem State.modPart_power (pt : Nat) (f : Part → Part) : (s.modPart pt f).power = s.power := rfl
@[simp] theorem State.modPart_arrays (pt : Nat) (f : Part → Part) : (s.modPart pt f).arrays = s.arrays := rfl
@[simp] theorem State.modPart_portTx (pt : Nat) (f : Part → Part) : (s.modPart pt f).portTx = s.portTx := rfl
@[simp] theorem State.modPart_getReg (pt : Nat) (f : Part → Part) (o : Nat) : (s.modPart pt f).getReg o = s.getReg o := rfl
@[simp] theorem State.modPart_reg (pt : Nat) (f : Part → Part) (o : Nat) : (s.modPart pt f).reg o = s.reg o := rfl

/-! ### State.modCasc -/
@[simp] theorem State.modCasc_pending (f : Cascade → Cascade) : (s.modCasc f).pending = s.pending := rfl
@[simp] theorem State.modCasc_time (f : Cascade → Cascade) : (s.modCasc f).time = s.time := rfl
@[simp] theorem State.modCasc_freshIx (f : Cascade → Cascade) : (s.modCasc f).freshIx = s.freshIx := rfl
@[simp] theorem State.modCasc_regs (f : Cascade → Cascade) : (s.modCasc f).regs = s.regs := rfl
@[simp] theorem State.modCasc_rdShadow (f : Cascade → Cascade) : (s.modCasc f).rdShadow = s.rdShadow := rfl
@[simp] theorem State.modCasc_wrShadow (f : Cascade → Cascade) : (s.modCasc f).wrShadow = s.wrShadow := rfl
@[simp] theorem State.modCasc_mem (f : Cascade → Cascade) : (s.modCasc f).mem = s.mem := rfl
@[simp] theorem State.modCasc_poison (f : Cascade → Cascade) : (s.modCasc f).poison = s.poison := rfl
@[simp] theorem State.modCasc_hostTx (f : Cascade → Cascade) : (s.modCasc f).hostTx = s.hostTx := rfl
@[simp] theorem State.modCasc_nv (f : Cascade → Cascade) : (s.modCasc f).nv = s.nv := rfl
@[simp] theorem State.modCasc_boot (f : Cascade → Cascade) : (s.modCasc f).boot = s.boot := rfl
@[simp] theorem State.modCasc_fault (f : Cascade → Cascade) : (s.modCasc f).fault = s.fault := rfl
@[simp] theorem State.modCasc_rill (f : Cascade → Cascade) : (s.modCasc f).rill = s.rill := rfl
@[simp] theorem State.modCasc_queues (f : Cascade → Cascade) : (s.modCasc f).queues = s.queues := rfl
@[simp] theorem State.modCasc_intc (f : Cascade → Cascade) : (s.modCasc f).intc = s.intc := rfl
@[simp] theorem State.modCasc_pairs (f : Cascade → Cascade) : (s.modCasc f).pairs = s.pairs := rfl
@[simp] theorem State.modCasc_mailboxes (f : Cascade → Cascade) : (s.modCasc f).mailboxes = s.mailboxes := rfl
@[simp] theorem State.modCasc_cis (f : Cascade → Cascade) : (s.modCasc f).cis = s.cis := rfl
@[simp] theorem State.modCasc_sec (f : Cascade → Cascade) : (s.modCasc f).sec = s.sec := rfl
@[simp] theorem State.modCasc_tests (f : Cascade → Cascade) : (s.modCasc f).tests = s.tests := rfl
@[simp] theorem State.modCasc_act (f : Cascade → Cascade) : (s.modCasc f).act = s.act := rfl
@[simp] theorem State.modCasc_power (f : Cascade → Cascade) : (s.modCasc f).power = s.power := rfl
@[simp] theorem State.modCasc_arrays (f : Cascade → Cascade) : (s.modCasc f).arrays = s.arrays := rfl
@[simp] theorem State.modCasc_portTx (f : Cascade → Cascade) : (s.modCasc f).portTx = s.portTx := rfl
@[simp] theorem State.modCasc_getReg (f : Cascade → Cascade) (o : Nat) : (s.modCasc f).getReg o = s.getReg o := rfl
@[simp] theorem State.modCasc_reg (f : Cascade → Cascade) (o : Nat) : (s.modCasc f).reg o = s.reg o := rfl

/-! ### State.modFab -/
@[simp] theorem State.modFab_pending (f : Fabric → Fabric) : (s.modFab f).pending = s.pending := rfl
@[simp] theorem State.modFab_time (f : Fabric → Fabric) : (s.modFab f).time = s.time := rfl
@[simp] theorem State.modFab_freshIx (f : Fabric → Fabric) : (s.modFab f).freshIx = s.freshIx := rfl
@[simp] theorem State.modFab_regs (f : Fabric → Fabric) : (s.modFab f).regs = s.regs := rfl
@[simp] theorem State.modFab_rdShadow (f : Fabric → Fabric) : (s.modFab f).rdShadow = s.rdShadow := rfl
@[simp] theorem State.modFab_wrShadow (f : Fabric → Fabric) : (s.modFab f).wrShadow = s.wrShadow := rfl
@[simp] theorem State.modFab_mem (f : Fabric → Fabric) : (s.modFab f).mem = s.mem := rfl
@[simp] theorem State.modFab_poison (f : Fabric → Fabric) : (s.modFab f).poison = s.poison := rfl
@[simp] theorem State.modFab_hostTx (f : Fabric → Fabric) : (s.modFab f).hostTx = s.hostTx := rfl
@[simp] theorem State.modFab_nv (f : Fabric → Fabric) : (s.modFab f).nv = s.nv := rfl
@[simp] theorem State.modFab_boot (f : Fabric → Fabric) : (s.modFab f).boot = s.boot := rfl
@[simp] theorem State.modFab_fault (f : Fabric → Fabric) : (s.modFab f).fault = s.fault := rfl
@[simp] theorem State.modFab_rill (f : Fabric → Fabric) : (s.modFab f).rill = s.rill := rfl
@[simp] theorem State.modFab_queues (f : Fabric → Fabric) : (s.modFab f).queues = s.queues := rfl
@[simp] theorem State.modFab_intc (f : Fabric → Fabric) : (s.modFab f).intc = s.intc := rfl
@[simp] theorem State.modFab_pairs (f : Fabric → Fabric) : (s.modFab f).pairs = s.pairs := rfl
@[simp] theorem State.modFab_mailboxes (f : Fabric → Fabric) : (s.modFab f).mailboxes = s.mailboxes := rfl
@[simp] theorem State.modFab_cis (f : Fabric → Fabric) : (s.modFab f).cis = s.cis := rfl
@[simp] theorem State.modFab_sec (f : Fabric → Fabric) : (s.modFab f).sec = s.sec := rfl
@[simp] theorem State.modFab_tests (f : Fabric → Fabric) : (s.modFab f).tests = s.tests := rfl
@[simp] theorem State.modFab_act (f : Fabric → Fabric) : (s.modFab f).act = s.act := rfl
@[simp] theorem State.modFab_power (f : Fabric → Fabric) : (s.modFab f).power = s.power := rfl
@[simp] theorem State.modFab_arrays (f : Fabric → Fabric) : (s.modFab f).arrays = s.arrays := rfl
@[simp] theorem State.modFab_portTx (f : Fabric → Fabric) : (s.modFab f).portTx = s.portTx := rfl
@[simp] theorem State.modFab_getReg (f : Fabric → Fabric) (o : Nat) : (s.modFab f).getReg o = s.getReg o := rfl
@[simp] theorem State.modFab_reg (f : Fabric → Fabric) (o : Nat) : (s.modFab f).reg o = s.reg o := rfl

/-! ### State.modJet -/
@[simp] theorem State.modJet_pending (i : Nat) (f : JetSt → JetSt) : (s.modJet i f).pending = s.pending := rfl
@[simp] theorem State.modJet_time (i : Nat) (f : JetSt → JetSt) : (s.modJet i f).time = s.time := rfl
@[simp] theorem State.modJet_freshIx (i : Nat) (f : JetSt → JetSt) : (s.modJet i f).freshIx = s.freshIx := rfl
@[simp] theorem State.modJet_regs (i : Nat) (f : JetSt → JetSt) : (s.modJet i f).regs = s.regs := rfl
@[simp] theorem State.modJet_rdShadow (i : Nat) (f : JetSt → JetSt) : (s.modJet i f).rdShadow = s.rdShadow := rfl
@[simp] theorem State.modJet_wrShadow (i : Nat) (f : JetSt → JetSt) : (s.modJet i f).wrShadow = s.wrShadow := rfl
@[simp] theorem State.modJet_mem (i : Nat) (f : JetSt → JetSt) : (s.modJet i f).mem = s.mem := rfl
@[simp] theorem State.modJet_poison (i : Nat) (f : JetSt → JetSt) : (s.modJet i f).poison = s.poison := rfl
@[simp] theorem State.modJet_hostTx (i : Nat) (f : JetSt → JetSt) : (s.modJet i f).hostTx = s.hostTx := rfl
@[simp] theorem State.modJet_nv (i : Nat) (f : JetSt → JetSt) : (s.modJet i f).nv = s.nv := rfl
@[simp] theorem State.modJet_boot (i : Nat) (f : JetSt → JetSt) : (s.modJet i f).boot = s.boot := rfl
@[simp] theorem State.modJet_fault (i : Nat) (f : JetSt → JetSt) : (s.modJet i f).fault = s.fault := rfl
@[simp] theorem State.modJet_rill (i : Nat) (f : JetSt → JetSt) : (s.modJet i f).rill = s.rill := rfl
@[simp] theorem State.modJet_queues (i : Nat) (f : JetSt → JetSt) : (s.modJet i f).queues = s.queues := rfl
@[simp] theorem State.modJet_intc (i : Nat) (f : JetSt → JetSt) : (s.modJet i f).intc = s.intc := rfl
@[simp] theorem State.modJet_pairs (i : Nat) (f : JetSt → JetSt) : (s.modJet i f).pairs = s.pairs := rfl
@[simp] theorem State.modJet_mailboxes (i : Nat) (f : JetSt → JetSt) : (s.modJet i f).mailboxes = s.mailboxes := rfl
@[simp] theorem State.modJet_cis (i : Nat) (f : JetSt → JetSt) : (s.modJet i f).cis = s.cis := rfl
@[simp] theorem State.modJet_sec (i : Nat) (f : JetSt → JetSt) : (s.modJet i f).sec = s.sec := rfl
@[simp] theorem State.modJet_tests (i : Nat) (f : JetSt → JetSt) : (s.modJet i f).tests = s.tests := rfl
@[simp] theorem State.modJet_act (i : Nat) (f : JetSt → JetSt) : (s.modJet i f).act = s.act := rfl
@[simp] theorem State.modJet_power (i : Nat) (f : JetSt → JetSt) : (s.modJet i f).power = s.power := rfl
@[simp] theorem State.modJet_arrays (i : Nat) (f : JetSt → JetSt) : (s.modJet i f).arrays = s.arrays := rfl
@[simp] theorem State.modJet_portTx (i : Nat) (f : JetSt → JetSt) : (s.modJet i f).portTx = s.portTx := rfl
@[simp] theorem State.modJet_getReg (i : Nat) (f : JetSt → JetSt) (o : Nat) : (s.modJet i f).getReg o = s.getReg o := rfl
@[simp] theorem State.modJet_reg (i : Nat) (f : JetSt → JetSt) (o : Nat) : (s.modJet i f).reg o = s.reg o := rfl

/-! ### State.writeMem -/
@[simp] theorem State.writeMem_pending (a : Nat) (bs : List Byte) : (s.writeMem a bs).pending = s.pending := rfl
@[simp] theorem State.writeMem_time (a : Nat) (bs : List Byte) : (s.writeMem a bs).time = s.time := rfl
@[simp] theorem State.writeMem_freshIx (a : Nat) (bs : List Byte) : (s.writeMem a bs).freshIx = s.freshIx := rfl
@[simp] theorem State.writeMem_regs (a : Nat) (bs : List Byte) : (s.writeMem a bs).regs = s.regs := rfl
@[simp] theorem State.writeMem_rdShadow (a : Nat) (bs : List Byte) : (s.writeMem a bs).rdShadow = s.rdShadow := rfl
@[simp] theorem State.writeMem_wrShadow (a : Nat) (bs : List Byte) : (s.writeMem a bs).wrShadow = s.wrShadow := rfl
@[simp] theorem State.writeMem_hostTx (a : Nat) (bs : List Byte) : (s.writeMem a bs).hostTx = s.hostTx := rfl
@[simp] theorem State.writeMem_nv (a : Nat) (bs : List Byte) : (s.writeMem a bs).nv = s.nv := rfl
@[simp] theorem State.writeMem_boot (a : Nat) (bs : List Byte) : (s.writeMem a bs).boot = s.boot := rfl
@[simp] theorem State.writeMem_fault (a : Nat) (bs : List Byte) : (s.writeMem a bs).fault = s.fault := rfl
@[simp] theorem State.writeMem_rill (a : Nat) (bs : List Byte) : (s.writeMem a bs).rill = s.rill := rfl
@[simp] theorem State.writeMem_queues (a : Nat) (bs : List Byte) : (s.writeMem a bs).queues = s.queues := rfl
@[simp] theorem State.writeMem_intc (a : Nat) (bs : List Byte) : (s.writeMem a bs).intc = s.intc := rfl
@[simp] theorem State.writeMem_pairs (a : Nat) (bs : List Byte) : (s.writeMem a bs).pairs = s.pairs := rfl
@[simp] theorem State.writeMem_mailboxes (a : Nat) (bs : List Byte) : (s.writeMem a bs).mailboxes = s.mailboxes := rfl
@[simp] theorem State.writeMem_cis (a : Nat) (bs : List Byte) : (s.writeMem a bs).cis = s.cis := rfl
@[simp] theorem State.writeMem_sec (a : Nat) (bs : List Byte) : (s.writeMem a bs).sec = s.sec := rfl
@[simp] theorem State.writeMem_tests (a : Nat) (bs : List Byte) : (s.writeMem a bs).tests = s.tests := rfl
@[simp] theorem State.writeMem_act (a : Nat) (bs : List Byte) : (s.writeMem a bs).act = s.act := rfl
@[simp] theorem State.writeMem_power (a : Nat) (bs : List Byte) : (s.writeMem a bs).power = s.power := rfl
@[simp] theorem State.writeMem_arrays (a : Nat) (bs : List Byte) : (s.writeMem a bs).arrays = s.arrays := rfl
@[simp] theorem State.writeMem_comp (a : Nat) (bs : List Byte) : (s.writeMem a bs).comp = s.comp := rfl
@[simp] theorem State.writeMem_portTx (a : Nat) (bs : List Byte) : (s.writeMem a bs).portTx = s.portTx := rfl
@[simp] theorem State.writeMem_getReg (a : Nat) (bs : List Byte) (o : Nat) : (s.writeMem a bs).getReg o = s.getReg o := rfl
@[simp] theorem State.writeMem_reg (a : Nat) (bs : List Byte) (o : Nat) : (s.writeMem a bs).reg o = s.reg o := rfl

/-! ### State.poisonAt -/
@[simp] theorem State.poisonAt_pending (a : Nat) : (s.poisonAt a).pending = s.pending := rfl
@[simp] theorem State.poisonAt_time (a : Nat) : (s.poisonAt a).time = s.time := rfl
@[simp] theorem State.poisonAt_freshIx (a : Nat) : (s.poisonAt a).freshIx = s.freshIx := rfl
@[simp] theorem State.poisonAt_regs (a : Nat) : (s.poisonAt a).regs = s.regs := rfl
@[simp] theorem State.poisonAt_rdShadow (a : Nat) : (s.poisonAt a).rdShadow = s.rdShadow := rfl
@[simp] theorem State.poisonAt_wrShadow (a : Nat) : (s.poisonAt a).wrShadow = s.wrShadow := rfl
@[simp] theorem State.poisonAt_mem (a : Nat) : (s.poisonAt a).mem = s.mem := rfl
@[simp] theorem State.poisonAt_hostTx (a : Nat) : (s.poisonAt a).hostTx = s.hostTx := rfl
@[simp] theorem State.poisonAt_nv (a : Nat) : (s.poisonAt a).nv = s.nv := rfl
@[simp] theorem State.poisonAt_boot (a : Nat) : (s.poisonAt a).boot = s.boot := rfl
@[simp] theorem State.poisonAt_fault (a : Nat) : (s.poisonAt a).fault = s.fault := rfl
@[simp] theorem State.poisonAt_rill (a : Nat) : (s.poisonAt a).rill = s.rill := rfl
@[simp] theorem State.poisonAt_queues (a : Nat) : (s.poisonAt a).queues = s.queues := rfl
@[simp] theorem State.poisonAt_intc (a : Nat) : (s.poisonAt a).intc = s.intc := rfl
@[simp] theorem State.poisonAt_pairs (a : Nat) : (s.poisonAt a).pairs = s.pairs := rfl
@[simp] theorem State.poisonAt_mailboxes (a : Nat) : (s.poisonAt a).mailboxes = s.mailboxes := rfl
@[simp] theorem State.poisonAt_cis (a : Nat) : (s.poisonAt a).cis = s.cis := rfl
@[simp] theorem State.poisonAt_sec (a : Nat) : (s.poisonAt a).sec = s.sec := rfl
@[simp] theorem State.poisonAt_tests (a : Nat) : (s.poisonAt a).tests = s.tests := rfl
@[simp] theorem State.poisonAt_act (a : Nat) : (s.poisonAt a).act = s.act := rfl
@[simp] theorem State.poisonAt_power (a : Nat) : (s.poisonAt a).power = s.power := rfl
@[simp] theorem State.poisonAt_arrays (a : Nat) : (s.poisonAt a).arrays = s.arrays := rfl
@[simp] theorem State.poisonAt_comp (a : Nat) : (s.poisonAt a).comp = s.comp := rfl
@[simp] theorem State.poisonAt_portTx (a : Nat) : (s.poisonAt a).portTx = s.portTx := rfl
@[simp] theorem State.poisonAt_getReg (a : Nat) (o : Nat) : (s.poisonAt a).getReg o = s.getReg o := rfl
@[simp] theorem State.poisonAt_reg (a : Nat) (o : Nat) : (s.poisonAt a).reg o = s.reg o := rfl

/-! ### State.scrubMem -/
@[simp] theorem State.scrubMem_pending (p : Nat → Bool) : (s.scrubMem p).pending = s.pending := rfl
@[simp] theorem State.scrubMem_time (p : Nat → Bool) : (s.scrubMem p).time = s.time := rfl
@[simp] theorem State.scrubMem_freshIx (p : Nat → Bool) : (s.scrubMem p).freshIx = s.freshIx := rfl
@[simp] theorem State.scrubMem_regs (p : Nat → Bool) : (s.scrubMem p).regs = s.regs := rfl
@[simp] theorem State.scrubMem_rdShadow (p : Nat → Bool) : (s.scrubMem p).rdShadow = s.rdShadow := rfl
@[simp] theorem State.scrubMem_wrShadow (p : Nat → Bool) : (s.scrubMem p).wrShadow = s.wrShadow := rfl
@[simp] theorem State.scrubMem_hostTx (p : Nat → Bool) : (s.scrubMem p).hostTx = s.hostTx := rfl
@[simp] theorem State.scrubMem_nv (p : Nat → Bool) : (s.scrubMem p).nv = s.nv := rfl
@[simp] theorem State.scrubMem_boot (p : Nat → Bool) : (s.scrubMem p).boot = s.boot := rfl
@[simp] theorem State.scrubMem_fault (p : Nat → Bool) : (s.scrubMem p).fault = s.fault := rfl
@[simp] theorem State.scrubMem_rill (p : Nat → Bool) : (s.scrubMem p).rill = s.rill := rfl
@[simp] theorem State.scrubMem_queues (p : Nat → Bool) : (s.scrubMem p).queues = s.queues := rfl
@[simp] theorem State.scrubMem_intc (p : Nat → Bool) : (s.scrubMem p).intc = s.intc := rfl
@[simp] theorem State.scrubMem_pairs (p : Nat → Bool) : (s.scrubMem p).pairs = s.pairs := rfl
@[simp] theorem State.scrubMem_mailboxes (p : Nat → Bool) : (s.scrubMem p).mailboxes = s.mailboxes := rfl
@[simp] theorem State.scrubMem_cis (p : Nat → Bool) : (s.scrubMem p).cis = s.cis := rfl
@[simp] theorem State.scrubMem_sec (p : Nat → Bool) : (s.scrubMem p).sec = s.sec := rfl
@[simp] theorem State.scrubMem_tests (p : Nat → Bool) : (s.scrubMem p).tests = s.tests := rfl
@[simp] theorem State.scrubMem_act (p : Nat → Bool) : (s.scrubMem p).act = s.act := rfl
@[simp] theorem State.scrubMem_power (p : Nat → Bool) : (s.scrubMem p).power = s.power := rfl
@[simp] theorem State.scrubMem_arrays (p : Nat → Bool) : (s.scrubMem p).arrays = s.arrays := rfl
@[simp] theorem State.scrubMem_comp (p : Nat → Bool) : (s.scrubMem p).comp = s.comp := rfl
@[simp] theorem State.scrubMem_portTx (p : Nat → Bool) : (s.scrubMem p).portTx = s.portTx := rfl
@[simp] theorem State.scrubMem_getReg (p : Nat → Bool) (o : Nat) : (s.scrubMem p).getReg o = s.getReg o := rfl
@[simp] theorem State.scrubMem_reg (p : Nat → Bool) (o : Nat) : (s.scrubMem p).reg o = s.reg o := rfl

/-! ### State.resetRegs -/
@[simp] theorem State.resetRegs_pending (p : Nat → Bool) : (s.resetRegs p).pending = s.pending := rfl
@[simp] theorem State.resetRegs_time (p : Nat → Bool) : (s.resetRegs p).time = s.time := rfl
@[simp] theorem State.resetRegs_freshIx (p : Nat → Bool) : (s.resetRegs p).freshIx = s.freshIx := rfl
@[simp] theorem State.resetRegs_mem (p : Nat → Bool) : (s.resetRegs p).mem = s.mem := rfl
@[simp] theorem State.resetRegs_poison (p : Nat → Bool) : (s.resetRegs p).poison = s.poison := rfl
@[simp] theorem State.resetRegs_hostTx (p : Nat → Bool) : (s.resetRegs p).hostTx = s.hostTx := rfl
@[simp] theorem State.resetRegs_nv (p : Nat → Bool) : (s.resetRegs p).nv = s.nv := rfl
@[simp] theorem State.resetRegs_boot (p : Nat → Bool) : (s.resetRegs p).boot = s.boot := rfl
@[simp] theorem State.resetRegs_fault (p : Nat → Bool) : (s.resetRegs p).fault = s.fault := rfl
@[simp] theorem State.resetRegs_rill (p : Nat → Bool) : (s.resetRegs p).rill = s.rill := rfl
@[simp] theorem State.resetRegs_queues (p : Nat → Bool) : (s.resetRegs p).queues = s.queues := rfl
@[simp] theorem State.resetRegs_intc (p : Nat → Bool) : (s.resetRegs p).intc = s.intc := rfl
@[simp] theorem State.resetRegs_pairs (p : Nat → Bool) : (s.resetRegs p).pairs = s.pairs := rfl
@[simp] theorem State.resetRegs_mailboxes (p : Nat → Bool) : (s.resetRegs p).mailboxes = s.mailboxes := rfl
@[simp] theorem State.resetRegs_cis (p : Nat → Bool) : (s.resetRegs p).cis = s.cis := rfl
@[simp] theorem State.resetRegs_sec (p : Nat → Bool) : (s.resetRegs p).sec = s.sec := rfl
@[simp] theorem State.resetRegs_tests (p : Nat → Bool) : (s.resetRegs p).tests = s.tests := rfl
@[simp] theorem State.resetRegs_act (p : Nat → Bool) : (s.resetRegs p).act = s.act := rfl
@[simp] theorem State.resetRegs_power (p : Nat → Bool) : (s.resetRegs p).power = s.power := rfl
@[simp] theorem State.resetRegs_arrays (p : Nat → Bool) : (s.resetRegs p).arrays = s.arrays := rfl
@[simp] theorem State.resetRegs_comp (p : Nat → Bool) : (s.resetRegs p).comp = s.comp := rfl
@[simp] theorem State.resetRegs_portTx (p : Nat → Bool) : (s.resetRegs p).portTx = s.portTx := rfl

/-! ### State.putHost -/
@[simp] theorem State.putHost_pending (m : HostMsg) : (s.putHost m).pending = s.pending := rfl
@[simp] theorem State.putHost_time (m : HostMsg) : (s.putHost m).time = s.time := rfl
@[simp] theorem State.putHost_freshIx (m : HostMsg) : (s.putHost m).freshIx = s.freshIx := rfl
@[simp] theorem State.putHost_regs (m : HostMsg) : (s.putHost m).regs = s.regs := rfl
@[simp] theorem State.putHost_rdShadow (m : HostMsg) : (s.putHost m).rdShadow = s.rdShadow := rfl
@[simp] theorem State.putHost_wrShadow (m : HostMsg) : (s.putHost m).wrShadow = s.wrShadow := rfl
@[simp] theorem State.putHost_mem (m : HostMsg) : (s.putHost m).mem = s.mem := rfl
@[simp] theorem State.putHost_poison (m : HostMsg) : (s.putHost m).poison = s.poison := rfl
@[simp] theorem State.putHost_nv (m : HostMsg) : (s.putHost m).nv = s.nv := rfl
@[simp] theorem State.putHost_boot (m : HostMsg) : (s.putHost m).boot = s.boot := rfl
@[simp] theorem State.putHost_fault (m : HostMsg) : (s.putHost m).fault = s.fault := rfl
@[simp] theorem State.putHost_queues (m : HostMsg) : (s.putHost m).queues = s.queues := rfl
@[simp] theorem State.putHost_intc (m : HostMsg) : (s.putHost m).intc = s.intc := rfl
@[simp] theorem State.putHost_pairs (m : HostMsg) : (s.putHost m).pairs = s.pairs := rfl
@[simp] theorem State.putHost_mailboxes (m : HostMsg) : (s.putHost m).mailboxes = s.mailboxes := rfl
@[simp] theorem State.putHost_cis (m : HostMsg) : (s.putHost m).cis = s.cis := rfl
@[simp] theorem State.putHost_sec (m : HostMsg) : (s.putHost m).sec = s.sec := rfl
@[simp] theorem State.putHost_tests (m : HostMsg) : (s.putHost m).tests = s.tests := rfl
@[simp] theorem State.putHost_act (m : HostMsg) : (s.putHost m).act = s.act := rfl
@[simp] theorem State.putHost_power (m : HostMsg) : (s.putHost m).power = s.power := rfl
@[simp] theorem State.putHost_arrays (m : HostMsg) : (s.putHost m).arrays = s.arrays := rfl
@[simp] theorem State.putHost_comp (m : HostMsg) : (s.putHost m).comp = s.comp := rfl
@[simp] theorem State.putHost_portTx (m : HostMsg) : (s.putHost m).portTx = s.portTx := rfl
@[simp] theorem State.putHost_getReg (m : HostMsg) (o : Nat) : (s.putHost m).getReg o = s.getReg o := rfl
@[simp] theorem State.putHost_reg (m : HostMsg) (o : Nat) : (s.putHost m).reg o = s.reg o := rfl

/-! ### Vectors -/

@[simp] theorem vget_vmod_same {α : Type} {n : Nat} (v : Vector α (n + 1)) (i : Nat) (f : α → α) :
    vget (vmod v i f) i = f (vget v i) := by simp [vget, vmod]
theorem vget_vmod_ne {α : Type} {n : Nat} (v : Vector α (n + 1)) (i j : Nat) (f : α → α) (h : i % (n + 1) ≠ j % (n + 1)) :
    vget (vmod v i f) j = vget v j := by simp [vget, vmod, h]

end Sys2Proof.Machine
end

