-- ==== Sys2Proof/Laws/Ops.lean ====
section
/-! SUPPORT. Laws/Ops.lean: what the shared operations that post, signal, count and report can change, said once for each. -/
namespace Sys2Proof.Machine

/-! ### Storing a register -/

theorem State.canonical_setReg {s : State} (off : Nat) (v : Word) (h : s.Canonical) : (s.setReg off v).Canonical :=
  ⟨h.1, s.setReg_regs_wf off v h.2.1, h.2.2⟩

theorem State.canonical_put {s : State} (off v : Nat) (h : s.Canonical) : (s.put off v).Canonical := s.canonical_setReg off _ h

theorem State.canonical_bump {s : State} (off n : Nat) (h : s.Canonical) : (s.bump off n).Canonical := s.canonical_setReg off _ h

theorem State.canonical_put64 {s : State} (lo v : Nat) (h : s.Canonical) : (s.put64 lo v).Canonical :=
  State.canonical_put _ _ (s.canonical_put _ _ h)

theorem State.canonical_orReg {s : State} (off v : Nat) (h : s.Canonical) : (s.orReg off v).Canonical := s.canonical_setReg off _ h

/-- A stored register reads as stored, at every offset that is its home. -/
theorem State.reg_put_same {s : State} (off v : Nat) (h : s.Canonical) : (s.put off v).reg off = v % 2 ^ 32 := by
  have e : (s.put off v).getReg off = wd v := s.getReg_setReg_same off _ h.2.1
  simp [State.reg, e, wd]

theorem State.getReg_put_ne {s : State} (off o v : Nat) (h : s.Canonical) (hne : regHome o ≠ regHome off) :
    (s.put off v).getReg o = s.getReg o := s.getReg_setReg_ne off o _ h.2.1 hne

theorem State.getReg_bump_ne {s : State} (off o n : Nat) (h : s.Canonical) (hne : regHome o ≠ regHome off) :
    (s.bump off n).getReg o = s.getReg o := s.getReg_setReg_ne off o _ h.2.1 hne

/-! ### Repetition -/

/-- What every step of a repetition keeps, the repetition keeps. -/
theorem forEach_keeps {α σ : Type} {P : σ → Prop} (f : α → σ → σ) : ∀ (l : List α) (s : σ), P s → (∀ x ∈ l, ∀ s, P s → P (f x s)) →
    P (forEach l f s)
  | [], _, h, _ => h
  | a :: l, s, h, hf =>
    forEach_keeps f l (f a s) (hf a List.mem_cons_self s h) (fun x hx => hf x (List.mem_cons_of_mem a hx))

/-! ### Posting (R325 to R336, R470) -/

/-- Homes of the registers that posting can count in: RILL_DMAREF, and the counts of lost events. -/
def PostReg (o : Nat) : Prop := o = regHome Reg.rillDmaref ∨ ∃ q, o = regHome (evLostReg q)

/-- What posting to the host can change: the link's transmit side and the event queues, the queues of the partitions, the interrupt
controller's pending sources, and the counts of PostReg. -/
structure Posts (s t : State) : Prop where
  rest : { t with regs := s.regs, rill := s.rill, hostTx := s.hostTx, queues := s.queues, intc := s.intc } = s
  link : { t.rill with txBytes := s.rill.txBytes, creditReq := s.rill.creditReq, nextTag := s.rill.nextTag,
                       outst := s.rill.outst, waiting := s.rill.waiting, held := s.rill.held, meq := s.rill.meq } = s.rill
  canon : s.Canonical → t.Canonical
  regs : s.Canonical → ∀ o, ¬ PostReg (regHome o) → t.getReg o = s.getReg o

theorem Posts.refl (s : State) : Posts s s := ⟨rfl, rfl, fun h => h, fun _ _ _ => rfl⟩

theorem Posts.trans {s t u : State} (a : Posts s t) (b : Posts t u) : Posts s u where
  rest := by
    have h1 := a.rest; have h2 := b.rest
    rw [← h2] at h1
    exact h1
  link := by
    have h1 := a.link; have h2 := b.link
    rw [← h2] at h1
    exact h1
  canon h := b.canon (a.canon h)
  regs h o ho := (b.regs (a.canon h) o ho).trans (a.regs h o ho)

theorem Posts.mem {s t : State} (h : Posts s t) : t.mem = s.mem := (congrArg State.mem h.rest :)
theorem Posts.poison {s t : State} (h : Posts s t) : t.poison = s.poison := (congrArg State.poison h.rest :)
theorem Posts.comp {s t : State} (h : Posts s t) : t.comp = s.comp := (congrArg State.comp h.rest :)
theorem Posts.nv {s t : State} (h : Posts s t) : t.nv = s.nv := (congrArg State.nv h.rest :)
theorem Posts.boot {s t : State} (h : Posts s t) : t.boot = s.boot := (congrArg State.boot h.rest :)
theorem Posts.time {s t : State} (h : Posts s t) : t.time = s.time := (congrArg State.time h.rest :)
theorem Posts.cis {s t : State} (h : Posts s t) : t.cis = s.cis := (congrArg State.cis h.rest :)
theorem Posts.sec {s t : State} (h : Posts s t) : t.sec = s.sec := (congrArg State.sec h.rest :)
theorem Posts.fault {s t : State} (h : Posts s t) : t.fault = s.fault := (congrArg State.fault h.rest :)
theorem Posts.power {s t : State} (h : Posts s t) : t.power = s.power := (congrArg State.power h.rest :)
theorem Posts.arrays {s t : State} (h : Posts s t) : t.arrays = s.arrays := (congrArg State.arrays h.rest :)
theorem Posts.tests {s t : State} (h : Posts s t) : t.tests = s.tests := (congrArg State.tests h.rest :)
theorem Posts.act {s t : State} (h : Posts s t) : t.act = s.act := (congrArg State.act h.rest :)
theorem Posts.pairs {s t : State} (h : Posts s t) : t.pairs = s.pairs := (congrArg State.pairs h.rest :)
theorem Posts.mailboxes {s t : State} (h : Posts s t) : t.mailboxes = s.mailboxes := (congrArg State.mailboxes h.rest :)
theorem Posts.pending {s t : State} (h : Posts s t) : t.pending = s.pending := (congrArg State.pending h.rest :)
theorem Posts.portTx {s t : State} (h : Posts s t) : t.portTx = s.portTx := (congrArg State.portTx h.rest :)
theorem Posts.freshIx {s t : State} (h : Posts s t) : t.freshIx = s.freshIx := (congrArg State.freshIx h.rest :)
theorem Posts.up {s t : State} (h : Posts s t) : t.rill.up = s.rill.up := (congrArg Rill.up h.link :)
theorem Posts.stage {s t : State} (h : Posts s t) : t.rill.stage = s.rill.stage := (congrArg Rill.stage h.link :)
theorem Posts.sameMemory {s t : State} (h : Posts s t) : SameMemory s t := ⟨fun a => by rw [h.mem], h.poison⟩

/-- A change of the posting parts alone is a posting. -/
theorem Posts.of {s t : State}
    (rest : { t with rill := s.rill, hostTx := s.hostTx, queues := s.queues, intc := s.intc } = s)
    (link : { t.rill with txBytes := s.rill.txBytes, creditReq := s.rill.creditReq, nextTag := s.rill.nextTag,
                          outst := s.rill.outst, waiting := s.rill.waiting, held := s.rill.held, meq := s.rill.meq } = s.rill) :
    Posts s t where
  rest := by
    have hr : t.regs = s.regs := (congrArg State.regs rest :)
    rw [← hr]
    exact rest
  link := link
  canon h := by
    have hm : t.mem = s.mem := (congrArg State.mem rest :)
    have hr : t.regs = s.regs := (congrArg State.regs rest :)
    have hp : t.poison = s.poison := (congrArg State.poison rest :)
    simpa [State.Canonical, hm, hr, hp] using h
  regs _ o _ := by
    have hr : t.regs = s.regs := (congrArg State.regs rest :)
    simp [State.getReg, hr]

theorem Posts.bump {s : State} (off n : Nat) (h : PostReg (regHome off)) : Posts s (s.bump off n) where
  rest := rfl
  link := rfl
  canon := s.canonical_bump off n
  regs hc o ho := s.getReg_bump_ne off o n hc (fun e => ho (e ▸ h))

theorem State.posts_putHost (s : State) (m : HostMsg) : Posts s (s.putHost m) := .of rfl rfl

theorem State.posts_sendHost (s : State) (m : HostMsg) : Posts s (s.sendHost m) := by
  unfold State.sendHost
  split
  · exact s.posts_putHost m
  · exact .of rfl rfl

theorem State.posts_memWr1 (s : State) (owner : Option Nat) (addr : Nat) (data : List Byte) (why : Purpose) :
    Posts s (s.memWr1 owner addr data why) := by
  unfold State.memWr1
  split
  · exact .bump _ _ (.inl rfl)
  · exact ((Posts.of rfl rfl : Posts s s.takeTag.2).trans (s.takeTag.2.posts_sendHost _)).trans (.of rfl rfl)

theorem State.posts_memWrAll : ∀ (k : Nat) (s : State) (owner : Option Nat) (addr : Nat) (data : List Byte) (why : Purpose),
    Posts s (State.memWrAll k s owner addr data why)
  | 0, s, _, _, _, _ => .refl s
  | k + 1, s, owner, addr, data, why => by
    unfold State.memWrAll
    split
    · exact .refl s
    · exact (s.posts_memWr1 owner addr _ why).trans (State.posts_memWrAll k _ owner _ _ why)

theorem State.posts_pumpReads : ∀ (k : Nat) (s : State), Posts s (State.pumpReads k s)
  | 0, s => .refl s
  | k + 1, s => by
    unfold State.pumpReads
    split
    · exact .refl s
    · rename_i m rest _
      split
      · exact .refl s
      · have h0 : Posts s { s with rill := { s.rill with waiting := rest } } := .of rfl rfl
        refine h0.trans ?_
        generalize ({ s with rill := { s.rill with waiting := rest } } : State) = u
        refine Posts.trans ?_ (State.posts_pumpReads k _)
        dsimp only
        split
        · exact .bump _ _ (.inl rfl)
        · exact ((Posts.of rfl rfl : Posts u u.takeTag.2).trans (u.takeTag.2.posts_sendHost _)).trans (.of rfl rfl)

theorem State.posts_memRdAll (s : State) (owner : Option Nat) (addr len : Nat) (why : Nat → Purpose) :
    Posts s (s.memRdAll owner addr len why) := by
  unfold State.memRdAll
  dsimp only
  refine Posts.trans ?_ (State.posts_pumpReads _ _)
  exact .of rfl rfl

/-- Changing a ring of the host's queues is a posting; the error ring belongs to the fault aggregator. -/
theorem State.posts_modRing (s : State) (id : RingId) (f : Ring → Ring) (h : id ≠ .faultRing) : Posts s (s.modRing id f) := by
  cases id with
  | faultRing => exact absurd rfl h
  | _ => exact .of rfl rfl

theorem State.posts_ringSignal (s : State) (id : RingId) (now : Bool) (h : id ≠ .faultRing) : Posts s (s.ringSignal id now) := by
  unfold State.ringSignal
  dsimp only
  split
  · exact (s.posts_sendHost _).trans (State.posts_modRing _ id _ h)
  · exact .refl s

theorem State.posts_ringPost (s : State) (id : RingId) (entry : Bool → List Byte) (why : Purpose) (h : id ≠ .faultRing) :
    Posts s (s.ringPost id entry why) := by
  unfold State.ringPost
  exact ((s.posts_memWr1 _ _ _ why).trans (State.posts_modRing _ id _ h)).trans (State.posts_ringSignal _ id _ h)

theorem State.posts_modEvq (s : State) (q : Option Nat) (f : EvQueue → EvQueue) : Posts s (s.modEvq q f) := by
  cases q <;> exact .of rfl rfl

theorem evRing_ne (q : Option Nat) : evRing q ≠ .faultRing := by cases q <;> simp [evRing]

theorem State.posts_postEntry (s : State) (q : Option Nat) (e : Event) : Posts s (s.postEntry q e) := by
  unfold State.postEntry
  exact (s.posts_modEvq q _).trans (State.posts_ringPost _ _ _ _ (evRing_ne q))

theorem State.posts_drainEvents : ∀ (k : Nat) (s : State) (q : Option Nat), Posts s (State.drainEvents k s q)
  | 0, s, _ => .refl s
  | k + 1, s, q => by
    unfold State.drainEvents
    dsimp only
    split
    · exact .refl s
    · split
      · exact ((s.posts_modEvq q _).trans (State.posts_postEntry _ q _)).trans (State.posts_drainEvents k _ q)
      · split
        · exact .refl s
        · exact ((s.posts_modEvq q _).trans (State.posts_postEntry _ q _)).trans (State.posts_drainEvents k _ q)

/-- Raising an event (R335). -/
theorem State.posts_event (s : State) (q : Option Nat) (e : Event) : Posts s (s.event q e) := by
  unfold State.event
  dsimp only
  refine Posts.trans ?_ (State.posts_drainEvents _ _ q)
  split
  · exact s.posts_modEvq q _
  · exact (s.posts_modEvq q _).trans (.bump _ _ (.inr ⟨q, rfl⟩))

theorem State.posts_ptEvent (s : State) (pt code : Nat) (body : List Byte) : Posts s (s.ptEvent pt code body) := s.posts_event _ _
theorem State.posts_modEvent (s : State) (code : Nat) (body : List Byte) : Posts s (s.modEvent code body) := s.posts_event _ _

theorem State.posts_postIntr (s : State) (n : Nat) : Posts s (s.postIntr n) := by
  unfold State.postIntr
  split
  · dsimp only
    refine Posts.trans ?_ (State.posts_event _ _ _)
    exact .of rfl rfl
  · exact .refl s

/-- A source fires (R465, R470). -/
theorem State.posts_fire (s : State) (n : Nat) : Posts s (s.fire n) := by
  unfold State.fire
  dsimp only
  refine Posts.trans ?_ (State.posts_postIntr _ n)
  exact .of rfl rfl

theorem State.posts_postIntrs (s : State) : Posts s s.postIntrs := by
  unfold State.postIntrs
  exact forEach_keeps (P := fun t => Posts s t) _ _ s (.refl s) (fun n _ t h => h.trans (t.posts_postIntr n))

/-! ### Reports (R355 to R368) -/

/-- Homes of the registers that a report can count in, beside those of posting. -/
def ReportReg (o : Nat) : Prop :=
  PostReg o ∨ o = regHome Reg.faultCand ∨ o = regHome Reg.faultTrackevict ∨ ∃ v, o = regHome (Reg.faultLost v)

/-- What placing records and counting faults can change: the fault aggregator, and what posting can. -/
structure Reports (s t : State) : Prop where
  rest : { t with regs := s.regs, rill := s.rill, hostTx := s.hostTx, queues := s.queues, intc := s.intc, fault := s.fault } = s
  link : { t.rill with txBytes := s.rill.txBytes, creditReq := s.rill.creditReq, nextTag := s.rill.nextTag,
                       outst := s.rill.outst, waiting := s.rill.waiting, held := s.rill.held, meq := s.rill.meq } = s.rill
  canon : s.Canonical → t.Canonical
  regs : s.Canonical → ∀ o, ¬ ReportReg (regHome o) → t.getReg o = s.getReg o

theorem Reports.refl (s : State) : Reports s s := ⟨rfl, rfl, fun h => h, fun _ _ _ => rfl⟩

theorem Reports.trans {s t u : State} (a : Reports s t) (b : Reports t u) : Reports s u where
  rest := by
    have h1 := a.rest; have h2 := b.rest
    rw [← h2] at h1
    exact h1
  link := by
    have h1 := a.link; have h2 := b.link
    rw [← h2] at h1
    exact h1
  canon h := b.canon (a.canon h)
  regs h o ho := (b.regs (a.canon h) o ho).trans (a.regs h o ho)

theorem Posts.reports {s t : State} (h : Posts s t) : Reports s t where
  rest := by
    have hf := h.fault
    have hr := h.rest
    rw [← hf]
    exact hr
  link := h.link
  canon := h.canon
  regs hc o ho := h.regs hc o (fun hp => ho (.inl hp))

theorem Reports.mem {s t : State} (h : Reports s t) : t.mem = s.mem := (congrArg State.mem h.rest :)
theorem Reports.poison {s t : State} (h : Reports s t) : t.poison = s.poison := (congrArg State.poison h.rest :)
theorem Reports.comp {s t : State} (h : Reports s t) : t.comp = s.comp := (congrArg State.comp h.rest :)
theorem Reports.nv {s t : State} (h : Reports s t) : t.nv = s.nv := (congrArg State.nv h.rest :)
theorem Reports.boot {s t : State} (h : Reports s t) : t.boot = s.boot := (congrArg State.boot h.rest :)
theorem Reports.time {s t : State} (h : Reports s t) : t.time = s.time := (congrArg State.time h.rest :)
theorem Reports.cis {s t : State} (h : Reports s t) : t.cis = s.cis := (congrArg State.cis h.rest :)
theorem Reports.sec {s t : State} (h : Reports s t) : t.sec = s.sec := (congrArg State.sec h.rest :)
theorem Reports.power {s t : State} (h : Reports s t) : t.power = s.power := (congrArg State.power h.rest :)
theorem Reports.arrays {s t : State} (h : Reports s t) : t.arrays = s.arrays := (congrArg State.arrays h.rest :)
theorem Reports.tests {s t : State} (h : Reports s t) : t.tests = s.tests := (congrArg State.tests h.rest :)
theorem Reports.act {s t : State} (h : Reports s t) : t.act = s.act := (congrArg State.act h.rest :)
theorem Reports.pairs {s t : State} (h : Reports s t) : t.pairs = s.pairs := (congrArg State.pairs h.rest :)
theorem Reports.mailboxes {s t : State} (h : Reports s t) : t.mailboxes = s.mailboxes := (congrArg State.mailboxes h.rest :)
theorem Reports.pending {s t : State} (h : Reports s t) : t.pending = s.pending := (congrArg State.pending h.rest :)
theorem Reports.portTx {s t : State} (h : Reports s t) : t.portTx = s.portTx := (congrArg State.portTx h.rest :)
theorem Reports.up {s t : State} (h : Reports s t) : t.rill.up = s.rill.up := (congrArg Rill.up h.link :)
theorem Reports.sameMemory {s t : State} (h : Reports s t) : SameMemory s t := ⟨fun a => by rw [h.mem], h.poison⟩

theorem Reports.bump {s : State} (off n : Nat) (h : ReportReg (regHome off)) : Reports s (s.bump off n) where
  rest := rfl
  link := rfl
  canon := s.canonical_bump off n
  regs hc o ho := s.getReg_bump_ne off o n hc (fun e => ho (e ▸ h))

/-- A change of the fault aggregator alone is a report. -/
theorem Reports.ofFault {s t : State} (h : { t with fault := s.fault } = s) : Reports s t where
  rest := by
    have hr : t.regs = s.regs := (congrArg State.regs h :)
    have hl : t.rill = s.rill := (congrArg State.rill h :)
    have hx : t.hostTx = s.hostTx := (congrArg State.hostTx h :)
    have hq : t.queues = s.queues := (congrArg State.queues h :)
    have hi : t.intc = s.intc := (congrArg State.intc h :)
    rw [← hr, ← hl, ← hx, ← hq, ← hi]
    exact h
  link := by
    have hl : t.rill = s.rill := (congrArg State.rill h :)
    rw [hl]
  canon hc := by
    have hm : t.mem = s.mem := (congrArg State.mem h :)
    have hr : t.regs = s.regs := (congrArg State.regs h :)
    have hp : t.poison = s.poison := (congrArg State.poison h :)
    simpa [State.Canonical, hm, hr, hp] using hc
  regs _ o _ := by
    have hr : t.regs = s.regs := (congrArg State.regs h :)
    simp [State.getReg, hr]

theorem State.reports_recLost (s : State) (r : Rec) : Reports s (s.recLost r) := by
  unfold State.recLost
  exact (Reports.bump _ _ (.inr (.inr (.inr ⟨_, rfl⟩)))).trans (.ofFault rfl)

/-- A record arrives at the aggregator's queue (R360, R361). -/
theorem State.reports_enqueue (s : State) (r : Rec) : Reports s (s.enqueue r) := by
  unfold State.enqueue
  split
  · exact .ofFault rfl
  · split
    · exact s.reports_recLost r
    · exact (s.reports_recLost _).trans (.ofFault rfl)

theorem State.reports_stampRec (s : State) (r : Rec) : Reports s (s.stampRec r).2 := .ofFault rfl

/-- Placing a record (R355 to R361). -/
theorem State.reports_record (s : State) (r : Rec) : Reports s (s.record r) := by
  unfold State.record
  dsimp only [State.stampRec]
  refine Reports.trans ?_ (State.reports_enqueue _ _)
  exact .ofFault rfl

theorem State.reports_powerRecord (s : State) (r : Rec) (alert : Bool) : Reports s (s.powerRecord r alert) := by
  unfold State.powerRecord
  dsimp only
  split
  · exact ((s.reports_record _).trans (State.posts_modEvent _ _ _).reports).trans (State.posts_fire _ _).reports
  · exact s.reports_record _

/-- The 257th window of corrected errors closes the oldest (R362). -/
theorem State.reports_closeOldest (u : State) :
    Reports u (if 256 < u.fault.coalesce.length then
        match u.fault.coalesce with
        | [] => u
        | c :: rest =>
          State.enqueue { u with fault := { u.fault with coalesce := rest } }
            { c.first with coalesced := true, count := min 0xFFFF c.count }
      else u) := by
  split
  · split
    · exact .refl u
    · refine Reports.trans ?_ (State.reports_enqueue _ _)
      exact .ofFault rfl
  · exact .refl u

/-- A corrected error (R362). -/
theorem State.reports_corrected (s : State) (r : Rec) : Reports s (s.corrected r) := by
  by_cases h : (s.fault.coalesce.any fun c =>
      c.first.die == r.die && c.first.block == r.block && c.first.inst == r.inst && c.first.detail1 == r.detail1) = true
  · simp only [State.corrected, h, if_true]
    exact .ofFault rfl
  · unfold State.corrected
    rw [if_neg h]
    refine Reports.trans ?_ (State.reports_closeOldest _)
    exact .ofFault rfl

theorem State.reports_candidate (s : State) (kind die inst row : Nat) (confirmed byTest : Bool) :
    Reports s (s.candidate kind die inst row confirmed byTest) := by
  unfold State.candidate
  exact (Reports.bump _ _ (.inr (.inl rfl))).trans (State.reports_record _ _)

theorem State.reports_track (s : State) (kind die inst row ev item : Nat) : Reports s (s.track kind die inst row ev item).2 := by
  unfold State.track
  dsimp only
  split
  · exact (Reports.bump _ _ (.inr (.inr (.inl rfl)))).trans (.ofFault rfl)
  · exact .ofFault rfl

/-! ### Refused accesses (R18, R50) -/

/-- A refused access changes GLOBAL_ACCERR and what posting can. -/
theorem State.accErr_rest (s : State) (off : Nat) (c : AccCause) :
    { s.accErr off c with regs := s.regs, rill := s.rill, hostTx := s.hostTx, queues := s.queues, intc := s.intc } = s := by
  unfold State.accErr
  dsimp only
  split
  · rfl
  · have h := (State.posts_fire ((s.put Reg.globalAccerrAddr off).put Reg.globalAccerrInfo (1 + at_ 4 (causeCode c))) 0x10).rest
    generalize (((s.put Reg.globalAccerrAddr off).put Reg.globalAccerrInfo (1 + at_ 4 (causeCode c))).fire 0x10) = u at h ⊢
    have h2 := congrArg (fun x : State =>
      { x with regs := s.regs, rill := s.rill, hostTx := s.hostTx, queues := s.queues, intc := s.intc }) h
    exact h2

theorem State.canonical_accErr {s : State} (off : Nat) (c : AccCause) (h : s.Canonical) : (s.accErr off c).Canonical := by
  unfold State.accErr
  dsimp only
  split
  · exact s.canonical_put _ _ h
  · exact (State.posts_fire _ _).canon (State.canonical_put _ _ (s.canonical_put _ _ h))

end Sys2Proof.Machine
end

