-- ==== Sys2Proof/Laws/Security.lean ====
section
/-! SUPPORT. Laws/Security.lean: a digest loaded into registers reads back, and an object whose blocks verify passes the checks. -/
namespace Sys2Proof.Machine

theorem leBytes_leNat : ∀ l : List Byte, leBytes l.length (leNat l) = l
  | [] => rfl
  | b :: l => by
    have h : BitVec.ofNat 8 (b.toNat + 256 * leNat l) = b := by
      apply BitVec.eq_of_toNat_eq
      have := b.isLt
      simp only [BitVec.toNat_ofNat]
      omega
    have h2 : (b.toNat + 256 * leNat l) / 256 = leNat l := by have := b.isLt; omega
    simp [leBytes, leNat, h, h2, leBytes_leNat l]

theorem leNat_lt : ∀ l : List Byte, leNat l < 256 ^ l.length
  | [] => by simp [leNat]
  | b :: l => by
    have := b.isLt
    have := leNat_lt l
    simp only [leNat, List.length_cons, Nat.pow_succ]
    omega

/-- Registers put one by one read as put, where their homes differ. -/
theorem State.reg_forEach_put (r v : Nat → Nat) : ∀ (l : List Nat) (s : State), s.Canonical → l.Nodup →
    (∀ i ∈ l, ∀ j ∈ l, i ≠ j → regHome (r i) ≠ regHome (r j)) →
    (∀ i ∈ l, (forEach l (fun w s => State.put s (r w) (v w)) s).reg (r i) = v i % 2 ^ 32) ∧
    (∀ o, (∀ i ∈ l, regHome o ≠ regHome (r i)) → (forEach l (fun w s => State.put s (r w) (v w)) s).getReg o = s.getReg o)
  | [], _, _, _, _ => ⟨by simp, by simp [forEach]⟩
  | a :: l, s, hc, hn, hr => by
    obtain ⟨ha, hn⟩ := List.nodup_cons.mp hn
    obtain ⟨ih1, ih2⟩ := State.reg_forEach_put r v l (s.put (r a) (v a)) (s.canonical_put _ _ hc) hn
      (fun i hi j hj => hr i (List.mem_cons_of_mem a hi) j (List.mem_cons_of_mem a hj))
    refine ⟨?_, ?_⟩
    · intro i hi
      rcases List.mem_cons.mp hi with rfl | hi
      · have := ih2 (r i) (fun j hj => hr i List.mem_cons_self j (List.mem_cons_of_mem i hj) (fun e => ha (e ▸ hj)))
        have h2 := s.reg_put_same (r i) (v i) hc
        exact (congrArg BitVec.toNat this).trans h2
      · exact ih1 i hi
    · intro o ho
      have := ih2 o (fun i hi => ho i (List.mem_cons_of_mem a hi))
      have h2 := s.getReg_put_ne (r a) o (v a) hc (ho a List.mem_cons_self)
      exact this.trans h2

/-- A digest of 64 bytes loaded into sixteen registers reads back (R405). -/
theorem State.digestRegs_putDigestRegs (s : State) (r : Nat → Nat) (d : List Byte) (hc : s.Canonical) (hd : d.length = 64)
    (hr : ∀ i < 16, ∀ j < 16, i ≠ j → regHome (r i) ≠ regHome (r j)) : (s.putDigestRegs r d).digestRegs r = d := by
  have h := (State.reg_forEach_put r (fun w => u32 d (4 * w)) (List.range 16) s hc List.nodup_range
    (fun i hi j hj => hr i (List.mem_range.mp hi) j (List.mem_range.mp hj))).1
  have word : ∀ w < 16, leBytes 4 ((s.putDigestRegs r d).reg (r w)) = (d.drop (4 * w)).take 4 := by
    intro w hw
    have e := h w (List.mem_range.mpr hw)
    have hl : ((d.drop (4 * w)).take 4).length = 4 := by simp [hd]; omega
    have hs : slice d (4 * w) 4 = (d.drop (4 * w)).take 4 := by simp [slice, hd]; omega
    have hlt := leNat_lt ((d.drop (4 * w)).take 4)
    rw [hl] at hlt
    have e2 : (s.putDigestRegs r d).reg (r w) = leNat ((d.drop (4 * w)).take 4) := by
      unfold State.putDigestRegs
      rw [e, u32, uN, hs, Nat.mod_eq_of_lt (by simpa using hlt)]
    have := leBytes_leNat ((d.drop (4 * w)).take 4)
    rw [hl] at this
    rw [e2, this]
  have all : ∀ n ≤ 16, ((List.range n).flatMap fun w => leBytes 4 ((s.putDigestRegs r d).reg (r w))) = d.take (4 * n) := by
    intro n hn
    induction n with
    | zero => simp
    | succ n ih =>
      rw [List.range_succ, List.flatMap_append, ih (by omega)]
      simp only [List.flatMap_cons, List.flatMap_nil, List.append_nil]
      rw [word n (by omega), show 4 * (n + 1) = 4 * n + 4 from rfl, List.take_add]
  have := all 16 (by omega)
  unfold State.digestRegs
  rw [this, List.take_of_length_le (by omega)]

end Sys2Proof.Machine
end

