-- ==== Sys2Proof/WellFormed.lean ====
section
/-! DEFINITION. WellFormed.lean: commands whose operands fit the fields the spec gives them. exec is total: it gives every command a
meaning, well-formed or not. -/
namespace Sys2Proof

/-- A message header: DLEN has 13 bits, the count 16 (Table 12-3). -/
def MsgHeader.wf (h : MsgHeader) : Bool := decide (h.dlen ≤ 4096 ∧ h.count < 65536)

/-- A QWT packet (R305, R306): version, type, class and code fit their fields, and the hop limit its byte. -/
def Packet.wf (k : Packet) : Bool :=
  decide (k.hopLimit < 256 ∧ k.dscp < 64 ∧ k.ver < 16 ∧ k.typ < 16 ∧ k.cls < 256 ∧ k.nackCode < 256 ∧ k.payload.length < 65536)

/-- A frame: EtherType of 16 bits, the IPv6 header's fields of 8 bits, and its payload length of 16 bits. -/
def IpPacket.wf (k : IpPacket) : Bool :=
  decide (k.etherType < 65536 ∧ k.trafficClass < 256 ∧ k.nextHeader < 256 ∧ k.hopLimit < 256 ∧ k.payload.length < 65536)

/-- A memory error names a sector or word of its unit. -/
def MemError.wf : MemError → Bool
  | .corrected i p => decide (i < 2 ^ 25 ∧ p < 2 ^ 16)
  | .uncorrectable i => decide (i < 2 ^ 25)
  | .address i d => decide (i < 2 ^ 25 ∧ d < 2 ^ 25)

/-- A register offset of the 64 MiB space, one aligned word (R14, R46). -/
def offWf (off : Nat) : Bool := decide (off < 2 ^ 26 ∧ off % 4 = 0)

/-- A refused access as accerrClear brings it. -/
def refusedWf (l : List (Nat × AccCause)) : Bool := l.all fun x => offWf x.1

/-- Record numbers and micro-batches of a BED (R159). -/
def recWf (n : Nat) : Bool := decide (n < 2 ^ 32)
def mbWf (n : Nat) : Bool := decide (n < 2 ^ 16)

/-- Well-formed commands. -/
def Instr.wf : Instr → Bool
  | .registerWrite off _ | .rcRead off | .pairLowRead off | .pairLowWrite off _ | .pairHighWrite off _ => offWf off
  | .accerrClear l => refusedWf l
  | .rungReturn _ t => recWf t
  | .updateStart _ l | .statisticsComplete _ l => recWf l
  | .cascEnd _ r => recWf r
  | .reduceScatter _ r mb | .allGather _ r mb | .allReduce _ r mb | .allToAll _ r mb => recWf r && mbWf mb
  | .data _ k | .ack _ k | .nack _ k | .advert _ k => k.wf
  | .transitForward _ k => k.wf
  | .poolScrub _ _ es => es.all MemError.wf
  | .hbmScrub _ _ es => es.all MemError.wf
  | .regRd h | .memAck h | .memCpl h _ => h.wf
  | .regWr h ws => h.wf && decide (ws.length ≤ 16)
  | .sensorRead dies _ => decide (dies.length ≤ 4)
  | .estimatorWindow _ v w _ => decide (v < 65536 ∧ w < 65536)
  | .partitionReset _ _ | .computeReset _ | .moduleReset _ | .scrubComplete _ _ | .taskChoose _ | .fusedFillComplete _ _
  | .columnDrain _ _ _ | .tileRepeat _ _ | .basinStallEnd _ _ | .settleRoundStart _ | .settleRoundComplete _ | .nop _ _
  | .add _ _ _ _ _ _ | .sub _ _ _ _ _ _ | .mul _ _ _ _ _ _ | .max _ _ _ _ _ _ | .abs _ _ _ _ _ | .sign _ _ _ _ _ | .rsqrt _ _ _ _ _
  | .select _ _ _ _ _ _ _ | .scale _ _ _ _ _ _ | .layerReduce _ _ _ _ _ _ _ _ | .store _ _ _ _ _ _ _ | .commitRoundStart _
  | .stepCommit _ | .undoComplete _ | .replayStart _ | .sluiceStart _ _ | .sluiceComplete _ _ _ | .load _ | .clear _ | .cancel _ _
  | .loadFinish | .bedTakeEffect _ | .persist | .eraseDefault | .step _ _ | .seed _ _ | .copy _ _ | .gather _ _ | .scatter _ _
  | .scalarSet _ _ _ | .snapshot _ _ | .dmaIn _ _ | .dmaOut _ _ | .fence _ _ | .promiseExpire _ _ | .sum _ | .sumRepeat _ | .anchor _
  | .deficit _ | .dataChunk _ | .scalar _ | .confirm | .retract | .recall | .abandon | .suspect | .groupFormation _ | .groupWaiting _ | .peerTimeout _ _
  | .peerwrite | .ackTimer _ _ | .rtoExpire _ | .idleFlowExpire _ _ | .pacingRaise _ | .advertPeriod | .advertExpire _
  | .pfcFrame _ _ _ | .pauseEnd _ | .pauseFrame _ | .neighbourSolicitation _ _ _ | .echoRequest _ _ _ _ | .lldpReceive _ _ _
  | .lldpSend _ | .trainingStage _ _ _ | .laneFail _ _ | .fecWindow _ _ _ | .portRetry _ | .retrain _ _ | .lock _ | .flit _
  | .modTimeExpire _ | .reset | .linkrst _ | .linkDown | .rillTrainingStage _ _ | .rillRetry | .cplTimeout _ | .qwSqDb _ _ _
  | .qwCqDb _ _ _ | .qwEqDb _ _ | .rillMeqDb _ | .faultRingDb _ | .queueEnable _ _ | .windowGrant _ _ | .windowRevoke _ _
  | .recordHandle | .correctedWindowExpire _ _ _ _ | .suspectWindowExpire _ | .dielinkFlitError _ _ _ | .dielinkRetrainDone _ _ _
  | .journalRecordSubmit _ _ | .pageProgramDone _ _ | .eraseDone _ | .checkpoint | .governorCredit | .governorBin | .ledgerHour
  | .journalPatrol _ _ _ | .compaction | .defectExpire _ | .next _ | .restart _ | .clearEntry | .clearSummary | .cisternStamp _
  | .pfwPauseEnd | .fwInstall _ _ | .fwActivate _ _ | .licenceInstall _ | .ownerEnrol _ | .ownerClear _ | .recoveryWrite _
  | .fuseProgram _ | .attest _ _ _ | .idkeyOut _ | .close _ | .secCmdComplete _ _ | .secSealno _ | .buttonPress | .buttonWindowExpire
  | .jumperFit | .jumperRemove | .sealBreak | .inputValid | .bringupPhaseEnd _ | .firmwareWatchdog | .forceFull | .testDue _ _
  | .testComplete _ _ _ | .testForced _ _ | .activationDrainEnd | .drainTimeout | .postpone _ | .restBegin | .restEnd
  | .activationComplete | .activationTimeout | .inputLoss _ | .inputReturn | .holdupExpire | .overVoltage | .overvoltageClear
  | .railPowerGood _ | .railFault _ | .railRetry | .pllLockLoss | .pointChangeDone _ | .voltageUpdate | .droopDetect _ _
  | .droopRelease _ _ | .thermalRestart | .planningStepDown _ | .measurementWindow _ | .calibration _ | .capControllerPeriod _ _
  | .absoluteLimitEngage | .absoluteLimitRelease | .leakDetect _ | .coolantOverTemperature _ | .cotHoldExpire | .powerFailWarning
  | .chassisAttention _ | .stormDuration _ | .masked _ | .strapChange _ | .lockstepMismatch _ | .pairWatchdog _ | .pairRestartDone _
  | .watchdogKick _ | .intcClaim _ | .intcEoi _ _ | .disable _ | .info _ | .lldpRead _ | .discRead _ | .routeRecompute _ | .phaseRead _
  | .hostDmaStageStart _ _ | .portEnable _ _ | .sealLoopClose | .powerFailWarningRelease | .buttonRelease | .thresholdWrite _ _ => true

end Sys2Proof
end

