-- ==== Sys2Proof/Tests/Slice0.lean ====
section
/-! SUPPORT. Slice0.lean: ill-formed commands refused, and for every statement with hypotheses states and operands that meet
them, clause by clause. -/
set_option Elab.async false
namespace Sys2Proof.Tests
open Sys2Proof Sys2Proof.Machine

/-! ### Helper states -/

/-- The module out of reset, READY, with its host link up and nothing loaded. -/
def ready : State :=
  { State.reset with
    time := 1000
    boot := { released := true, ready := true, phase := 11, input := true }
    rill := { up := true } }

/-- The state after a command. -/
def after (c : Instr) (s : State) : State := match exec c s with | .next t => t | _ => s

/-! ### Commands that do not fit their fields -/

def hdr : MsgHeader := { mt := 0#4, status := 0#4, dlen := 4, tag := 7#16, count := 1, addr := 0#64 }
def packet : Packet :=
  { srcAddr := 1#128, dstAddr := 2#128, hopLimit := 64, flowLabel := 0#20, dscp := 0, ce := false, checksumOk := true, ver := 1, typ := 0
    prov := false, ece := false, first := true, last := true, isOpen := true, retx := false, tag := 0#32, flowId := 0#32, psn := 0#32
    word4 := 0#32, word5 := 0#32, word6 := 0#32, cls := 0, nackCode := 0, payload := [] }
def ipPacket : IpPacket :=
  { etherType := 0x86DD, vlans := 0, trafficClass := 0, flowLabel := 0#20, nextHeader := 17, hopLimit := 64, srcAddr := 1#128, dstAddr := 2#128
    payload := [] }

theorem test_wf_offsets : (Instr.registerWrite 0x22 0#32).wf = false ∧ (Instr.rcRead (2 ^ 26)).wf = false ∧
    (Instr.pairLowRead 0x41).wf = false ∧ (Instr.pairLowWrite 0x43 0#32).wf = false ∧ (Instr.pairHighWrite (2 ^ 26 + 4) 0#32).wf = false ∧
    (Instr.accerrClear [(2 ^ 26, .unmapped)]).wf = false ∧ (Instr.registerWrite (2 ^ 26 - 4) 0#32).wf = true := by decide
theorem test_wf_records : (Instr.rungReturn 0 (2 ^ 32)).wf = false ∧ (Instr.updateStart 0 (2 ^ 32)).wf = false ∧
    (Instr.cascEnd 0 (2 ^ 32)).wf = false ∧ (Instr.reduceScatter 0 0 (2 ^ 16)).wf = false ∧
    (Instr.allGather 0 (2 ^ 32) 0).wf = false ∧ (Instr.allReduce 0 0 (2 ^ 16 - 1)).wf = true := by decide
theorem test_wf_messages : (Instr.regRd { hdr with dlen := 4097 }).wf = false ∧ (Instr.memAck { hdr with count := 65536 }).wf = false ∧
    (Instr.regWr hdr (List.replicate 17 0#32)).wf = false ∧ (Instr.regWr hdr (List.replicate 16 0#32)).wf = true := by decide
theorem test_wf_packets : (Instr.data 0 { packet with ver := 16 }).wf = false ∧ (Instr.ack 0 { packet with typ := 16 }).wf = false ∧
    (Instr.nack 0 { packet with nackCode := 256 }).wf = false ∧ (Instr.advert 0 { packet with cls := 256 }).wf = false ∧
    (Instr.data 0 { packet with hopLimit := 256 }).wf = false ∧ (Instr.transitForward 0 { ipPacket with etherType := 65536 }).wf = false ∧
    (Instr.data 0 { packet with dscp := 64 }).wf = false ∧ (Instr.transitForward 0 { ipPacket with hopLimit := 256 }).wf = false ∧ (Instr.data 0 packet).wf = true := by decide
theorem test_wf_errors : (Instr.poolScrub 0 0 [.corrected (2 ^ 25) 0]).wf = false ∧ (Instr.hbmScrub 0 0 [.uncorrectable (2 ^ 25)]).wf = false ∧
    (Instr.poolScrub 0 0 [.address 0 (2 ^ 25)]).wf = false ∧
    (Instr.sensorRead [[], [], [], [], []] []).wf = false ∧ (Instr.estimatorWindow 0 65536 0 []).wf = false := by decide

/-! ### Decoding and the queue -/

/-- The table gives no row bits: no word spells a command, and a fetched word leaves the queue as it is. -/
theorem test_no_word_decodes : decodeTableWord 32 0 = none ∧ decodeTableWord 0 0 = none ∧
    (State.reset.withFetchWord 32 0xFFFFFFFF).pending = [] := by decide
theorem test_step_takes_front : (match step { ready with pending := [.buttonPress, .inputValid] } with
    | .next t => t.pending | _ => []) = [.inputValid] := by decide +kernel
theorem test_idle_ticks : (match step ready with | .next t => t.time | _ => 0) = 1001 := by decide +kernel
theorem wit_StepConsumesOne : State.reset.pending = [] ∧ ready.pending = [] ∧ (∀ p : Fin 24, (ready.port p).queue = []) ∧ ready.boot.released = true ∧
    State.reset.boot.released = false := by decide +kernel
theorem wit_StepKeepsCanonical : ready.Canonical := by unfold State.Canonical; decide +kernel
theorem wit_canonical_reset : State.reset.Canonical := by unfold State.Canonical; decide +kernel

/-! ### Registers -/

/-- A register whose row satisfies a test. -/
def row (off : Nat) (f : RegRow → Bool) : Bool := (regRow off).any f
/-- CASCADE_TIMEOUT, stored whole; RILL_CMD, which acts; W1C GLOBAL_ACCERR_INFO has an action of its own, BASIN_HRSTAT none; GLOBAL_ID is RO; MEQ_BASE
is locked while its ring is on; BASIN_HRCNT is RC. -/
theorem wit_RegisterWrites : ready.hostUp = true ∧
    (ready.accessCause 0x2000004 false = none ∧ ready.writeLocked 0x2000004 = false ∧
      row 0x2000004 (fun r => decide (r.acc = .rw ∧ r.pair = 0 ∧ ready.writeActs 0x2000004 r.mask 5#32 = none)) = true) ∧
    (ready.accessCause 0x100004 false = none ∧ ready.writeLocked 0x100004 = false ∧
      row 0x100004 (fun r => decide (r.acc = .wo ∧ r.pair = 0) && (ready.writeActs 0x100004 r.mask 5#32).isSome) = true) ∧
    (ready.accessCause 0x1100008 false = none ∧
      row 0x1100008 (fun r => decide (r.acc = .w1c ∧ ready.writeActs 0x1100008 r.mask 7#32 = none)) = true) ∧
    (ready.accessCause 0 false = none ∧ row 0 (fun r => decide (r.acc = .ro)) = true) ∧
    ((ready.put 0x100908 1).accessCause 0x100900 false = none ∧ (ready.put 0x100908 1).writeLocked 0x100900 = true ∧
      row 0x100900 (fun r => decide (r.acc = .rw ∧ r.pair = 1)) = true) ∧
    (ready.accessCause 0x1100010 false = none ∧ row 0x1100010 (fun r => decide (r.acc = .rc)) = true) := by decide +kernel
/-- Words of pairs; the staging window, free and locked by a load; an odd offset and one beyond the space. -/
theorem wit_RegisterWrites_windows : row 0x2C00014 (fun r => decide (r.pair = 2)) = true ∧ ready.accessCause 0x2C00014 false = none ∧
    ready.accessCause 0x800000 false = none ∧ regRow 0x800000 = none ∧ ready.writeLocked 0x800000 = false ∧
    (ready.writeActs 0x800000 0 5#32).isSome = true ∧
    (ready.modLoader fun l => { l with st := 1 }).accessCause 0x800000 false = none ∧
    (ready.modLoader fun l => { l with st := 1 }).writeLocked 0x800000 = true ∧ 0x41 % 4 ≠ 0 ∧ 2 ^ 26 ≤ 2 ^ 26 := by decide +kernel
theorem test_register_write : (after (.registerWrite 0x2000004 5#32) ready).getReg 0x2000004 = 5#32 ∧
    (after (.registerWrite 0x2000800 0xFF#32) ready).getReg 0x2000800 = 3#32 ∧
    (after (.registerWrite 0 1#32) ready).reg Reg.globalAccerrInfo = 0x11 := by decide +kernel
/-- Before READY, a block that answers late; the first and the last offset of no block. -/
theorem wit_RefusedAccess : ({ ready with boot := { ready.boot with ready := false } } : State).hostUp = true ∧
    earlyBlock (blockOf 0x200000) = false ∧ blockOf 0x200000 ≠ .none ∧
    (blockOf 0x3C00000 = .none ∧ 0x2000000 ≤ 0x3C00000 ∧ 0x3C00000 < 2 ^ 26 ∧ ready.hostUp = true) ∧
    (blockOf (2 ^ 26 - 4) = .none ∧ (2 ^ 26 - 4) % 4 = 0) := by decide +kernel
theorem wit_AccerrRecord : bit (ready.reg Reg.globalAccerrInfo) 0 = false ∧
    bit ((ready.accErr 0x3C00000 .unmapped).reg Reg.globalAccerrInfo) 0 = true := by decide +kernel
theorem test_accerr_lost : ((ready.accErr 0x3C00000 .unmapped).accErr 0 .roWrite).reg Reg.globalAccerrInfo = 0x10041 ∧
    ((ready.accErr 0x3C00000 .unmapped).accErr 0 .roWrite).reg Reg.globalAccerrAddr = 0x3C00000 := by decide +kernel
theorem wit_RcReadClears : ready.hostUp = true ∧ ready.accessCause 0x1100010 true = none ∧
    (∃ r, regRow 0x1100010 = some r ∧ r.acc = .rc) ∧ blockOf 0x1100010 ≠ .power :=
  ⟨by decide +kernel, by decide +kernel, ⟨⟨0x1100010, [(0x400000, 4), (0x10000, 18)], .rc, 0x0, 0x0, 0, 0x0⟩, by decide +kernel⟩,
    by decide +kernel⟩
theorem test_rc_read : (after (.rcRead 0x1100010) (ready.put 0x1100010 9)).getReg 0x1100010 = 0#32 ∧
    (after (.rcRead 0x1100010) (ready.put 0x1100010 9)).hostTx = [.regCpl 0 0 [9#8, 0#8, 0#8, 0#8]] := by decide +kernel
/-- GLOBAL_TIME is read as a pair, CISTERN_QFROM is written as one. -/
theorem wit_PairAccess :
    (ready.accessCause 0x40 true = none ∧ ready.accessCause 0x44 true = none ∧ blockOf 0x40 ≠ .power ∧ regHome 0x40 = 0x40 ∧
      (∃ r h, regRow 0x40 = some r ∧ r.pair = 1 ∧ r.acc = .ro ∧ regRow 0x44 = some h ∧ h.pair = 2 ∧ h.acc = .ro)) ∧
    (0x2C00010 ≠ Reg.cisternStampLo ∧ ready.accessCause 0x2C00010 false = none ∧ ready.accessCause 0x2C00014 false = none ∧
      ready.writeLocked 0x2C00010 = false ∧ ready.writeLocked 0x2C00014 = false ∧ regHome 0x2C00010 = 0x2C00010 ∧
      regHome 0x2C00014 = 0x2C00014 ∧
      (∃ r h, regRow 0x2C00010 = some r ∧ r.pair = 1 ∧ r.acc = .rw ∧ regRow 0x2C00014 = some h ∧ h.pair = 2 ∧ h.acc = .rw)) := by
  refine ⟨⟨by decide +kernel, by decide +kernel, by decide +kernel, by decide +kernel,
    ⟨⟨0x40, [], .ro, 0x0, 0x0, 1, 0x0⟩, ⟨0x44, [], .ro, 0x0, 0x0, 2, 0x0⟩, by decide +kernel⟩⟩,
    ⟨by decide +kernel, by decide +kernel, by decide +kernel, by decide +kernel, by decide +kernel, by decide +kernel, by decide +kernel,
    ⟨⟨0x2C00010, [], .rw, 0x0, 0xFFFFFFFF, 1, 0x0⟩, ⟨0x2C00014, [], .rw, 0x0, 0xFFFFFFFF, 2, 0x0⟩, by decide +kernel⟩⟩⟩
theorem test_pair_read : shadowOf (after (.pairLowRead 0x40) { ready with time := 2 ^ 32 + 5 }).rdShadow 0x40 = some 1#32 := by decide +kernel
theorem test_pair_write : (after (.pairHighWrite 0x2C00014 2#32) (after (.pairLowWrite 0x2C00010 1#32) ready)).getReg 0x2C00010 = 1#32 ∧
    (after (.pairLowWrite 0x2C00010 1#32) ready).getReg 0x2C00010 = 0#32 ∧
    (after (.pairHighWrite 0x2C00014 2#32) ready).getReg 0x2C00014 = 2#32 := by decide +kernel

/-! ### Resets -/

theorem wit_ModuleReset : ready.hostUp = true ∧ (0xA4#8 : Byte) ≠ 0xA5#8 ∧ ready.cis.prog = none ∧ ready.sec.run = none ∧ ready.boot.input = true ∧
    ready.power.latched = false ∧ ready.power.overAt = none ∧
    ({ ready with boot := { ready.boot with ready := false } } : State).hostUp = true := by decide +kernel
/-- The module with its compute side, or partition 0, in reset. -/
def computeResets : State := { ready with boot := { ready.boot with computeResetting := true } }
def partitionResets : State := { ready with boot := { ready.boot with ptResetting := 1#16 } }
theorem wit_ComputeReset : ready.hostUp = true ∧ ready.boot.ready = true ∧ ready.boot.computeResetting = false ∧
    computeResets.boot.computeResetting = true ∧ computeResets.hostUp = true := by decide +kernel
theorem wit_PartitionReset : ready.defined 0 = true ∧ ready.boot.ptResetting.getLsbD 0 = false ∧
    partitionResets.boot.ptResetting.getLsbD 0 = true ∧ partitionResets.defined 0 = true ∧
    partitionResets.boot.computeResetting = false := by decide +kernel
theorem wit_ScrubZeroes : computeResets.boot.computeResetting = true ∧ partitionResets.boot.ptResetting.getLsbD 0 = true ∧
    partitionResets.boot.computeResetting = false := by decide +kernel
theorem wit_ScrubZeroes_canonical : computeResets.Canonical ∧ partitionResets.Canonical := by unfold State.Canonical; decide +kernel
theorem test_scrub_ends : (after (.scrubComplete false 0) partitionResets).boot.ptResetting = 0#16 := by
  decide +kernel

/-! ### Images and a job -/

/-- A record of sz bytes with the given fields (offset, bytes, value). -/
def record (sz : Nat) (fs : List (Nat × Nat × Nat)) : List Byte :=
  fs.foldl (fun r f => r.take f.1 ++ leBytes f.2.1 f.2.2 ++ r.drop (f.1 + f.2.1)) (List.replicate sz 0#8)
/-- A string padded with zeros to a multiple of 64 bytes. -/
def pad64 (l : List Byte) : List Byte := l ++ List.replicate ((64 - l.length % 64) % 64) 0#8
/-- An image without its digest (R152, R153): KIND, then sections (TYPE, RECSIZE, records) one after another. -/
def image (kind : Nat) (secs : List (Nat × Nat × List (List Byte))) : List Byte :=
  let dir := (secs.foldl (fun (p : List Byte × Nat) x =>
      (p.1 ++ leBytes 2 x.1 ++ leBytes 2 x.2.1 ++ leBytes 4 x.2.2.length ++ leBytes 4 p.2 ++ leBytes 4 0,
        p.2 + (x.2.1 * x.2.2.length + 63) / 64 * 64)) ([], (127 + 16 * secs.length) / 64 * 64)).1
  let body := pad64 dir ++ (secs.flatMap fun x => pad64 x.2.2.flatten)
  record 64 [(0, 4, 0x45525450), (4, 1, kind), (5, 1, 1), (6, 2, secs.length), (8, 4, 128 + body.length), (0x18, 1, 1), (0x19, 1, 1)] ++ body

/-- Layout of rows × cols elements in the pool space, not sharded, with a leading micro-batch dimension or without. -/
def layoutRec (base fmt rows cols : Nat) (mb : Bool) : List Byte :=
  if mb then record 192 [(0, 6, base), (8, 4, 3 + 16 * fmt), (0x0C, 4, at_ 6 4), (0x18, 6, rows * cols), (0x20, 6, cols), (0x28, 6, 1), (0x58, 4, 1), (0x5C, 4, rows),
    (0x60, 4, cols), (0x78, 4, 1), (0x7C, 4, rows), (0x80, 4, cols)]
  else record 192 [(0, 6, base), (8, 4, 2 + 16 * fmt), (0x0C, 4, at_ 3 4), (0x18, 6, cols), (0x20, 6, 1), (0x58, 4, rows), (0x5C, 4, cols), (0x78, 4, rows), (0x7C, 4, cols)]
/-- A tensor of a kind in QE43 over a layout, its 16-bit layout two records on. -/
def tensorRec (tag kind layout ring : Nat) (frozen : Nat := none32) : List Byte :=
  record 64 [(0, 4, tag), (4, 2, 16 * kind + at_ 10 2 + at_ 12 ring), (6, 2, 4), (8, 4, layout), (12, 4, layout + 2), (0x10, 6, 64), (0x20, 4, none32),
    (0x24, 4, none32), (0x28, 6, none48), (0x30, 4, frozen), (0x34, 4, none32)]
/-- An image with one byte of a record changed. -/
def patch (b : List Byte) (sec i off : Nat) (v : Byte) : List Byte :=
  match (imgDir b).find? fun e => e.1 == sec with
  | some (_, sz, _, o) => b.take (o + sz * i + off) ++ v :: b.drop (o + sz * i + off + 1)
  | none => b
/-- A layer of one forward and one weight-gradient tile over 2 × 2 tensors, with an update program of the given words, a Cascade program if any, and
further sections; jobw holds further bits of the JOB record's word, and frozen names the weight's mask. -/
def bedOf (jobw frozen : Nat) (words : List Nat) (casc : Nat) (more : List (Nat × Nat × List (List Byte))) : List Byte :=
  image 2 ([(0x0201, 64, [record 64 [(8, 4, at_ 8 1 + jobw), (12, 2, 1)]]),
    (0x0202, 192, [layoutRec 0 0 2 2 true, layoutRec 64 0 2 2 false, layoutRec 0 2 2 2 true, layoutRec 64 2 2 2 false, layoutRec 0x1000 0 2 2 false]),
    (0x0203, 64, [tensorRec 1 1 0 1, tensorRec 2 0 1 2 frozen, tensorRec 3 1 0 1, tensorRec 4 2 0 1, tensorRec 5 3 1 1]),
    (0x0204, 16, [record 16 [(0, 4, 0), (8, 4, none32)], record 16 [(0, 4, 1), (8, 4, none32)], record 16 [(0, 4, 3), (8, 4, none32)]]),
    (0x0205, 64, [record 64 [(0, 4, 5), (4, 4, at_ 16 1), (8, 4, 0), (12, 4, 1), (0x10, 4, 1), (0x14, 4, 2), (0x18, 4, 2), (0x1C, 4, none32),
      (0x20, 4, 4), (0x24, 4, casc), (0x28, 4, 0)]]),
    (0x0208, 192, [record 192 ([(0, 4, words.length), (4, 4, 1), (8, 4, none32), (12, 4, none32), (0x10, 4, 4), (0x18, 6, none48)] ++
      (words.zipIdx.map fun w => (0x40 + 4 * w.2, 4, w.1)))])] ++ more)
def bedWith (words : List Nat) (casc : Nat) (more : List (Nat × Nat × List (List Byte))) : List Byte := bedOf 0 none32 words casc more
def bed (words : List Nat) : List Byte := bedWith words none32 []
/-- A PLAN of one partition with role 0 and pool 0 of die 0 and one recipe table, without its digest. -/
def planBody : List Byte :=
  image 1 [(0x0101, 64, [record 64 []]), (0x0102, 192, [record 192 [(4, 4, 1), (0x10, 4, 1), (0x18, 8, 1), (0x20, 8, 1)]]),
    (0x0103, 32, [record 32 ((List.range 7).map fun k => (4 + 4 * k, 4, k + at_ 22 1))])]
/-- A program that adds, reduces and stores. -/
def prog : List Nat := [jWord 1 0 0x21 0x21 0 0, at_ 27 0x0A + at_ 15 1, at_ 27 0x0B + at_ 12 0x21, 0]
/-- Partition 0 with that job and step 1 running on array 0 of die 0. -/
def job : State :=
  ({ ready with arrays := vmod ready.arrays 0 fun a => { a with role := some 0 } } : State).modPart 0 fun p => { p with
    bed := some (bed prog), first := some 1, steps := [{ num := 1, st := 1 }], seeds := [(1, 0, 0), (1, 3, 0)] }
def tile : Tile := { pt := 0, step := 1, task := ⟨0, 0, 0, 0, 0⟩, word := false }
/-- The job with one tile on array 0. -/
def withTile (T : Tile) : State := { job with arrays := vmod job.arrays 0 fun a => { a with tiles := [T] } }
/-- Sections of one-record programs over group 0: REDUCE_SCATTER, ALL_GATHER, ALL_REDUCE and ALL_TO_ALL, each when its source is complete, and END. -/
def cascSecs : List (Nat × Nat × List (List Byte)) := [(0x0209, 16, ([(1, 2, 1, 4), (2, 2, 1, 1), (3, 2, 1, 4), (4, 2, 0, 2)].flatMap fun x =>
      [record 16 [(0, 4, x.1 + at_ 16 x.2.1), (4, 4, x.2.2.1), (8, 4, x.2.2.2)], record 16 []])),
    (0x020A, 64, [record 64 [(0, 4, 9 + at_ 20 1), (0x10, 4, 2), (0x20, 6, 0x10000)]])]
def cascBed : List Byte := bedWith prog none32 cascSecs
/-- The job with those programs and group 0 formed of this module, rank 0, and the module at tray 1, rank 1, in epoch 4. -/
def grouped : State :=
  ((job.modPart 0 fun p => { p with bed := some cascBed }).modLoader fun l => { l with plan := some planBody }).modGroup 0 fun g =>
    { g with pt := 0, gid := 9, record := 0, st := 2, rank := 0, epoch := 4, members := [0, 0x10000] }
/-- The same where the layer's sums leave through the program of record 1, one of them in the staging region, which holds n bytes. -/
def leaveBed (n : Nat) : List Byte := bedWith prog 0 (cascSecs.take 1 ++ [(0x020A, 64, [record 64 [(0, 4, 9 + at_ 20 1), (0x10, 4, 2), (0x20, 6, n)]])])
def leaving (n : Nat) (T : Tile) : State := { grouped with
  comp := { grouped.comp with parts := vmod grouped.comp.parts 0 fun p => { p with
    bed := some (leaveBed n), steps := p.steps.map fun x => { x with insts := [{ tensor := 4, mb := 0xFFFF, acc := [(0, ⟨2, 0, 0, 0, 0⟩, {})] }] } } }
  arrays := vmod grouped.arrays 0 fun a => { a with tiles := [T] } }
def dw : Tile := { tile with task := ⟨2, 0, 0, 0, 0⟩ }

/-! ### Basin, formats and tiles -/

theorem wit_PoisonProducts : ({ poison := true } : OpElem).poison = true := by decide
theorem wit_AcceptedSumsExact : ([3, -5] : List Int) ≠ [] ∧ (∀ p ∈ ([3, -5] : List Int), msb p ≤ 2) ∧ headroomOk 2 2 = true ∧
    (∀ p ∈ ([2 ^ 126, 2 ^ 126] : List Int), msb p ≤ 126) ∧ headroomOk 126 2 = false := by decide +kernel
theorem test_headroom_edge : headroomOk 126 1 = true ∧ headroomOk 127 1 = false ∧ headroomOk 125 2 = true ∧ deficit 126 2 = 1 := by decide +kernel
theorem wit_ZeroAndPoisonCodes : ({ poison := true } : Exact).poison = true ∧ ({ m := 0 } : Exact).m = 0 ∧
    (roundTo 0 0 0 0 0 { neg := true, m := 1, e := -60 }).1 = 0 := by decide +kernel
theorem test_poison_codes : (storeCode 0 0 0 0 0 { poison := true }).1 = 0x7F ∧ (storeCode 1 0 0 0 0 { poison := true }).1 = 0x7F ∧
    (storeCode 2 0 0 0 0 { poison := true }).1 = 0x7FFF ∧ (storeCode 3 0 0 0 0 { poison := true }).1 = 0x7FFF := by decide +kernel
theorem test_signed_zero : (storeCode 0 0 0 0 0 { neg := true, m := 1, e := -60 }).1 = 0x80 ∧
    (storeCode 2 0 0 0 0 { neg := true, m := 1, e := -60 }).1 = 0x8000 := by decide +kernel
/-- 1.0 is 0x38 in E4M3 and 0x3C in E5M2, 0x3C00 in binary16 and 0x3F80 in BF16 (R82, R83). -/
theorem test_one_encodes : (storeCode 0 0 0 0 0 { m := 1 }).1 = 0x38 ∧ (storeCode 1 0 0 0 0 { m := 1 }).1 = 0x3C ∧
    (storeCode 2 0 0 0 0 { m := 1 }).1 = 0x3C00 ∧ (storeCode 3 0 0 0 0 { m := 1 }).1 = 0x3F80 := by decide +kernel
theorem wit_FineCodeRule : ({ m := 5 } : Exact).lg = some 2 ∧ ({ m := 0 } : Exact).m = 0 := by decide +kernel
theorem wit_TaskChooseSmallest : job.diesStopped = false ∧ job.readyTasks 0 true ≠ [] := by decide +kernel
def withStats (q : RowStat) : State := { job with arrays := vmod job.arrays 0 fun a => { a with stats := some q } }
/-- A discarded tile; a tile in its last columns, with a failing element, or of a sum that is not local; a drain that is refused, and one that just fits. -/
theorem wit_TilesDrain : job.diesStopped = false ∧ (job.part 0).bed = some (bed prog) ∧
    ((vget (withTile { tile with discard := true }).arrays 0).tiles = [{ tile with discard := true }]) ∧
    (tile.fills = 0 ∧ tile.again = false ∧ tile.discard = false ∧ tile.col + 1 < 256 ∧ ({ tile with col := 254 } : Tile).col + 1 < 256 ∧
      ({ tile with col := 255 } : Tile).col + 1 = 256) ∧
    (withTile { tile with col := 255 }).drainRefused (bed prog) { tile with col := 255 } = false ∧
    (withTile tile).scopeLocal (bed prog) tile.task = true ∧ tile.cross = false ∧ tile.rep = false ∧
    ((match exec (.columnDrain 0 0 []) (withTile { tile with col := 255, deficits := [(0, 1, 126)] }) with
      | .next t => (vget t.arrays 0).tiles.map (·.again) | _ => []) = [true]) ∧
    (leaving 51 dw).scopeLocal (leaveBed 51) dw.task = false ∧ (leaving 51 dw).drainRefused (leaveBed 51) dw = false ∧
    (leaving 50 dw).drainRefused (leaveBed 50) dw = true ∧ ((leaving 50 dw).part 0).bed = some (leaveBed 50) ∧
    (vget (leaving 50 dw).arrays 0).tiles = [dw] := by decide +kernel
theorem wit_TilesDrain_others :
    (let s := withStats { pt := 0, step := 1, tensor := 0, mb := 0, mean := none32, var := none32, words := List.replicate 513 ({}, {}), col := 1 }
     s.diesStopped = false ∧ (vget s.arrays 0).tiles = [] ∧ ((vget s.arrays 0).stats.map fun q => (q.again, decide (256 * (q.col + 1) < q.words.length))) =
       some (false, true)) ∧
    ((vget (withTile { tile with again := true }).arrays 0).tiles.map (·.again)) = [true] ∧
    (∃ s : State, (vget s.arrays 0).stall = true ∧ (vget s.arrays 0).refused = false ∧ (vget s.arrays 0).tiles.length ≤ 1) ∧
    (∃ s : State, s = { leaving 51 dw with arrays := vmod (leaving 51 dw).arrays 0 fun a => { a with stall := true, refused := true } } ∧
      (vget s.arrays 0).stall = true ∧ (vget s.arrays 0).refused = true ∧ (vget s.arrays 0).tiles = [dw] ∧ (s.part 0).bed = some (leaveBed 51) ∧
      s.drainRefused (leaveBed 51) dw = false) ∧
    (∃ s : State, (vget s.comp.engines 0).fills = [(0, 0)] ∧ (vget s.arrays 0).tiles.findIdx? (fun T => T.fills != 0) = some 0 ∧
      s.diesStopped = false) := by
  refine ⟨by decide +kernel, by decide +kernel,
    ⟨{ job with arrays := vmod job.arrays 0 fun a => { a with stall := true, tiles := [tile] } }, by decide +kernel⟩,
    ⟨_, rfl, by decide +kernel⟩,
    ⟨(withTile { tile with fills := 2 }).modEng 0 fun e => { e with fills := [(0, 0)] }, by decide +kernel⟩⟩

/-! ### Jet -/

/-- Array 0's Jet unit at an instruction of a pass of the update of step 1. -/
def jetAt (words : List Nat) (pc pass : Nat) : State :=
  ((job.modPart 0 fun p => { p with
      bed := some (bed words)
      steps := [{ num := 1, st := 3, settled := true, upds := [{ layerId := 5, prog := 0, pass := pass, slots := List.replicate 8 0 }] }] }).modJet 0
    fun j => { j with run := some ⟨0, 1, 0, 5, pass, [0], pc, Vector.replicate 8 []⟩ })
def jetRun (pc pass : Nat) : JetRun := ⟨0, 1, 0, 5, pass, [0], pc, Vector.replicate 8 []⟩

theorem wit_LaneZeroRules : ({ bits := 0x80000000 } : JVal).isZero = true ∧ ({ bits := 0 } : JVal).isZero = true ∧
    ({ bits := 0xBF800000 } : JVal).neg = true ∧ ({ poison := true } : JVal).poison = true := by decide
/-- 1 + 1 = 2, 1 − 2 = −1, 1.5 × 1.5 = 2.25, rsqrt 4 = 0.5 and 2 × 2^−3 = 0.25 in binary32 (R211). -/
theorem test_lane_values : lift2 jAdd { bits := 0x3F800000 } { bits := 0x3F800000 } = some { bits := 0x40000000 } ∧
    lift2 jSub { bits := 0x3F800000 } { bits := 0x40000000 } = some { bits := 0xBF800000 } ∧
    lift2 jMul { bits := 0x3FC00000 } { bits := 0x3FC00000 } = some { bits := 0x40100000 } ∧
    lift1 jRsqrt { bits := 0x40800000 } = some { bits := 0x3F000000 } ∧
    lift1 (jScale (-3)) { bits := 0x40000000 } = some { bits := 0x3E800000 } := by decide +kernel

/-- The hypotheses of JetCompletes at a program of the word and a NOP, with constant operands. -/
def jetReady (word : Nat) (codes : List Nat) (f : List JVal → Option JVal) : Bool :=
  let s := jetAt [word, 0] 0 3
  match s.jetHead 0 0 word with
  | some (r, u, b) =>
    ((passPcs (progWords (recOf b 0x0208 r.prog)) r.pass (jobStrict b)).find? fun q => decide (r.pc < q)) == some 1 &&
      (s.lanes b r).all fun x => (f ((codes.map fun k => s.laneVal b r u k x.2 x.1).map (·.getD {}))).isSome &&
        codes.all fun k => (s.laneVal b r u k x.2 x.1).isSome
  | none => false

theorem wit_jet_canonical : (jetAt [0, 0] 0 3).Canonical ∧ (jetAt [0, 0] 0 3).diesStopped = false := by
  unfold State.Canonical; decide +kernel
theorem wit_JetArithmetic_1 :
    jetReady (jWord 1 7 0x21 0x21 0 0) [0x21, 0x21] (fun v => lift2 jAdd (nth v 0 {}) (nth v 1 {})) = true ∧
    jetReady (jWord 2 0 0x21 0x21 0 0) [0x21, 0x21] (fun v => lift2 jSub (nth v 0 {}) (nth v 1 {})) = true ∧
    jetReady (jWord 3 0 0x21 0x21 0 0) [0x21, 0x21] (fun v => lift2 jMul (nth v 0 {}) (nth v 1 {})) = true ∧
    jetReady (jWord 4 0 0x21 0x21 0 0) [0x21, 0x21] (fun v => lift2 jMax (nth v 0 {}) (nth v 1 {})) = true := by decide +kernel
theorem wit_JetArithmetic_2 :
    jetReady (jWord 5 0 0x21 0 0 0) [0x21] (fun v => lift1 jAbs (nth v 0 {})) = true ∧
    jetReady (jWord 6 0 0x21 0 0 0) [0x21] (fun v => lift1 jSign (nth v 0 {})) = true ∧
    jetReady (jWord 7 0 0x21 0 0 0) [0x21] (fun v => lift1 jRsqrt (nth v 0 {})) = true ∧
    jetReady (jWord 8 0 0x21 0x21 0x21 0) [0x21, 0x21, 0x21] (fun v => jSelect (nth v 0 {}) (nth v 1 {}) (nth v 2 {})) = true ∧
    jetReady (jWord 9 0 0x21 0 0 63) [0x21] (fun v => lift1 (jScale (-1)) (nth v 0 {})) = true := by decide +kernel
theorem test_add_lane : nth (vget (((vget (after (.add 0 0 7 0x21#6 0x21#6 []) (jetAt [jWord 1 7 0x21 0x21 0 0, 0] 0 3)).comp.jets 0).run.map (·.regs)).getD
    (Vector.replicate 8 [])) (7 : Fin 8)) 3 {} = { bits := 0x40000000 } := by decide +kernel
/-- Whether a state is at a word of the given program, and a test of what is there. -/
def atWord (s : State) (word : Nat) (f : JetRun → Upd → List Byte → Bool) : Bool :=
  match s.jetHead 0 0 word with | some (r, u, b) => f r u b | none => false
/-- LAYER_REDUCE and STORE of an operand code. -/
def reduceW (a : Nat) : Nat := at_ 27 0x0A + at_ 18 a
def storeW (a pred : Nat) : Nat := at_ 27 0x0B + at_ 18 a + at_ 12 pred
/-- jetAt with poison in every lane of V0 and the weight's version 1 beyond binary32. -/
def jetBad (words : List Nat) (pass : Nat) : State :=
  let s := (jetAt words 0 pass).modJet 0 fun j => { j with run := j.run.map fun r => { r with regs := Vector.replicate 8 (List.replicate 256 { poison := true }) } }
  { s.modPart 0 fun p => { p with scales := [⟨1, 1, 1, 500, 0⟩] } with mem := [(128, 0x38#8)] }
def laneIs (s : State) (b : List Byte) (r : JetRun) (u : Upd) (code : Nat) (f : Option JVal → Bool) : Bool :=
  (s.lanes b r).any fun x => f (s.laneVal b r u code x.2 x.1)
/-- NOP; LAYER_REDUCE outside the statistics pass, with its T slot filled, and in it with good operands, with poison and with one beyond binary32. -/
theorem wit_JetReduceStore_reduce :
    ((jetAt [0, 0] 0 3).jetHead 0 0 0).isSome = true ∧
    atWord (jetAt [reduceW 0x21, 0] 0 3) (reduceW 0x21) (fun r _ _ => r.pass != 1) = true ∧
    atWord ((jetAt [reduceW 0x21, 0] 0 1).modPart 0 fun p => { p with steps := p.steps.map fun x => { x with upds := x.upds.map fun u =>
      { u with tvals := [(0, {})] } } }) (reduceW 0x21) (fun r u _ => r.pass == 1 && u.tvals.any fun t => t.1 == 0) = true ∧
    (let s := jetAt [reduceW 0x21, reduceW 0x21] 0 1
     atWord s (reduceW 0x21) fun r u b => r.pass == 1 && u.tvals == [] && (s.lanes b r).length == 4 &&
       (s.lanes b r).all (fun x => ((s.laneVal b r u 0x21 x.2 x.1).map (·.poison)) == some false)) = true ∧
    (let s := jetBad [reduceW 0, reduceW 0] 1
     atWord s (reduceW 0) fun r u b => r.pass == 1 && laneIs s b r u 0 fun v => (v.getD {}).poison) = true ∧
    (let s := jetBad [reduceW 0x10, reduceW 0] 1
     atWord s (reduceW 0x10) fun r u b => r.pass == 1 && laneIs s b r u 0x10 (·.isNone)) = true ∧
    ((jetAt [0, 0] 0 3).stepSt 0 1).map (·.st) ≠ some 6 := by decide +kernel
/-- The job with its weight's second row frozen, under FROZEN_STRICT. -/
def strictBed (words : List Nat) : List Byte := bedOf (at_ 3 1) 0 words none32 [(0x0207, 16, [record 16 []])]
def jetStrict (words : List Nat) : State := (jetAt words 0 3).modPart 0 fun p => { p with bed := some (strictBed words), masks := [(0, [2#8])] }
/-- STORE in the apply pass of a ring of two, with good operands, a poisoned predicate or value, one beyond binary32, and a frozen element; in a
statistics pass. -/
theorem wit_JetReduceStore_store :
    (let s := jetAt [storeW 0x21 0x21, 0] 0 3
     atWord s (storeW 0x21 0x21) fun r _ b => r.pass == 3 && (s.part r.pt).ring b (progW b r.prog) != 1 && !jobStrict b &&
       (s.lanes b r).all (fun x => !(s.part r.pt).frozen b (progW b r.prog) (unRow (s.view r.pt b (progW b r.prog) r.step).used x.2))) = true ∧
    (let s := jetBad [storeW 0 0, 0] 3
     atWord s (storeW 0 0) fun r u b => laneIs s b r u 0 fun v => (v.getD {}).poison) = true ∧
    (let s := jetBad [storeW 0 0x21, 0] 3
     atWord s (storeW 0 0x21) fun r u b => r.pass == 3 && laneIs s b r u 0 fun v => (v.getD {}).poison) = true ∧
    (let s := jetBad [storeW 0x21 0x10, 0] 3
     atWord s (storeW 0x21 0x10) fun r u b => laneIs s b r u 0x10 (·.isNone)) = true ∧
    (let s := jetStrict [storeW 0x21 0x21, 0]
     atWord s (storeW 0x21 0x21) fun r _ b => jobStrict b && (s.lanes b r).any fun x =>
       (s.part r.pt).frozen b (progW b r.prog) (unRow (s.view r.pt b (progW b r.prog) r.step).used x.2)) = true ∧
    atWord (jetAt [storeW 0x21 0x21, 0] 0 1) (storeW 0x21 0x21) (fun r _ _ => r.pass == 1) = true := by decide +kernel
theorem test_store_keeps_value : ((((after (.store 0 0 0 0x21#6 0x21#6 0#2 []) (jetAt [storeW 0x21 0x21, 0] 0 3)).stepSt 0 1).bind
    (·.upd 5)).map (·.stored)) = some [(0, 0, { bits := 0x3F800000 }, 0), (0, 1, { bits := 0x3F800000 }, 0), (0, 2, { bits := 0x3F800000 }, 0),
      (0, 3, { bits := 0x3F800000 }, 0)] := by decide +kernel

/-! ### Updates and rounds -/

/-- The job with its gradient rounded, the step settled and a scalar set present. -/
def grad : State := job.modPart 0 fun p => { p with
    steps := [{ num := 1, st := 3, settled := true, insts := [{ tensor := 4, mb := 0xFFFF, done := 15 }] }]
    sets := [⟨1, false, List.replicate 8 0x3F800000⟩] }
/-- The job with a statistic of layer 5 waiting to be completed. -/
def statAt (words : List Nat) (a : StatAcc) : State := job.modPart 0 fun p => { p with
    bed := some (bed words)
    steps := [{ num := 1, st := 3, settled := true, upds := [{ layerId := 5, prog := 0, pass := 5, stats := [a] }] }] }
/-- What an update's start looks for. -/
def startable (s : State) : Bool := !s.diesStopped && (layerRecs (bed prog) 5 == [0]) && (bedLayer (bed prog) 0).jet != none32 &&
  !(s.part 0).heldWeight (bed prog) (progW (bed prog) 0) &&
  ((s.active 0).find? fun x => ((x.upd 5).map fun u => u.pass == 0).getD true &&
      (if jobAhead (bed prog) = 0 then x.st == 3 || (x.st == 1 && x.settled) else decide (1 ≤ x.st ∧ x.st ≤ 3)) &&
      s.gradReady (bed prog) x 0 5).map (·.num) == some 1
/-- Step 0, which the slot of version 2 waits for, is in flight. -/
def heldUp : State := grad.modPart 0 fun p => { p with first := some 0, steps := p.steps ++ [{ num := 0, st := 4 }] }
theorem wit_UpdatePasses_start : (grad.part 0).bed = some (bed prog) ∧ startable grad = true ∧
    ((grad.part 0).sets.find? fun y => y.step == 1).isSome = true ∧ grad.slotFree 0 (bed prog) (progW (bed prog) 0) 1 = true ∧
    startable (grad.modPart 0 fun p => { p with sets := [] }) = true ∧ startable heldUp = true ∧
    ((heldUp.part 0).sets.find? fun y => y.step == 1).isSome = true ∧ heldUp.slotFree 0 (bed prog) (progW (bed prog) 0) 1 = false := by
  decide +kernel
theorem test_update_starts : ((after (.updateStart 0 5) grad).stepSt 0 1).map (fun x => x.upds.map fun u => (u.pass, u.slots.length)) = some [(1, 8)] ∧
    ((after (.updateStart 0 5) grad).part 0).sets.map (·.locked) = [true] := by decide +kernel
/-- How a layer's statistics end, when they are those of every member: the update's failure and the slots to repeat. -/
def statsEnd (s : State) : Option (Nat × List Nat) :=
  let b := ((s.part 0).bed).getD []
  match (s.part 0).steps.find? fun x => ((x.upd 5).map fun u => u.pass == 5).getD false with
  | none => none
  | some x =>
    match x.upd 5 with
    | none => none
    | some u => (s.roundResult 0 1 0 x.num (u.statList b)).map fun es =>
      let slots := (((progWords (recOf b 0x0208 u.prog)).filter fun w => jOp w == 0x0A).map fun w => (field w 25 24, w)).filter fun y =>
        !u.tvals.any fun t => t.1 == y.1
      let R := slots.foldl (fun (a : Upd × List Nat × State) y => a.2.2.settleStat 0 x.num b a.1 a.2.1 (statOf y.1 (nth es y.1 [])) y.2)
        (u, [], s.leaveRound 0 1 0 x.num)
      (R.1.fail, R.2.1)
/-- The same over a weight sharded between the members of group 0, whose lists have not come. -/
def statWaits : State :=
  let s := statAt [reduceW 0x21] ⟨0, 5, none, 3, 0, 4⟩
  let b := patch (bedWith [reduceW 0x21] none32 cascSecs) 0x0202 1 0x98 1
  { s with comp := { grouped.comp with parts := vmod s.comp.parts 0 fun p => { p with bed := some b } } }
theorem wit_UpdatePasses_statistics :
    statsEnd (statAt [reduceW 0x21 + at_ 16 2] ⟨0, 0, some 5, 0, 0, 4⟩) = some (0, []) ∧
    statsEnd (statAt [reduceW 0x21] ⟨0, 5, none, 3, 0, 4⟩) = some (0, []) ∧
    statsEnd (statAt [reduceW 0x21] ⟨0, 5, none, 126, 0, 2⟩) = some (0, [0]) ∧
    statsEnd (statAt [reduceW 0x21 + at_ 7 127] ⟨0, 2 ^ 20, none, 21, 0, 2⟩) = some (4, []) ∧
    statsEnd statWaits = none ∧ ((statWaits.part 0).steps.any fun x => ((x.upd 5).map fun u => u.pass == 5).getD false) = true ∧
    headroomOk 126 2 = false ∧ headroomOk 3 4 = true := by decide +kernel
theorem test_maximum_fills_slot : ((after (.statisticsComplete 0 5) (statAt [at_ 27 0x0A + at_ 16 2] ⟨0, 0, some 5, 0, 0, 4⟩)).stepSt 0 1).map
    (fun x => x.upds.map (·.tvals)) = some [[(0, { bits := 5 })]] := by decide +kernel

/-- The job with every tile done. -/
def settled (st : Nat) (both : Bool) (upds : List Upd) : State := job.modPart 0 fun p => { p with
    steps := [{ num := 1, st := st, both := both, settled := st == 4, done := [⟨0, 0, 0, 0, 0⟩, ⟨2, 0, 0, 0, 0⟩], upds := upds }] }
def updated : List Upd := [{ layerId := 5, prog := 0, pass := 4 }]
/-- What a round of the partition's first step finds beyond the rungs in force: the failure and the fits that spill, when every list has come. -/
def roundEnd (s : State) (round : Nat) : Option (Nat × List Nat) :=
  let b := ((s.part 0).bed).getD []
  let x : StepSt := ((s.part 0).steps.head?).getD { num := 0 }
  (if round = 2 then s.roundOut 0 b x 2 true x.both else s.roundOut 0 b x 3 false true).map fun o =>
    (o.fail, (o.fits.filter fun f => decide (s.rungAt 0 f.1 x.num < f.2)).map (·.2))
/-- The step with a tensor of a fit rung, or with a failure. -/
def fitting (t fit fail : Nat) (s : State) : State := s.modPart 0 fun p => { p with steps := p.steps.map fun x =>
  { x with insts := [{ tensor := t, mb := 0xFFFF, fit := fit }], fail := fail } }
/-- The same job whose group of two modules has not sent its lists. -/
def alone (s : State) : State := { s with comp := { grouped.comp with parts := vmod s.comp.parts 0 fun p => { p with bed := some cascBed } } }
theorem wit_Rounds_settle : (((settled 1 false []).active 0).find? ((settled 1 false []).settleOk 0 (bed prog))).isSome = true ∧
    (((settled 2 false []).part 0).steps.find? fun x => x.st == 2 && x.again.isEmpty).isSome = true ∧
    roundEnd (alone (settled 2 false [])) 2 = none ∧ (((alone (settled 2 false [])).part 0).steps.find? fun x => x.st == 2 && x.again.isEmpty).isSome = true ∧
    roundEnd (fitting 4 4 0 (settled 2 false [])) 2 = some (0, [4]) ∧ roundEnd (fitting 4 0 2 (settled 2 false [])) 2 = some (2, []) ∧
    roundEnd (fitting 4 3 0 (settled 2 false [])) 2 = some (0, [3]) ∧ roundEnd (settled 2 false []) 2 = some (0, []) ∧
    roundEnd (settled 2 true updated) 2 = some (0, []) ∧ (settled 2 true updated).isOldest 0 1 = true := by decide +kernel
theorem test_settle_commits : ((after (.settleRoundComplete 0) (settled 2 true updated)).part 0).commit = 1 := by decide +kernel
theorem wit_Rounds_commit : (((settled 3 false updated).part 0).steps.find? fun x => x.st == 3 && (settled 3 false updated).updatesDone 0 (bed prog) x).isSome = true ∧
    (((settled 4 false updated).oldest 0).map fun x => (x.st, x.both)) = some (4, false) ∧
    (((settled 4 true updated).oldest 0).map fun x => (x.st, x.both)) = some (4, true) ∧
    roundEnd (alone (settled 4 false updated)) 3 = none ∧ roundEnd (fitting 1 4 0 (settled 4 false updated)) 3 = some (0, [4]) ∧
    roundEnd (fitting 1 0 2 (settled 4 false updated)) 3 = some (2, []) ∧ roundEnd (fitting 1 1 0 (settled 4 false updated)) 3 = some (0, [1]) ∧
    roundEnd (settled 4 false updated) 3 = some (0, []) := by decide +kernel
theorem test_step_commits : ((after (.stepCommit 0) (settled 4 false updated)).part 0).commit = 1 := by decide +kernel

/-- A step that failed, its undo complete or not, after a number of replays; a tensor above its base rung whose hold ends with step 5. -/
def failed (n : Nat) (undone : Bool) : State := job.modPart 0 fun p => { p with steps := [{ num := 1, st := 5, undone := undone, fail := 1, replays := n }] }
def raised : State := job.modPart 0 fun p => { p with commit := 5, jobs := [⟨2, 2, some 1, []⟩], steps := [] }
theorem wit_RungsAndReplays : (raised.part 0).bed = some (bed prog) ∧ (raised.part 0).job 2 = some ⟨2, 2, some 1, []⟩ ∧
    (bedTensor (bed prog) 2).ret ≠ 0 ∧ (bedTensor (bed prog) 2).format < 2 ∧ 1 + (bedTensor (bed prog) 2).hold ≤ (raised.part 0).commit ∧
    (failed 3 false).draining 0 = false ∧ ((failed 3 false).part 0).steps.any (fun x => x.st == 5 && !x.undone) = true ∧
    ((grouped.modGroup 255 fun g => { g with st := 3 }).group 255).st = 3 ∧
    (((failed 3 true).part 0).steps.find? fun x => x.st == 5 && x.undone).isSome = true ∧
    3 ≤ field ((failed 3 true).reg Reg.faultCtl) 3 0 ∧ field ((failed 4 true).reg Reg.faultCtl) 3 0 < 4 := by decide +kernel
theorem wit_RungsAndReplays_canonical : (failed 3 true).Canonical := by unfold State.Canonical; decide +kernel
theorem test_rung_returns : (((after (.rungReturn 0 2) raised).part 0).job 2).map (fun j => (j.rung, j.since)) = some (1, some 5) := by decide +kernel
theorem test_replay_starts : ((after (.replayStart 0) (failed 3 true)).stepSt 0 1).map (fun x => (x.st, x.replay)) = some (0, true) ∧
    ((after (.replayStart 0) (failed 4 true)).stepSt 0 1) = none ∧
    ((after (.undoComplete 0) (failed 3 false)).stepSt 0 1).map (·.undone) = some true := by decide +kernel

/-! ### The loader and the Weir -/

/-- The job under its PLAN, with an image of a body and its digest staged and under validation; the target partition with or without a BED. -/
def staged (body : List Byte) (busy : Bool) : State :=
  ({ job with comp := { job.comp with
      loader := { st := 1, plan := some planBody, stage := Memory.writeBytes [] 0 (body ++ sha3 body) }
      parts := if busy then job.comp.parts else ready.comp.parts } } : State).put Reg.parterreLen (body.length + 64)
theorem staged_staged (body : List Byte) (busy : Bool) (n : Nat) (hn : body.length = n) (h0 : 64 ≤ n + 64) (h1 : n + 64 ≤ 2 ^ 23)
    (hr : (staged body busy).reg Reg.parterreLen = n + 64) : (staged body busy).staged = body ++ sha3 body := by
  have h := Memory.readBytes_writeBytes (m := []) rfl 0 (body ++ sha3 body)
  rw [List.length_append, sha3_length, hn] at h
  unfold State.staged
  rw [hr, Nat.min_eq_right h1, Nat.max_eq_right h0]
  exact h
theorem wit_LoadEnds_refused : ∃ a c sec rec_, (job.modLoader fun l => { l with st := 1 }).validate (job.modLoader fun l => { l with st := 1 }).staged
    ((job.modLoader fun l => { l with st := 1 }).reg Reg.parterreLen) false = some (a, c, sec, rec_) ∧ c < 2 ^ 16 ∧ sec < 2 ^ 32 ∧ rec_ < 2 ^ 32 ∧
    (job.modLoader fun l => { l with st := 1 }).comp.loader.hit = 0#16 := ⟨1, 1, 0xFF, none32, by decide +kernel⟩
/-- SHA3-512 of the empty string (FIPS 202). -/
theorem test_sha3_empty : sha3 [] = leBytes 64 0x26cd1d2886857501e3d3b6959d1900f558c53a2c40e9e3114cf9f5f13a12b215a6805c47c1dcd1e05958e24f1682c9976e755a18dc67b5c8c59a3aa2cc739fa6 := by
  decide +kernel
theorem wit_LoadEnds_plan : (staged planBody true).staged = planBody ++ sha3 planBody ∧
    (staged planBody true).validate (planBody ++ sha3 planBody) 512 false = none ∧ u8 (planBody ++ sha3 planBody) 4 = 1 ∧
    (staged planBody true).phase6 (planBody ++ sha3 planBody) = none :=
  ⟨staged_staged _ _ 448 (by decide +kernel) (by decide) (by decide) (by decide +kernel),
    State.validate_signed _ _ _ _ (by decide +kernel) (by decide +kernel) (by decide +kernel) (by decide +kernel) (by decide +kernel),
    by decide +kernel, by decide +kernel⟩
theorem wit_LoadEnds_bed (busy : Bool) : (staged (bed prog) busy).staged = bed prog ++ sha3 (bed prog) ∧
    (staged (bed prog) busy).validate (bed prog ++ sha3 (bed prog)) 1920 false = none ∧ u8 (bed prog ++ sha3 (bed prog)) 4 = 2 ∧
    (staged (bed prog) busy).phase6 (bed prog ++ sha3 (bed prog)) = none ∧ ((staged (bed prog) busy).part 0).bed.isSome = busy :=
  ⟨staged_staged _ _ 1856 (by decide +kernel) (by decide) (by decide) (by cases busy <;> decide +kernel),
    State.validate_signed _ _ _ _ (by decide +kernel) (by cases busy <;> decide +kernel) (by decide +kernel) (by cases busy <;> decide +kernel)
      (by cases busy <;> decide +kernel),
    by decide +kernel, by cases busy <;> decide +kernel, by cases busy <;> decide +kernel⟩
/-- A load that a reset of its partition has hit, and one refused while a BED is pending. -/
def hitLoad : State := (staged (bed prog) true).modLoader fun l => { l with hit := 1#16 }
theorem staged_hit (s : State) (h : BitVec 16) : (s.modLoader fun l => { l with hit := h }).staged = s.staged := rfl
theorem wit_LoadEnds_device : hitLoad.staged = bed prog ++ sha3 (bed prog) ∧
    (u8 (bed prog ++ sha3 (bed prog)) 4 == 2 && hitLoad.comp.loader.hit.getLsbD (field (u8 (bed prog ++ sha3 (bed prog)) 0x0C) 3 0) &&
      (hitLoad.headerCode (bed prog ++ sha3 (bed prog)) (hitLoad.reg Reg.parterreLen) false).isNone) = true ∧
    ((staged (bed prog) true).modPart 0 fun p => { p with pendBed := some [] }).phase6 (bed prog ++ sha3 (bed prog)) = some 0x22 ∧
    ready.comp.loader.st = 0 :=
  ⟨(staged_hit _ _).trans (wit_LoadEnds_bed true).1, by decide +kernel, by decide +kernel,
    by decide +kernel⟩
/-- A descriptor with an opcode and further fields, from submission queue 0 of completion queue 0 (Table 09-1). -/
def desc (op : Nat) (fs : List (Nat × Nat × Nat)) : List Byte := record 65 ((0, 1, op) :: fs)
/-- The job under its PLAN with a descriptor at the head of queue 0, host window 0 granted to it both ways, a list of one entry at 0x2000 and a
snapshot parameter block at 0x3000 of pool 0. -/
def submitted (d : List Byte) : State :=
  let s := (((ready.put 0x100108 0x10000).put 0x100100 0x5000).put 0x100110 7)
  { job with
    regs := s.regs
    mem := [(0x2000, 1#8), (0x2004, 2#8), (0x3000, 1#8), (0x3040, 1#8)]
    comp := { job.comp with
      loader := { plan := some planBody }
      weir := { heads := [(0, 0, d)], profiles := [(0, [{ res := [], dur := 4 }])] } } }
/-- The hypotheses of a grant, computed. -/
def granted (op : Nat) (d : List Byte) (v : State → Verdict) : Option (Adm × Nat) :=
  let s := (submitted d).takeHead 0 0
  match v s with
  | .refuse _ => none
  | .grant a st =>
    match s.placeStages 0 0 (if st.isEmpty then s.firstQuantum a - 1 else s.firstQuantum a) st with
    | none => none
    | some pl =>
      if (submitted d).turn = some (0, 0) ∧ (submitted d).headOf 0 0 = some d ∧ dOp d = op ∧ a.desc = d ∧ a.pt = 0 ∧
          (op = 7 → a.count = 0) ∧ dDeadline d = 0 then
        some (a, 225 * ((pl.span (if st.isEmpty then s.firstQuantum a - 1 else s.firstQuantum a)).2 + 1)) else none
theorem granted_sound (op : Nat) (d : List Byte) (v : State → Verdict) (h : (granted op d v).isSome = true) :
    ∃ a p, WeirGrants (submitted d) 0 0 op d v a p := by
  simp only [granted] at h
  split at h
  · simp at h
  · rename_i a st hv
    split at h
    · simp at h
    · rename_i pl hp
      split at h
      · rename_i g
        exact ⟨a, _, g.1, g.2.1, g.2.2.1, by intro x hx; simp [submitted] at hx, st, pl, _, hv, g.2.2.2.1, g.2.2.2.2.1,
          .inr ⟨by simp [State.admsOf, submitted], by simp [submitted]⟩, rfl, hp, rfl, fun h7 => .inl (g.2.2.2.2.2.1 h7), .inr (.inl g.2.2.2.2.2.2)⟩
      · simp at h
def stepD : List Byte := desc 1 [(0x10, 6, 2)]
def seedD : List Byte := desc 2 [(0x10, 6, 2), (0x18, 4, 0), (0x20, 6, 0x4000)]
def copyD : List Byte := desc 3 [(0x18, 4, 1), (0x1C, 4, 4)]
def gatherD : List Byte := desc 4 [(0x18, 4, 1), (0x1C, 4, 4), (0x20, 6, 0x2000)]
def scatterD : List Byte := desc 5 [(0x18, 4, 1), (0x1C, 4, 4), (0x20, 6, 0x2000)]
def scalarD : List Byte := desc 6 [(0x20, 6, 0x4000)]
def snapD : List Byte := desc 7 [(0x20, 6, 0x3000)]
def dmaInD : List Byte := desc 8 [(0x18, 4, 64), (0x20, 6, 0x4000), (0x28, 8, 0x5000)]
def dmaOutD : List Byte := desc 9 [(0x18, 4, 64), (0x20, 6, 0x4000), (0x28, 8, 0x14FC0)]
def fenceD : List Byte := desc 10 []
theorem wit_DescriptorsAdmitted_1 : (granted 1 stepD fun s => s.stepVerdict 0 0 stepD).isSome = true ∧
    (granted 2 seedD fun s => s.seedVerdict 0 0 seedD).isSome = true ∧ (granted 3 copyD fun s => s.moveVerdict 0 0 copyD).isSome = true ∧
    (granted 4 gatherD fun s => s.moveVerdict 0 0 gatherD).isSome = true ∧
    (granted 5 scatterD fun s => s.moveVerdict 0 0 scatterD).isSome = true := by decide +kernel
theorem wit_DescriptorsAdmitted_2 : (granted 6 scalarD fun s => s.scalarVerdict 0 0 scalarD).isSome = true ∧
    (granted 7 snapD fun s => s.snapVerdict 0 0 snapD).isSome = true ∧ (granted 8 dmaInD fun s => s.dmaVerdict 0 0 dmaInD).isSome = true ∧
    (granted 9 dmaOutD fun s => s.dmaVerdict 0 0 dmaOutD).isSome = true ∧
    (granted 10 fenceD fun s => s.fenceVerdict 0 0 fenceD).isSome = true := by decide +kernel
theorem wit_DescriptorsAdmitted : ∃ a p, WeirGrants (submitted stepD) 0 0 1 stepD (fun s => s.stepVerdict 0 0 stepD) a p :=
  granted_sound _ _ _ (by decide +kernel)
theorem test_step_admitted : nextNumber (after (.step 0 0) (submitted stepD)) 0 = 2 ∧ ((after (.step 0 0) (submitted stepD)).part 0).lastStep = some 2 := by
  decide +kernel

/-- Refusals: a STEP out of order, a COPY beyond the section, a DMA outside every window. -/
theorem wit_DescriptorsRefused :
    (submitted (desc 1 [(0x10, 6, 9)])).turn = some (0, 0) ∧ (submitted (desc 1 [(0x10, 6, 9)])).comp.weir.heads = [(0, 0, desc 1 [(0x10, 6, 9)])] ∧
    (({ (submitted (desc 1 [(0x10, 6, 9)])) with boot := { ready.boot with ready := false } } : State).takeHead 0 0).stepVerdict 0 0 (desc 1 [(0x10, 6, 9)]) = .refuse 0x110 ∧
    ((submitted (desc 3 [(0x18, 4, 1), (0x1C, 4, 5)])).takeHead 0 0).moveVerdict 0 0 (desc 3 [(0x18, 4, 1), (0x1C, 4, 5)]) = .refuse 0x105 ∧
    ((submitted (desc 8 [(0x18, 4, 64), (0x28, 8, 0x14FC1)])).takeHead 0 0).dmaVerdict 0 0 (desc 8 [(0x18, 4, 64), (0x28, 8, 0x14FC1)]) = .refuse 0x106 ∧
    dOp fenceD ≠ 1 := by decide +kernel

/-- One admitted descriptor. -/
def admitted (d : List Byte) (promise : Nat) (started : Bool) : State :=
  { submitted d with comp := { (submitted d).comp with weir :=
      { adms := [{ pt := 0, admno := 1, sq := 0, desc := d, promise := promise, started := started, bed := bed prog, count := 1, rank := 2,
                   src := recOf (bed prog) 0x0202 1, dst := recOf (bed prog) 0x0202 4 }] } } }
theorem wit_PromiseAndDma : ((admitted copyD 999 false).adm 0 1).map (·.overdue) = some false ∧ 999 < (admitted copyD 999 false).time ∧
    (((admitted dmaInD 2000 false).adm 0 1).map (admitted dmaInD 2000 false).opReady) = some true ∧ dOp dmaInD = 8 ∧ dOp dmaOutD = 9 ∧
    (((admitted dmaOutD 2000 false).adm 0 1).map (admitted dmaOutD 2000 false).opReady) = some true := by decide +kernel
/-- A seed from host memory. -/
def hostSeed : List Byte := desc 2 [(0x10, 6, 2), (0x18, 4, 0), (0x20, 6, 0x4000), (0x26, 2, 2)]
theorem wit_PromiseAndDma_seed : dOp hostSeed = 2 ∧ (dAddr hostSeed 0x20).2 = 2 ∧
    (((admitted hostSeed 2000 false).adm 0 1).map (admitted hostSeed 2000 false).opReady) = some true := by decide +kernel
theorem test_promise_expires : ((after (.promiseExpire 0 1#32) (admitted copyD 999 false)).adm 0 1).map (·.overdue) = some true ∧
    ((after (.promiseExpire 0 1#32) (admitted copyD 1000 false)).adm 0 1).map (·.overdue) = some false := by decide +kernel
theorem wit_SluiceEngine : (vget (admitted gatherD 2000 false).comp.engines 0).run = none ∧
    ((admitted gatherD 2000 false).comp.weir.adms.filter fun a => a.onSluice && a.engine a.bed == 0 && (admitted gatherD 2000 false).opReady a).length = 1 ∧
    ((admitted gatherD 2000 false).comp.weir.adms.all fun a => a.count != 0 &&
      (admitted gatherD 2000 false).listStatus a.pt (dAddr a.desc 0x20) (layoutOf a.src).rank a.count (a.rank % 16) == 0) = true ∧
    (vget ((admitted gatherD 2000 true).modEng 1 fun e => { e with run := some ⟨0, 1⟩ }).comp.engines 1).run = some ⟨0, 1⟩ ∧
    (((admitted gatherD 2000 true).modEng 1 fun e => { e with run := some ⟨0, 1⟩ }).adm 0 1).isSome = true := by decide +kernel
/-- A list whose header fails, and an empty one. -/
theorem wit_SluiceEngine_lists : (let s := admitted (desc 4 [(0x18, 4, 1), (0x1C, 4, 4), (0x20, 6, 0x2000), (0x26, 2, 5)]) 2000 false
     s.comp.weir.adms.all fun a => a.count != 0 && s.listStatus a.pt (dAddr a.desc 0x20) (layoutOf a.src).rank a.count (a.rank % 16) != 0) = true ∧
    (let s := admitted gatherD 2000 false
     let s : State := { s with comp := { s.comp with weir := { s.comp.weir with adms := s.comp.weir.adms.map fun (a : Adm) => { a with count := 0 } } } }
     (s.comp.weir.adms.filter fun a => a.onSluice && a.engine a.bed == 0 && s.opReady a).length == 1 &&
     s.comp.weir.adms.all fun a => a.count == 0 && s.listStatus a.pt (dAddr a.desc 0x20) (layoutOf a.src).rank a.count (a.rank % 16) == 0) = true := by
  decide +kernel
theorem test_sluice_starts : (vget (after (.sluiceStart 0 0) (admitted copyD 2000 false)).comp.engines 0).run = some ⟨0, 1⟩ ∧
    (vget (after (.sluiceComplete 0 0 none) (after (.sluiceStart 0 0) (admitted copyD 2000 false))).comp.engines 0).run = none := by decide +kernel

/-- Layout with strides 4 and 1 over 3 × 4 elements passes, with strides 3 and 1 it does not (R145). -/
theorem wit_StaticCollisionTest : (∃ l : Layout, [(1, 4), (4, 3)].Perm (((l.stride.map Int.natAbs).zip l.extent).filter fun d => decide (1 < d.2))) ∧
    [(1, 4), (4, 3)].Pairwise (fun a c : Nat × Nat => a.1 ≤ c.1) ∧
    staticOk { (default : Layout) with stride := [4, 1], extent := [3, 4] } = true ∧
    staticOk { (default : Layout) with stride := [3, 1], extent := [3, 4] } = false :=
  ⟨⟨{ (default : Layout) with stride := [1, -4], extent := [4, 3] }, by decide +kernel⟩, by decide, by decide +kernel, by decide +kernel⟩

theorem wit_LoaderCommands : ready.comp.loader.st = 0 ∧ (staged [] true).comp.loader.st ≠ 0 ∧ (0xC2#8 : Byte) ≠ 0xC3#8 ∧ ready.pres = false ∧ ready.plan = none ∧
    ({ ready with sec := { ready.sec with windowEnd := some 1001 } } : State).pres = true ∧
    ({ submitted copyD with sec := { ready.sec with windowEnd := some 1001 } } : State).pres = true ∧ (submitted copyD).plan = some planBody ∧
    (submitted copyD).hostUp = true := by decide +kernel
theorem wit_LoaderCommands_canonical : ready.Canonical ∧ (submitted copyD).Canonical := by unfold State.Canonical; decide +kernel
theorem wit_LoadEnds_effect : ((job.modPart 0 fun p => { p with pendBed := some (bed prog), steps := [] }).part 0).pendBed = some (bed prog) ∧
    (job.modPart 0 fun p => { p with pendBed := some (bed prog), steps := [] }).resetting 0 = false := by decide +kernel

/-! ### Cascade -/

/-- The hypotheses of CascadeInstructions about a record, computed. -/
def named (record opc : Nat) : Bool :=
  match (programs cascBed).find? fun p => (progRecs cascBed 64 p.1).contains record with
  | some (first, layer) =>
    let k := grouped.cascCtx 0 cascBed 1 record 0xFFFF layer 0
    grouped.groupAt 0 (bedCasc cascBed record).group == some 0 && !(bedCasc cascBed record).permb &&
      (((grouped.active 0).filter fun x => decide (1 ≤ x.st ∧ x.st ≤ 4)).length == 1) && !(grouped.crun k).on && grouped.whenOk k first &&
      (bedCasc cascBed record).opc == opc
  | none => false
theorem wit_CascadeInstructions : (grouped.part 0).bed = some cascBed ∧ named 0 1 = true ∧ named 2 2 = true ∧ named 4 3 = true ∧
    named 6 4 = true ∧ 0 < jobMbs cascBed ∧
    (let s := grouped.modCasc fun c => { c with runs := [{ pt := 0, record := 0, layer := none, slot := 0, step := 1, mb := 0xFFFF, on := true }] }
     (s.crun (s.cascCtx 0 cascBed 1 0 0xFFFF none 0)).on) = true := by decide +kernel
theorem wit_CascadeInstructions_waits : (let k := grouped.cascCtx 0 cascBed 1 2 0xFFFF none 0
     !(grouped.crun k).on && !grouped.whenOk k 0) = true := by decide +kernel

/-- A chunk of one element from rank 1 in step 1. -/
def chunk (kind tag residue : Nat) (lbase : Int) (payload : List Byte) : Chunk :=
  { tag := tag, gid := 9, kind := kind, prov := false, careful := false, stage := 0x41, step := 1, mb := 0xFFFF, first := 0, count := 1, estride := 1
    epoch := 4, lbase := lbase, rev := 0, residue := residue, payload := payload }
/-- The group with a chunk delivered. -/
def arrived (c : Chunk) : State := grouped.modCasc fun x => { x with inbox := [(0x10000, 0, c.bytes)] }
/-- The hypotheses of ChunkArrives and the context of the chunk, computed. -/
def arrives (c : Chunk) (ops : Nat → Bool) : Bool :=
  let s0 := grouped
  let k := s0.ctxOf 0 0 c.step c.mb c.tag ops
  isChunk c.kind c.bytes && c == chunkOf c.bytes && s0.slotOfGid 0 c.gid == some 0 && decide ((s0.group 0).epoch ≤ c.epoch) &&
    (s0.group 0).members.findIdx? (· == 0x10000) == some 1 && s0.comp.casc.revs.isEmpty && s0.chunkOk k c && (c.kind == 5 || k.isSome)
def sumC : Chunk := chunk 0 5 3 (-24) (runnelEncode false false 1 [⟨0, 3, 0, false⟩])
def scalarC : Chunk := chunk 5 0 (2 + at_ 8 1) 0 (leBytes 8 (2 + at_ 8 1) ++ List.replicate 32 0#8)
theorem wit_ChunksReceived_sums : arrives sumC (fun o => o == 1 || o == 3) = true ∧
    arrives (chunk 1 5 3 (-24) (runnelEncode false true 1 [⟨0, 3, 0, false⟩])) (fun o => o == 1 || o == 3) = true ∧
    arrives (chunk 2 5 7 0 [7#8, 0#8]) (fun o => o == 1 || o == 3) = true := by decide +kernel
theorem wit_ChunksReceived_data : arrives (chunk 3 5 7 0 [7#8, 0#8]) (fun o => o == 1 || o == 3) = true ∧
    arrives (chunk 4 2 7 0 [7#8]) (fun o => o == 2 || o == 3 || o == 4) = true ∧ arrives scalarC (fun _ => false) = true ∧
    arrives { sumC with residue := 4 } (fun o => o == 1 || o == 3) = false := by decide +kernel
/-- A residue that does not agree, a chunk of no instruction, a formation list, and a list whose residue does not agree. -/
theorem wit_ChunksReceived_others : (let c := { sumC with residue := 4 }
      isChunk 0 c.bytes && c == chunkOf c.bytes && !grouped.chunkOk (grouped.ctxOf 0 0 c.step c.mb c.tag fun o => o == 1 || o == 3) c) = true ∧
    (let c := { sumC with tag := 99 }
     isChunk 0 c.bytes && c == chunkOf c.bytes && grouped.chunkOk none c &&
       (grouped.ctxOf 0 0 c.step c.mb c.tag fun o => o == 1 || o == 3).isNone) = true ∧
    (let c := { scalarC with payload := leBytes 8 256 ++ List.replicate 32 0#8, step := 0, residue := wordResidue (leBytes 8 256) }
     isChunk 5 c.bytes && c == chunkOf c.bytes && grouped.chunkOk none c && u8 c.payload 0 == 0) = true ∧
    (let c := { scalarC with residue := 1 }
     isChunk 5 c.bytes && c == chunkOf c.bytes && !grouped.chunkOk none c) = true := by decide +kernel
/-- Runnel: a block of 17 elements codes in two blocks and reads back (R264, R265); 3 and −6 share no trailing zero, −6 and 4 share one. -/
theorem test_runnel : runnelDecode 2 17 (runnelEncode false false 2 ((List.range 17).map fun i => ⟨i, (i : Int) - 8, 0, false⟩)) =
      some ((List.range 17).map fun i => ((i : Int) - 8, 0, false)) ∧
    (runnelEncode false false 1 [⟨0, -6, 0, false⟩, ⟨1, 4, 0, false⟩]).take 4 = [0#8, 1#8, 0xFD#8, 2#8] ∧
    runnelEncode false false 1 [⟨0, 0, 0, false⟩] = [0x10#8, 0#8] := by decide +kernel
theorem test_chunk_used : ((after (.sum false) (arrived sumC)).comp.casc.runs.map fun r => r.recv.map (·.1)) = [[1]] ∧
    (after (.sum false) (arrived sumC)).comp.casc.inbox = [] := by decide +kernel
theorem test_residue_mismatch_not_used : (after (.sum false) (arrived { sumC with residue := 4 })).comp.casc.runs = [] := by decide +kernel

/-- A control message about the chunk sumC from rank 1, delivered. -/
def told (typ : Nat) (s : State) : State :=
  s.modCasc fun x => { x with inbox := [(0x10000, 0, ctlBytes typ 9 4 1 0xFFFF 5 0 0x41 0 0 1)] }
/-- The group after it sent that chunk, recalled n times. -/
def sent (n : Nat) : State := grouped.modCasc fun x => { x with sent := [{ pt := 0, dst := 1, chunk := sumC, recalls := n }] }
theorem wit_ControlMessages : (∀ t ∈ [1, 2, 3, 4, 5], isCtl t (ctlBytes t 9 4 1 0xFFFF 5 0 0x41 0 0 1) = true) ∧
    grouped.slotOfGid 0 (u16 (ctlBytes 1 9 4 1 0xFFFF 5 0 0x41 0 0 1) 2) = some 0 ∧
    (grouped.group 0).epoch ≤ u32 (ctlBytes 1 9 4 1 0xFFFF 5 0 0x41 0 0 1) 4 ∧ (grouped.group 0).members.findIdx? (· == 0x10000) = some 1 ∧
    (grouped.group 0).st = 2 ∧ grouped.comp.casc.runs = [] ∧
    ((sent 1).comp.casc.sent.find? fun x => x.pt == 0 && x.dst == 1 && ctlNames (ctlBytes 3 9 4 1 0xFFFF 5 0 0x41 0 0 1) x.chunk &&
      x.chunk.rev == u8 (ctlBytes 3 9 4 1 0xFFFF 5 0 0x41 0 0 1) 0x14).isSome = true ∧
    ((sent 2).comp.casc.sent.map (·.recalls)) = [2] := by decide +kernel
theorem wit_ControlMessages_others : grouped.comp.casc.rounds = [] ∧ ((sent 0).comp.casc.sent.map fun x => (x.gone, x.held, x.recalls)) = [(false, false, 0)] ∧
    ((grouped.modGroup 0 fun g => { g with st := 3 }).group 0).st = 3 ∧ isCtl 5 (ctlBytes 5 9 4 1 0xFFFF 5 0 0x41 0 0 1) = true ∧
    (told 5 grouped).comp.casc.inbox.length = 1 ∧ grouped.fault.suspects = [] ∧ ((grouped.comp.fab.tx.find? fun f => f.pt == 0 && addrPos f.dst == 0x10000).map (·.port)).getD 0 = 0 := by
  decide +kernel
theorem wit_ControlMessages_canonical : (told 1 grouped).Canonical := by unfold State.Canonical; decide +kernel
theorem test_confirm : ((after .confirm (told 1 (sent 0))).comp.casc.sent.map (·.confirmed)) = [true] := by decide +kernel
theorem test_recall : ((after .recall (told 3 (sent 1))).comp.casc.sent.map fun x => (x.chunk.rev, x.recalls)) = [(1, 2)] ∧
    ((after .recall (told 3 (sent 2))).group 0).st = 3 ∧ ((after .recall (told 3 (sent 2))).group 0).epoch = 5 := by decide +kernel
theorem test_abandon : ((after .abandon (told 4 grouped)).group 0).epoch = 5 := by decide +kernel

/-- Group 0 forming at the module's locked position, rack 3, tray 0, slot 0, alone in its package or, with an advert of slot 1 held, in its tray. -/
def formBed (tray : Bool) : List Byte :=
  bedWith prog none32 [(0x020A, 64, [record 64 [(0, 4, 9 + at_ 20 (if tray then 2 else 1)), (0x10, 4, if tray then 2 else 1)]])]
def forming (tray : Bool) : State :=
  ((((job.put Reg.fabricPos (at_ 16 3 + at_ 31 1)).modPart 0 fun p => { p with bed := some (formBed tray), steps := [] }).modLoader fun l =>
    { l with plan := some planBody }).modGroup 0 fun g => { g with pt := 0, gid := 9, record := 0, st := 1, epoch := 6, since := 0 }).modFab fun f =>
    { f with adverts := [{ serial := 7, seq := 1, body := record 0x90 [(8, 4, 3 + 2 ^ 24), (0x14, 4, 2 ^ 16), (0x80, 4, 1)], at_ := 0, port := none }] }
/-- The state after a member has entered its own entries, and the list of slot 1: its own with entry i taken from e. -/
def entered (tray : Bool) : State := (forming tray).enterForm 0 (formBed tray) ((forming tray).candidates 0)
def theirs (i : Nat) (e : List Byte) : List (List Byte) :=
  ((((entered true).round 0 0 0 0).bind (·.own)).getD []).zipIdx.map fun x => if x.2 = i then e else x.1
def peered (i : Nat) (e : List Byte) : State := (forming true).modCasc fun c =>
  { c with rounds := [{ slot := 0, round := 0, ident := 0, step := 0, recv := [(0, 0, theirs i e)] }] }
/-- What the completed round says: the count, and this member's code. -/
def formEnd (s : State) (tray : Bool) : Option (Int × Option Nat × Bool) :=
  let t := s.enterForm 0 (formBed tray) (s.candidates 0)
  ((t.round 0 0 0 0).bind fun a => a.result (s.candidates 0).length (t.group 0).rank).map fun es =>
    (entryVal (nth es 0 []), t.formCode 0 es, -entryVal (nth es 8 []) == entryVal (nth es 7 []))
theorem wit_GroupForms : ((forming true).part 0).bed = some (formBed true) ∧ (forming true).candidates 0 = [3, 3 + 2 ^ 24] ∧
    (forming false).candidates 0 = [3] ∧ ((forming true).group 0).st = 1 ∧ (forming true).posLocked = true ∧ ((forming true).part 0).steps = [] ∧
    (bedGroup (formBed true) 0).minMembers = 2 ∧ (bedGroup (formBed false) 0).minMembers = 1 ∧ (grouped.group 0).st ≠ 1 := by decide +kernel
theorem wit_GroupForms_rounds : formEnd (forming true) true = none ∧ formEnd (forming false) false = some (1, none, true) ∧
    formEnd (peered 12 []) true = some (2, none, true) ∧ (formEnd (peered 1 (maxEntry 9)) true).map (·.2.1) = some (some 1) := by decide +kernel
theorem wit_GroupForms_again : (formEnd (peered 0 (sumEntry { slot := 0, sum := 2, n := 1 })) true).map (·.1) = some 3 := by decide +kernel
/-- A running step that waits for rank 1, without progress since the start. -/
def stuck : State := ({ (sent 0) with time := (sent 0).reg Reg.cascadeTimeout } : State)
theorem wit_GroupForms_peers : ((forming true).group 0).told = false ∧ 0 + (forming true).reg Reg.cascadeTimeout ≤ ({ forming true with time := 450000 } : State).time ∧
    (forming true).time < 0 + (forming true).reg Reg.cascadeTimeout ∧ (grouped.group 0).members.findIdx? (· == (0x10000#32 : Word).toNat) = some 1 ∧
    grouped.peerStuck 0 1 = false ∧ stuck.peerStuck 0 1 = true ∧ (stuck.group 0).st = 2 ∧ 0x10000 ≠ stuck.myPos ∧
    ((stuck.part 0).steps.map (·.st)) = [1] ∧ ((stuck.modPart 0 fun p => { p with steps := [] }).peerStuck 0 1) = true := by decide +kernel
theorem wit_GroupForms_canonical : (forming true).Canonical ∧ (peered 1 (maxEntry 9)).Canonical := by unfold State.Canonical; decide +kernel
theorem test_group_forms : ((after (.groupFormation 0) (peered 12 [])).group 0).st = 2 ∧ ((after (.groupFormation 0) (peered 12 [])).group 0).epoch = 7 ∧
    ((after (.groupFormation 0) (peered 12 [])).group 0).members = [3, 3 + 2 ^ 24] := by decide +kernel
theorem test_group_refused : ((after (.groupFormation 0) (peered 1 (maxEntry 9))).group 0).st = 4 := by decide +kernel

/-! ### The fabric -/

def later (n : Nat) (s : State) : State := { s with time := n }
/-- Port 0 split. -/
def splitPort : State := ready.modLoader fun l => { l with plan := some (patch planBody 0x0101 0 0 1) }
/-- Half 0 of port 0 as given. -/
def halfAt (x : HalfSt) : State := ready.modHalf 0 0 fun _ => x
/-- Every stage at its limit, and one cycle before and after it. -/
theorem wit_PortTraining : (ready.halfIxs 0).contains 0 = true ∧ (ready.halfIxs 0).contains 1 = false ∧ (ready.half 0 0).st ≠ 1 ∧
    (∀ st ∈ [1, 2, 3, 4], ((halfAt { st := 1, stage := st }).half 0 0).stage = st ∧ ((halfAt { st := 1, stage := st }).half 0 0).st = 1 ∧
      (later (stageLimit st) (halfAt { st := 1, stage := st })).time ≤ 0 + stageLimit st ∧
      (later (stageLimit st - 1) (halfAt { st := 1, stage := st })).time < 0 + stageLimit st ∧
      0 + stageLimit st < (later (stageLimit st + 1) (halfAt { st := 1, stage := st })).time) ∧
    false = ready.split 0 ∧ true ≠ ready.split 0 ∧ (splitPort.halfIxs 0).contains 1 = true := by
  decide +kernel
/-- In standard mode the second half of a split port uses lanes 4 to 7, which stage 2 tests (R289). -/
theorem test_split_standard : splitPort.split 0 = true ∧ splitPort.testMask 0 1 = 0x3F0 ∧ splitPort.stdMask 0 1 = 0xF0 := by decide +kernel
/-- Ten lanes that both sides use give width 8 on lanes 0 to 7; lane 0 missing gives 8 on lanes 1 to 8; three give 2; none fails (Table 11-3). -/
theorem test_training_width : let f := fun (n : Nat) =>
      let x := (after (.trainingStage 0 false (.pass 0 0 true false)) (halfAt { st := 1, stage := 4, own := 0x3FF, partner := n })).half 0 0
      (x.st, x.width, x.used)
    f 0x3FF = (2, 8, 0xFF) ∧ f 0x3FE = (2, 8, 0x1FE) ∧ f 0x7 = (2, 2, 0x3) ∧ f 0x3F = (2, 4, 0xF) ∧ f 0 = (3, 0, 0) := by decide +kernel
theorem test_training_standard : let f := fun (n : Nat) =>
      ((after (.trainingStage 0 false (.pass 0 0 true false)) (halfAt { st := 1, stage := 4, std := true, own := n })).half 0 0).width
    f 0x3FF = 8 ∧ f 0xFF = 8 ∧ f 0x37F = 0 := by decide +kernel

/-- Port 0 up with eight lanes. -/
def portUp : State := halfAt { st := 2, stage := 5, width := 8, own := 0x3FF, partner := 0x3FF, used := 0xFF }
theorem wit_PortService_lane : portUp.split 0 = false ∧ (portUp.half 0 0).st = 2 ∧ bit (portUp.half 0 0).used 7 = true ∧
    bit (portUp.half 0 0).used 8 = false ∧ (∀ n ∈ (Vector.replicate 10 0 : Vector Nat 10).toList, n ≤ portUp.reg Reg.fabricLaneFailth) := by
  decide +kernel
theorem wit_PortService_fast : (let x := (halfAt { st := 1, stage := 2, fast := true }).half 0 0
      x.st == 1 && x.fast && !bit x.bad 9) = true ∧ splitPort.split 0 = true := by decide +kernel
theorem wit_PortService_canonical : portUp.Canonical := by unfold State.Canonical; decide +kernel
theorem wit_PortService_retry : ready.portOn 0 = true ∧ ready.hostUp = true ∧ ready.boot.ready = true ∧ ready.split 0 = false ∧
    (∀ st ∈ [3, 4], ((halfAt { st := st, retryAt := some 1000 }).half 0 0).st = st) ∧
    (halfAt { st := 3, retryAt := some 1000 }).due ((halfAt { st := 3, retryAt := some 1000 }).half 0 0).retryAt = true ∧
    ready.due (some 1001) = false ∧ (portUp.half 0 0).st ≠ 1 ∧ (0x3D#8 : Byte) ≠ 0x3C#8 := by decide +kernel
theorem wit_PortService_enable : bit (ready.reg (Reg.fabricPortCtl 0)) 0 = true ∧ bit (0#32 : Word).toNat 0 = false ∧
    ready.portHeld 0 = false ∧ bit ((after (.portEnable 0 0#32) ready).reg (Reg.fabricPortCtl 0)) 0 = false ∧
    bit (1#32 : Word).toNat 0 = true ∧ (after (.portEnable 0 0#32) ready).hostUp = true := by decide +kernel
theorem wit_PortService_enable_canonical : (after (.portEnable 0 0#32) ready).Canonical := by unfold State.Canonical; decide +kernel
theorem test_fec_window : (after (.fecWindow 0 (Vector.replicate 10 3) 2) portUp).reg (Reg.fabricPortFeccorrLo 0) = 30 ∧
    (after (.fecWindow 0 (Vector.replicate 10 3) 2) portUp).reg (Reg.fabricPortFecunc 0) = 2 := by decide +kernel
theorem test_ports_held : ready.portHeld 7 = false ∧ ready.portHeld 8 = true := by decide +kernel

/-- The module at rack 3, tray 0, slot 0, its position locked, its link local, with a route by default to port 0, which is up. -/
def placed : State := { (portUp.put Reg.fabricPos (at_ 16 3 + at_ 31 1)).put Reg.fabricRtDefault (at_ 30 1 + 1) with
  pairs := Vector.replicate 2 { st := 2 } }
/-- An advert of serial 7 with sequence number n, from the module at rack 4. -/
def advert (n : Nat) : Packet := { packet with srcAddr := placed.addrAt 4 0xF0, typ := 3, payload := record 0x80 [(0, 8, 7), (0xC, 4, n)] }
/-- The module with an advert of serial 7 stored. -/
def heard : State := placed.modFab fun f => { f with adverts := [{ serial := 7, seq := 2, body := (advert 2).payload, at_ := 0, port := none }] }
theorem wit_FabricAdverts : ready.hostUp = true ∧ ready.boot.ready = true ∧ ready.posLocked = false ∧ placed.posLocked = true ∧
    placed.boot.routerRest = false ∧ placed.discovers = true ∧ ready.discovers = false ∧
    placed.time < placed.comp.fab.advertAt + placed.reg Reg.fabricDiscPeriod ∧
    placed.isMine (placed.addrAt 0 0xF0) = false ∧ placed.isMine (placed.addrAt 3 0xF0) = true ∧ 98 + (advert 3).payload.length ≤ 9216 ∧
    98 + (List.replicate 9118 0#8 : List Byte).length ≤ 9216 ∧ 9216 < 98 + (List.replicate 9119 0#8 : List Byte).length ∧
    (later (placed.reg Reg.fabricDiscPeriod) placed).comp.fab.advertAt + placed.reg Reg.fabricDiscPeriod ≤ placed.reg Reg.fabricDiscPeriod ∧
    (let k := advert 3
     placed.isMine k.srcAddr = false ∧ k.checksumOk = true ∧ k.ver = 1 ∧ k.typ = 3 ∧ 0x80 ≤ k.payload.length ∧
       u64 k.payload 0 ≠ placed.nv.factory.serial ∧
       (heard.comp.fab.adverts.find? fun y => y.serial == u64 k.payload 0).isSome = true ∧ newer (u32 k.payload 0xC) 2 = true) ∧
    (heard.comp.fab.adverts.find? fun y => y.serial == (7#64 : BitVec 64).toNat).isSome = true ∧
    0 + 3 * placed.reg Reg.fabricDiscPeriod ≤ (later (3 * placed.reg Reg.fabricDiscPeriod) heard).time ∧
    heard.time < 0 + 3 * heard.reg Reg.fabricDiscPeriod := by decide +kernel
theorem wit_FabricAdverts_canonical : ready.Canonical ∧ placed.Canonical := by unfold State.Canonical; decide +kernel
theorem test_advert : ((after (.advert 0 (advert 3)) heard).comp.fab.adverts.map (·.seq)) = [3] ∧
    ((after (.advert 0 (advert 1)) heard).comp.fab.adverts.map (·.seq)) = [2] := by decide +kernel
theorem test_lock : (after (.lock 3#11) ready).posLocked = true ∧ field ((after (.lock 3#11) ready).reg Reg.fabricPos) 26 16 = 3 ∧
    (after (.lock 4#11) placed).reg Reg.fabricPos = at_ 16 3 + at_ 31 1 := by decide +kernel

/-- The module with a job and its fabric address. -/
def served : State := ((grouped.put Reg.fabricPos (at_ 16 3 + at_ 31 1)).put Reg.fabricRtDefault (at_ 30 1 + 1)).modHalf 0 0 fun _ =>
  { st := 2, stage := 5, width := 8, used := 0xFF }
/-- A packet of flow 5 from the module at rack 4 to partition 0. -/
def toMe (typ psn : Nat) : Packet := { packet with srcAddr := served.addrAt 4 0, dstAddr := served.addr 0, typ := typ, flowId := 5#32, psn := wd psn, tag := 1#32
                                                   payload := ctlBytes 1 9 4 1 0xFFFF 5 0 0x41 0 0 1, word6 := 32#32, isOpen := false }
/-- The module with flow 5 from there, expecting packet 2. -/
def receiving : State := served.modFab fun f => { f with
  rx := [{ src := served.addrAt 4 0, fid := 5, pt := 0, port := 0, expect := 2, unacked := 2, firstAt := some 550, ce := true }] }
def resettingServed : State := { served with boot := { served.boot with ptResetting := 1#16 } }
def acceptedIn (s : State) (k : Packet) (typ : Nat) : Bool := match s.accept 0 k typ with | .ok pt => pt == 0 | .error _ => false
theorem wit_FlowReceive_data : acceptedIn served (toMe 0 2) 0 = true ∧ acceptedIn served { toMe 0 2 with cls := 1 } 0 = true ∧
    acceptedIn served { toMe 0 2 with cls := 2 } 0 = false ∧ acceptedIn served { toMe 0 2 with tag := 0#32 } 0 = false ∧
    resettingServed.resetting 0 = true ∧
    acceptedIn resettingServed (toMe 0 2) 0 = true ∧
    served.resetting 0 = false ∧ served.rxFlow (toMe 0 2).srcAddr 5 0 = none ∧ (toMe 0 2).isOpen = false ∧
    (receiving.rxFlow (toMe 0 2).srcAddr 5 0).isSome = true ∧ receiving.hasUser 0 (toMe 0 2) = true ∧
    receiving.hasUser 0 { toMe 0 2 with cls := 1 } = true ∧ (toMe 0 2).psn.toNat = 2 ∧ (toMe 0 2).first = true ∧ (toMe 0 2).last = true ∧
    (∀ n ∈ [3, 257], let d := ((toMe 0 n).psn.toNat + 2 ^ 32 - 2) % 2 ^ 32; 0 < d ∧ d ≤ 255) ∧
    255 < ((toMe 0 258).psn.toNat + 2 ^ 32 - 2) % 2 ^ 32 ∧ 2 ^ 31 ≤ ((toMe 0 1).psn.toNat + 2 ^ 32 - 2) % 2 ^ 32 ∧
    served.rxFlow ({ toMe 0 2 with isOpen := true }).srcAddr 5 0 = none ∧ served.comp.fab.rx.length < 16384 := by decide +kernel
/-- Every flow a partition can receive in use, by another sender; a message of a class that the partition has no user for. -/
def crowded (n : Nat) : State := served.modFab fun f => { f with rx := List.replicate n { src := 1#128, fid := 1, pt := 0, port := 0 } }
theorem crowded_none (n : Nat) : (crowded n).rxFlow (toMe 0 2).srcAddr 5 0 = none := by
  show (List.replicate n ({ src := 1#128, fid := 1, pt := 0, port := 0 } : RxFlow)).find? _ = none
  induction n with
  | zero => rfl
  | succ n ih => rw [List.replicate_succ, List.find?_cons]; exact ih
theorem crowded_full (n : Nat) : n ≤ (crowded n).comp.fab.rx.length := by
  show n ≤ (List.replicate n _).length
  rw [List.length_replicate]
theorem wit_FlowReceive_full : (crowded 16384).rxFlow (toMe 0 2).srcAddr 5 0 = none ∧ 16384 ≤ (crowded 16384).comp.fab.rx.length ∧
    ready.hasUser 0 (toMe 0 2) = false ∧ acceptedIn (crowded 16384) { toMe 0 2 with isOpen := true } 0 = true :=
  ⟨crowded_none _, crowded_full _, by decide +kernel, by decide +kernel⟩
theorem wit_FlowReceive_timers : (receiving.comp.fab.rx.find? fun y => y.src == (toMe 0 2).srcAddr && y.fid == (5#32 : Word).toNat &&
      receiving.due (y.firstAt.map (· + 450))).isSome = true ∧
    (later 999 receiving).due (some (550 + 450)) = false := by decide +kernel
/-- The receive window of partition 0: 64 bytes at 0x2000 of the staging space, and a peer write of 4 bytes at offset 60. -/
def windowed : State := ((placed.put64 (Reg.fabricPtRxwinBaseLo 0) 0x2000).put64 (Reg.fabricPtRxwinLenLo 0) 64).modFab fun f => { f with
  peerIn := [(0, (toMe 0 2).srcAddr, 5, leBytes 8 60 ++ [1#8, 2#8, 3#8, 4#8])] }
theorem wit_FlowReceive_peerwrite : windowed.reg64 (Reg.fabricPtRxwinBaseLo 0) % 2 ^ 48 = 0x2000 ∧
    windowed.reg64 (Reg.fabricPtRxwinLenLo 0) % 2 ^ 48 = 64 ∧ windowed.inSpace 0 1 0x2000 64 = true ∧ (64 : Nat) ≠ 0 ∧
    8 ≤ (leBytes 8 60 ++ [1#8, 2#8, 3#8, 4#8]).length ∧
    u48 (leBytes 8 60 ++ [1#8, 2#8, 3#8, 4#8]) 0 + ((leBytes 8 60 ++ [1#8, 2#8, 3#8, 4#8]).length - 8) ≤ 64 := by decide +kernel
theorem test_data_in_order : ((after (.data 0 (toMe 0 2)) receiving).rxFlow (toMe 0 2).srcAddr 5 0).map (·.expect) = some 3 ∧
    (after (.data 0 (toMe 0 2)) receiving).comp.casc.inbox.length = 1 ∧
    ((after (.data 0 (toMe 0 4)) receiving).rxFlow (toMe 0 2).srcAddr 5 0).map (·.expect) = some 2 := by decide +kernel

/-- A sent packet of flow 5, its message in MSG. -/
def mine (psn msg : Nat) : Packet := { served.qwt 0 (served.addrAt 4 0) 5 0 with psn := wd psn, word4 := wd msg, payload := [BitVec.ofNat 8 psn] }
/-- The module sending flow 5: packets 4, 5 of message 1 and 6 of message 2 are out. -/
def sending : State := served.modFab fun f => { f with
  tx := [{ fid := 5, pt := 0, dst := served.addrAt 4 0, user := 1, key := 3, port := 0, next := 7, acked := 4, unacked := [mine 4 1, mine 5 1, mine 6 2]
           rate := 1600000, since := 0, expiries := 0, raisedAt := 0 }] }
def flowOk (k : Packet) (typ : Nat) : Bool := match sending.ackFlow 0 k typ with | .ok f => sending.txFlow f.fid == some f | .error _ => false
theorem wit_FlowSender : flowOk (toMe 1 0) 1 = true ∧ flowOk (toMe 2 0) 2 = true ∧ flowOk { toMe 1 0 with ece := true, word4 := 6#32 } 1 = true ∧
    flowOk (toMe 0 0) 1 = false ∧ (sending.txFlow (5#32 : Word).toNat).isSome = true ∧
    (sending.txFlow 5).map (·.halvedAt) = some none ∧
    ((sending.txFlow 5).map fun f => (f.unacked.filter fun y => decide ((y.psn.toNat + 2 ^ 32 - f.acked) % 2 ^ 32 < 2 ^ 31)).length) = some 3 ∧
    0 + sending.reg Reg.fabricQwtRto * 1 ≤ (later (sending.reg Reg.fabricQwtRto) sending).time ∧
    0 + 1 < sending.reg Reg.fabricQwtRetry ∧ sending.reg Reg.fabricQwtRetry ≤ (sending.reg Reg.fabricQwtRetry - 1) + 1 ∧
    0 + 4500 ≤ (later 4500 sending).time := by decide +kernel
theorem wit_FlowSender_others : (let s := sending.modTx 5 fun f => { f with user := 0, key := 0, halvedAt := some 999, unacked := [] }
     (s.txFlow 5).map fun f => (f.user, decide (s.time < 999 + 2250), f.unacked.length)) = some (0, true, 0) ∧
    (let s := later 3249 (sending.modTx 5 fun f => { f with halvedAt := some 999 }); 999 + 2250 ≤ s.time) ∧
    sending.time < 0 + sending.reg Reg.fabricQwtRto * 1 ∧ sending.time < 0 + 4500 ∧
    (match (sending.modTx 5 fun f => { f with user := 0 }).ackFlow 0 { toMe 2 0 with nackCode := 1 } 2 with
      | .ok f => f.user | .error _ => 9) = 0 := by decide +kernel
theorem test_ack : ((after (.ack 0 { toMe 1 0 with word4 := 6#32 }) sending).txFlow 5).map (fun f => (f.acked, f.unacked.map (·.psn.toNat))) =
      some (6, [6]) ∧
    ((after (.ack 0 { toMe 1 0 with word4 := 5#32 }) sending).txFlow 5).map (fun f => (f.acked, f.unacked.map (·.psn.toNat))) =
      some (5, [4, 5, 6]) ∧
    ((after (.ack 0 { toMe 1 0 with word4 := 6#32, ece := true }) sending).txFlow 5).map (·.rate) = some 800000 := by decide +kernel
theorem test_nack_renumbers : ((after (.nack 0 { toMe 2 0 with nackCode := 3 }) sending).txFlow 5).map
    (fun f => f.unacked.map fun k => (k.psn.toNat, k.isOpen)) = some [(0, true), (1, false), (2, false)] := by decide +kernel
theorem test_rto : ((after (.rtoExpire 5#32) (later (sending.reg Reg.fabricQwtRto) sending)).txFlow 5).map (·.backoff) = some 2 ∧
    ((after (.pacingRaise 5#32) (later 4500 (sending.modTx 5 fun f => { f with rate := 100000 }))).txFlow 5).map (·.rate) = some 200000 := by
  decide +kernel

/-- A transit packet from outside the prefix to outside it. -/
def transit (hops : Nat) : IpPacket := { ipPacket with srcAddr := BitVec.ofNat 128 (2 ^ 100), dstAddr := BitVec.ofNat 128 (2 ^ 101), hopLimit := hops }
theorem wit_RouterServes_transit : placed.boot.routerRest = false ∧ placed.isMine (transit 2).srcAddr = false ∧ ipFrameBytes (transit 2) ≤ 9216 ∧
    placed.isMine (transit 2).dstAddr = false ∧ ipMulticast (transit 2) = false ∧ (transit 2).etherType = 0x86DD ∧ (transit 2).vlans ≤ 1 ∧ (transit 1).hopLimit ≤ 1 ∧ placed.posLocked = true ∧ 1 < (transit 2).hopLimit ∧
    (placed.pickPort (bitsOf 24 (placed.routeSet (transit 2).dstAddr)) (transit 2).srcAddr (transit 2).dstAddr (transit 2).flowLabel).isSome = true ∧
    (placed.port 0).pausedTo = none ∧ placed.time < (placed.port 0).icmp.1 + 225000000 ∧ (placed.port 0).icmp.2.1 < 1000 ∧
    placed.isMine (placed.addr 0xF0) = true := by
  refine ⟨?_, ?_, ?_, ?_, ?_, ?_, ?_, ?_, ?_, ?_, ?_, ?_, ?_, ?_, ?_⟩ <;> decide +kernel
/-- Port 0 paused until time 900 with a frame held. -/
def paused : State := placed.modPort 0 fun x => { x with pausedTo := some 900, queue := [.transit 0 (transit 2)] }
/-- A frame too long by one byte, of two tags, of another EtherType, and from the module's own address. -/
theorem wit_RouterServes_drops : ipFrameBytes { transit 2 with payload := List.replicate 9158 0#8 } = 9216 ∧
    9216 < ipFrameBytes { transit 2 with payload := List.replicate 9159 0#8 } ∧ 1 < ({ transit 2 with vlans := 2 } : IpPacket).vlans ∧
    ({ transit 2 with etherType := 0x800 } : IpPacket).etherType ≠ 0x86DD ∧ placed.isMine (placed.addr 0xF0) = true := by decide +kernel
theorem lldp_long (n : Nat) : n < sumN ((placed.port 0).queue.map PortMsg.bytes) + (PortMsg.lldp 0 0 (List.replicate n 0#8)).bytes := by
  show n < 0 + (18 + (List.replicate n 0#8).length)
  rw [List.length_replicate]
  omega
/-- A port whose egress is free, one whose buffer the frame overflows, and a paused one whose buffer it fills. -/
theorem wit_RouterServes_egress : EgressFree placed 0 (.transit 0 (transit 2)) ∧
    2 ^ 23 < sumN ((placed.port 0).queue.map PortMsg.bytes) + (PortMsg.lldp 0 0 (List.replicate (2 ^ 23) 0#8)).bytes ∧
    sumN ((paused.port 0).queue.map PortMsg.bytes) + (PortMsg.transit 0 (transit 2)).bytes ≤ 2 ^ 23 ∧ (paused.port 0).pausedTo ≠ none := by
  refine ⟨?_, ?_, ?_, ?_⟩
  · unfold EgressFree; decide +kernel
  · exact lldp_long (2 ^ 23)
  · decide +kernel
  · decide +kernel

theorem wit_RouterServes_pause : (after (.portEnable 0 0x3#32) placed).time = 1000 ∧
    bit ((after (.portEnable 0 0x3#32) placed).reg (Reg.fabricPortCtl 0)) 1 = true ∧
    field ((after (.portEnable 0 0x3#32) placed).reg (Reg.fabricPortCtl 0)) 4 2 = (0 : Fin 8).val ∧
    (paused.port 0).pausedTo = some 900 ∧ 900 ≤ paused.time := by decide +kernel
theorem wit_RouterServes_replies : placed.ownAddr (placed.addr 0xF0) = true ∧ (placed.addr 0xF0) ≠ 0 ∧ addrEnd (placed.addr 0xF0) = 0xF0 ∧
    placed.isMine (transit 2).srcAddr = false ∧ (placed.port 0).pausedTo = none ∧
    (placed.port 0).lldpAt + 6750000000 ≤ (later 6750000000 placed).time ∧ placed.split 0 = false ∧ (placed.half 0 0).st = 2 := by decide +kernel
theorem test_pause_end : (after (.pauseEnd 0) paused).portTx.length = 1 ∧ ((after (.pauseEnd 0) paused).port 0).queue = [] := by decide +kernel
theorem test_hop_limit : ((after (.transitForward 0 (transit 1)) placed).portTx.map fun m => match m.msg with
    | .icmp p t _ _ _ _ => (p, t) | _ => (99, 0)) = [(0, 3)] := by decide +kernel

/-! ### The host link and its queues -/

/-- Host memory from 0: window 0 of partition 0 and window 1 of the module, each of 1 MiB, with every right. -/
def hosted : State := ((((ready.put64 (Reg.rillWinLenLo 0) (2 ^ 20)).put (Reg.rillWinCtl 0) 7).put64 (Reg.rillWinLenLo 1) (2 ^ 20)).put
  (Reg.rillWinCtl 1) (7 + at_ 12 1))
def ring0 : RingId := .sq 0 0
/-- Ring control words: 16 entries, 8 entries, enabled. -/
def ctl16 : Word := 9#32
def ctl8 : Word := 7#32
def stored (ring : RingId) (ctl : Word) (s : State) : State :=
  s.put (ringCtl ring) (setField (ctl.toNat &&& ((regRow (ringCtl ring)).map (·.mask)).getD 0) 0 0 0)
theorem wit_RingsAndWindows_enable : ∀ ring ∈ [RingId.sq 0 7, .cq 0 0, .eq 0, .meq, .faultRing],
    hosted.hostUp = true ∧ hosted.accessCause (ringCtl ring) false = none ∧ hosted.ringOn ring = false ∧ bit ctl16.toNat 0 = true ∧
      (stored ring ctl16 hosted).ringFits ring = true ∧ (stored ring ctl8 hosted).ringFits ring = false := by decide +kernel
theorem wit_RingsAndWindows_canonical : hosted.Canonical := by unfold State.Canonical; decide +kernel
/-- The module with the rings of 16 entries on, the completion queue, the event queue, the MEQ and the error ring with four entries to read. -/
def ringed : State := [RingId.sq 0 0, .cq 0 0, .eq 0, .meq, .faultRing].foldl (fun s r =>
  (s.put (ringCtl r) (9 + at_ 24 2)).modRing r fun x => { x with phase := true, tail := 4, unsig := 4, firstAt := some 550 }) hosted
theorem wit_RingsAndWindows_doorbells : ringed.accessCause (Reg.qwSqDb 0 0) false = none ∧ ringed.ringOn (.sq 0 0) = true ∧
    (15#16 : BitVec 16).toNat < ringed.ringSize (.sq 0 0) ∧ ringed.ringSize (.sq 0 0) ≤ (16#16 : BitVec 16).toNat ∧
    hosted.ringOn (.sq 0 0) = false ∧ ringed.accessCause (Reg.qwCqDb 0 0) false = none ∧ ringed.accessCause (Reg.qwEqDb 0) false = none ∧
    (∀ r ∈ [RingId.cq 0 0, .eq 0, .meq, .faultRing], ringed.hostUp = true ∧ ringed.ringOn r = true ∧
      (let fits := fun (v : Nat) => decide (v < ringed.ringSize r ∧ (v + ringed.ringSize r - (ringed.ring r).head) % ringed.ringSize r ≤
        ((ringed.ring r).tail + ringed.ringSize r - (ringed.ring r).head) % ringed.ringSize r)
       fits 4 = true ∧ fits 5 = false) ∧
      (ringed.ring r).firstAt = some 550 ∧ field (ringed.reg (ringCtl r)) 31 24 ≠ 0 ∧
      550 + 225 * field (ringed.reg (ringCtl r)) 31 24 ≤ ringed.time ∧ 0 < (ringed.ring r).unsig) := by decide +kernel
theorem wit_RingsAndWindows_windows : bit (ready.reg (Reg.rillWinCtl 63)) 0 = false ∧ ready.winLen 63 = 0 ∧
    (ready.put64 (Reg.rillWinLenLo 63) (2 ^ 42)).winLen 63 ≤ 2 ^ 42 ∧ (ready.put64 (Reg.rillWinLenLo 63) (2 ^ 42)).winLen 63 ≠ 0 ∧
    2 ^ 42 < (ready.put64 (Reg.rillWinLenLo 63) (2 ^ 42 + 1)).winLen 63 ∧ bit (hosted.reg (Reg.rillWinCtl 0)) 0 = true ∧
    field (0#32 : Word).toNat 12 8 = field (hosted.reg (Reg.rillWinCtl 0)) 12 8 := by decide +kernel
theorem test_doorbell_fault : ((after (.qwSqDb 0 0 16#16) ringed).ring (.sq 0 0)).dberr = true ∧
    ((after (.qwCqDb 0 0 5#16) ringed).ring (.cq 0 0)).head = 0 ∧ ((after (.qwCqDb 0 0 4#16) ringed).ring (.cq 0 0)).head = 4 := by decide +kernel
theorem test_window_length : (after (.windowGrant 63 1#32) ready).rill.winBad = [63] ∧
    (after (.windowGrant 63 0xFFFFFFFF#32) (ready.put64 (Reg.rillWinLenLo 63) 1)).reg (Reg.rillWinCtl 63) = 0x1F07 := by decide +kernel

/-- Training in a stage since a time, at time 1000, with some good lanes. -/
def trainsAt (n since good : Nat) : State := { ready with rill := { stage := n, since := since, good := good } }
/-- Every stage at its limit and beyond it. -/
theorem wit_LinkTraining : ready.rill.stage = 0 ∧
    (∀ st ∈ [1, 2, 3, 4], (trainsAt st 1000 0xF0).rill.stage = st ∧ (later (1000 + rillLimit st) (trainsAt st 1000 0xF0)).time ≤ 1000 + rillLimit st ∧
      1000 + rillLimit st < (later (1001 + rillLimit st) (trainsAt st 1000 0xF0)).time) ∧
    laneWidth (0xFF &&& (0xF0#8 : Byte).toNat) ≠ 0 ∧ laneWidth (0xF0 &&& (0x7F#8 : Byte).toNat) = 0 ∧ laneWidth 0xF0 ≠ 0 ∧ laneWidth 0x7F ≠ 0 ∧
    laneWidth 0x77 = 0 ∧ ({ ready with rill := { retryAt := some 1000 } } : State).rill.retryAt = some 1000 ∧ 1000 ≤ ready.time ∧
    ({ ready with rill := { retryAt := some 1001 } } : State).rill.retryAt = some 1001 ∧ ready.time < 1001 ∧ ready.rill.up = true ∧
    (trainsAt 1 0 0).rill.up = false ∧ ready.hostUp = true ∧ (0x5B#8 : Byte) ≠ 0x5A#8 := by decide +kernel
/-- Eight lanes give x8; either half alone gives x4 (R322); without the cable training stays in stage 1 (R482). -/
theorem test_link_width : (after (.rillTrainingStage true (.pass 0)) (trainsAt 4 1000 0xFF)).rill.width = 8 ∧
    (after (.rillTrainingStage true (.pass 0)) (trainsAt 4 1000 0xEF)).rill.width = 4 ∧
    (after (.rillTrainingStage true (.pass 0)) (trainsAt 4 1000 0x77)).rill.up = false ∧
    (after (.rillTrainingStage true .fail) (trainsAt 3 1000 0)).rill.retryAt = some (1000 + 22500000) ∧
    (after (.rillTrainingStage false (.pass 0xFF)) (trainsAt 3 1000 0xFF)).rill.stage = 1 := by decide +kernel

def flitOf (n : Nat) (ok : Bool) : Flit := { fseq := BitVec.ofNat 12 n, ackseq := 0, nak := false, crcOk := ok, credReq := 3#16, credCpl := 5#16 }
def msg (mt : Nat) (dlen count addr : Nat) : MsgHeader :=
  { hdr with mt := BitVec.ofNat 4 mt, dlen := dlen, count := count, addr := BitVec.ofNat 64 addr }
/-- Messages outstanding under TAG 7: a descriptor fetch, part of a DMA_IN, a ring entry, a record and part of a DMA_OUT, sent and due at 900. -/
def waiting (read : Bool) (p : Purpose) : State := { ready with rill := { up := true, outst := [⟨7, read, 0, 900, 64, p⟩] } }
theorem wit_LinkMessages_flits : ready.hostUp = true ∧ (flitOf 0 false).crcOk = false ∧ (flitOf 0 true).crcOk = true ∧ (flitOf 0 true).nak = false ∧
    (flitOf 0 true).fseq.toNat = ready.rill.rxNext := by decide +kernel
theorem wit_LinkMessages_registers : (let h := msg 1 0 16 (2 ^ 26 - 64); h.mt = 1#4 ∧ h.dlen = 0 ∧ h.addr.toNat % 4 = 0 ∧ 0 < h.count ∧ h.count ≤ 16 ∧
      h.addr.toNat + 4 * h.count ≤ 2 ^ 26) ∧
    (msg 1 4 1 0).dlen ≠ 0 ∧ (msg 1 0 1 2).addr.toNat % 4 ≠ 0 ∧ (msg 1 0 0 0).count = 0 ∧ 16 < (msg 1 0 17 0).count ∧
    2 ^ 26 < (msg 1 0 16 (2 ^ 26 - 60)).addr.toNat + 4 * (msg 1 0 16 (2 ^ 26 - 60)).count ∧
    (let h := msg 2 64 0 (2 ^ 26 - 64); h.mt = 2#4 ∧ h.addr.toNat % 4 = 0 ∧ 0 < h.dlen ∧ h.dlen ≤ 64 ∧
      (List.replicate 16 0#32 : List Word).length * 4 = h.dlen ∧ h.addr.toNat + h.dlen ≤ 2 ^ 26) ∧
    (msg 2 4 0 2).addr.toNat % 4 ≠ 0 ∧ (msg 2 0 0 0).dlen = 0 ∧ 64 < (msg 2 68 0 0).dlen ∧ (msg 2 6 0 0).dlen % 4 ≠ 0 ∧
    2 ^ 26 < (msg 2 64 0 (2 ^ 26 - 60)).addr.toNat + 64 ∧ mtDefined (msg 15 0 0 0).mt.toNat = false := by decide +kernel
theorem wit_LinkMessages_completions : (msg 5 0 0 0).mt = 5#4 ∧ (msg 7 0 0 0).mt = 7#4 ∧
    (∀ p ∈ [Purpose.fetch 0 0 1, .dmaIn 0 1 0], (waiting true p).hostUp = true ∧
      ((waiting true p).rill.outst.find? fun x => x.tag == (msg 5 0 0 0).tag.toNat && x.read == true).isSome = true) ∧
    (msg 5 0 0 0).status = 0#4 ∧ ({ msg 5 0 0 0 with status := 1#4 } : MsgHeader).status ≠ 0#4 ∧
    (∀ p ∈ [Purpose.entry, .record 0, .dmaOut 0 1],
      ((waiting false p).rill.outst.find? fun x => x.tag == (msg 7 0 0 0).tag.toNat && x.read == false).isSome = true) ∧
    ((waiting true .entry).rill.outst.find? fun o => o.tag == (7#16 : BitVec 16).toNat && decide (o.deadline ≤ (waiting true .entry).time) &&
      (waiting true .entry).isSent o).isSome = true ∧ 900 ≤ (waiting true .entry).time := by decide +kernel
theorem test_reg_read : (after (.regRd (msg 1 0 2 0x2000000)) (ready.put 0x2000004 5)).hostTx.length = 1 ∧
    (match (after (.regRd (msg 1 0 2 0x2000000)) (ready.put 0x2000004 5)).hostTx with
     | [.regCpl tag st d] => (tag, st, d.drop 4) | _ => (0, 9, [])) = (7, 0, [5#8, 0#8, 0#8, 0#8]) := by decide +kernel
theorem test_reg_write_refused : (after (.regWr (msg 2 6 0 0) []) ready).reg Reg.rillAccref = 1 ∧
    (after (.regWr (msg 2 4 0 0x2000004) [6#32]) ready).reg 0x2000004 = 6 := by decide +kernel

/-! ### Errors, scrub and die links -/

/-- The module with three records in its fault queue, a window of corrected errors and one of accusations. -/
def faulted : State := { ready with time := 300000000, fault := { ready.fault with
  queue := [{ uid := 1, sev := 1 }, { uid := 2, sev := 3 }, { uid := 3, sev := 3, cand := none }], seq := 9, uid := 4
  coalesce := [⟨0, 70000, { die := 0, block := 4, inst := 2, detail1 := 1 }⟩], suspects := [⟨3, 0, 5, 0x40003, 2⟩] } }
theorem wit_RecordsHandled : (faulted.nextRecord.map (·.uid)) = some 2 ∧
    (faulted.fault.coalesce.find? fun c => c.first.die == 0 && c.first.block == 4 && c.first.inst == 2 && c.first.detail1 == 1 &&
      decide (c.start + 225000000 ≤ faulted.time)).isSome = true ∧
    (faulted.fault.suspects.find? fun w => w.port == (3 : Port).val && decide (w.start + 2250000 ≤ faulted.time)).isSome = true := by decide +kernel
theorem test_record_handled : (after .recordHandle faulted).fault.seq = 10 ∧ (after .recordHandle faulted).fault.named = [(2, 9)] := by decide +kernel
theorem test_coalesced_count : ((after (.correctedWindowExpire 0 4 2 1) faulted).fault.queue.map fun r => (r.uid, r.count)).getLast? =
    some (0, 0xFFFF) := by decide +kernel

theorem wit_ScrubAndDieLinks : ready.boot.ready = true ∧ bit ready.hbmInService (32 * (7 : Fin 12).val + (31 : Fin 32).val) = true ∧
    bit ready.hbmInService (32 * (8 : Fin 12).val + (0 : Fin 32).val) = false ∧
    ({ ready with boot := { ready.boot with ready := false } } : State).boot.ready = false ∧ ready.boot.released = true ∧
    3 * (3 : Die).val + (2 : Fin 3).val ∉ ready.boot.linksDown ∧ 3 * (3 : Die).val + (2 : Fin 3).val ∉ ready.boot.linksTraining ∧
    (8 : Fin 9) ≠ 0 ∧ (7 : Fin 9).val < 8 ∧
    3 * (3 : Die).val + (2 : Fin 3).val ∈ (after (.dielinkFlitError 3 2 8) ready).boot.linksTraining ∧
    3 * (3 : Die).val + (2 : Fin 3).val ∉ (after (.dielinkFlitError 3 2 7) ready).boot.linksTraining ∧ (2 : Fin 3) ≠ 0 := by decide +kernel
theorem test_scrub_poisons : (after (.poolScrub 0 1 [.uncorrectable 2, .corrected 5 0]) ready).poison = [granule (poolAddr 0 1 16)] ∧
    (after (.hbmScrub 0 0 [.uncorrectable 1]) ready).poison = [granule (hbmAddr 0 0 64)] := by decide +kernel

/-! ### The Cistern -/

/-- The journal open with the given content. -/
def opened (c : Cistern) (j : Journal) : State :=
  { ready with cis := { c with st := 1 }, nv := { ready.nv with journal := j, phours := 3000 } }
def jr (n typ page : Nat) : JRec := { rseq := n, typ := typ, frag := 0, body := leBytes 8 5 ++ List.replicate 24 0#8, page := page, committed := true }
def jp (n pair hours : Nat) : JPage := { seq := n, pair := pair, index := 0, pfail := false, copy := false, pwron := 0, phours := hours }
/-- A journal of two pages in pairs 1 and 2, pair 3 being erased, pair 4 open. -/
def jnl : Journal := { recs := [jr 1 0x21 1, jr 2 0x10 2], pages := [jp 1 1 100, jp 2 2 3000], pairs := [⟨1, 0, .written⟩, ⟨2, 0, .written⟩, ⟨3, 7, .erasing⟩, ⟨4, 0, .written⟩],
                       nextRseq := 3, nextPage := 3, pair := 4, index := 5 }
/-- A page of two records under programming. -/
def programming (copy : Bool) : State := opened { prog := some ⟨jp 3 4 3000, [{ jr 3 0x21 0 with committed := false }], copy⟩ } jnl
theorem wit_JournalWrites : typeKnown (0x10#8 : Byte).toNat = true ∧ typeKnown (0x11#8 : Byte).toNat = false ∧ (opened {} jnl).cis.st = 1 ∧
    (∀ r ∈ (opened {} jnl).cis.page, r.typ = 0x10 → recKey 0x10 r.body ≠ recKey 0x10 (leBytes 8 5)) ∧
    (programming false).cis.prog.isSome = true ∧ (programming true).cis.prog.map (·.copy) = some true ∧
    (jnl.pairs.find? fun x => x.use == .erasing) = some ⟨3, 7, .erasing⟩ ∧
    4096 ≤ (opened { sinceCheckpoint := 4096 } jnl).cis.sinceCheckpoint ∧ (opened {} jnl).cis.compacting = none ∧ jnl.live ≤ 384 * 2 ^ 20 ∧
    (∃ g ∈ jnl.pages, g.pair < 2048 ∧ (jnl.pairOf g.pair).use = .written ∧ g.pair ≠ jnl.pair) := by decide +kernel
theorem test_submit : ((after (.journalRecordSubmit 0x21#8 [1#8]) (opened {} jnl)).nv.journal.nextRseq) = 4 := by decide +kernel
theorem test_program_fails : ((after (.pageProgramDone true false) (programming false)).nv.journal.pairOf 4).use = .bad ∧
    ((after (.pageProgramDone true true) (programming false)).nv.journal.recs.map (·.rseq)) = [1, 2, 3] := by decide +kernel
theorem test_erased : ((after (.eraseDone true) (opened {} jnl)).nv.journal.pairOf 3).erases = 8 := by decide +kernel

theorem wit_JournalTime : (opened { reserve := 63 } jnl).cis.reserve < 64 ∧ 64 ≤ (opened {} jnl).cis.reserve ∧
    (later 810000000000 (opened {} jnl)).cis.hour < (later 810000000000 (opened {} jnl)).hourNow ∧
    (jnl.pages.find? fun p => p.seq == 1).isSome = true ∧ (some 15 : Option Nat) = some 15 ∧ (15 : Nat) < 16 ∧
    (opened {} jnl).nv.phours < 3000 + 8760 ∧ 100 + 8760 ≤ ({ (opened {} jnl).nv with phours := 8860 } : Nv).phours ∧
    (opened { overlay := [{ key := 5, state := 1, lastPhours := 840 }] } jnl).defect (5#64 : BitVec 64).toNat =
      some { key := 5, state := 1, lastPhours := 840 } ∧ 840 + 2160 ≤ (opened {} jnl).nv.phours ∧
    (opened { pausedUntil := some 1000 } jnl).cis.pausedUntil = some 1000 ∧ 1000 ≤ (opened {} jnl).time := by decide +kernel
theorem test_patrol : (after (.journalPatrol 1 none none) (opened {} jnl)).nv.journal.recs.map (·.rseq) = [2] ∧
    (after (.journalPatrol 2 (some 16) (some 0)) (opened { bucket := 0, reserve := 0 } jnl)).cis.copies.map (·.rseq) = [2] ∧
    (after (.journalPatrol 2 (some 15) (some 0)) (opened {} jnl)).cis.copies = [] := by decide +kernel

/-- The journal queried from RSEQ 1, with the jumper fitted and a defect under the query's key. -/
def queried (n : Nat) (jumper : Bool) : State :=
  { (((opened { overlay := [{ key := 5, state := n }] } jnl).put64 Reg.cisternQfromLo 1).put64 Reg.cisternQkeyLo 5) with
    intc := { ready.intc with inputs := vmod ready.intc.inputs 1 fun x => { x with level := jumper } } }
theorem wit_JournalQueries : (queried 1 true).hostUp = true ∧ (queried 1 true).pres = true ∧ (queried 1 false).pres = false ∧
    (queried 1 true).reg64 Reg.cisternQfromLo < 2 ∧ (queried 1 true).reg Reg.cisternQuery = 0 ∧ jnl.needed (jr 2 0x10 2) = true ∧
    jr 2 0x10 2 ∈ jnl.committed ∧ (∀ x ∈ jnl.committed, x.rseq ≤ 2) ∧
    (∀ r ∈ jnl.committed, ¬ ((queried 1 true).put64 Reg.cisternQfromLo 2).reg64 Reg.cisternQfromLo < r.rseq) ∧
    (0x95#8 : Byte) ≠ 0x96#8 ∧ (queried 1 true).defect ((queried 1 true).reg64 Reg.cisternQkeyLo) = some { key := 5, state := 1 } ∧
    (queried 3 true).defect ((queried 3 true).reg64 Reg.cisternQkeyLo) = some { key := 5, state := 3 } := by decide +kernel
theorem wit_JournalQueries_canonical : (queried 1 true).Canonical := by unfold State.Canonical; decide +kernel
theorem test_query_next : (after (.next 0x96#8) (queried 1 true)).reg64 Reg.cisternQfromLo = 2 ∧
    (after (.next 0x96#8) (after (.next 0x96#8) (queried 1 true))).cis.rdEnd = true := by decide +kernel
theorem test_clear_entry : ((after .clearEntry (queried 1 true)).defect 5).map (·.state) = some 4 ∧
    (after .clearEntry (queried 3 true)).reg Reg.cisternDefres = 2 := by decide +kernel

/-! ### Security -/

/-- A signed object: TYPE, COUNTER, payload, and a vendor or a self block of zeros. -/
def signed (t ctr : Nat) (payload : List Byte) : List Byte :=
  record 64 [(0, 4, 0x4E474953), (4, 1, t), (5, 1, 1), (6, 1, if t = 5 then 2 else 1), (8, 4, payload.length), (0xC, 4, typeCounter t), (0x10, 4, ctr)] ++
    payload ++ List.replicate (if t = 5 then 4627 else 7219) 0#8
/-- The module with the jumper fitted or not, its journal open, and an object in slot B. -/
def secured (jumper : Bool) : State :=
  { ready with intc := { ready.intc with inputs := vmod ready.intc.inputs 1 fun x => { x with level := jumper } }, cis := { st := 1 }
               nv := { ready.nv with slotB := ⟨true, signed 1 0 [1#8]⟩ } }
def running (r : SecRun) (s : State) : State := s.modSec fun x => { x with run := some r }
theorem wit_SecurityCommands : (secured true).hostUp = true ∧ (secured true).sec.run = none ∧ (secured true).pres = true ∧
    (secured false).pres = false ∧ (secured true).activateCode (1 : Fin 16) = 0 ∧
    (secured true).raiseRec 0 (u32 ((secured true).slot (1 : Fin 16)).obj 0x10) = [] ∧ (secured true).activateCode (0 : Fin 16) ≠ 0 ∧
    (secured true).activateCode (2 : Fin 16) ≠ 0 ∧ (running ⟨5, 0, [], false, 0, 0⟩ (secured true)).sec.run ≠ none ∧
    (0xA8#8 : Byte) ≠ 0xA9#8 := by decide +kernel
/-- The same with an object that raises its counter, the journal with credit or without. -/
def raising (credit : Nat) : State :=
  let s := secured true
  { s with nv := { s.nv with slotB := ⟨true, signed 1 5 [1#8]⟩ }, cis := { s.cis with bucket := credit } }
theorem wit_SecurityCommands_raise : (raising 32768).raiseRec 0 (u32 ((raising 32768).slot (1 : Fin 16)).obj 0x10) ≠ [] ∧
    ((raising 32768).commitGroup ((raising 32768).raiseRec 0 5)).isSome = true ∧ (raising 0).commitGroup ((raising 0).raiseRec 0 5) = none ∧
    (secured true).raiseRec 0 (u32 ((secured true).slot (1 : Fin 16)).obj 0x10) = [] := by decide +kernel
theorem test_no_presence : ((after (.licenceInstall 0xA9#8) (secured false)).sec.run.map (·.code)) = some 1 ∧
    ((after (.ownerClear 0xA9#8) (secured false)).sec.run.map (·.code)) = some 0x12 ∧
    ((after (.fwActivate 0xA9#8 1) (secured true)).act.st) = 1 := by decide +kernel

/-- A command that has fetched its object. -/
def fetching (cmd arg : Nat) (o : List Byte) : State := running ⟨cmd, arg, [(0, o)], false, 0, 0⟩ ((secured true).put Reg.secLen o.length)
/-- A state with the vendor key of zeros as its root key. -/
def rooted (s : State) : State := s.putDigestRegs Reg.secRootdig (sha3 (List.replicate 2592 0#8))
def fetched (cmd arg : Nat) (o : List Byte) : State := rooted (fetching cmd arg o)
def runOf (s : State) : SecRun := s.sec.run.getD default
theorem wit_SecurityEnds_codes : (running ⟨1, 0, [], false, 0, 1⟩ ready).sec.run.isSome = true ∧
    (running ⟨1, 0, [], false, 0, 1⟩ ready).secBusy = false ∧ (runOf (running ⟨8, 0, [], false, 0, 0⟩ ready)).cmd = 8 ∧
    (runOf (running ⟨9, 0, [], false, 0, 0⟩ ready)).writes = 0 ∧
    ({ running ⟨8, 0, [], false, 1, 0⟩ ready with rill := { up := true, outst := [⟨7, false, 0, 900, 64, .secOutput⟩] } } : State).secBusy = true ∧
    (running ⟨2, 1, [], false, 0, 0⟩ ready).act.st = 0 ∧ (runOf (running ⟨5, 0, [], false, 0, 0⟩ ready)).cmd = 5 ∧
    (running ⟨1, 0, [], true, 0, 0⟩ (ready.put Reg.secLen 64)).secObject ⟨1, 0, [], true, 0, 0⟩ = none ∧
    ready.journalUp = false ∧ ({ ready with boot := { ready.boot with slot := 1 } } : State).boot.slot = 1 := by decide +kernel
/-- The verification of signatures is the model's unknown (log entry 10): with one that accepts these, an object that meets the other checks
passes all. -/
theorem objCode_signed (hv : ∀ key d sig, Config.mldsaVerify key d sig = true) (s : State) (o : List Byte) (len type : Nat)
    (h : u8 o 4 = type ∧ s.formatOk o true = true ∧ lengthOk o len = true ∧
      ¬ (u64 o 0x18 ≠ s.reg64 Reg.globalSerialLo ∧ (u64 o 0x18 ≠ 0 ∨ 3 ≤ u8 o 4)) ∧
      field (u32 o 0xC) 3 0 = typeCounter (u8 o 4) ∧ ¬ u32 o 0x10 < s.reg (Reg.cisternCounter (typeCounter (u8 o 4))))
    (h7 : slice o (64 + objPayload o) 2592 = List.replicate 2592 0#8)
    (h8 : s.digestRegs Reg.secRootdig = sha3 (List.replicate 2592 0#8)) : s.objCode o len type true true = 0 := by
  obtain ⟨rfl, h1, h2, h4, h5, h6⟩ := h
  unfold State.objCode
  simp only [ne_eq] at h4 ⊢
  simp only [hv, h1, h2, h5, h7, h8, h4, h6, Bool.not_true, Bool.false_eq_true, if_false, not_true_eq_false, and_false]
def objOf (x : Nat × Nat × Nat × List Byte) : List Byte := signed x.2.2.1 0 x.2.2.2
def objAt (x : Nat × Nat × Nat × List Byte) : State := fetched x.1 x.2.1 (objOf x)
theorem objAt_rootdig (x : Nat × Nat × Nat × List Byte) (h : (fetching x.1 x.2.1 (objOf x)).Canonical) :
    (objAt x).digestRegs Reg.secRootdig = sha3 (List.replicate 2592 0#8) := by
  unfold objAt fetched rooted
  exact State.digestRegs_putDigestRegs (fetching x.1 x.2.1 (objOf x)) Reg.secRootdig (sha3 (List.replicate 2592 0#8)) h (sha3_length _)
    (by decide +kernel)
theorem runOf_objAt (x : Nat × Nat × Nat × List Byte) : runOf (objAt x) = ⟨x.1, x.2.1, [(0, objOf x)], false, 0, 0⟩ := rfl
theorem canonical_running (r : SecRun) (s : State) (h : s.Canonical) : (running r s).Canonical := h
theorem canonical_fetching (x : Nat × Nat × Nat × List Byte) : (fetching x.1 x.2.1 (objOf x)).Canonical :=
  canonical_running _ _ (State.canonical_put _ _ (by unfold State.Canonical; decide +kernel))
theorem objAt_code (hv : ∀ key d sig, Config.mldsaVerify key d sig = true) (x : Nat × Nat × Nat × List Byte)
    (h : let o := objOf x
      u8 o 4 = cmdType x.1 ∧ (objAt x).formatOk o true = true ∧ lengthOk o ((objAt x).reg Reg.secLen) = true ∧
        ¬ (u64 o 0x18 ≠ (objAt x).reg64 Reg.globalSerialLo ∧ (u64 o 0x18 ≠ 0 ∨ 3 ≤ u8 o 4)) ∧
        field (u32 o 0xC) 3 0 = typeCounter (u8 o 4) ∧ ¬ u32 o 0x10 < (objAt x).reg (Reg.cisternCounter (typeCounter (u8 o 4))))
    (h7 : slice (objOf x) (64 + objPayload (objOf x)) 2592 = List.replicate 2592 0#8) :
    (objAt x).objCode (objOf x) ((objAt x).reg Reg.secLen) (cmdType x.1) true true = 0 :=
  objCode_signed hv _ _ _ _ h h7 (objAt_rootdig x (canonical_fetching x))
/-- The fetched object is whole once its parts fill SEC_LEN. -/
theorem wit_SecurityEnds_parts (cmd arg : Nat) (o : List Byte) (s : State) (h : s.reg Reg.secLen = o.length) :
    s.secObject ⟨cmd, arg, [(0, o)], false, 0, 0⟩ = some o := by
  unfold State.secObject splice
  simp [h, slice]
theorem wit_SecurityEnds_objects (hv : ∀ key d sig, Config.mldsaVerify key d sig = true) (x : Nat × Nat × Nat × List Byte)
    (hx : x ∈ [(1, 0, 1, [1#8]), (6, 0, 2, [1#8]), (7, 0, 4, leBytes 8 5), (3, 0, 3, List.replicate 32 0#8)]) :
    (objAt x).objCode (objOf x) ((objAt x).reg Reg.secLen) (cmdType x.1) true true = 0 ∧
    runOf (objAt x) = ⟨x.1, x.2.1, [(0, objOf x)], false, 0, 0⟩ ∧
    ((objAt x).secBusy = false ∧ (objAt x).reg Reg.secLen = (objOf x).length ∧ (objAt x).journalUp = true ∧ (objAt x).raiseRec 0 0 = [] ∧
      (objAt x).raiseRec 1 0 = [] ∧ (objAt x).raiseRec 4 0 = [] ∧ u32 (objOf x) 0x10 = 0 ∧ x.2.1 < 2 ∧ x.2.1 ≠ (objAt x).boot.slot ∧
      ((objAt x).commitGroup ((0x18, objOf x) :: (objAt x).raiseRec 2 0)).isSome = true) := by
  simp only [List.mem_cons, List.not_mem_nil, or_false] at hx
  refine ⟨objAt_code hv x ?_ ?_, runOf_objAt x, ?_⟩ <;> rcases hx with rfl | rfl | rfl | rfl <;> decide +kernel
theorem wit_SecurityEnds_refused : let s := fetched 1 0 (signed 2 0 [1#8])
    (runOf s).cmd ∉ [2, 5, 8, 9] ∧ (s.secObject (runOf s)).isSome = true ∧
      s.objCode (signed 2 0 [1#8]) (s.reg Reg.secLen) (cmdType (runOf s).cmd) true true ≠ 0 := by decide +kernel
theorem test_wrong_type : ((after (.secCmdComplete true true) (fetched 1 0 (signed 2 0 [1#8]))).reg Reg.secResult) = at_ 16 9 + 3 := by decide +kernel

theorem wit_PresenceInputs : ready.boot.released = true ∧ (∀ i ∈ [0, 1, 2], ready.inputLevel i = false ∧ ready.inputMasked i = false) ∧
    (secured true).inputLevel 1 = true ∧ (secured true).inputMasked 1 = false ∧
    ({ ready with intc := { ready.intc with inputs := vmod ready.intc.inputs 2 fun x => { x with level := true } } } : State).inputLevel 2 = true ∧
    ({ ready with sec := { windowEnd := some 1000 } } : State).sec.windowEnd = some 1000 ∧ 1000 ≤ ready.time ∧ (secured true).hostUp = true ∧
    (secured true).pres = true ∧ (secured false).pres = false := by decide +kernel
theorem test_button : (after .buttonPress ready).sec.windowEnd = some (1000 + 13500000000) ∧ (after .buttonPress ready).pres = true := by decide +kernel

/-! ### Bring-up, in-field tests, activation -/

def phase (n : Nat) : State := { ready with boot := { input := true, phase := n, released := decide (1 < n) } }
def nothingFound : BringupFindings :=
  { journalOk := true, journalLost := [], imageOk := true, arraysFailed := [], poolRows := [], hbmRows := [], phyFailed := [] }
theorem wit_BringupPhases : (∀ n ∈ [1, 2, 3, 4, 5, 6, 7, 8, 9, 10], (phase n).boot.phase = n) ∧
    ({ phase 1 with power := { rails := Vector.replicate 16 { on := true, good := true }, order := 9 } } : State).railsOk = true ∧
    (phase 7).boot.slot ≠ 2 ∧ (∀ p < 24, ∀ h ∈ (phase 9).halfIxs p, ((phase 9).half p h).st ≠ 1) ∧ (phase 7).hostUp = true ∧
    ({ phase 4 with boot := { (phase 4).boot with cands := [0] } } : State).candCode 0 true ≠ 0 := by decide +kernel
/-- Rails that are not good; a port that trains; a candidate at its trial's limit. -/
theorem wit_BringupPhases_others : (phase 1).railsOk = false ∧ (phase 9).halfIxs 0 = [0] ∧
    (((phase 9).modHalf 0 0 fun x => { x with st := 1 }).half 0 0).st = 1 ∧
    ({ phase 4 with time := 1012500000 } : State).boot.candAt + 1012500000 ≤ 1012500000 ∧ (phase 4).time < (phase 4).boot.candAt + 1012500000 ∧
    ({ phase 7 with boot := { (phase 7).boot with slot := 2 } } : State).boot.slot = 2 := by decide +kernel
theorem wit_BringupPhases_canonical : (phase 7).Canonical := by unfold State.Canonical; decide +kernel
theorem test_candidate_struck : let t := after (.bringupPhaseEnd nothingFound) { phase 4 with boot := { (phase 4).boot with cands := [0, 1, 2] } }
    t.boot.cands = [1, 2] ∧ t.boot.failed = 1 := by decide +kernel
theorem test_last_candidate_halts :
    (after (.bringupPhaseEnd nothingFound) { phase 4 with boot := { (phase 4).boot with cands := [2] } }).boot.halt = true := by decide +kernel

/-- The job with its array's test in a state, due at a time. -/
def testing (st due : Nat) : State := { job with time := 1000000000000000, tests := vmod job.tests 0 fun x => { x with st := st, due := due } }
/-- The same with no spare array on the die. -/
def noSpare (s : State) : State := { s with arrays := Vector.ofFn fun i => if i.val = 0 then vget s.arrays 0 else { vget s.arrays i with out := true } }
theorem wit_TestsAndActivation_due : let i := arrIx 0 0
    let s := testing 0 0
    s.boot.ready = true ∧ (vget s.tests i).st = 0 ∧ (vget s.tests i).waiting = false ∧ (vget s.tests i).due ≤ s.time ∧
      (vget s.arrays i).retired = false ∧ (∀ a < 18, (vget s.tests (arrIx 0 a)).st ≠ 2 ∧ ¬ arrIx 0 a < i) ∧
      (vget (State.reset).arrays i).role = none ∧ (vget s.arrays i).role ≠ none ∧ (s.part 0).bed ≠ none ∧
      (s.freeSpare 0).isSome = true ∧ (noSpare s).freeSpare 0 = none ∧ (s.modLoader fun l => { l with plan := some planBody }).arrayOwner i = some 0 ∧
      s.arrayOwner i = some 0 := by decide +kernel
theorem wit_TestsAndActivation_forced : (vget (testing 3 0).tests (arrIx 0 0)).st = 3 ∧ (vget (testing 3 0).tests (arrIx 0 0)).forcing = false ∧
    0 + 72 * 810000000000 ≤ (testing 3 0).time ∧ (testing 3 0).arrayOwner (arrIx 0 0) = some 0 ∧ ready.arrayOwner (arrIx 0 0) = none ∧
    (vget (testing 2 0).tests (arrIx 0 0)).st = 2 ∧ (vget (testing 2 0).tests (arrIx 0 0)).spare = none ∧
    (vget ready.arrays (arrIx 0 0)).role = none ∧ (noSpare (testing 2 0)).freeSpare 0 = none := by decide +kernel
theorem wit_TestsAndActivation_forced_idle : (let s := (testing 3 0).modPart 0 fun p => { p with bed := none }
     s.arrayOwner (arrIx 0 0) == some 0 && (s.part 0).bed.isNone) = true ∧ ((testing 3 0).part 0).bed ≠ none ∧
    (vget ({ testing 2 0 with tests := vmod (testing 2 0).tests 0 fun x => { x with spare := some 16 } } : State).tests 0).spare ≠ none ∧
    (vget (testing 0 0).arrays (arrIx 0 0)).role = some 0 ∧ (testing 2 0).freeSpare 0 ≠ none ∧
    (vget (testing 0 (10 ^ 15 + 1)).tests (arrIx 0 0)).due = 10 ^ 15 + 1 := by decide +kernel
theorem test_test_passes : (vget (after (.testComplete 0 0 none) (testing 2 0)).tests 0).last = some 1000000000000000 ∧
    (vget (after (.testComplete 0 0 (some (1, 5))) (noSpare (testing 2 0))).arrays 0).out = true ∧
    16 * 0 + 0 ∈ (after (.testComplete 0 0 (some (1, 5))) (noSpare (testing 2 0))).boot.unbound := by decide +kernel
def activating (n : Nat) : State := { (secured true).put Reg.secLen 1 with time := 2000000000, act := { st := n, slot := 1, since := 0, restAt := 0 } }
theorem wit_TestsAndActivation_activation : (activating 1).act.st = 1 ∧ (∀ a ∈ (activating 1).comp.weir.adms, dOp a.desc ≠ 1 ∧ dOp a.desc ≠ 7) ∧
    ({ activating 1 with act := { st := 1, slot := 0, since := 0 } } : State).candCode 0 true ≠ 0 ∧
    ({ activating 1 with time := 10 ^ 15 } : State).act.since + (activating 1).reg Reg.testActdrain * 225000 < 10 ^ 15 ∧
    (activating 1).hostUp = true ∧ (activating 0).act.st ≠ 1 ∧ (0x4A#8 : Byte) ≠ 0x4B#8 ∧ (activating 2).act.since + 2250000 ≤ (activating 2).time ∧
    (activating 3).act.st = 3 ∧ (activating 4).act.st = 4 ∧ (activating 4).act.restAt + 1012500000 ≤ (activating 4).time := by decide +kernel
theorem putDigestRegs_keeps (s : State) (r : Nat → Nat) (d : List Byte) : (s.putDigestRegs r d).nv = s.nv ∧ (s.putDigestRegs r d).boot = s.boot :=
  forEach_keeps (P := fun t => State.nv t = s.nv ∧ State.boot t = s.boot) _ _ s ⟨rfl, rfl⟩ (fun _ _ _ h => h)
theorem putDigestRegs_slot (s : State) (r : Nat → Nat) (d : List Byte) (i : Nat) : (s.putDigestRegs r d).slot i = s.slot i := by
  unfold State.slot
  rw [(putDigestRegs_keeps s r d).1]
theorem candCode_signed (hv : ∀ key d sig, Config.mldsaVerify key d sig = true) (s : State) (o : List Byte) (hs : s.slot 1 = ⟨true, o⟩)
    (hb : s.boot.journalRo = false) (hc : s.Canonical)
    (h : u8 o 4 = 1 ∧ (rooted s).formatOk o true = true ∧ lengthOk o o.length = true ∧
      ¬ (u64 o 0x18 ≠ (rooted s).reg64 Reg.globalSerialLo ∧ (u64 o 0x18 ≠ 0 ∨ 3 ≤ u8 o 4)) ∧
      field (u32 o 0xC) 3 0 = typeCounter (u8 o 4) ∧ ¬ u32 o 0x10 < (rooted s).reg (Reg.cisternCounter (typeCounter (u8 o 4))))
    (h7 : slice o (64 + objPayload o) 2592 = List.replicate 2592 0#8) : (rooted s).candCode 1 true = 0 := by
  have e := objCode_signed hv (rooted s) o o.length 1 h h7
    (State.digestRegs_putDigestRegs s Reg.secRootdig _ hc (sha3_length _) (by decide +kernel))
  have hs' : (rooted s).slot 1 = ⟨true, o⟩ := (putDigestRegs_slot s _ _ 1).trans hs
  have hb' : (rooted s).boot.journalRo = false := (congrArg Boot.journalRo (putDigestRegs_keeps s _ _).2).trans hb
  have ht : candType 1 = 1 := rfl
  unfold State.candCode
  simp only [hs', hb', ht, Bool.not_false, e, Bool.not_true, Bool.false_eq_true, if_false, ne_eq, not_true_eq_false, or_self]
def fwObj : List Byte := signed 1 0 [1#8]
theorem fwObj_key : slice fwObj (64 + objPayload fwObj) 2592 = List.replicate 2592 0#8 := by decide +kernel
theorem activating_slot : (activating 1).slot 1 = ⟨true, fwObj⟩ := rfl
/-- With a verification that accepts its signature, and the vendor key of zeros as the root key, the firmware of slot B passes its checks. -/
theorem wit_TestsAndActivation_verified (hv : ∀ key d sig, Config.mldsaVerify key d sig = true) : (rooted (activating 1)).candCode 1 true = 0 :=
  candCode_signed hv (activating 1) fwObj activating_slot (by decide +kernel) (by unfold State.Canonical; decide +kernel) (by decide +kernel)
    fwObj_key
theorem test_rest : (after .restBegin (activating 2)).boot.routerRest = true ∧ (after .restBegin (activating 2)).boot.slot = 1 ∧
    (after .restEnd (after .restBegin (activating 2))).boot.routerRest = false := by decide +kernel

/-! ### Power and thermal -/

def powering (f : Power → Power) : State := { phase 1 with power := f { ready.power with order := 1, rails := vmod ready.power.rails 0 fun r => { r with on := true } } }
theorem wit_InputAndRails : State.reset.boot.input = false ∧ State.reset.power.overAt = none ∧ State.reset.boot.trip = none ∧
    (powering id).boot.phase = 1 ∧ (vget (powering id).power.rails 0).on = true ∧ (vget (powering id).power.rails 0).good = false ∧
    3 ≤ (powering fun p => { p with attempts := 2 }).power.attempts + 1 ∧ (powering id).power.attempts + 1 < 3 ∧
    (powering fun p => { p with retryAt := some 5 }).power.retryAt ≠ none ∧ (powering id).power.latched = false ∧ ready.boot.input = true ∧
    ready.power.lost = false ∧ ready.boot.released = true ∧ (powering id).boot.released = false ∧
    (powering fun p => { p with lost := true }).power.lost = true ∧
    ({ ready with time := 1350000, power := { ready.power with lost := true } } : State).power.lossAt + 1350000 ≤ 1350000 ∧
    ready.power.overAt = none ∧ (powering fun p => { p with overAt := some 5 }).power.overAt ≠ none ∧ (powering id).boot.trip = none := by decide +kernel
theorem test_rail_order : (∀ r < 16, railOrder r = 1 → r ≠ 0 → (vget (powering id).power.rails r).good = true) ∧
    (after (.railPowerGood 0) (powering id)).power.order = 2 := by decide +kernel
theorem test_rail_fault : (after (.railFault 0) (powering fun p => { p with attempts := 2 })).power.latched = true ∧
    (after (.railFault 0) (powering id)).power.retryAt = some (1000 + 225000000) := by decide +kernel

def hotDie (f : DiePower → DiePower) : State :=
  { ready with time := 3000000, power := { ready.power with dies := vmod ready.power.dies 0 f }, pairs := vmod ready.pairs 1 fun p => { p with st := 2 } }
theorem wit_ClocksAndPoints : 6 ≤ ready.boot.phase ∧ ready.diesStopped = false ∧
    (hotDie fun d => { d with target := 4, point := 3 }).allowedPoint 0 ≠ 3 ∧ ready.boot.ready = true ∧ ready.boot.released = true ∧
    (vget ready.power.dies 0).droopA = false ∧ (vget ready.power.dies 0).droopF = false ∧
    (vget (hotDie fun d => { d with planAt := 1 }).pairs 1).st = 2 ∧ (vget (hotDie fun d => { d with planAt := 1 }).power.dies 0).planAt ≠ 0 ∧
    1 - 1 + 2250000 ≤ (hotDie fun d => { d with planAt := 1 }).time ∧ ready.power.lost = false ∧ ready.power.absLimit = false := by decide +kernel
theorem test_plan_steps_down : (vget (after (.planningStepDown 0) (hotDie fun d => { d with planAt := 1, target := 4 })).power.dies 0).target = 4 ∧
    (vget (after (.planningStepDown 0) (hotDie fun d => { d with planAt := 1, target := 3 })).power.dies 0).target = 4 := by decide +kernel

/-- Every die at a temperature in 1/16 °C, the hub at another. -/
def temps (n : Int) : List (List Int) := List.replicate 4 [n]
def tripped : State :=
  { ready with boot := { input := true, trip := some 2 }, power := { ready.power with dies := vmod ready.power.dies 0 fun d => { d with sensors := [1519] } } }
theorem wit_ThermalAndEnergy_sensors : (powering id).boot.released = false ∧ ready.boot.released = true ∧ ready.boot.trip = none ∧
    (∀ d < 4, hottest (nth (temps 1919) d []) < 1920) ∧ hottest [1919] < 1920 ∧
    (∀ e < 0, hottest (nth (temps 1920) e []) < 1920) ∧ 1920 ≤ hottest (nth (temps 1920) 0 []) ∧
    tripped.boot.trip ≠ none ∧ tripped.boot.released = false ∧ tripped.boot.phase = 0 ∧ tripped.boot.input = true ∧ tripped.power.overAt = none ∧
    tripped.power.latched = false ∧ (∀ d < 4, hottest (vget tripped.power.dies d).sensors < 1520) ∧ hottest tripped.power.hub < 1520 := by
  decide +kernel
theorem wit_ThermalAndEnergy_windows : 6 ≤ ready.power.fastK ∧ ready.power.fastK ≤ 18 ∧ ready.capM < ready.capM + 1 ∧ ready.capM ≤ ready.capM ∧
    97 * ready.capM ≤ ready.capM * 100 ∧ 0 * 100 < 97 * ready.capM ∧ ready.power.lost = false ∧
    100 ≤ ({ hotDie id with power := { ready.power with windows := 100 } } : State).power.windows ∧ (vget (hotDie id).pairs 1).st = 2 := by
  decide +kernel
theorem wit_ThermalAndEnergy_inputs : (∀ i ∈ [3, 4, 5], ready.inputLevel i = false) ∧ ready.leakAction ≠ 2 ∧
    (ready.put Reg.powerCtl 2).leakAction = 2 ∧ (ready.put Reg.powerCtl 2).inputLevel 3 = false ∧
    (∀ i ∈ [3, 4, 5], ({ ready with intc := { ready.intc with inputs := vmod ready.intc.inputs i fun x => { x with level := true } } } : State).inputLevel i = true) ∧
    ({ ready with power := { ready.power with cotUntil := some 1000 } } : State).power.cotUntil = some 1000 ∧ 1000 ≤ ready.time := by decide +kernel
theorem wit_ThermalAndEnergy_canonical : (ready.put Reg.powerCtl 2).Canonical := by unfold State.Canonical; decide +kernel
/-- 110 °C slows a die, and below 105 °C it runs on (R444); 120 °C trips the module. -/
theorem test_thermal : (vget (after (.sensorRead (temps 1760) [0]) ready).power.dies 3).thermal = true ∧
    (vget (after (.sensorRead (temps 1759) [0]) ready).power.dies 3).thermal = false ∧
    (vget (after (.sensorRead (temps 1680) [0]) (after (.sensorRead (temps 1760) [0]) ready)).power.dies 3).thermal = true ∧
    (vget (after (.sensorRead (temps 1679) [0]) (after (.sensorRead (temps 1760) [0]) ready)).power.dies 3).thermal = false ∧
    (after (.sensorRead (temps 1920) [0]) ready).boot.trip = some 0 := by decide +kernel
theorem test_fast_factor : (after (.estimatorWindow (ready.capM + 1) 0 0 []) ready).power.fastK = 17 ∧
    (after (.estimatorWindow 0 0 0 []) ready).power.fastK = 18 := by decide +kernel

/-! ### The Fountainer -/

/-- The pairs running, source 0x16 routed to pair 0 at priority 5 and pending. -/
def interrupted : State := { ready with
  pairs := Vector.replicate 2 { st := 2 }, intc := { ready.intc with routes := [⟨0x16, 5, 0, 0⟩], pending := setBit256 0#256 0x16 true } }
theorem wit_InterruptsAndInputs_claims : interrupted.offer 0 = some (0x16, 5) ∧ interrupted.offer 1 = none ∧
    (vget (after (.intcClaim 0) interrupted).pairs 0).stack = [(0x16, 5)] ∧ 0x16 = (0x16#8 : Byte).toNat ∧ 0x16 ≠ (0x17#8 : Byte).toNat ∧
    (vget interrupted.pairs 0).stack = [] ∧ interrupted.hostUp = true := by decide +kernel
theorem wit_InterruptsAndInputs_canonical : interrupted.Canonical := by unfold State.Canonical; decide +kernel
def inputIs (i : Nat) (f : InputSt → InputSt) : State := { ready with intc := { ready.intc with inputs := vmod ready.intc.inputs i f } }
theorem wit_InterruptsAndInputs_inputs : ready.inputLevel 6 ≠ true ∧ (inputIs 0 fun x => { x with level := true }).inputLevel 0 = true ∧
    (let s := ({ (inputIs 3 fun x => { x with activeAt := some 0 }) with time := 225000000 * 65536 } : State)
     (vget s.intc.inputs (3 : Fin 7)).activeAt = some 0 ∧ (vget s.intc.inputs (3 : Fin 7)).masked = false ∧
       0 < ((s.put (Reg.inputStorm 3) (at_ 16 1)).storm (3 : Fin 7)).2.2 ∧
       0 + ((s.put (Reg.inputStorm 3) (at_ 16 1)).storm (3 : Fin 7)).2.2 * 225000000 < (s.put (Reg.inputStorm 3) (at_ 16 1)).time) ∧
    (0x3F#6 : BitVec 6).toNat ≠ ready.strapLines := by decide +kernel
theorem wit_PresenceInputs_masked : (∀ i ∈ [0, 1, 2], (inputIs i fun x => { x with masked := true }).inputLevel i = false ∧
      (inputIs i fun x => { x with masked := true }).inputMasked i = true) ∧
    (inputIs 1 fun x => { x with masked := true, level := true }).inputLevel 1 = true ∧
    (inputIs 1 fun x => { x with masked := true, level := true }).inputMasked 1 = true ∧ (phase 1).boot.released = false := by decide +kernel
theorem test_claim_eoi : (vget (after (.intcClaim 0) interrupted).pairs 0).claimed = 0x16#32 ∧
    (vget (after (.intcClaim 0) (after (.intcClaim 0) interrupted)).pairs 0).claimed = 0xFFFFFFFF#32 ∧
    (after (.intcEoi 0 0x17#8) (after (.intcClaim 0) interrupted)).intc.eoiErr = true ∧
    (after (.intcEoi 0 0x16#8) (after (.intcClaim 0) interrupted)).intc.active = 0#256 := by decide +kernel

def pairIs (p : PairSt) : State := { ready with time := 10 ^ 14, pairs := Vector.replicate 2 p }
theorem wit_FountainerPairs_pairs : (vget (pairIs { st := 2 }).pairs 0).st = 2 ∧ (vget (pairIs { st := 2 }).pairs 0).kickAt + 225000000 ≤ 10 ^ 14 ∧
    ready.boot.released = true ∧ (vget (pairIs { st := 0, cause := 2 }).pairs 1).cause ≠ 0 ∧
    (pairIs { restarts := [10 ^ 14 - 19440000000000, 10 ^ 14, 10 ^ 14] }).pairRestarts 1 < 3 ∧
    3 ≤ (pairIs { restarts := [10 ^ 14 - 19440000000000 + 1, 10 ^ 14, 10 ^ 14] }).pairRestarts 1 := by decide +kernel
/-- A request of a command outstanding in a mailbox, an advert held and a phase learned. -/
def asked (m cmd arg : Nat) (heardOne : Bool) : State :=
  let s := pairIs { st := 2 }
  let s := (s.put (Reg.ftnMbReq m 0) cmd).put (Reg.ftnMbReq m 2) arg
  { (s.modFab fun f => { f with adverts := if heardOne then [⟨7, 2, List.replicate 0x80 1#8, 0, none⟩] else [] }) with
    mailboxes := Vector.replicate 2 { busy := true }, power := { s.power with learned := if heardOne then [⟨0, 3, 1, 80, 2⟩] else [] } }
theorem wit_FountainerPairs_mailboxes : (∀ m ∈ [0, 1], ∀ cmd ∈ [1, 2, 3, 4, 5], (asked m cmd 0 true).mbHas m cmd = true) ∧
    ((asked 0 3 0 true).comp.fab.adverts[field (u32 ((asked 0 3 0 true).mbBody 0) 0) 15 0]?).isSome = true ∧
    ((asked 0 3 1 true).comp.fab.adverts[field (u32 ((asked 0 3 1 true).mbBody 0) 0) 15 0]?) = none ∧
    u32 ((asked 1 5 0x10300 true).mbBody 1) 0 = 0x10300 ∧
    ((asked 1 5 0x10300 true).power.learned.find? fun l => l.pt == field 0x10300 3 0 && l.phase == field 0x10300 15 8 && l.die == field 0x10300 17 16) =
      some ⟨0, 3, 1, 80, 2⟩ ∧ (asked 1 5 0x10300 false).power.learned = [] := by decide +kernel
theorem test_phase_read : (after (.phaseRead 1) (asked 1 5 0x10300 true)).reg (Reg.ftnMbRsp 1 2) = 10 + 2 * 65536 ∧
    (after (.phaseRead 0) (asked 0 5 0 true)).reg (Reg.ftnMbRsp 0 0) / 2 ^ 28 = 2 := by decide +kernel


end Sys2Proof.Tests
end

section
/-! PROOFS. The reset state and the step at a command (R14, R15, R42). -/
namespace Sys2Proof.Machine

/-- Settles O1: a step takes the front of the queue apart, and nothing else. -/
theorem stepRunsFront : Obligations.StepRunsFront := fun _ _ _ => rfl

/-- A store that lists nothing reads its default at every key. -/
theorem State.getReg_reset (off : Nat) : State.reset.getReg off = regReset (regHome off) := rfl

theorem Memory.read_nil (a : Nat) : Memory.read [] a = 0#8 := rfl

theorem State.canonical_reset : State.reset.Canonical :=
  ⟨State.reset_mem_wf, State.reset_regs_wf, List.Pairwise.nil⟩

/-- Settles O4: at reset no register, no byte and no poison mark is listed, so each reads its default. -/
theorem resetState : Obligations.ResetState :=
  ⟨State.canonical_reset, State.getReg_reset, fun a => ⟨Memory.read_nil a, rfl⟩, rfl⟩

end Sys2Proof.Machine
end

section
/-! PROOFS. What a register write does, and what it leaves alone (R13, R16 to R18, R327). -/
namespace Sys2Proof.Machine

/-! ### Storing a register leaves the others -/

theorem State.Canonical.regs_wf {s : State} (h : s.Canonical) : Sparse.wf regReset s.regs = true := h.2.1

/-- A register store changes the register file alone, at the register's home (R13). -/
theorem State.sameRegsBut_setReg {s : State} (off : Nat) (v : Word) (h : s.Canonical) : SameRegsBut [off] s (s.setReg off v) := by
  intro o ho
  exact s.getReg_setReg_ne off o v h.regs_wf (by simpa using ho)

theorem State.getReg_setReg_of_canonical {s : State} (off : Nat) (v : Word) (h : s.Canonical) : (s.setReg off v).getReg off = v :=
  s.getReg_setReg_same off v h.regs_wf

theorem satAdd_toNat (w : Word) (n : Nat) : (satAdd w n).toNat = min (w.toNat + n) 0xFFFFFFFF := by
  simp only [satAdd, BitVec.toNat_ofNat]
  omega

theorem State.reg_bump_same {s : State} (off n : Nat) (h : s.Canonical) : (s.bump off n).reg off = min (s.reg off + n) 0xFFFFFFFF := by
  unfold State.reg State.bump
  rw [State.getReg_setReg_of_canonical off _ h, satAdd_toNat]

/-! ### A host write, down to the access code -/

theorem exec_registerWrite (off : Nat) (val : Word) (s : State) : exec (.registerWrite off val) s = .next (s.hostWriteReg off val) := rfl

theorem exec_pairLowWrite (off : Nat) (val : Word) (s : State) :
    exec (.pairLowWrite off val) s = .next (if isPairLow off then s.hostWriteReg off val else s) := rfl

theorem exec_pairHighWrite (off : Nat) (val : Word) (s : State) :
    exec (.pairHighWrite off val) s = .next (if isPairHigh off then s.hostWriteReg off val else s) := rfl

section
variable {s : State} {off : Nat} {val : Word} {r : RegRow}

theorem exec_registerWrite_refused (hu : s.hostUp = true) (h : off % 4 ≠ 0 ∨ 2 ^ 26 ≤ off) :
    exec (.registerWrite off val) s = .next (s.bump Reg.rillAccref 1) := by
  rw [exec_registerWrite, State.hostWriteReg, hu, if_neg (by decide), if_pos h]

theorem exec_registerWrite_aligned (hu : s.hostUp = true) (ha : off % 4 = 0) (hl : off < 2 ^ 26) :
    exec (.registerWrite off val) s = .next (s.writeReg off val) := by
  rw [exec_registerWrite, State.hostWriteReg, hu, if_neg (by decide), if_neg (by omega)]

theorem State.writeReg_row (hc : s.accessCause off false = none) (hr : regRow off = some r) :
    s.writeReg off val = s.writeRow off r val := by
  simp only [State.writeReg, hc, hr]

theorem State.writeReg_noRow (hc : s.accessCause off false = none) (hr : regRow off = none) :
    s.writeReg off val = if s.writeLocked off then s.accErr off .locked else (s.writeActs off 0 val).getD s := by
  simp only [State.writeReg, hc, hr]

/-- The write of a pair's low word is the register write of that word (R17). -/
theorem exec_pairLowWrite_of_row (hr : regRow off = some r) (hp : r.pair = 1) :
    exec (.pairLowWrite off val) s = exec (.registerWrite off val) s := by
  have hlow : isPairLow off = true := by simp [isPairLow, hr, hp]
  rw [exec_pairLowWrite, if_pos hlow, exec_registerWrite]

theorem exec_pairHighWrite_of_row (hr : regRow off = some r) (hp : r.pair = 2) :
    exec (.pairHighWrite off val) s = exec (.registerWrite off val) s := by
  have hhigh : isPairHigh off = true := by simp [isPairHigh, hr, hp]
  rw [exec_pairHighWrite, if_pos hhigh, exec_registerWrite]

/-! ### One equation of a write for each access code (R16) -/

theorem State.writeRow_ro (h : r.acc = .ro) : s.writeRow off r val = s.accErr off .roWrite := by
  simp only [State.writeRow, h]

theorem State.writeRow_rc (h : r.acc = .rc) : s.writeRow off r val = s := by
  simp only [State.writeRow, h]

theorem State.writeRow_w1c_act {t : State} (h : r.acc = .w1c) (ht : s.writeActs off r.mask val = some t) : s.writeRow off r val = t := by
  simp only [State.writeRow, h, ht]

theorem State.writeRow_w1c (h : r.acc = .w1c) (ht : s.writeActs off r.mask val = none) :
    s.writeRow off r val = s.setReg off (s.getReg off &&& ~~~(val &&& wd r.mask)) := by
  simp only [State.writeRow, h, ht]

/-- The access codes whose writes a lock can refuse: RW, RWL, RWP and WO (R16). -/
def Access.Lockable (a : Access) : Prop := a ≠ .ro ∧ a ≠ .rc ∧ a ≠ .w1c

theorem Access.lockable_of_writable {a : Access} (h : a = .rw ∨ a = .rwl ∨ a = .rwp) : a.Lockable := by
  obtain rfl | rfl | rfl := h <;> simp [Access.Lockable]

theorem State.writeRow_lockable (h : r.acc.Lockable) : s.writeRow off r val =
    if s.writeLocked off then s.accErr off .locked
    else if r.pair = 1 then s.writeLow off val
    else if r.pair = 2 then s.writeHigh off val
    else (s.writeActs off r.mask val).getD (if r.acc = .wo then s else s.storeMasked off r.mask val) := by
  obtain ⟨hro, hrc, hw1c⟩ := h
  unfold State.writeRow
  split
  · contradiction
  · contradiction
  · contradiction
  · cases s.writeActs off r.mask val <;> rfl

theorem State.writeRow_locked (h : r.acc.Lockable) (hl : s.writeLocked off = true) : s.writeRow off r val = s.accErr off .locked := by
  rw [State.writeRow_lockable h, if_pos hl]

theorem State.writeRow_low (h : r.acc.Lockable) (hl : s.writeLocked off = false) (hp : r.pair = 1) :
    s.writeRow off r val = s.writeLow off val := by
  simp [State.writeRow_lockable h, hl, hp]

theorem State.writeRow_high (h : r.acc.Lockable) (hl : s.writeLocked off = false) (hp : r.pair = 2) :
    s.writeRow off r val = s.writeHigh off val := by
  simp [State.writeRow_lockable h, hl, hp]

theorem State.writeRow_act {t : State} (h : r.acc.Lockable) (hl : s.writeLocked off = false) (hp : r.pair = 0)
    (ht : s.writeActs off r.mask val = some t) : s.writeRow off r val = t := by
  simp [State.writeRow_lockable h, hl, hp, ht]

theorem State.writeRow_store (h : r.acc = .rw ∨ r.acc = .rwl ∨ r.acc = .rwp) (hl : s.writeLocked off = false) (hp : r.pair = 0)
    (ht : s.writeActs off r.mask val = none) : s.writeRow off r val = s.storeMasked off r.mask val := by
  have hwo : r.acc ≠ .wo := by obtain h | h | h := h <;> simp [h]
  simp [State.writeRow_lockable (Access.lockable_of_writable h), hl, hp, ht, hwo]

/-- A register write is what the row's access code makes of it (R13, R16 to R18). -/
theorem exec_registerWrite_row (hu : s.hostUp = true) (ha : off % 4 = 0) (hl : off < 2 ^ 26) (hc : s.accessCause off false = none)
    (hr : regRow off = some r) : exec (.registerWrite off val) s = .next (s.writeRow off r val) := by
  rw [exec_registerWrite_aligned hu ha hl, State.writeReg_row hc hr]

end

/-- Settles O5: one case for each access code, by the equations of State.writeRow; what else may change is the frame of a register
store. -/
theorem registerWrites : Obligations.RegisterWrites := by
  refine ⟨fun s off val r hu ha hl hc hr => ?_, fun s off val hu ha hl hc hr => ?_, fun s off val hcan hu h => ?_⟩
  · have hw := exec_registerWrite_row (val := val) hu ha hl hc hr
    refine ⟨fun hacc hp hlock hact hcan => ?store, fun t hro hrc hcase hact => ?act, fun hacc hact hcan => ?clear,
      fun hp => (exec_pairLowWrite_of_row hr hp).symm, fun hp => (exec_pairHighWrite_of_row hr hp).symm,
      fun hacc => ?ro, fun hro hrc hw1c hlock => ?locked, fun hacc => ?rc⟩
    case store =>
      rw [hw, State.writeRow_store hacc hlock hp hact]
      exact ⟨_, rfl, State.getReg_setReg_of_canonical off _ hcan, State.sameRegsBut_setReg off _ hcan, rfl⟩
    case act =>
      rw [hw]
      by_cases hw1c : r.acc = .w1c
      · rw [State.writeRow_w1c_act hw1c hact]
      · obtain ⟨hp, hlock⟩ := hcase.resolve_left hw1c
        rw [State.writeRow_act ⟨hro, hrc, hw1c⟩ hlock hp hact]
    case clear =>
      rw [hw, State.writeRow_w1c hacc hact]
      exact ⟨_, rfl, State.getReg_setReg_of_canonical off _ hcan, State.sameRegsBut_setReg off _ hcan, rfl⟩
    case ro => rw [hw, State.writeRow_ro hacc]
    case locked => rw [hw, State.writeRow_locked ⟨hro, hrc, hw1c⟩ hlock]
    case rc => rw [hw, State.writeRow_rc hacc]
  · rw [exec_registerWrite_aligned hu ha hl, State.writeReg_noRow hc hr]
    exact ⟨fun hlock => by rw [if_pos hlock], fun t hlock hact => by simp [hlock, hact]⟩
  · rw [exec_registerWrite_refused hu h]
    exact ⟨_, rfl, State.reg_bump_same _ 1 hcan, State.sameRegsBut_setReg _ _ hcan, rfl⟩

end Sys2Proof.Machine
end

section
/-! PROOFS. Register reads: what they return, latch and clear (R16, R17, R327). -/
namespace Sys2Proof.Machine

/-! ### Shadows (R17) -/

theorem shadowOf_shadowPut_some (l : List (Nat × Word)) (off : Nat) (w : Word) : shadowOf (shadowPut l off (some w)) off = some w := by
  have hnone : ((l.filter fun x => x.1 != off).filter fun x => decide (x.1 < off)).find? (fun x => x.1 == off) = none := by
    rw [List.find?_eq_none]
    intro x hx
    have hlt : x.1 < off := by simpa using (List.mem_filter.mp hx).2
    simp [Nat.ne_of_lt hlt]
  unfold shadowOf shadowPut
  rw [List.find?_append, hnone]
  simp

theorem shadowOf_shadowPut_none (l : List (Nat × Word)) (off : Nat) : shadowOf (shadowPut l off none) off = none := by
  simp [shadowOf, shadowPut]

/-! ### The answer of a read -/

/-- A completion takes no credit, so it leaves at once (R326). -/
theorem State.sendHost_regCpl (s : State) (tag st : Nat) (d : List Byte) : s.sendHost (.regCpl tag st d) = s.putHost (.regCpl tag st d) :=
  if_pos (Or.inl rfl)

@[simp] theorem State.putHost_hostTx (s : State) (m : HostMsg) : (s.putHost m).hostTx = s.hostTx ++ [m] := rfl

section
variable {s : State} {off : Nat} {r : RegRow}

theorem State.readReg_row (hc : s.accessCause off true = none) (hr : regRow off = some r) : s.readReg off = s.readRow off r.acc r.pair := by
  simp only [State.readReg, hc, hr]

/-- A read of one aligned word is answered with the word (R327). -/
theorem State.hostRead_word {tag : Nat} (ha : off % 4 = 0) (hl : off + 4 ≤ 2 ^ 26) :
    s.hostRead tag off 1 = (s.readReg off).2.putHost (.regCpl tag 0 (leBytes 4 (s.readReg off).1.toNat)) := by
  unfold State.hostRead
  rw [if_neg (by omega), ← State.sendHost_regCpl]
  simp [State.readRegs]

theorem State.hostRead_row {tag : Nat} (ha : off % 4 = 0) (hl : off + 4 ≤ 2 ^ 26) (hc : s.accessCause off true = none)
    (hr : regRow off = some r) : s.hostRead tag off 1 =
      (s.readRow off r.acc r.pair).2.putHost (.regCpl tag 0 (leBytes 4 (s.readRow off r.acc r.pair).1.toNat)) := by
  rw [State.hostRead_word ha hl, State.readReg_row hc hr]

/-! ### One equation of a read for each kind of register (R16, R17) -/

/-- The registers POWER_RAIL, of which a read takes a free value (log entry 2). -/
def IsRailReg (off : Nat) : Prop := blockOf off = .power ∧ 0x2E00080 ≤ off ∧ off < 0x2E000C0

theorem regRow_rail : ∀ k < 16, regRow (0x2E00080 + 4 * k) = some ⟨0x2E00080, [(0x4, 16)], .ro, 0x0, 0x0, 0, 0x0⟩ := by
  decide

/-- POWER_RAIL is read-only and no pair (R459). -/
theorem not_isRailReg (ha : off % 4 = 0) (hr : regRow off = some r) (h : r.acc ≠ .ro ∨ r.pair ≠ 0) : ¬ IsRailReg off := by
  rintro ⟨-, hlo, hhi⟩
  have hrail := regRow_rail ((off - 0x2E00080) / 4) (by omega)
  rw [show 0x2E00080 + 4 * ((off - 0x2E00080) / 4) = off by omega, hr, Option.some.injEq] at hrail
  simp [hrail] at h

/-- A read of any other register takes no free value. -/
theorem State.readTakes_nothing (hp : ¬ IsRailReg off) :
    (if blockOf off = .power ∧ 0x2E00080 ≤ off ∧ off < 0x2E000C0 then s.fresh.2 else s) = s := if_neg hp

theorem State.readRow_rc {pair : Nat} (hp : ¬ IsRailReg off) : s.readRow off .rc pair = (s.regValue off, s.setReg off 0#32) := by
  simp only [State.readRow, State.readTakes_nothing hp]

theorem State.readRow_low {acc : Access} (hp : ¬ IsRailReg off) (hwo : acc ≠ .wo) (hrc : acc ≠ .rc) : s.readRow off acc 1 =
    (s.regValue off, { s with rdShadow := shadowPut s.rdShadow (regHome off) (some (s.regValue (off + 4))) }) := by
  simp only [State.readRow, State.readTakes_nothing hp, if_true]

theorem State.readRow_high_latched {acc : Access} {w : Word} (hp : ¬ IsRailReg off) (hwo : acc ≠ .wo) (hrc : acc ≠ .rc)
    (hs : shadowOf s.rdShadow (regHome (off - 4)) = some w) :
    s.readRow off acc 2 = (w, { s with rdShadow := shadowPut s.rdShadow (regHome (off - 4)) none }) := by
  simp [State.readRow, State.readTakes_nothing hp, hs]

end

theorem exec_rcRead (off : Nat) (s : State) : exec (.rcRead off) s = .next (if !s.hostUp then s else s.hostRead 0 off 1) := rfl

/-- Settles O8: an RC register is no POWER_RAIL, so its read takes no free value; it stores zero, and the completion leaves at once. -/
theorem rcReadClears : Obligations.RcReadClears := by
  intro s off r hcan hu ha hl hc hr hacc
  have hrail : ¬ IsRailReg off := not_isRailReg ha hr (.inl (by simp [hacc]))
  rw [exec_rcRead, hu, if_neg (by decide), State.hostRead_row ha hl hc hr, hacc, State.readRow_rc hrail]
  refine ⟨_, rfl, ?_, rfl, ?_, rfl⟩
  · exact State.getReg_setReg_of_canonical off 0#32 hcan
  · exact State.sameRegsBut_setReg off 0#32 hcan

theorem exec_pairLowRead (off : Nat) (s : State) : exec (.pairLowRead off) s = .next (if s.hostUp then s.hostRead 0 off 1 else s) := rfl

end Sys2Proof.Machine
end

section
/-! PROOFS. Writes of 64-bit pairs through the write shadow (R17). -/
namespace Sys2Proof.Machine

/-- The two words of a pair have different homes (R208). -/
theorem regHome_add_four_ne (lo : Nat) : regHome (lo + 4) ≠ regHome lo := by
  unfold regHome
  split <;> split <;> omega

theorem SameRegsBut.trans {l m : List Nat} {s t u : State} (a : SameRegsBut l s t) (b : SameRegsBut m t u) : SameRegsBut (l ++ m) s u := by
  intro o ho
  rw [List.map_append, List.mem_append, not_or] at ho
  exact (b o ho.2).trans (a o ho.1)

section
variable {s : State} {lo : Nat} {r h : RegRow}

/-- A pair takes effect: each word stores the bits its row can change (R13, R17). CISTERN_STAMP stores nothing: its write is a command. -/
theorem State.pairTakes_rows (hst : lo ≠ Reg.cisternStampLo) (hr : regRow lo = some r) (hh : regRow (lo + 4) = some h) (vlo vhi : Word) :
    s.pairTakes lo vlo vhi = (s.storeMasked lo r.mask vlo).storeMasked (lo + 4) h.mask vhi := by
  simp [State.pairTakes, hst, hr, hh]

theorem State.writeHigh_rows (hst : lo ≠ Reg.cisternStampLo) (hr : regRow lo = some r) (hh : regRow (lo + 4) = some h) (vhi : Word) :
    s.writeHigh (lo + 4) vhi =
      ((({ s with wrShadow := shadowPut s.wrShadow lo none } : State).storeMasked lo r.mask
        ((shadowOf s.wrShadow lo).getD (s.getReg lo))).storeMasked (lo + 4) h.mask vhi) := by
  simp only [State.writeHigh, State.pairLow, Nat.add_sub_cancel, if_neg hst, State.pairTakes_rows hst hr hh]

/-- Two stores at the two words of a pair: each reads as stored, every other register as before. -/
theorem State.storeMasked_pair (hcan : s.Canonical) (mlo mhi : Nat) (vlo vhi : Word) :
    let t := (s.storeMasked lo mlo vlo).storeMasked (lo + 4) mhi vhi
    t.getReg lo = (s.getReg lo &&& ~~~(wd mlo)) ||| (vlo &&& wd mlo) ∧
      t.getReg (lo + 4) = (s.getReg (lo + 4) &&& ~~~(wd mhi)) ||| (vhi &&& wd mhi) ∧ SameRegsBut [lo, lo + 4] s t := by
  have hne : regHome lo ≠ regHome (lo + 4) := (regHome_add_four_ne lo).symm
  have hcan' : (s.storeMasked lo mlo vlo).Canonical := State.canonical_setReg lo _ hcan
  have hhigh : (s.storeMasked lo mlo vlo).getReg (lo + 4) = s.getReg (lo + 4) := s.getReg_setReg_ne lo (lo + 4) _ hcan.regs_wf hne.symm
  refine ⟨?_, ?_, (State.sameRegsBut_setReg lo _ hcan).trans (State.sameRegsBut_setReg (lo + 4) _ hcan')⟩
  · exact ((s.storeMasked lo mlo vlo).getReg_setReg_ne (lo + 4) lo _ hcan'.regs_wf hne).trans (State.getReg_setReg_of_canonical lo _ hcan)
  · exact (State.getReg_setReg_of_canonical (lo + 4) _ hcan').trans (by rw [hhigh])

end

/-- Settles O9: reads by the equations of State.readRow for either word of a pair, writes by those of State.writeRow. -/
theorem pairAccess : Obligations.PairAccess := by
  refine ⟨fun s lo r h hu ha hl hcl hch hr hrp hrw hrr hh hhp hhw hhr => ?read,
    fun s lo vlo vhi r h hcan hu ha hl hst hcl hch hkl hkh hr hrp hra hh hhp hha => ⟨?low, ?high⟩⟩
  case read =>
    have hrail : ¬ IsRailReg lo := not_isRailReg ha hr (.inr (by simp [hrp]))
    have hrail' : ¬ IsRailReg (lo + 4) := not_isRailReg (by omega) hh (.inr (by simp [hhp]))
    rw [exec_pairLowRead, if_pos hu, State.hostRead_row ha (by omega) hcl hr, hrp, State.readRow_low hrail hrw hrr]
    refine ⟨_, rfl, rfl, shadowOf_shadowPut_some _ _ _, rfl, ?_⟩
    rw [State.readReg_row (by exact hch) hh, hhp, State.readRow_high_latched hrail' hhw hhr (shadowOf_shadowPut_some _ _ _)]
    exact ⟨_, rfl, shadowOf_shadowPut_none _ _, rfl⟩
  case low =>
    rw [exec_pairLowWrite_of_row hr hrp, exec_registerWrite_row hu ha (by omega) hcl hr,
      State.writeRow_low (Access.lockable_of_writable hra) hkl hrp]
    exact ⟨_, rfl, shadowOf_shadowPut_some _ _ _, rfl⟩
  case high =>
    rw [exec_pairHighWrite_of_row hh hhp, exec_registerWrite_row hu (by omega) (by omega) hch hh,
      State.writeRow_high (Access.lockable_of_writable hha) hkh hhp, State.writeHigh_rows hst hr hh]
    obtain ⟨hlo, hhi, hrest⟩ := State.storeMasked_pair (s := { s with wrShadow := shadowPut s.wrShadow lo none }) (lo := lo) hcan
      r.mask h.mask ((shadowOf s.wrShadow lo).getD (s.getReg lo)) vhi
    exact ⟨_, rfl, shadowOf_shadowPut_none _ _, hlo, hhi, hrest, rfl⟩

end Sys2Proof.Machine
end

section
/-! PROOFS. What the reset of a partition and a compute reset leave of bring-up's state, and what they clear (R25, R42 to R45). -/
namespace Sys2Proof.Machine

/-! ### Repetition -/

/-- What the turn of an element brings about and every turn keeps, holds of every element of the list at the end. -/
theorem forEach_establishes {α σ : Type} {P : α → σ → Prop} (f : α → σ → σ) (hkeep : ∀ x y s, P x s → P x (f y s)) :
    ∀ (l : List α) (s : σ), (∀ x ∈ l, ∀ s, P x (f x s)) → ∀ x ∈ l, P x (forEach l f s)
  | [], _, _, x, hx => absurd hx List.not_mem_nil
  | a :: l, s, hset, x, hx => by
    obtain rfl | hx := List.mem_cons.mp hx
    · exact forEach_keeps f l (f x s) (hset x List.mem_cons_self s) fun y _ s h => hkeep x y s h
    · exact forEach_establishes f hkeep l (f a s) (fun y hy => hset y (List.mem_cons_of_mem a hy)) x hx

/-! ### Weir entries and fetches are postings (R332 to R334) -/

theorem State.posts_drainHold : ∀ (k : Nat) (s : State) (pt cq : Nat), Posts s (State.drainHold k s pt cq)
  | 0, s, _, _ => .refl s
  | k + 1, s, pt, cq => by
    unfold State.drainHold
    split
    · exact .refl s
    · dsimp only
      split
      · exact .refl s
      · refine Posts.trans ?_ (State.posts_drainHold k _ pt cq)
        refine Posts.trans ?_ (State.posts_ringPost _ _ _ _ (by simp))
        exact .of rfl rfl

theorem State.posts_weirEntry (s : State) (pt sq cq : Nat) (bytes : List Byte) : Posts s (s.weirEntry pt sq cq bytes) := by
  unfold State.weirEntry
  refine Posts.trans ?_ (State.posts_drainHold _ _ pt cq)
  exact .of rfl rfl

theorem State.posts_pumpFetch (s : State) (pt sq : Nat) : Posts s (s.pumpFetch pt sq) := by
  unfold State.pumpFetch
  dsimp only
  split
  · exact .refl s
  · exact s.posts_memRdAll _ _ _ _

theorem State.posts_pumpFetches (s : State) (pt : Nat) : Posts s (s.pumpFetches pt) :=
  forEach_keeps (P := Posts s) _ _ s (.refl s) fun n _ t h => h.trans (t.posts_pumpFetch pt n)

/-! ### The parts of a partition's reset leave bring-up's state as it is (R44, Table 16-4) -/

@[simp] theorem State.ringDisable_boot (s : State) (id : RingId) : (s.ringDisable id).boot = s.boot := by
  cases id <;> rfl

/-- A repetition of steps that keep bring-up's state keeps it. -/
theorem forEach_boot {α : Type} (l : List α) (f : α → State → State) (s : State) (h : ∀ x s, (f x s).boot = s.boot) :
    (forEach l f s).boot = s.boot :=
  forEach_keeps (P := fun t : State => t.boot = s.boot) f l s rfl fun x _ t ht => (h x t).trans ht

@[simp] theorem State.chargeWaiting_boot (s : State) (x : Adm) : (s.chargeWaiting x).boot = s.boot :=
  forEach_boot _ _ _ fun _ _ => rfl

@[simp] theorem State.pumpFetches_boot (s : State) (pt : Nat) : (s.pumpFetches pt).boot = s.boot := (s.posts_pumpFetches pt).boot
@[simp] theorem State.weirEntry_boot (s : State) (pt sq cq : Nat) (bytes : List Byte) : (s.weirEntry pt sq cq bytes).boot = s.boot :=
  (s.posts_weirEntry pt sq cq bytes).boot
@[simp] theorem State.fire_boot (s : State) (n : Nat) : (s.fire n).boot = s.boot := (s.posts_fire n).boot
@[simp] theorem State.event_boot (s : State) (q : Option Nat) (e : Event) : (s.event q e).boot = s.boot := (s.posts_event q e).boot
@[simp] theorem State.ptEvent_boot (s : State) (pt code : Nat) (body : List Byte) : (s.ptEvent pt code body).boot = s.boot :=
  (s.posts_ptEvent pt code body).boot
@[simp] theorem State.record_boot (s : State) (r : Rec) : (s.record r).boot = s.boot := (s.reports_record r).boot

/-- A conditional change that keeps bring-up's state where it happens keeps it. -/
theorem State.boot_ite {c : Prop} [Decidable c] {s t : State} (h : t.boot = s.boot) : (if c then t else s).boot = s.boot := by
  split
  · exact h
  · rfl

/-- The entry, the event, the record and the charges of a completed descriptor are no part of bring-up's state (R246 to R248). -/
@[simp] theorem State.completeOne_boot (s : State) (pt admno status : Nat) : (s.completeOne pt admno status).boot = s.boot := by
  unfold State.completeOne
  split
  · rfl
  · dsimp only
    refine (State.pumpFetches_boot _ _).trans <| (State.boot_ite (State.fire_boot _ _)).trans <|
      (State.boot_ite (State.fire_boot _ _)).trans <| (State.weirEntry_boot _ _ _ _ _).trans <| (State.boot_ite ?late).trans ?charges
    case late => exact (State.ptEvent_boot _ _ _ _).trans ((State.boot_ite (State.record_boot _ _)).trans (State.bump_boot _ _ _))
    case charges => exact (State.modWeir_boot _ _).trans (State.boot_ite (State.chargeWaiting_boot _ _))

@[simp] theorem State.setGroupSt_boot (s : State) (slot st : Nat) : (s.setGroupSt slot st).boot = s.boot := by
  unfold State.setGroupSt
  dsimp only
  split
  · rfl
  · simp only [State.fire_boot]; rfl

@[simp] theorem State.dropGroups_boot (s : State) (pt : Nat) : (s.dropGroups pt).boot = s.boot :=
  forEach_boot _ _ _ fun i s => s.setGroupSt_boot i 0

@[simp] theorem State.dropEngines_boot (s : State) (pt : Nat) : (s.dropEngines pt).boot = s.boot :=
  forEach_boot _ _ _ fun _ _ => rfl

@[simp] theorem State.resetQueues_boot (s : State) (pt : Nat) : (s.resetQueues pt).boot = s.boot :=
  State.event_boot _ _ _

@[simp] theorem State.refuse_boot (s : State) (pt sq : Nat) (d : List Byte) (code quote : Nat) :
    (s.refuse pt sq d code quote).boot = s.boot := by
  unfold State.refuse
  simp

@[simp] theorem State.skipUndefined_boot : ∀ (k : Nat) (s : State), (State.skipUndefined k s).boot = s.boot
  | 0, _ => rfl
  | k + 1, s => by
    unfold State.skipUndefined
    split
    · rfl
    · split
      · rfl
      · split
        · rfl
        · exact (State.skipUndefined_boot k _).trans (State.refuse_boot _ _ _ _ _ _)

@[simp] theorem State.clearArray_boot (s : State) (i : Nat) : (s.clearArray i).boot = s.boot := rfl
@[simp] theorem State.closeFlows_boot (s : State) (p : TxFlow → Bool) : (s.closeFlows p).boot = s.boot := rfl
@[simp] theorem State.dropWeir_boot (s : State) (pt : Nat) : (s.dropWeir pt).boot = s.boot := rfl
@[simp] theorem State.modLoader_boot (s : State) (f : Loader → Loader) : (s.modLoader f).boot = s.boot := rfl

/-! ### Bring-up's state over a reset (R25, R44) -/

/-- The state of bring-up is as before, but for the roles that await a spare. -/
structure SameBootButUnbound (s t : State) : Prop where
  boot : t.boot = { s.boot with unbound := t.boot.unbound }

theorem SameBootButUnbound.of_boot {s t : State} (h : t.boot = s.boot) : SameBootButUnbound s t := ⟨by rw [h]⟩

theorem SameBootButUnbound.trans {s t u : State} (a : SameBootButUnbound s t) (b : SameBootButUnbound t u) : SameBootButUnbound s u :=
  ⟨b.boot.trans (by rw [a.boot])⟩

theorem SameBootButUnbound.computeResetting {s t : State} (h : SameBootButUnbound s t) :
    t.boot.computeResetting = s.boot.computeResetting := by rw [h.boot]

theorem SameBootButUnbound.ptResetting {s t : State} (h : SameBootButUnbound s t) : t.boot.ptResetting = s.boot.ptResetting := by
  rw [h.boot]

theorem forEach_sameBoot {α : Type} (l : List α) (f : α → State → State) (s : State) (h : ∀ x s, SameBootButUnbound s (f x s)) :
    SameBootButUnbound s (forEach l f s) :=
  forEach_keeps (P := SameBootButUnbound s) f l s (.of_boot rfl) fun x _ t ht => ht.trans (h x t)

theorem State.sameBoot_rebind (s : State) (die : Nat) : SameBootButUnbound s (s.rebind die) := by
  unfold State.rebind
  split
  · exact ⟨rfl⟩
  · exact .of_boot rfl

/-- The end of an array's test can bind a role that awaits a spare (R432). -/
theorem State.sameBoot_endTest (s : State) (i : Nat) : SameBootButUnbound s (s.endTest i) := by
  unfold State.endTest State.endRotation
  split
  · refine SameBootButUnbound.trans ?_ (.of_boot (State.modTest_boot _ _ _))
    refine SameBootButUnbound.trans ?_ (State.sameBoot_rebind _ _)
    exact .of_boot rfl
  · exact .of_boot rfl

/-- A reset of a partition marks it resetting and changes nothing else of bring-up's state but the roles that await a spare (R44). -/
theorem State.sameBoot_resetPt (s : State) (pt : Nat) :
    SameBootButUnbound (s.modBoot fun b => { b with ptResetting := b.ptResetting ||| BitVec.ofNat 16 (2 ^ pt) }) (s.resetPt pt) := by
  unfold State.resetPt
  extract_lets s1 s2 s3 s4 s5 mine s6 s7 slots s8 s9 s10 s11 s12 s13 s14 s15 s16
  have hbefore : s5.boot = s1.boot := by simp [s5, s4, s3, s2, forEach_boot]
  have htests : SameBootButUnbound s5 s6 := forEach_sameBoot _ _ _ fun i s => s.sameBoot_endTest i
  have hclear : s7.boot = s6.boot := forEach_boot _ _ _ fun i s => s.clearArray_boot i
  refine ((SameBootButUnbound.of_boot hbefore).trans htests).trans (.of_boot ?_)
  simp [s16, s15, s14, s13, s12, s11, s10, s9, s8, hclear]

theorem State.resetPt_computeResetting (s : State) (pt : Nat) : (s.resetPt pt).boot.computeResetting = s.boot.computeResetting :=
  (s.sameBoot_resetPt pt).computeResetting

theorem State.resetPt_ptResetting (s : State) (pt : Nat) :
    (s.resetPt pt).boot.ptResetting = s.boot.ptResetting ||| BitVec.ofNat 16 (2 ^ pt) := (s.sameBoot_resetPt pt).ptResetting

/-- A partition's reset marks it. -/
theorem State.resetPt_marks (s : State) {p : Nat} (hp : p < 16) : (s.resetPt p).boot.ptResetting.getLsbD p = true := by
  rw [State.resetPt_ptResetting, BitVec.getLsbD_or, BitVec.getLsbD_ofNat, Nat.testBit_two_pow_self]
  simp [hp]

/-- A partition's reset leaves the marks that stand. -/
theorem State.resetPt_keeps_mark (s : State) (p q : Nat) (h : s.boot.ptResetting.getLsbD p = true) :
    (s.resetPt q).boot.ptResetting.getLsbD p = true := by
  rw [State.resetPt_ptResetting, BitVec.getLsbD_or, h, Bool.true_or]

/-! ### Registers at their reset values (R15) -/

/-- A key that no entry of the list names reads its default. -/
theorem Sparse.get_of_not_listed {α : Type} {dflt : Nat → α} {k : Nat} : ∀ {m : List (Nat × α)}, (∀ e ∈ m, e.1 ≠ k) →
    Sparse.get dflt m k = dflt k
  | [], _ => rfl
  | (k', v) :: t, h => by
    have hne : k ≠ k' := (h _ List.mem_cons_self).symm
    have ih := Sparse.get_of_not_listed (dflt := dflt) fun e he => h e (List.mem_cons_of_mem (k', v) he)
    simp only [Sparse.get, if_neg hne, ih, ite_self]

/-- A register whose stored value is forgotten reads its reset value. -/
theorem State.getReg_resetRegs_of (s : State) {p : Nat → Bool} {o : Nat} (h : p (regHome o) = true) :
    (s.resetRegs p).getReg o = regReset (regHome o) := by
  refine Sparse.get_of_not_listed fun e he heq => ?_
  have hp := (List.mem_filter.mp he).2
  rw [heq, h] at hp
  exact absurd hp (by decide)

/-! ### Arrays (R25, R44) -/

/-- An array without a tile and without a role. -/
def State.ArrayBare (s : State) (i : Nat) : Prop := (vget s.arrays i).tiles = [] ∧ (vget s.arrays i).role = none

/-- Clear an array and take its role, as a compute reset does with each. -/
def State.bareArray (s : State) (i : Nat) : State := (s.clearArray i).modArr i fun A => { A with role := none }

theorem State.bareArray_bare (s : State) (i : Nat) : (s.bareArray i).ArrayBare i := by
  simp [State.ArrayBare, State.bareArray, State.clearArray]

theorem State.bareArray_keeps_bare (s : State) (i j : Nat) (h : s.ArrayBare i) : (s.bareArray j).ArrayBare i := by
  by_cases hij : j % 72 = i % 72
  · have hsame : ∀ v : Vector ArraySt 72, vget v i = vget v j := fun v => by simp [vget, hij]
    rw [State.ArrayBare, hsame]
    exact s.bareArray_bare j
  · have hother : vget (s.bareArray j).arrays i = vget s.arrays i := by
      simp [State.bareArray, State.clearArray, vget_vmod_ne _ _ _ _ hij]
    rw [State.ArrayBare, hother]
    exact h

/-! ### The command (R45, R49) -/

theorem exec_computeReset (key : Byte) (s : State) : exec (.computeReset key) s =
    .next (s.hostWrite Reg.globalReset fun s => s.writeGlobalReset (2 + at_ 8 key.toNat)) := rfl

theorem exec_partitionReset (key : Byte) (m : BitVec 16) (s : State) : exec (.partitionReset key m) s =
    .next (s.hostWrite Reg.globalReset fun s => s.writeGlobalReset (1 + at_ 8 key.toNat + at_ 16 m.toNat)) := rfl

/-- Once READY, no cause refuses a write of GLOBAL_RESET. -/
theorem State.accessCause_globalReset {s : State} (hr : s.boot.ready = true) : s.accessCause Reg.globalReset false = none := by
  have hblock : blockOf Reg.globalReset = .global := rfl
  have hrow : (regRow Reg.globalReset).isNone = false := rfl
  simp [State.accessCause, hblock, hrow, hr]

theorem State.hostWrite_globalReset {s : State} (hu : s.hostUp = true) (hr : s.boot.ready = true) (f : State → State) :
    s.hostWrite Reg.globalReset f = f s := by
  simp [State.hostWrite, hu, State.accessCause_globalReset hr]

theorem State.writeGlobalReset_compute {s : State} {w : Nat} (hkey : field w 15 8 = 0xA5) (hscope : field w 3 0 = 2)
    (hr : s.boot.ready = true) : s.writeGlobalReset w = s.computeReset := by
  simp [State.writeGlobalReset, hkey, hscope, hr]

theorem State.writeGlobalReset_partition {s : State} {w : Nat} (hkey : field w 15 8 = 0xA5) (hscope : field w 3 0 = 1)
    (hr : s.boot.ready = true) : s.writeGlobalReset w = s.partitionReset (field w 31 16) := by
  simp [State.writeGlobalReset, hkey, hscope, hr]

theorem exec_computeReset_ready {s : State} (hu : s.hostUp = true) (hr : s.boot.ready = true) :
    exec (.computeReset 0xA5#8) s = .next s.computeReset := by
  rw [exec_computeReset, State.hostWrite_globalReset hu hr, State.writeGlobalReset_compute (by decide) (by decide) hr]

theorem exec_partitionReset_ready {s : State} (hu : s.hostUp = true) (hr : s.boot.ready = true) (m : BitVec 16) :
    exec (.partitionReset 0xA5#8 m) s = .next (s.partitionReset m.toNat) := by
  have hm := m.isLt
  have hword : 1 + at_ 8 (0xA5#8 : Byte).toNat + at_ 16 m.toNat = 0xA501 + 65536 * m.toNat := by
    simp [at_, Nat.shiftLeft_eq]; omega
  have hkey : field (0xA501 + 65536 * m.toNat) 15 8 = 0xA5 := by simp [field, Nat.shiftRight_eq_div_pow]; omega
  have hscope : field (0xA501 + 65536 * m.toNat) 3 0 = 1 := by simp [field]; omega
  have hmask : field (0xA501 + 65536 * m.toNat) 31 16 = m.toNat := by simp [field, Nat.shiftRight_eq_div_pow]; omega
  rw [exec_partitionReset, State.hostWrite_globalReset hu hr, hword, State.writeGlobalReset_partition hkey hscope hr, hmask]

theorem State.computeReset_again {s : State} (h : s.boot.computeResetting = true) : s.computeReset = s := if_pos h

theorem State.partitionReset_within {s : State} (h : s.boot.computeResetting = true) (m : Nat) : s.partitionReset m = s := if_pos h

/-- What a compute reset leaves while none lasts (R15, R25, R42, R44). -/
theorem State.computeReset_resets {s : State} (h : s.boot.computeResetting = false) :
    s.computeReset.boot.computeResetting = true ∧
      (∀ p : Pt, s.defined p = true → s.computeReset.boot.ptResetting.getLsbD p = true) ∧
      s.computeReset.comp.engines = Vector.replicate 8 {} ∧
      (∀ i < 72, s.computeReset.ArrayBare i) ∧
      ∀ o, regDomain (regHome o) = .compute → s.computeReset.getReg o = regReset (regHome o) := by
  unfold State.computeReset
  rw [if_neg (by simp [h])]
  extract_lets pts s1 s2 s3 s4 s5
  have hboot2 : s2.boot.computeResetting = true :=
    forEach_keeps (P := fun t : State => t.boot.computeResetting = true) _ pts s1 rfl fun p _ t ht => (t.resetPt_computeResetting p).trans ht
  have hboot3 : SameBootButUnbound s2 s3 := forEach_sameBoot _ _ _ fun i t => t.sameBoot_endTest i
  have hboot4 : s4.boot = s3.boot := forEach_boot _ _ _ fun _ _ => rfl
  have hboot5 : s5.boot = s3.boot := (s4.modComp_boot _).trans hboot4
  refine ⟨?_, fun p hp => ?_, rfl, fun i hi => ?_, fun o ho => ?_⟩
  · rw [State.resetRegs_boot, hboot5, hboot3.computeResetting, hboot2]
  · rw [State.resetRegs_boot, hboot5, hboot3.ptResetting]
    cases hmark : s.boot.ptResetting.getLsbD p with
    | true =>
      exact forEach_keeps (P := fun t : State => t.boot.ptResetting.getLsbD p = true) _ pts s1 hmark
        fun q _ t ht => t.resetPt_keeps_mark p q ht
    | false =>
      have hmem : p.val ∈ pts := List.mem_filter.mpr ⟨List.mem_range.mpr p.isLt, by rw [hp, hmark]; rfl⟩
      exact forEach_establishes (P := fun (q : Nat) (t : State) => t.boot.ptResetting.getLsbD q = true) _
        (fun p q t ht => t.resetPt_keeps_mark p q ht) pts s1
        (fun q hq t => t.resetPt_marks (List.mem_range.mp (List.mem_filter.mp hq).1)) p.val hmem
  · have hbare : s4.ArrayBare i := forEach_establishes (P := fun i (t : State) => t.ArrayBare i) (fun i t => t.bareArray i)
      (fun i j t ht => t.bareArray_keeps_bare i j ht) (List.range 72) s3 (fun i _ t => t.bareArray_bare i) i (List.mem_range.mpr hi)
    have harrays : s5.arrays = s4.arrays := s4.modComp_arrays _
    rw [State.ArrayBare, State.resetRegs_arrays, harrays]
    exact hbare
  · exact State.getReg_resetRegs_of _ (by simp [ho])

/-- Settles O11: what State.computeReset leaves while no reset lasts; while one lasts, both requests find it and change nothing. -/
theorem computeReset : Obligations.ComputeReset := by
  intro s hu hr
  refine ⟨fun h => ?_, fun h => ⟨fun m => ?_, ?_⟩⟩
  · obtain ⟨hboot, hpts, heng, harr, hregs⟩ := State.computeReset_resets h
    exact ⟨_, exec_computeReset_ready hu hr, hboot, hpts, heng, fun i => harr i i.isLt, hregs⟩
  · rw [exec_partitionReset_ready hu hr, State.partitionReset_within h]
  · rw [exec_computeReset_ready hu hr, State.computeReset_again h]

end Sys2Proof.Machine
end

section
/-! PROOFS. GLOBAL_ACCERR: the first refused access, the count of later ones, and ACCERR_CLEAR (R50). -/
namespace Sys2Proof.Machine

/-! ### Values of a register, field by field -/

theorem State.reg_lt (s : State) (off : Nat) : s.reg off < 2 ^ 32 := (s.getReg off).isLt

theorem field_low (w n : Nat) : field w n 0 = w % 2 ^ (n + 1) := by simp [field]

/-- The upper bits of a 32-bit word. -/
theorem field_high {w n : Nat} (h : w < 2 ^ 32) (hn : n ≤ 31) : field w 31 n = w / 2 ^ n := by
  have hlt : w / 2 ^ n < 2 ^ (32 - n) := by
    rw [Nat.div_lt_iff_lt_mul (Nat.two_pow_pos n), ← Nat.pow_add]
    simpa [Nat.sub_add_cancel (show n ≤ 32 by omega)] using h
  simpa [field, Nat.shiftRight_eq_div_pow] using Nat.mod_eq_of_lt hlt

theorem at_eq_mul (lo v : Nat) : at_ lo v = v * 2 ^ lo := Nat.shiftLeft_eq v lo

theorem bit_zero_eq (w : Nat) : bit w 0 = (w % 2 == 1) := by simp [bit]

/-! ### GLOBAL_ACCERR is no register that posting counts in (R50) -/

/-- Posting counts in RILL_DMAREF and in registers above 0x100000, none of which lies below. -/
theorem not_postReg_of_global {o : Nat} (h : o < 0x100000) : ¬ PostReg (regHome o) := by
  have hhome : regHome o = o := if_neg (by omega)
  rw [hhome]
  rintro (hd | ⟨q, hq⟩)
  · have : regHome Reg.rillDmaref = 0x10001C := by decide
    omega
  · cases q with
    | none =>
      have : regHome (evLostReg none) = 0x100914 := by decide
      omega
    | some pt =>
      have hoff : evLostReg (some pt) = 0x3800314 + 0x40000 * pt := rfl
      have : regHome (evLostReg (some pt)) = 0x3800314 + 0x40000 * pt := by rw [hoff]; exact if_neg (by omega)
      omega

/-- A source that fires leaves the registers of the global block (R465). -/
theorem State.reg_fire_global {s : State} (h : s.Canonical) (n : Nat) {o : Nat} (ho : o < 0x100000) : (s.fire n).reg o = s.reg o := by
  rw [State.reg, State.reg, (s.posts_fire n).regs h o (not_postReg_of_global ho)]

theorem State.reg_put_ne {s : State} (off o v : Nat) (h : s.Canonical) (hne : regHome o ≠ regHome off) : (s.put off v).reg o = s.reg o := by
  rw [State.reg, State.reg, State.getReg_put_ne off o v h hne]

theorem regHome_accerrAddr_ne : regHome Reg.globalAccerrAddr ≠ regHome Reg.globalAccerrInfo := by decide

/-! ### One equation of a refused access for each state of VALID (R50) -/

theorem State.accErr_first {s : State} (h : bit (s.reg Reg.globalAccerrInfo) 0 = false) (off : Nat) (c : AccCause) :
    s.accErr off c = ((s.put Reg.globalAccerrAddr off).put Reg.globalAccerrInfo (1 + at_ 4 (causeCode c))).fire 0x10 := by
  simp [State.accErr, h]

theorem State.accErr_later {s : State} (h : bit (s.reg Reg.globalAccerrInfo) 0 = true) (off : Nat) (c : AccCause) :
    s.accErr off c = s.put Reg.globalAccerrInfo
      (s.reg Reg.globalAccerrInfo % 2 ^ 16 + 2 ^ 16 * min 0xFFFF (s.reg Reg.globalAccerrInfo / 2 ^ 16 + 1)) := by
  have hhigh : field (s.reg Reg.globalAccerrInfo) 31 16 = s.reg Reg.globalAccerrInfo / 2 ^ 16 := field_high (s.reg_lt _) (by decide)
  simp only [State.accErr, h, if_true, field_low, hhigh, at_eq_mul, Nat.mul_comm (2 ^ 16)]

theorem causeCode_lt (c : AccCause) : causeCode c < 16 := by cases c <;> decide

/-- The first refused access: its offset and its cause, with VALID (R50). -/
theorem State.accErr_captures {s : State} (hcan : s.Canonical) (h : bit (s.reg Reg.globalAccerrInfo) 0 = false) {off : Nat}
    (hoff : off < 2 ^ 26) (c : AccCause) :
    (s.accErr off c).reg Reg.globalAccerrAddr = off ∧ (s.accErr off c).reg Reg.globalAccerrInfo = 1 + 16 * causeCode c := by
  have hcan1 : (s.put Reg.globalAccerrAddr off).Canonical := State.canonical_put _ _ hcan
  have hcan2 : ((s.put Reg.globalAccerrAddr off).put Reg.globalAccerrInfo (1 + at_ 4 (causeCode c))).Canonical :=
    State.canonical_put _ _ hcan1
  have hc := causeCode_lt c
  rw [State.accErr_first h, State.reg_fire_global hcan2 _ (by decide), State.reg_fire_global hcan2 _ (by decide)]
  constructor
  · rw [State.reg_put_ne _ _ _ hcan1 regHome_accerrAddr_ne, State.reg_put_same _ _ hcan]
    omega
  · rw [State.reg_put_same _ _ hcan1, at_eq_mul]
    omega

/-- A later refused access counts in LOST alone, which saturates (R50). -/
theorem State.accErr_counts {s : State} (hcan : s.Canonical) (h : bit (s.reg Reg.globalAccerrInfo) 0 = true) (off : Nat) (c : AccCause) :
    (s.accErr off c).reg Reg.globalAccerrInfo =
        s.reg Reg.globalAccerrInfo % 2 ^ 16 + 2 ^ 16 * min 0xFFFF (s.reg Reg.globalAccerrInfo / 2 ^ 16 + 1) ∧
      SameRegsBut [Reg.globalAccerrInfo] s (s.accErr off c) ∧ { s.accErr off c with regs := s.regs } = s := by
  rw [State.accErr_later h]
  refine ⟨?_, State.sameRegsBut_setReg _ _ hcan, rfl⟩
  rw [State.reg_put_same _ _ hcan]
  omega

/-! ### ACCERR_CLEAR (R50) -/

/-- No cause refuses a write of GLOBAL_ACCERR_INFO: its block answers early (R414). -/
theorem State.accessCause_accerrInfo (s : State) : s.accessCause Reg.globalAccerrInfo false = none := by
  have hblock : blockOf Reg.globalAccerrInfo = .global := rfl
  have hrow : (regRow Reg.globalAccerrInfo).isNone = false := rfl
  simp [State.accessCause, hblock, hrow, earlyBlock]

theorem exec_accerrClear {s : State} (hu : s.hostUp = true) (l : List (Nat × AccCause)) :
    exec (.accerrClear l) s = .next (forEach l (fun x s => s.accErr x.1 x.2) (s.put Reg.globalAccerrInfo 0)) := by
  change Host.Outcome.next _ = _
  simp [State.hostWrite, hu, State.accessCause_accerrInfo]

/-- Settles O7: one case for each state of VALID; ACCERR_CLEAR leaves VALID 0, so the refused accesses of its cycle are a first one and
a later one. -/
theorem accerrRecord : Obligations.AccerrRecord := by
  refine ⟨fun s off c hcan hoff => ⟨fun h => State.accErr_captures hcan h hoff c, fun h => State.accErr_counts hcan h off c⟩,
    fun s hcan hu => ?_⟩
  have hcan0 : (s.put Reg.globalAccerrInfo 0).Canonical := State.canonical_put _ _ hcan
  have hinfo : (s.put Reg.globalAccerrInfo 0).reg Reg.globalAccerrInfo = 0 := State.reg_put_same _ _ hcan
  have hvalid : bit ((s.put Reg.globalAccerrInfo 0).reg Reg.globalAccerrInfo) 0 = false := by rw [hinfo]; rfl
  refine ⟨⟨_, exec_accerrClear hu [], hinfo, State.sameRegsBut_setReg _ _ hcan, rfl⟩, fun off c hoff => ?one, fun off c off' c' hoff => ?two⟩
  case one =>
    obtain ⟨haddr, hcause⟩ := State.accErr_captures hcan0 hvalid hoff c
    exact ⟨_, exec_accerrClear hu _, haddr, hcause⟩
  case two =>
    obtain ⟨haddr, hcause⟩ := State.accErr_captures hcan0 hvalid hoff c
    have hc := causeCode_lt c
    have hcan1 := State.canonical_accErr off c hcan0
    have hset : bit (((s.put Reg.globalAccerrInfo 0).accErr off c).reg Reg.globalAccerrInfo) 0 = true := by
      rw [hcause, bit_zero_eq]; simp; omega
    obtain ⟨hlost, hrest, -⟩ := State.accErr_counts hcan1 hset off' c'
    refine ⟨_, exec_accerrClear hu _, ?_, ?_⟩
    · have hkeep := hrest Reg.globalAccerrAddr (by simpa using regHome_accerrAddr_ne)
      exact (congrArg BitVec.toNat hkeep).trans haddr
    · refine hlost.trans ?_
      rw [hcause]
      omega

end Sys2Proof.Machine
end

section
/-! PROOFS. The queue of commands is left as it is (O2): the tools, and the shared operations of the state. -/
namespace Sys2Proof.Machine

/-! No command puts a command into the queue. The queue's lemmas follow the model: one for each function that changes the state, in the order
of the model's files, proved from those of the functions it calls; exec_answers assembles those of the arms. simp -implicitDefEqProofs stands
where its default leaves the kernel to compare two states by unfolding them down to a long range or a large literal. -/

/-- Queue lemmas push the queue through a choice between two states. -/
@[simp] theorem State.pending_ite {c : Prop} [Decidable c] (s t : State) :
    (if c then s else t).pending = if c then s.pending else t.pending := apply_ite State.pending c s t

/-- A change of the state that leaves the queue of commands as it is. A predicate of its own, so that simp can prove it of the function an
operation of the model is given. -/
def KeepsQueue (f : State → State) : Prop := ∀ s, (f s).pending = s.pending

/-- KeepsQueue for the step of a forEach, whatever the element. -/
def EachKeepsQueue {α : Type} (f : α → State → State) : Prop := ∀ x s, (f x s).pending = s.pending

@[simp] theorem keepsQueue_iff (f : State → State) : KeepsQueue f ↔ ∀ s, (f s).pending = s.pending := Iff.rfl

@[simp] theorem eachKeepsQueue_iff {α : Type} (f : α → State → State) : EachKeepsQueue f ↔ ∀ x s, (f x s).pending = s.pending := Iff.rfl

@[simp] theorem forEach_pending {α : Type} (l : List α) (f : α → State → State) (s : State) (h : EachKeepsQueue f) :
    (forEach l f s).pending = s.pending :=
  forEach_keeps (P := fun t : State => t.pending = s.pending) f l s rfl fun x _ t ht => (h x t).trans ht

/-- What every step of a fold keeps, the fold keeps. -/
theorem foldl_keeps_value {σ α γ : Type} (m : σ → γ) (f : σ → α → σ) (h : ∀ s x, m (f s x) = m s) :
    ∀ (l : List α) (s : σ), m (l.foldl f s) = m s
  | [], _ => rfl
  | x :: l, s => (foldl_keeps_value m f h l (f s x)).trans (h s x)

/-- An arm answers a next state, with the queue of commands it found. -/
def State.Answers (s : State) (o : Host.Outcome State Fault Refusal) : Prop := ∃ t, o = .next t ∧ t.pending = s.pending

@[simp] theorem State.answers_next (s t : State) : s.Answers (.next t) ↔ t.pending = s.pending := by simp [State.Answers]

/-- An operation that may have no result keeps the queue where it has one. -/
def State.Offers (s : State) (o : Option State) : Prop := ∀ t ∈ o, t.pending = s.pending

@[simp] theorem State.offers_none (s : State) : s.Offers none := by simp [State.Offers]

@[simp] theorem State.offers_some (s t : State) : s.Offers (some t) ↔ t.pending = s.pending := by simp [State.Offers]

@[simp] theorem State.offers_map {s : State} {o : Option State} (f : State → State) (h : s.Offers o) (hf : KeepsQueue f) :
    s.Offers (o.map f) := by
  intro t ht
  obtain ⟨u, hu, rfl⟩ := Option.mem_map.mp ht
  exact (hf u).trans (h u hu)

@[simp] theorem State.getD_pending {s : State} {o : Option State} (h : s.Offers o) : (o.getD s).pending = s.pending := by
  cases o with
  | none => rfl
  | some t => exact h t rfl

/-! ### Ops.lean -/

@[simp] theorem State.tick_pending (s : State) : s.tick.pending = s.pending := by simp [State.tick]

@[simp] theorem State.fresh_pending (s : State) : (s.fresh).2.pending = s.pending := by simp [State.fresh]

@[simp] theorem bindDie_pending (s : State) (die : Nat) : (bindDie s die).pending = s.pending := by simp -implicitDefEqProofs [bindDie]

@[simp] theorem State.clocked_answers (s : State) (o : Host.Outcome State Fault Refusal) (ho : s.Answers o) : s.Answers (s.clocked o) := by
  unfold State.clocked
  split
  · simp
  · exact ho

@[simp] theorem State.sendHost_pending (s : State) (m : HostMsg) : (s.sendHost m).pending = s.pending := by simp [State.sendHost]

@[simp] theorem State.takeTag_pending (s : State) : (s.takeTag).2.pending = s.pending := by simp [State.takeTag]

@[simp] theorem State.memWr1_pending (s : State) (owner : Option Nat) (addr : Nat) (data : List Byte) (why : Purpose) :
    (s.memWr1 owner addr data why).pending = s.pending := by
  unfold State.memWr1
  split <;> simp

@[simp] theorem State.memWrAll_pending (k : Nat) (s : State) (owner : Option Nat) (addr : Nat) (data : List Byte) (why : Purpose) :
    (s.memWrAll k owner addr data why).pending = s.pending := by
  induction k generalizing s addr data with
  | zero => rfl
  | succ k ih =>
    unfold State.memWrAll
    split <;> simp [ih]

@[simp] theorem State.pumpReads_pending (k : Nat) (s : State) : (s.pumpReads k).pending = s.pending := by
  induction k generalizing s with
  | zero => rfl
  | succ k ih =>
    unfold State.pumpReads
    split
    · rfl
    · split
      · rfl
      · dsimp only
        rw [ih]
        split <;> simp

@[simp] theorem State.memRdAll_pending (s : State) (owner : Option Nat) (addr len : Nat) (why : Nat → Purpose) :
    (s.memRdAll owner addr len why).pending = s.pending := by simp [State.memRdAll]

@[simp] theorem State.modRing_pending (s : State) (id : RingId) (f : Ring → Ring) : (s.modRing id f).pending = s.pending := by
  fun_cases State.modRing s id f <;> simp

@[simp] theorem State.ringSignal_pending (s : State) (id : RingId) (now : Bool) : (s.ringSignal id now).pending = s.pending := by
  simp [State.ringSignal]

@[simp] theorem State.ringPost_pending (s : State) (id : RingId) (entry : Bool → List Byte) (why : Purpose) :
    (s.ringPost id entry why).pending = s.pending := by simp [State.ringPost]

@[simp] theorem State.modEvq_pending (s : State) (q : Option Nat) (f : EvQueue → EvQueue) : (s.modEvq q f).pending = s.pending := by
  fun_cases State.modEvq s q f <;> simp

@[simp] theorem State.postEntry_pending (s : State) (q : Option Nat) (e : Event) : (s.postEntry q e).pending = s.pending := by
  simp [State.postEntry]

@[simp] theorem State.drainEvents_pending (k : Nat) (s : State) (q : Option Nat) : (s.drainEvents k q).pending = s.pending := by
  induction k generalizing s with
  | zero => rfl
  | succ k ih =>
    unfold State.drainEvents
    dsimp only
    split
    · rfl
    · split
      · simp [ih]
      · split <;> simp [ih]

@[simp] theorem State.event_pending (s : State) (q : Option Nat) (e : Event) : (s.event q e).pending = s.pending := by simp [State.event]

@[simp] theorem State.ptEvent_pending (s : State) (pt code : Nat) (body : List Byte) : (s.ptEvent pt code body).pending = s.pending := by
  simp [State.ptEvent]

@[simp] theorem State.modEvent_pending (s : State) (code : Nat) (body : List Byte) : (s.modEvent code body).pending = s.pending := by
  simp [State.modEvent]

@[simp] theorem State.postIntr_pending (s : State) (n : Nat) : (s.postIntr n).pending = s.pending := by simp [State.postIntr]

@[simp] theorem State.postIntrs_pending (s : State) : s.postIntrs.pending = s.pending := by simp -implicitDefEqProofs [State.postIntrs]

@[simp] theorem State.fire_pending (s : State) (n : Nat) : (s.fire n).pending = s.pending := by simp [State.fire]

@[simp] theorem State.accErr_pending (s : State) (off : Nat) (c : AccCause) : (s.accErr off c).pending = s.pending := by simp [State.accErr]

@[simp] theorem State.recLost_pending (s : State) (r : Rec) : (s.recLost r).pending = s.pending := by simp [State.recLost]

@[simp] theorem State.enqueue_pending (s : State) (r : Rec) : (s.enqueue r).pending = s.pending := by
  fun_cases State.enqueue s r <;> simp +zetaDelta

@[simp] theorem State.stampRec_pending (s : State) (r : Rec) : (s.stampRec r).2.pending = s.pending := by simp [State.stampRec]

@[simp] theorem State.record_pending (s : State) (r : Rec) : (s.record r).pending = s.pending := by simp [State.record]

@[simp] theorem State.powerRecord_pending (s : State) (r : Rec) (alert : Bool) : (s.powerRecord r alert).pending = s.pending := by
  simp [State.powerRecord]

@[simp] theorem State.corrected_pending (s : State) (r : Rec) : (s.corrected r).pending = s.pending :=
  (s.reports_corrected r).pending

@[simp] theorem State.candidate_pending (s : State) (kind die n row : Nat) (confirmed byTest : Bool) :
    (s.candidate kind die n row confirmed byTest).pending = s.pending := by simp [State.candidate]

@[simp] theorem State.track_pending (s : State) (kind die n row ev item : Nat) : (s.track kind die n row ev item).2.pending = s.pending := by
  simp [State.track]

/-! ### Image.lean -/

@[simp] theorem State.modEng_pending (s : State) (i : Nat) (f : EngineSt → EngineSt) : (s.modEng i f).pending = s.pending := by
  simp [State.modEng]

@[simp] theorem State.modLoader_pending (s : State) (f : Loader → Loader) : (s.modLoader f).pending = s.pending := by simp [State.modLoader]

@[simp] theorem State.modGroup_pending (s : State) (i : Nat) (f : Group → Group) : (s.modGroup i f).pending = s.pending := by
  simp [State.modGroup]

@[simp] theorem State.modPort_pending (s : State) (p : Nat) (f : PortSt → PortSt) : (s.modPort p f).pending = s.pending := by
  simp [State.modPort]

@[simp] theorem State.writeSpace_pending (s : State) (pt space a : Nat) (bs : List Byte) : (s.writeSpace pt space a bs).pending = s.pending := by
  have hbyte : EachKeepsQueue fun (b : Byte × Nat) (t : State) => match t.phys pt space (a + b.2) with
      | some k => t.writeMem k [b.1]
      | none => t := by
    intro b t
    dsimp only
    split <;> simp
  unfold State.writeSpace
  split
  · split
    · simp
    · exact forEach_pending _ _ _ hbyte
  · exact forEach_pending _ _ _ hbyte

/-! ### Operands.lean -/

@[simp] theorem State.storeElem_pending (s : State) (w : View) (ix : List Nat) (code : Nat) : (s.storeElem w ix code).pending = s.pending := by
  simp [State.storeElem]

@[simp] theorem State.storeFine_pending (s : State) (w : View) (ix : List Nat) (k : Nat) : (s.storeFine w ix k).pending = s.pending := by
  simp [State.storeFine]

@[simp] theorem State.reencode_pending (s : State) (keys : List Nat) : (s.reencode keys).pending = s.pending := by simp [State.reencode]

@[simp] theorem State.reencodeElems_pending (s : State) (w : View) (ixs : List (List Nat)) : (s.reencodeElems w ixs).pending = s.pending := by
  simp [State.reencodeElems]

/-! ### Flags.lean -/

@[simp] theorem State.logRepeat_pending (s : State) (die arr scope d m n : Nat) : (s.logRepeat die arr scope d m n).pending = s.pending := by
  simp [State.logRepeat]

@[simp] theorem State.logResidue_pending (s : State) (die arr row col : Nat) (word : Bool) (c : Check) :
    (s.logResidue die arr row col word c).pending = s.pending := by simp [State.logResidue]

@[simp] theorem State.logPoison_pending (s : State) (die arr n : Nat) : (s.logPoison die arr n).pending = s.pending := by
  simp [State.logPoison]

@[simp] theorem State.logMacs_pending (s : State) (die arr n : Nat) : (s.logMacs die arr n).pending = s.pending := by simp [State.logMacs]

end Sys2Proof.Machine
end

section
/-! PROOFS. The queue under moves of data, the admitted descriptors and what a step holds. -/
namespace Sys2Proof.Machine

/-! ### Moves.lean -/

@[simp] theorem State.moveBytes_pending (s : State) (unit pt n : Nat) : (s.moveBytes unit pt n).pending = s.pending := by
  simp [State.moveBytes]

@[simp] theorem State.countBytes_pending (s : State) (pt die eng n : Nat) : (s.countBytes pt die eng n).pending = s.pending := by
  simp [State.countBytes]

@[simp] theorem State.putCode_pending (s : State) (w : View) (ix : List Nat) (code : Option Nat) : (s.putCode w ix code).pending = s.pending := by
  simp [State.putCode]

@[simp] theorem State.moveElems_pending (s : State) (b : List Byte) (die eng : Nat) (src dst : View) (moves : List Move) (step : Nat)
    (whole : Bool) (bad : Option Nat) :
    (s.moveElems b die eng src dst moves step whole bad).pending = s.pending := by
  unfold State.moveElems
  extract_lets pt oobr live oobw s1 s2 add agree key order places s3 win pois s4 blocks mode seed bits kOf s5 codeOf s6 s7 s8
  have hcounts : s4.pending = s.pending := by simp [s4, s3, s2, s1]
  have hcodes : s6.pending = s4.pending := forEach_pending _ _ _ fun w t => by simp
  have hfine : s7.pending = s6.pending := forEach_pending _ _ _ fun o t => by split <;> simp
  have hall : s8.pending = s.pending := by simp [s8, hfine, hcodes, hcounts]
  simp [hall]

@[simp] theorem State.moveRecords_pending (s : State) (die eng : Nat) (src dst : View) (recs : List RecMove) :
    (s.moveRecords die eng src dst recs).pending = s.pending := by
  unfold State.moveRecords
  extract_lets pt size count oobr oobw s1 s2 live key order places s3 s0
  refine (forEach_pending _ _ _ fun o t => ?_).trans (show s3.pending = s.pending by simp [s3, s2, s1])
  split <;> simp

@[simp] theorem State.moveRegion_pending (s : State) (pt : Nat) (src dst : Nat × Nat) (bs : List Byte) :
    (s.moveRegion pt src dst bs).pending = s.pending := by
  unfold State.moveRegion
  extract_lets marks s1 s2
  refine (forEach_pending _ _ _ fun i t => ?_).trans (show s2.pending = s.pending by simp [s2, s1])
  split <;> simp

@[simp] theorem State.bellRecord_pending (s : State) (src dst : View) (m : RecMove) : (s.bellRecord src dst m).pending = s.pending := by
  fun_cases State.bellRecord s src dst m <;> simp

@[simp] theorem State.moveBell_pending (s : State) (src dst : View) : (s.moveBell src dst).pending = s.pending := by simp [State.moveBell]

@[simp] theorem State.sluiceError_pending (s : State) (die eng bit_ cause pt : Nat) :
    (s.sluiceError die eng bit_ cause pt).pending = s.pending := by simp [State.sluiceError]

/-! ### WeirCore.lean -/

@[simp] theorem State.modAdm_pending (s : State) (pt admno : Nat) (f : Adm → Adm) : (s.modAdm pt admno f).pending = s.pending := by
  simp [State.modAdm]

@[simp] theorem State.drainHold_pending (k : Nat) (s : State) (pt cq : Nat) : (s.drainHold k pt cq).pending = s.pending := by
  induction k generalizing s with
  | zero => rfl
  | succ k ih =>
    unfold State.drainHold
    split <;> simp [ih]

@[simp] theorem State.weirEntry_pending (s : State) (pt sq cq : Nat) (bytes : List Byte) : (s.weirEntry pt sq cq bytes).pending = s.pending := by
  simp [State.weirEntry]

@[simp] theorem State.pumpFetch_pending (s : State) (pt sq : Nat) : (s.pumpFetch pt sq).pending = s.pending := by simp [State.pumpFetch]

@[simp] theorem State.pumpFetches_pending (s : State) (pt : Nat) : (s.pumpFetches pt).pending = s.pending := by
  simp -implicitDefEqProofs [State.pumpFetches]

@[simp] theorem State.chargeAdm_pending (s : State) (pt admno cause detail : Nat) : (s.chargeAdm pt admno cause detail).pending = s.pending := by
  simp [State.chargeAdm]

@[simp] theorem State.chargeStep_pending (s : State) (pt step cause detail : Nat) : (s.chargeStep pt step cause detail).pending = s.pending := by
  simp [State.chargeStep]

@[simp] theorem State.chargeWaiting_pending (s : State) (x : Adm) : (s.chargeWaiting x).pending = s.pending := by simp [State.chargeWaiting]

@[simp] theorem State.completeOne_pending (s : State) (pt admno status : Nat) : (s.completeOne pt admno status).pending = s.pending := by
  fun_cases State.completeOne s pt admno status <;> simp +zetaDelta

@[simp] theorem State.settleFences_pending (k : Nat) (s : State) (pt : Nat) : (s.settleFences k pt).pending = s.pending := by
  induction k generalizing s with
  | zero => rfl
  | succ k ih =>
    unfold State.settleFences
    split <;> simp [ih]

@[simp] theorem State.complete_pending (s : State) (pt admno status : Nat) : (s.complete pt admno status).pending = s.pending := by
  fun_cases State.complete s pt admno status <;> simp +zetaDelta

@[simp] theorem State.settleRemote_pending (s : State) (pt : Nat) : (s.settleRemote pt).pending = s.pending := by simp [State.settleRemote]

@[simp] theorem State.completeStep_pending (s : State) (pt step status : Nat) : (s.completeStep pt step status).pending = s.pending := by
  fun_cases State.completeStep s pt step status <;> simp

@[simp] theorem State.stepRec_pending (s : State) (pt step : Nat) (r : Rec) : (s.stepRec pt step r).pending = s.pending := by
  simp [State.stepRec]

/-! ### Instances.lean -/

@[simp] theorem State.modStep_pending (s : State) (pt num : Nat) (f : StepSt → StepSt) : (s.modStep pt num f).pending = s.pending := by
  simp [State.modStep]

@[simp] theorem State.forgetJets_pending (s : State) (p : Nat → Nat → Nat → Bool) : (s.forgetJets p).pending = s.pending := by
  simp [State.forgetJets]

@[simp] theorem State.notePhase_pending (s : State) (pt : Nat) (b : List Byte) (die prod layer : Nat) :
    (s.notePhase pt b die prod layer).pending = s.pending := by fun_cases State.notePhase s pt b die prod layer <;> simp

@[simp] theorem State.writeSigns_pending (s : State) (pt : Nat) (b : List Byte) (t n : Nat) (x : Exact) :
    (s.writeSigns pt b t n x).pending = s.pending := by simp [State.writeSigns]

@[simp] theorem State.reencodeSigns_pending (s : State) (pt : Nat) (b : List Byte) (t total done : Nat) :
    (s.reencodeSigns pt b t total done).pending = s.pending := by simp [State.reencodeSigns]

@[simp] theorem State.noteScale_pending (s : State) (pt : Nat) (b : List Byte) (t step ver : Nat) (c : Int) (rung : Nat) :
    (s.noteScale pt b t step ver c rung).pending = s.pending := by simp [State.noteScale]

@[simp] theorem State.noteClamp_pending (s : State) (pt t step : Nat) : (s.noteClamp pt t step).pending = s.pending := by
  fun_cases State.noteClamp s pt t step <;> simp

@[simp] theorem State.roundBlocks_pending (s : State) (pt : Nat) (b : List Byte) (step t : Nat) (v : View) (ixs : List (List Nat)) :
    (s.roundBlocks pt b step t v ixs).pending = s.pending := by
  unfold State.roundBlocks
  extract_lets T mode seed fine mbOf firsts s1 done s2
  have h1 : s1.pending = s.pending := forEach_pending _ _ _ fun blk t => by
    dsimp only
    split
    · rfl
    · split
      · rfl
      · simp -implicitDefEqProofs
        split <;> simp -implicitDefEqProofs
  simp -implicitDefEqProofs [s2, h1]

@[simp] theorem State.acceptElem_pending (s : State) (pt : Nat) (b : List Byte) (step : Nat) (t : Task) (ix n : Nat) (w : Basin)
    (lsb : Int) (grid : Bool) (rep : Nat) :
    (s.acceptElem pt b step t ix n w lsb grid rep).2.pending = s.pending := by
  fun_cases State.acceptElem s pt b step t ix n w lsb grid rep <;> simp +zetaDelta

@[simp] theorem State.settleElems_pending (s : State) (pt : Nat) (b : List Byte) (step : Nat) (t : Task) :
    (s.settleElems pt b step t).pending = s.pending := by
  have hfold : ∀ (f : State × List (List Nat) → Nat × Nat → State × List (List Nat)) (l : List (Nat × Nat)),
      (∀ a rc, (f a rc).1.pending = a.1.pending) → (l.foldl f (s, [])).1.pending = s.pending :=
    fun f l hf => foldl_keeps_value (fun a : State × List (List Nat) => a.1.pending) f hf l (s, [])
  unfold State.settleElems
  dsimp only
  split
  · rfl
  · simp only [State.roundBlocks_pending, State.noteScale_pending]
    apply hfold
    intro a rc
    split
    · rfl
    · split
      · split <;> simp [apply_ite Prod.fst]
      · rfl

@[simp] theorem State.finishTile_pending (s : State) (b : List Byte) (T : Tile) : (s.finishTile b T).pending = s.pending := by
  fun_cases State.finishTile s b T <;> simp -implicitDefEqProofs +zetaDelta

@[simp] theorem State.undoFrom_pending (s : State) (pt step : Nat) : (s.undoFrom pt step).pending = s.pending := by simp [State.undoFrom]

@[simp] theorem State.endStep_pending (s : State) (pt step status : Nat) : (s.endStep pt step status).pending = s.pending := by
  simp [State.endStep]

@[simp] theorem State.failReplay_pending (s : State) (pt step : Nat) (uid : Option Nat) : (s.failReplay pt step uid).pending = s.pending := by
  fun_cases State.failReplay s pt step uid <;> simp +zetaDelta

@[simp] theorem State.consumed_pending (s : State) (pt step tag : Nat) : (s.consumed pt step tag).pending = s.pending := by
  simp [State.consumed]

@[simp] theorem State.numericFail_pending (s : State) (pt step : Nat) : (s.numericFail pt step).pending = s.pending := by
  simp [State.numericFail]

@[simp] theorem State.overflowEvent_pending (s : State) (pt step tag : Nat) : (s.overflowEvent pt step tag).pending = s.pending := by
  simp [State.overflowEvent]

@[simp] theorem State.noteScaleP_pending (s : State) (pt : Nat) (b : List Byte) (t v : Nat) (c : Int) (rung : Nat) :
    (s.noteScaleP pt b t v c rung).pending = s.pending := by simp [State.noteScaleP]

@[simp] theorem State.ringCopy_pending (s : State) (pt : Nat) (b : List Byte) (t t0 : Nat) : (s.ringCopy pt b t t0).pending = s.pending := by
  simp [State.ringCopy]

@[simp] theorem State.initRings_pending (s : State) (pt : Nat) (b : List Byte) (step : Nat) : (s.initRings pt b step).pending = s.pending := by
  simp [State.initRings]

@[simp] theorem State.startStep_pending (s : State) (pt : Nat) (b : List Byte) (step : Nat) : (s.startStep pt b step).pending = s.pending := by
  fun_cases State.startStep s pt b step <;> simp +zetaDelta

@[simp] theorem State.copyOperand_pending (s : State) (pt : Nat) (b : List Byte) (die step use : Nat) :
    (s.copyOperand pt b die step use).pending = s.pending := by simp [State.copyOperand]

@[simp] theorem State.noteMalformed_pending (s : State) (pt : Nat) (b : List Byte) (die step : Nat) (t : Task) (w : View)
    (ixs : List (List Nat)) :
    (s.noteMalformed pt b die step t w ixs).pending = s.pending := by simp [State.noteMalformed]

@[simp] theorem State.countFused_pending (s : State) (pt : Nat) (b : List Byte) (die step : Nat) (t : Task) (uses : List Nat) :
    (s.countFused pt b die step t uses).pending = s.pending := by simp [State.countFused]

@[simp] theorem execTaskChoose_answers (die : Die) (s : State) : s.Answers (execTaskChoose die s) := by
  unfold execTaskChoose
  refine s.clocked_answers _ ((s.answers_next _).mpr ?_)
  split
  · rfl
  · split
    · rfl
    · extract_lets s1 L uses ai s2 fused s3 s4 A x T T' q kt i
      have h4 : s4.pending = s.pending := by simp -implicitDefEqProofs [s4, s3, s2, s1]
      clear_value s4
      split
      extract_lets sigma s5 top n s6 s7
      have h5 : s5.pending = s4.pending := by simp -implicitDefEqProofs [s5]
      have h6 : s6.pending = s5.pending := by
        simp only [s6]
        split <;> simp -implicitDefEqProofs
      simp -implicitDefEqProofs [s7, h6, h5, h4]

@[simp] theorem execFusedFillComplete_answers (die : Die) (eng : Engine) (s : State) : s.Answers (execFusedFillComplete die eng s) := by
  unfold execFusedFillComplete
  refine s.clocked_answers _ ((s.answers_next _).mpr ?_)
  split
  · rfl
  · extract_lets s1 A
    split <;> simp [s1]

@[simp] theorem State.finishStats_pending (s : State) (b : List Byte) (die arr : Nat) (q : RowStat) :
    (s.finishStats b die arr q).pending = s.pending := by simp [State.finishStats]

@[simp] theorem State.drainStats_pending (s : State) (die arr : Nat) : (s.drainStats die arr).pending = s.pending := by
  fun_cases State.drainStats s die arr <;> simp +zetaDelta

@[simp] theorem State.repeatStats_pending (s : State) (die arr : Nat) : (s.repeatStats die arr).pending = s.pending := by
  fun_cases State.repeatStats s die arr <;> simp +zetaDelta

@[simp] theorem State.residueHit_pending (s : State) (b : List Byte) (die arr row col : Nat) (T : Tile) (cs : List Check) :
    (s.residueHit b die arr row col T cs).pending = s.pending := by simp [State.residueHit]

@[simp] theorem execColumnDrain_answers (die : Die) (arr : ArrayIx) (hits : List PeHit) (s : State) :
    s.Answers (execColumnDrain die arr hits s) := by
  unfold execColumnDrain
  refine s.clocked_answers _ ((s.answers_next _).mpr ?_)
  split
  · simp
  · split
    · simp
    · split
      · simp
      · split
        · rfl
        · split
          · simp
          · extract_lets rowsIn p loc fails hs uid s1 words pois s2 T' s3
            have h1 : s1.pending = s.pending := forEach_pending _ _ _ fun r t => by simp
            have h3 : s3.pending = s2.pending := by
              unfold s3
              split
              · simp
              · split <;> simp
            split <;> simp [h3, s2, h1]

@[simp] theorem execTileRepeat_answers (die : Die) (arr : ArrayIx) (s : State) : s.Answers (execTileRepeat die arr s) := by
  unfold execTileRepeat
  refine s.clocked_answers _ ((s.answers_next _).mpr ?_)
  split
  · simp
  · split
    · rfl
    · split
      · rfl
      · extract_lets t ixOf defs words top n s1 s2 s3
        simp -implicitDefEqProofs [s3, s2, s1]

@[simp] theorem execBasinStallEnd_answers (die : Die) (arr : ArrayIx) (s : State) : s.Answers (execBasinStallEnd die arr s) := by
  simp [execBasinStallEnd]

end Sys2Proof.Machine
end

section
/-! PROOFS. The queue under the ports of the fabric and the cores of the cascade. -/
namespace Sys2Proof.Machine

/-! ### FabCore.lean -/

@[simp] theorem State.modHalf_pending (s : State) (p h : Nat) (f : HalfSt → HalfSt) : (s.modHalf p h f).pending = s.pending := by
  simp [State.modHalf]

@[simp] theorem State.chargePort_pending (s : State) (p cause : Nat) (hit : Resv → Bool) : (s.chargePort p cause hit).pending = s.pending := by
  simp [State.chargePort]

@[simp] theorem State.contend_pending (s : State) (p : Nat) : (s.contend p).pending = s.pending := by simp [State.contend]

@[simp] theorem State.degrade_pending (s : State) (p h : Nat) : (s.degrade p h).pending = s.pending := by simp [State.degrade]

@[simp] theorem State.rollPort_pending (s : State) (p : Nat) : (s.rollPort p).pending = s.pending := by simp [State.rollPort]

@[simp] theorem State.serve_pending (k : Nat) (s : State) (p : Nat) : (s.serve k p).pending = s.pending := by
  induction k generalizing s with
  | zero => rfl
  | succ k ih =>
    unfold State.serve
    dsimp only
    split
    · rfl
    · split <;> simp [ih]

@[simp] theorem State.servePort_pending (s : State) (p : Nat) : (s.servePort p).pending = s.pending := by simp [State.servePort]

@[simp] theorem State.emit_pending (s : State) (p : Nat) (m : PortMsg) : (s.emit p m).pending = s.pending := by
  simp -implicitDefEqProofs [State.emit]

@[simp] theorem State.originate_pending (s : State) (pt : Nat) (k : Packet) : (s.originate pt k).pending = s.pending := by
  fun_cases State.originate s pt k <;> simp

@[simp] theorem State.modTx_pending (s : State) (fid : Nat) (f : TxFlow → TxFlow) : (s.modTx fid f).pending = s.pending := by
  simp [State.modTx]

@[simp] theorem State.openFlow_pending (s : State) (pt : Nat) (dst : BitVec 128) (user key : Nat) :
    (s.openFlow pt dst user key).2.pending = s.pending := by fun_cases State.openFlow s pt dst user key <;> simp

@[simp] theorem State.closeFlows_pending (s : State) (p : TxFlow → Bool) : (s.closeFlows p).pending = s.pending := by
  simp [State.closeFlows]

@[simp] theorem State.sendMsg_pending (s : State) (fid cls : Nat) (prov : Option Nat) (bytes : List Byte) :
    (s.sendMsg fid cls prov bytes).pending = s.pending := by fun_cases State.sendMsg s fid cls prov bytes <;> simp +zetaDelta

@[simp] theorem State.sendAdvert_pending (s : State) : s.sendAdvert.pending = s.pending := by simp [State.sendAdvert]

@[simp] theorem State.routes_pending (s : State) : s.routes.pending = s.pending := by simp -implicitDefEqProofs [State.routes]

/-! ### CascCore.lean -/

@[simp] theorem State.setGroupSt_pending (s : State) (slot st : Nat) : (s.setGroupSt slot st).pending = s.pending := by
  simp [State.setGroupSt]

@[simp] theorem State.cascMsg_pending (s : State) (slot rank : Nat) (prov : Option Nat) (bytes : List Byte) :
    (s.cascMsg slot rank prov bytes).pending = s.pending := by fun_cases State.cascMsg s slot rank prov bytes <;> simp

@[simp] theorem State.cascAll_pending (s : State) (slot : Nat) (bytes : List Byte) : (s.cascAll slot bytes).pending = s.pending := by
  simp [State.cascAll]

@[simp] theorem State.moveChunk_pending (s : State) (slot : Nat) (seq : Option Nat) (c : Chunk) :
    (s.moveChunk slot seq c).pending = s.pending := by
  unfold State.moveChunk
  split <;> simp

@[simp] theorem State.sendChunk_pending (s : State) (slot rank : Nat) (seq : Option Nat) (c : Chunk) :
    (s.sendChunk slot rank seq c).pending = s.pending := by fun_cases State.sendChunk s slot rank seq c <;> simp +zetaDelta

@[simp] theorem State.retractSent_pending (s : State) (slot : Nat) (p : SentChunk → Bool) : (s.retractSent slot p).pending = s.pending := by
  simp [State.retractSent]

@[simp] theorem State.releaseHeld_pending (s : State) (pt : Nat) : (s.releaseHeld pt).pending = s.pending := by
  unfold State.releaseHeld
  dsimp only
  refine forEach_pending _ _ _ fun x t => ?_
  split
  · rfl
  · split <;> simp

@[simp] theorem State.abandonStep_pending (s : State) (slot step cause by_ : Nat) (lost : Option (Nat × Nat)) :
    (s.abandonStep slot step cause by_ lost).pending = s.pending := by simp [State.abandonStep]

@[simp] theorem State.memberLost_pending (s : State) (slot pos why : Nat) : (s.memberLost slot pos why).pending = s.pending := by
  fun_cases State.memberLost s slot pos why <;> simp +zetaDelta

@[simp] theorem State.modRound_pending (s : State) (slot round ident step : Nat) (f : RoundAcc → RoundAcc) :
    (s.modRound slot round ident step f).pending = s.pending := by simp [State.modRound]

@[simp] theorem State.pumpRound_pending (s : State) (slot round ident step : Nat) : (s.pumpRound slot round ident step).pending = s.pending := by
  unfold State.pumpRound
  refine forEach_pending _ _ _ fun m t => ?_
  split
  · rfl
  · split <;> simp

@[simp] theorem State.driveFrom_pending (round ident step : Nat) (slots : List Nat) (es : Option (List (List Byte))) (s : State) :
    (s.driveFrom round ident step slots es).pending = s.pending := by
  induction slots generalizing es s with
  | nil => rfl
  | cons slot rest ih => simp [State.driveFrom, ih]

@[simp] theorem State.driveRound_pending (s : State) (pt round ident step : Nat) : (s.driveRound pt round ident step).pending = s.pending := by
  simp [State.driveRound]

@[simp] theorem State.enterRound_pending (s : State) (pt round ident step : Nat) (es : List (List Byte)) :
    (s.enterRound pt round ident step es).pending = s.pending := by simp [State.enterRound]

@[simp] theorem State.leaveGroup_pending (s : State) (slot round ident step : Nat) :
    (s.leaveGroup slot round ident step).pending = s.pending := by simp [State.leaveGroup]

@[simp] theorem State.leaveRound_pending (s : State) (pt round ident step : Nat) : (s.leaveRound pt round ident step).pending = s.pending := by
  simp [State.leaveRound]

end Sys2Proof.Machine
end

section
/-! PROOFS. The queue under the jets and the rounds. -/
namespace Sys2Proof.Machine

/-! ### Jet.lean -/

@[simp] theorem State.modUpd_pending (s : State) (pt step id : Nat) (f : Upd → Upd) : (s.modUpd pt step id f).pending = s.pending := by
  simp [State.modUpd]

@[simp] theorem State.jetTake_pending (s : State) (ji : Nat) (r : JetRun) : (s.jetTake ji r).pending = s.pending := by simp [State.jetTake]

@[simp] theorem State.jetFree_pending (s : State) (ji : Nat) : (s.jetFree ji).pending = s.pending := by simp [State.jetFree]

@[simp] theorem State.statWaits_pending (s : State) (ji pt step id : Nat) : (s.statWaits ji pt step id).pending = s.pending := by
  simp [State.statWaits]

@[simp] theorem State.startPass_pending (s : State) (pt step : Nat) (b : List Byte) (u : Upd) (pass : Nat) :
    (s.startPass pt step b u pass).pending = s.pending := by simp [State.startPass]

@[simp] theorem State.jetError_pending (s : State) (ji cause pc lane : Nat) : (s.jetError ji cause pc lane).pending = s.pending := by
  simp [State.jetError]

@[simp] theorem State.updFail_pending (s : State) (r : JetRun) (rank : Nat) : (s.updFail r rank).pending = s.pending := by
  simp [State.updFail]

@[simp] theorem State.writeVersion_pending (s : State) (pt step : Nat) (b : List Byte) (u : Upd) (target t : Nat) (apply_ : Bool) :
    (s.writeVersion pt step b u target t apply_).pending = s.pending := by
  unfold State.writeVersion
  extract_lets T old new same jets seed fine stOf modeOf blocks s1 s2
  have h1 : s1.pending = s.pending := by simp [s1]
  have h2 : s2.pending = s1.pending := forEach_pending _ _ _ fun blk t => by
    extract_lets items stored mixed k fit xs u1 u2
    have hu1 : u1.pending = t.pending := by simp [u1]
    have hu2 : u2.pending = u1.pending := forEach_pending _ _ _ fun i u => by simp
    split
    · exact hu1
    · split <;> simp [hu2, hu1]
  simp [h2, h1]

@[simp] theorem State.writeVersions_pending (s : State) (pt step : Nat) (b : List Byte) (u : Upd) (apply_ : Bool) :
    (s.writeVersions pt step b u apply_).pending = s.pending := by simp [State.writeVersions]

@[simp] theorem State.retireApplied_pending (s : State) (pt : Nat) : (s.retireApplied pt).pending = s.pending := by
  simp [State.retireApplied]

@[simp] theorem State.closePass_pending (s : State) (pt step : Nat) (b : List Byte) (u : Upd) :
    (s.closePass pt step b u).pending = s.pending := by simp [State.closePass]

@[simp] theorem State.startNext_pending (s : State) (pt step : Nat) (b : List Byte) (u : Upd) :
    (s.startNext pt step b u).pending = s.pending := by simp [State.startNext]

@[simp] theorem State.endPass_pending (s : State) (pt step : Nat) (b : List Byte) (id : Nat) : (s.endPass pt step b id).pending = s.pending := by
  fun_cases State.endPass s pt step b id <;> simp +zetaDelta

@[simp] theorem State.startApply_pending (s : State) (pt : Nat) : (s.startApply pt).pending = s.pending := by
  fun_cases State.startApply s pt <;> simp

@[simp] theorem State.jetAdvance_pending (s : State) (die arr : Nat) (b : List Byte) (r : JetRun) :
    (s.jetAdvance die arr b r).pending = s.pending := by fun_cases State.jetAdvance s die arr b r <;> simp +zetaDelta

@[simp] theorem State.jetHits_pending (s : State) (die arr : Nat) (b : List Byte) (r : JetRun) (hits : List Nat) :
    (s.jetHits die arr b r hits).pending = s.pending := by simp [State.jetHits]

@[simp] theorem State.noteLost_pending (s : State) (b : List Byte) (r : JetRun) (n : Nat) : (s.noteLost b r n).pending = s.pending := by
  fun_cases State.noteLost s b r n <;> simp

@[simp] theorem State.numericLanes_pending (s : State) (ji : Nat) (b : List Byte) (r : JetRun) (u : Upd) (lanes : List Nat) :
    (s.numericLanes ji b r u lanes).pending = s.pending := by simp [State.numericLanes]

@[simp] theorem State.poisonLanes_pending (s : State) (ji : Nat) (b : List Byte) (r : JetRun) (lanes : List (Nat × Nat)) :
    (s.poisonLanes ji b r lanes).pending = s.pending := by simp [State.poisonLanes]

@[simp] theorem State.jetArith_pending (s : State) (die arr word : Nat) (codes : List Nat) (f : List JVal → Option JVal)
    (hits : List (Fin 256)) :
    (s.jetArith die arr word codes f hits).pending = s.pending := by
  fun_cases State.jetArith s die arr word codes f hits <;> simp -implicitDefEqProofs +zetaDelta

@[simp] theorem execNop_answers (die : Die) (arr : ArrayIx) (s : State) : s.Answers (execNop die arr s) := by
  unfold execNop
  refine s.clocked_answers _ ((s.answers_next _).mpr ?_)
  split <;> simp

@[simp] theorem execAdd_answers (die : Die) (arr : ArrayIx) (dst : Fin 8) (a b : JOp) (hits : List (Fin 256)) (s : State) :
    s.Answers (execAdd die arr dst a b hits s) := by simp [execAdd]

@[simp] theorem execSub_answers (die : Die) (arr : ArrayIx) (dst : Fin 8) (a b : JOp) (hits : List (Fin 256)) (s : State) :
    s.Answers (execSub die arr dst a b hits s) := by simp [execSub]

@[simp] theorem execMul_answers (die : Die) (arr : ArrayIx) (dst : Fin 8) (a b : JOp) (hits : List (Fin 256)) (s : State) :
    s.Answers (execMul die arr dst a b hits s) := by simp [execMul]

@[simp] theorem execMax_answers (die : Die) (arr : ArrayIx) (dst : Fin 8) (a b : JOp) (hits : List (Fin 256)) (s : State) :
    s.Answers (execMax die arr dst a b hits s) := by simp [execMax]

@[simp] theorem execAbs_answers (die : Die) (arr : ArrayIx) (dst : Fin 8) (a : JOp) (hits : List (Fin 256)) (s : State) :
    s.Answers (execAbs die arr dst a hits s) := by simp [execAbs]

@[simp] theorem execSign_answers (die : Die) (arr : ArrayIx) (dst : Fin 8) (a : JOp) (hits : List (Fin 256)) (s : State) :
    s.Answers (execSign die arr dst a hits s) := by simp [execSign]

@[simp] theorem execRsqrt_answers (die : Die) (arr : ArrayIx) (dst : Fin 8) (a : JOp) (hits : List (Fin 256)) (s : State) :
    s.Answers (execRsqrt die arr dst a hits s) := by simp [execRsqrt]

@[simp] theorem execSelect_answers (die : Die) (arr : ArrayIx) (dst : Fin 8) (a b c : JOp) (hits : List (Fin 256)) (s : State) :
    s.Answers (execSelect die arr dst a b c hits s) := by simp [execSelect]

@[simp] theorem execScale_answers (die : Die) (arr : ArrayIx) (dst : Fin 8) (a : JOp) (imm : BitVec 6) (hits : List (Fin 256)) (s : State) :
    s.Answers (execScale die arr dst a imm hits s) := by simp [execScale]

@[simp] theorem execLayerReduce_answers (die : Die) (arr : ArrayIx) (tslot : Fin 4) (a : JOp) (rkind : Fin 3) (divn : Bool)
    (elsb : BitVec 8) (hits : List (Fin 256)) (s : State) :
    s.Answers (execLayerReduce die arr tslot a rkind divn elsb hits s) := by
  refine s.clocked_answers _ ((s.answers_next _).mpr ?_)
  repeat' split
  all_goals simp

@[simp] theorem execStore_answers (die : Die) (arr : ArrayIx) (target : Fin 3) (a pred : JOp) (round : BitVec 2) (hits : List (Fin 256))
    (s : State) :
    s.Answers (execStore die arr target a pred round hits s) := by
  refine s.clocked_answers _ ((s.answers_next _).mpr ?_)
  repeat' split
  all_goals simp

@[simp] theorem State.endScalarWait_pending (s : State) (pt step : Nat) : (s.endScalarWait pt step).pending = s.pending := by
  simp [State.endScalarWait]

@[simp] theorem execUpdateStart_answers (pt : Pt) (layerId : Nat) (s : State) : s.Answers (execUpdateStart pt layerId s) := by
  unfold execUpdateStart
  refine s.clocked_answers _ ((s.answers_next _).mpr ?_)
  split
  · rfl
  · extract_lets ahead cand jets
    split
    · extract_lets prog w s1 s2 s3 s4 waited s5 s6 ws stores
      have h1 : s1.pending = s.pending := forEach_pending _ _ _ fun j t => by simp
      have h4 : s4.pending = s.pending := by simp [s4]
      have h5 : s5.pending = s4.pending := by
        unfold s5
        split <;> simp
      have h6 : s6.pending = s4.pending := by simp [s6]
      clear_value s1 s4 s5 s6
      split
      · split <;> simp [s3, s2, h1]
      · split
        · simp [h5, h4]
        · extract_lets u s7 s8 s9
          have h8 : s8.pending = s.pending := by simp [s8, s7, h6, h4]
          split
          · split <;> simp [s9, h8]
          · simp [h8]
    · rfl

@[simp] theorem State.settleStat_pending (s : State) (pt step : Nat) (b : List Byte) (u : Upd) (again : List Nat) (c : StatAcc) (w : Nat) :
    (s.settleStat pt step b u again c w).2.2.pending = s.pending := by
  fun_cases State.settleStat s pt step b u again c w <;> simp +zetaDelta

theorem State.settleSlots_pending (pt step : Nat) (b : List Byte) (es : List (List Byte)) (l : List (Nat × Nat))
    (a : Upd × List Nat × State) :
    (l.foldl (fun a y => a.2.2.settleStat pt step b a.1 a.2.1 (statOf y.1 (nth es y.1 [])) y.2) a).2.2.pending = a.2.2.pending :=
  foldl_keeps_value (fun a : Upd × List Nat × State => a.2.2.pending) _ (fun _ _ => State.settleStat_pending _ _ _ _ _ _ _ _) l a

@[simp] theorem execStatisticsComplete_answers (pt : Pt) (layerId : Nat) (s : State) : s.Answers (execStatisticsComplete pt layerId s) := by
  unfold execStatisticsComplete
  refine s.clocked_answers _ ((s.answers_next _).mpr ?_)
  split
  · rfl
  · split
    · rfl
    · extract_lets li s1
      split
      · rfl
      · split
        · rfl
        · extract_lets ws slots
          split
          next u again t ht =>
          have hs : t.pending = s.pending := by
            have hfold := (congrArg (fun a => a.2.2.pending) ht).symm.trans (State.settleSlots_pending _ _ _ _ _ _)
            simpa [s1] using hfold
          extract_lets u' s2 s3
          have h2 : s2.pending = t.pending := by simp [s2]
          split
          · simp [h2, hs]
          · split
            · simp [h2, hs]
            · split <;> simp [s3, h2, hs]

/-! ### Rounds.lean -/

@[simp] theorem State.moveRole_pending (s : State) (i j : Nat) : (s.moveRole i j).pending = s.pending := by simp [State.moveRole]

@[simp] theorem State.rebind_pending (s : State) (die : Nat) : (s.rebind die).pending = s.pending := by
  fun_cases State.rebind s die <;> simp

@[simp] theorem State.endRotation_pending (s : State) (i : Nat) : (s.endRotation i).pending = s.pending := by
  fun_cases State.endRotation s i <;> simp

@[simp] theorem State.boundaryArray_pending (s : State) (i : Nat) : (s.boundaryArray i).pending = s.pending := by
  unfold State.boundaryArray
  dsimp only
  repeat' split
  all_goals simp

@[simp] theorem State.boundary_pending (s : State) (pt : Nat) : (s.boundary pt).pending = s.pending := by
  simp -implicitDefEqProofs [State.boundary]

@[simp] theorem execSettleRoundStart_answers (pt : Pt) (s : State) : s.Answers (execSettleRoundStart pt s) := by
  simp only [execSettleRoundStart, State.answers_next]
  repeat' split
  all_goals simp

@[simp] theorem State.failRank_pending (s : State) (pt step rank : Nat) : (s.failRank pt step rank).pending = s.pending := by
  fun_cases State.failRank s pt step rank <;> simp

@[simp] theorem State.reround_pending (s : State) (pt : Nat) (b : List Byte) (step t : Nat) : (s.reround pt b step t).pending = s.pending := by
  fun_cases State.reround s pt b step t <;> simp +zetaDelta

@[simp] theorem State.dropUpdates_pending (s : State) (pt : Nat) (b : List Byte) (step : Nat) (ids : List Nat) :
    (s.dropUpdates pt b step ids).1.pending = s.pending := by simp [State.dropUpdates]

@[simp] theorem State.dropWork_pending (s : State) (pt : Nat) (b : List Byte) (step : Nat) (ts ws : List Nat) :
    (s.dropWork pt b step ts ws).1.pending = s.pending := by
  unfold State.dropWork
  split <;> simp

@[simp] theorem State.dropLater_pending (pt : Nat) (b : List Byte) (ts steps ws : List Nat) (s : State) :
    (s.dropLater pt b ts steps ws).pending = s.pending := by
  induction steps generalizing ws s with
  | nil => rfl
  | cons n rest ih =>
    have hdrop := s.dropWork_pending pt b n ts ws
    unfold State.dropLater
    split
    next t hit vs lost ht =>
    rw [ht] at hdrop
    rw [ih]
    split
    · exact (t.bump_pending _ _).trans hdrop
    · exact hdrop

@[simp] theorem State.undoDependants_pending (s : State) (pt : Nat) (b : List Byte) (step : Nat) (ts ws : List Nat) :
    (s.undoDependants pt b step ts ws).pending = s.pending := by simp [State.undoDependants]

@[simp] theorem State.redo_pending (s : State) (pt : Nat) (b : List Byte) (step : Nat) (ts : List Nat) :
    (s.redo pt b step ts).1.pending = s.pending := by simp [State.redo]

@[simp] theorem State.recompute_pending (s : State) (pt : Nat) (b : List Byte) (step : Nat) (ts : List Nat) :
    (s.recompute pt b step ts).1.pending = s.pending := by simp [State.recompute]

@[simp] theorem State.redoFrom_pending (s : State) (pt : Nat) (b : List Byte) (step : Nat) (ts : List Nat) :
    (s.redoFrom pt b step ts).pending = s.pending := by simp [State.redoFrom]

@[simp] theorem State.noteSpills_pending (s : State) (pt : Nat) (b : List Byte) (step : Nat) (sp : List (Nat × Nat)) :
    (s.noteSpills pt b step sp).pending = s.pending := by simp [State.noteSpills]

@[simp] theorem State.redoUpdates_pending (s : State) (pt : Nat) (b : List Byte) (step : Nat) (ts : List Nat) :
    (s.redoUpdates pt b step ts).1.pending = s.pending := by simp [State.redoUpdates]

@[simp] theorem State.spill_pending (s : State) (pt : Nat) (b : List Byte) (step : Nat) (sp : List (Nat × Nat)) :
    (s.spill pt b step sp).pending = s.pending := by simp [State.spill]

@[simp] theorem State.overflowFail_pending (s : State) (pt : Nat) (b : List Byte) (step t : Nat) :
    (s.overflowFail pt b step t).pending = s.pending := by simp [State.overflowFail]

@[simp] theorem State.commitStep_pending (s : State) (pt : Nat) (b : List Byte) (step : Nat) : (s.commitStep pt b step).pending = s.pending := by
  fun_cases State.commitStep s pt b step <;> simp +zetaDelta

@[simp] theorem State.judge_offers (s : State) (pt : Nat) (b : List Byte) (step : Nat) (o : RoundOut) : s.Offers (s.judge pt b step o).1 := by
  fun_cases State.judge s pt b step o <;> simp

@[simp] theorem execSettleRoundComplete_answers (pt : Pt) (s : State) : s.Answers (execSettleRoundComplete pt s) := by
  refine (s.answers_next _).mpr ?_
  split
  · split
    · rfl
    · dsimp only
      split
      · next u l hu => exact (State.judge_offers _ pt _ _ _ u (congrArg Prod.fst hu)).trans (s.leaveRound_pending _ _ _ _)
      · simp
  · rfl

@[simp] theorem execCommitRoundStart_answers (pt : Pt) (s : State) : s.Answers (execCommitRoundStart pt s) := by
  simp only [execCommitRoundStart, State.answers_next]
  repeat' split
  all_goals simp

@[simp] theorem execStepCommit_answers (pt : Pt) (s : State) : s.Answers (execStepCommit pt s) := by
  refine (s.answers_next _).mpr ?_
  split
  · split
    · rfl
    · split
      · simp
      · split
        · rfl
        · dsimp only
          split
          · next u l hu => exact (State.judge_offers _ pt _ _ _ u (congrArg Prod.fst hu)).trans (s.leaveRound_pending _ _ _ _)
          · simp
  · rfl

@[simp] theorem execRungReturn_answers (pt : Pt) (tensor : Nat) (s : State) : s.Answers (execRungReturn pt tensor s) := by
  simp only [execRungReturn, State.answers_next]
  repeat' split
  all_goals simp

@[simp] theorem execUndoComplete_answers (pt : Pt) (s : State) : s.Answers (execUndoComplete pt s) := by
  simp -implicitDefEqProofs [execUndoComplete]

@[simp] theorem execReplayStart_answers (pt : Pt) (s : State) : s.Answers (execReplayStart pt s) := by
  simp only [execReplayStart, State.answers_next]
  split <;> simp

end Sys2Proof.Machine
end

section
/-! PROOFS. The queue under the fabric: links, adverts, flows and routing. -/
namespace Sys2Proof.Machine

/-! ### Fabric.lean -/

@[simp] theorem State.setHalf_pending (s : State) (p h : Nat) (f : HalfSt → HalfSt) : (s.setHalf p h f).pending = s.pending := by
  simp [State.setHalf]

@[simp] theorem State.portFails_pending (s : State) (p h st : Nat) : (s.portFails p h st).pending = s.pending := by simp [State.portFails]

@[simp] theorem State.trainHalf_pending (s : State) (p h stage : Nat) (fast : Bool) : (s.trainHalf p h stage fast).pending = s.pending := by
  simp [State.trainHalf]

@[simp] theorem State.trainPort_pending (s : State) (p : Nat) : (s.trainPort p).pending = s.pending := by simp [State.trainPort]

@[simp] theorem State.nextStage_pending (s : State) (p h stage : Nat) (f : HalfSt → HalfSt) : (s.nextStage p h stage f).pending = s.pending := by
  simp [State.nextStage]

@[simp] theorem State.stageTimeout_pending (s : State) (p h : Nat) : (s.stageTimeout p h).pending = s.pending := by
  simp [State.stageTimeout]

@[simp] theorem execTrainingStage_answers (port : Port) (half : Bool) (result : StageEnd) (s : State) :
    s.Answers (execTrainingStage port half result s) := by
  simp only [execTrainingStage, State.answers_next]
  repeat' split
  all_goals simp

@[simp] theorem State.laneFails_pending (s : State) (p lane why : Nat) : (s.laneFails p lane why).pending = s.pending := by
  simp [State.laneFails]

@[simp] theorem execLaneFail_answers (port : Port) (lane : Fin 10) (s : State) : s.Answers (execLaneFail port lane s) := by
  simp [execLaneFail]

@[simp] theorem execFecWindow_answers (port : Port) (corrected : Vector Nat 10) (uncorrectable : Nat) (s : State) :
    s.Answers (execFecWindow port corrected uncorrectable s) := by simp -implicitDefEqProofs [execFecWindow]

@[simp] theorem execPortRetry_answers (port : Port) (s : State) : s.Answers (execPortRetry port s) := by simp [execPortRetry]

@[simp] theorem State.retrainPort_pending (s : State) (p : Nat) : (s.retrainPort p).pending = s.pending := by simp [State.retrainPort]

@[simp] theorem State.writePortCtl_pending (s : State) (p v : Nat) : (s.writePortCtl p v).pending = s.pending := by
  simp [State.writePortCtl]

@[simp] theorem State.lockPos_pending (s : State) (rack : Nat) : (s.lockPos rack).pending = s.pending := by simp [State.lockPos]

@[simp] theorem State.followRoutes_pending (s : State) : s.followRoutes.pending = s.pending := by simp [State.followRoutes]

@[simp] theorem State.seeDup_pending (s : State) (ser pos : Nat) : (s.seeDup ser pos).pending = s.pending := by simp [State.seeDup]

@[simp] theorem execAdvert_answers (port : Port) (k : Packet) (s : State) : s.Answers (execAdvert port k s) := by simp [execAdvert]

@[simp] theorem execAdvertPeriod_answers (s : State) : s.Answers (execAdvertPeriod s) := by simp [execAdvertPeriod]

@[simp] theorem execAdvertExpire_answers (serial : BitVec 64) (s : State) : s.Answers (execAdvertExpire serial s) := by
  simp only [execAdvertExpire, State.answers_next]
  split <;> simp

@[simp] theorem State.accept_pending (s : State) (p : Nat) (k : Packet) (typ : Nat) :
    ∀ t, s.accept p k typ = .error t → t.pending = s.pending := by fun_cases State.accept s p k typ <;> simp

@[simp] theorem State.sendNack_pending (s : State) (p pt : Nat) (k : Packet) (code : Nat) : (s.sendNack p pt k code).pending = s.pending := by
  simp [State.sendNack]

@[simp] theorem State.modRx_pending (s : State) (src : BitVec 128) (fid pt : Nat) (f : RxFlow → RxFlow) :
    (s.modRx src fid pt f).pending = s.pending := by simp [State.modRx]

@[simp] theorem State.sendAck_pending (s : State) (f : RxFlow) : (s.sendAck f).pending = s.pending := by
  simp -implicitDefEqProofs [State.sendAck]

@[simp] theorem State.deliverRx_pending (k : Nat) (s : State) (src : BitVec 128) (fid pt : Nat) :
    (s.deliverRx k src fid pt).pending = s.pending := by
  induction k generalizing s with
  | zero => rfl
  | succ k ih =>
    unfold State.deliverRx
    repeat' split
    all_goals simp [ih]

@[simp] theorem execData_answers (port : Port) (k : Packet) (s : State) : s.Answers (execData port k s) := by
  have herr := s.accept_pending port k 0
  refine (s.answers_next _).mpr ?_
  split
  · next u hu => exact herr u hu
  · extract_lets fid held s1
    split
    · simp
    · split
      · simp
      · split
        · simp
        · split
          · simp
          · have h1 : s1.pending = s.pending := by simp [s1]
            split
            · exact h1
            · extract_lets d dup s2 s3 s4
              have h2 : s2.pending = s.pending := by simp [s2, h1]
              have h4 : s4.pending = s.pending := by simp [s4, s3, h2]
              split
              · split <;> simp [h2]
              · split
                · simp [h2]
                · split
                  · split <;> simp [h4]
                  · exact h4

@[simp] theorem execAckTimer_answers (src : BitVec 128) (flowId : Word) (s : State) : s.Answers (execAckTimer src flowId s) := by
  simp only [execAckTimer, State.answers_next]
  split <;> simp

@[simp] theorem execIdleFlowExpire_answers (src : BitVec 128) (flowId : Word) (s : State) : s.Answers (execIdleFlowExpire src flowId s) := by
  simp [execIdleFlowExpire]

@[simp] theorem execPeerwrite_answers (s : State) : s.Answers (execPeerwrite s) := by
  simp only [execPeerwrite, State.answers_next]
  repeat' split
  all_goals simp

@[simp] theorem State.flowFails_pending (s : State) (f : TxFlow) (why : Nat) : (s.flowFails f why).pending = s.pending := by
  simp [State.flowFails]

@[simp] theorem State.flowIdle_pending (s : State) (f : TxFlow) : (s.flowIdle f).pending = s.pending := by simp [State.flowIdle]

@[simp] theorem State.ackFlow_pending (s : State) (p : Nat) (k : Packet) (typ : Nat) :
    ∀ t, s.ackFlow p k typ = .error t → t.pending = s.pending := by
  have haccept := s.accept_pending p k typ
  unfold State.ackFlow
  split
  · next u hu => simpa using haccept u hu
  · split <;> simp

@[simp] theorem execAck_answers (port : Port) (k : Packet) (s : State) : s.Answers (execAck port k s) := by
  have herr := s.ackFlow_pending port k 1
  refine (s.answers_next _).mpr ?_
  split
  · next u hu => exact herr u hu
  · extract_lets a before progress acked openMsgs rest sack got top holes s1 s2 cap slow s3
    have hstate : s3.pending = s.pending := by simp [s3, s2, s1]
    split <;> simp [hstate]

@[simp] theorem execNack_answers (port : Port) (k : Packet) (s : State) : s.Answers (execNack port k s) := by
  have herr := s.ackFlow_pending port k 2
  simp only [execNack, State.answers_next]
  split
  · next u hu => exact herr u hu
  · simp

@[simp] theorem execRtoExpire_answers (flowId : Word) (s : State) : s.Answers (execRtoExpire flowId s) := by
  simp only [execRtoExpire, State.answers_next]
  repeat' split
  all_goals simp

@[simp] theorem execPacingRaise_answers (flowId : Word) (s : State) : s.Answers (execPacingRaise flowId s) := by
  simp only [execPacingRaise, State.answers_next]
  split <;> simp

/-- State.icmpError with the length of its second left open, so that nothing evaluates the literal. -/
def State.icmpErrorEvery (s : State) (second p : Nat) (te : Bool) (dst : BitVec 128) (body : List Byte) : State :=
  let (t0, a, b) := (s.port p).icmp
  let (t0, a, b) := if t0 + second ≤ s.time then (s.time, 0, 0) else (t0, a, b)
  let n := if te then a else b
  if 1000 ≤ n then s.modPort p fun x => { x with icmp := (t0, a, b) }
  else
    let s := s.modPort p fun x => { x with icmp := (t0, if te then a + 1 else a, if te then b else b + 1) }
    s.emit p (.icmp p (if te then 3 else 1) 0 (s.addr 0xF0) dst body)

theorem State.icmpError_eq_every (s : State) (p : Nat) (te : Bool) (dst : BitVec 128) (body : List Byte) :
    s.icmpError p te dst body = s.icmpErrorEvery 225000000 p te dst body := rfl

theorem State.icmpErrorEvery_pending (s : State) (second p : Nat) (te : Bool) (dst : BitVec 128) (body : List Byte) :
    (s.icmpErrorEvery second p te dst body).pending = s.pending := by
  unfold State.icmpErrorEvery
  split
  split
  extract_lets n s1
  split
  · exact s.modPort_pending p _
  · exact (State.emit_pending _ p _).trans (s.modPort_pending p _)

@[simp] theorem State.icmpError_pending (s : State) (p : Nat) (te : Bool) (dst : BitVec 128) (body : List Byte) :
    (s.icmpError p te dst body).pending = s.pending := by
  rw [State.icmpError_eq_every]
  exact s.icmpErrorEvery_pending _ p te dst body

@[simp] theorem execTransitForward_answers (port : Port) (k : IpPacket) (s : State) : s.Answers (execTransitForward port k s) := by
  unfold execTransitForward
  extract_lets p e
  refine (s.answers_next _).mpr ?_
  repeat' split
  all_goals simp

@[simp] theorem State.resumePort_pending (s : State) (p : Nat) : (s.resumePort p).pending = s.pending := by simp [State.resumePort]

@[simp] theorem State.clock_pending (s : State) : s.clock.pending = s.pending := by simp -implicitDefEqProofs [State.clock]

@[simp] theorem execPfcFrame_answers (port : Port) (prio : Fin 8) (sCycles : Nat) (s : State) : s.Answers (execPfcFrame port prio sCycles s) := by
  simp [execPfcFrame]

@[simp] theorem execPauseEnd_answers (port : Port) (s : State) : s.Answers (execPauseEnd port s) := by simp [execPauseEnd]

@[simp] theorem execPauseFrame_answers (_port : Port) (s : State) : s.Answers (execPauseFrame _port s) := by simp [execPauseFrame]

@[simp] theorem execNeighbourSolicitation_answers (port : Port) (src target : BitVec 128) (s : State) :
    s.Answers (execNeighbourSolicitation port src target s) := by simp [execNeighbourSolicitation]

@[simp] theorem execEchoRequest_answers (port : Port) (src dst : BitVec 128) (body : List Byte) (s : State) :
    s.Answers (execEchoRequest port src dst body s) := by simp [execEchoRequest]

@[simp] theorem execLldpReceive_answers (port : Port) (half : Bool) (tlvs : List Byte) (s : State) :
    s.Answers (execLldpReceive port half tlvs s) := by simp [execLldpReceive]

@[simp] theorem execLldpSend_answers (port : Port) (s : State) : s.Answers (execLldpSend port s) := by simp [execLldpSend]

end Sys2Proof.Machine
end

section
/-! PROOFS. The queue under the sluices and the exchange of chunks. -/
namespace Sys2Proof.Machine

/-! ### Sluice.lean -/

@[simp] theorem State.noteOp_pending (s : State) (a : Adm) : (s.noteOp a).pending = s.pending := by simp [State.noteOp]

@[simp] theorem execSluiceStart_answers (die : Die) (eng : Engine) (s : State) : s.Answers (execSluiceStart die eng s) := by
  refine s.clocked_answers _ ((s.answers_next _).mpr ?_)
  repeat' split
  all_goals simp

@[simp] theorem State.runMove_pending (s : State) (b : List Byte) (die eng : Nat) (a : Adm) (bad : Option Nat) :
    (s.runMove b die eng a bad).pending = s.pending := by simp [State.runMove]

@[simp] theorem State.noteSeed_pending (s : State) (a : Adm) (v : View) (ixs : List (List Nat)) : (s.noteSeed a v ixs).pending = s.pending := by
  simp [State.noteSeed]

@[simp] theorem State.runSeed_pending (s : State) (a : Adm) (get : Int → Byte × Bool) : (s.runSeed a get).pending = s.pending := by
  unfold State.runSeed
  extract_lets mb v n ixs places s1 s2 s3
  have h1 : s1.pending = s.pending := by simp [s1]
  have h2 : s2.pending = s1.pending := forEach_pending _ _ _ fun o t => by
    extract_lets bad bs t1
    have ht1 : t1.pending = t.pending := t.writeSpace_pending _ _ _ _
    clear_value t1 bs
    split
    · split <;> simp [ht1]
    · exact ht1
  have h3 : s3.pending = s2.pending := by
    unfold s3
    split
    · rfl
    · exact forEach_pending _ _ _ fun o t => t.writeSpace_pending _ _ _ _
  rw [State.noteSeed_pending, h3, h2, h1]

@[simp] theorem State.runSnapshot_pending (s : State) (a : Adm) : (s.runSnapshot a).pending = s.pending := by
  fun_cases State.runSnapshot s a <;> simp +zetaDelta

@[simp] theorem execSluiceComplete_answers (die : Die) (eng : Engine) (residueAt : Option Nat) (s : State) :
    s.Answers (execSluiceComplete die eng residueAt s) := by
  unfold execSluiceComplete
  refine s.clocked_answers _ ((s.answers_next _).mpr ?_)
  split
  · rfl
  · extract_lets s1
    have h1 : s1.pending = s.pending := by simp [s1]
    clear_value s1
    split
    · extract_lets b ad get v ixs lay w s2 s3 s4 bad lost s5 s6 s7 rec
      have h2 : s2.pending = s1.pending := by simp [s2]
      have h3 : s3.pending = s2.pending := by
        unfold s3
        split <;> simp
      have h5 : s5.pending = s1.pending := by simp [s5]
      have h6 : s6.pending = s5.pending := by
        unfold s6
        split
        · split <;> simp
        · rfl
      clear_value bad s2 s3 s5 s6
      split
      · simp [h1]
      · simp [s4, h3, h2, h1]
      · split
        · simp [h6, h5, h1]
        · extract_lets s8 s9
          have h9 : s9.pending = s8.pending := by
            unfold s9
            split
            · split <;> simp
            · rfl
          simp [h9, s8, s7, h6, h5, h1]
    · exact h1

/-! ### CascSums.lean -/

@[simp] theorem State.modRun_pending (s : State) (k : CascCtx) (f : CascRun → CascRun) : (s.modRun k f).pending = s.pending := by
  simp [State.modRun]

@[simp] theorem State.clearDefs_pending (s : State) (k : CascCtx) (ixs : List Nat) : (s.clearDefs k ixs).pending = s.pending := by
  simp [State.clearDefs]

@[simp] theorem State.applyDefs_pending (s : State) (k : CascCtx) (ds : List (Nat × Nat)) : (s.applyDefs k ds).pending = s.pending := by
  simp [State.applyDefs]

@[simp] theorem State.dropVals_pending (s : State) (k : CascCtx) (ixs : List Nat) : (s.dropVals k ixs).pending = s.pending := by
  simp [State.dropVals]

@[simp] theorem State.acceptSum_pending (s : State) (k : CascCtx) (es : List RedElem) (rep : Bool) :
    (s.acceptSum k es rep).pending = s.pending := by simp [State.acceptSum]

@[simp] theorem State.ownerActs_pending (s : State) (k : CascCtx) (d : ChunkDesc) (es : List RedElem) (rep : Bool) :
    (s.ownerActs k d es rep).pending = s.pending := by simp [State.ownerActs]

@[simp] theorem State.sumItem_pending (s : State) (k : CascCtx) (d : ChunkDesc) (rep : Bool) (i : Nat)
    (it : List (Nat × Nat) × Option (Nat × Nat)) :
    (s.sumItem k d rep i it).1.pending = s.pending := by fun_cases State.sumItem s k d rep i it <;> simp +zetaDelta

@[simp] theorem State.sumChunk_pending (s : State) (k : CascCtx) (d : ChunkDesc) (rep : Bool) : (s.sumChunk k d rep).1.pending = s.pending := by
  refine foldl_keeps_value (fun a : State × Bool => a.1.pending) _ (fun a it => ?_) _ _
  simp

@[simp] theorem State.pumpSums_pending (s : State) (k : CascCtx) : (s.pumpSums k).1.pending = s.pending := by
  refine foldl_keeps_value (fun a : State × Bool => a.1.pending) _ (fun a d => ?_) _ _
  dsimp only
  repeat' split
  all_goals simp

@[simp] theorem State.noteAnchors_pending (s : State) (k : CascCtx) (d : ChunkDesc) (ms : List (Option Int)) :
    (s.noteAnchors k d ms).pending = s.pending := by simp [State.noteAnchors]

@[simp] theorem State.gatherSends_pending (s : State) (k : CascCtx) (d : ChunkDesc) (kind : Nat) (pay : List Byte) :
    (s.gatherSends k d kind pay).pending = s.pending := by simp [State.gatherSends]

@[simp] theorem State.anchorChunk_pending (s : State) (k : CascCtx) (d : ChunkDesc) : (s.anchorChunk k d).pending = s.pending := by
  unfold State.anchorChunk
  extract_lets s1
  have h1 : s1.pending = s.pending := foldl_keeps_value State.pending _ (fun t it => by
    dsimp only
    split
    · rfl
    · split
      · rfl
      · split <;> simp) _ _
  split
  · exact h1
  · split <;> simp [h1]

@[simp] theorem State.pumpAnchors_pending (s : State) (k : CascCtx) : (s.pumpAnchors k).pending = s.pending := by simp [State.pumpAnchors]

@[simp] theorem State.markDone_pending (s : State) (k : CascCtx) (v : View) (ts : List (List Nat)) : (s.markDone k v ts).pending = s.pending := by
  simp [State.markDone]

@[simp] theorem State.gatherWrite_pending (s : State) (k : CascCtx) (d : ChunkDesc) (pay : List Byte) :
    (s.gatherWrite k d pay).pending = s.pending := by simp [State.gatherWrite]

@[simp] theorem State.pumpGather_pending (s : State) (k : CascCtx) : (s.pumpGather k).1.pending = s.pending := by
  refine foldl_keeps_value (fun a : State × Bool => a.1.pending) _ (fun a d => ?_) _ _
  dsimp only
  split <;> simp

@[simp] theorem State.a2aSend_pending (s : State) (k : CascCtx) (v : View) (r : Nat) : (s.a2aSend k v r).pending = s.pending := by
  simp [State.a2aSend]

@[simp] theorem State.a2aPut_pending (s : State) (v : View) (blocks : List Nat) (n : Nat) (bytes : List Byte) :
    (s.a2aPut v blocks n bytes).pending = s.pending := by
  refine forEach_pending _ _ _ fun x t => ?_
  split
  · split <;> simp
  · rfl

@[simp] theorem State.pumpA2A_pending (s : State) (k : CascCtx) : (s.pumpA2A k).1.pending = s.pending := by
  fun_cases State.pumpA2A s k <;> simp +zetaDelta

@[simp] theorem State.pump_pending (s : State) (k : CascCtx) : (s.pump k).pending = s.pending := by simp [State.pump]

@[simp] theorem State.runStep_pending (s : State) (k : CascCtx) (first : Nat) : (s.runStep k first).pending = s.pending := by
  simp [State.runStep]

@[simp] theorem State.runInstr_pending (s : State) (pt record mb opc : Nat) : (s.runInstr pt record mb opc).pending = s.pending := by
  fun_cases State.runInstr s pt record mb opc <;> simp

/-! ### Cascade.lean -/

@[simp] theorem execCascEnd_answers (_pt : Pt) (_record : Nat) (s : State) : s.Answers (execCascEnd _pt _record s) := by simp [execCascEnd]

@[simp] theorem execReduceScatter_answers (pt : Pt) (record mb : Nat) (s : State) : s.Answers (execReduceScatter pt record mb s) := by
  simp [execReduceScatter]

@[simp] theorem execAllGather_answers (pt : Pt) (record mb : Nat) (s : State) : s.Answers (execAllGather pt record mb s) := by
  simp [execAllGather]

@[simp] theorem execAllReduce_answers (pt : Pt) (record mb : Nat) (s : State) : s.Answers (execAllReduce pt record mb s) := by
  simp [execAllReduce]

@[simp] theorem execAllToAll_answers (pt : Pt) (record mb : Nat) (s : State) : s.Answers (execAllToAll pt record mb s) := by
  simp [execAllToAll]

@[simp] theorem State.takeMsg_pending (s : State) (p : List Byte → Bool) : (s.takeMsg p).2.pending = s.pending := by
  fun_cases State.takeMsg s p <;> simp

@[simp] theorem State.msgFrom_pending (s : State) (pos pt gid epoch : Nat) : (s.msgFrom pos pt gid epoch).2.pending = s.pending := by
  fun_cases State.msgFrom s pos pt gid epoch <;> simp

@[simp] theorem State.sendSuspect_pending (s : State) (slot rank pos : Nat) (c : Chunk) :
    (s.sendSuspect slot rank pos c).pending = s.pending := by simp [State.sendSuspect]

@[simp] theorem State.chunkBad_pending (s : State) (slot rank pos pt : Nat) (c : Chunk) :
    (s.chunkBad slot rank pos pt c).pending = s.pending := by simp [State.chunkBad]

@[simp] theorem State.peerLate_pending (s : State) (pt record step gid rank : Nat) :
    (s.peerLate pt record step gid rank).pending = s.pending := by simp [State.peerLate]

@[simp] theorem State.noteRev_pending (s : State) (pt pos : Nat) (key : Chunk) (rev : Nat) : (s.noteRev pt pos key rev).pending = s.pending := by
  simp [State.noteRev]

@[simp] theorem State.recvChunk_pending (s : State) (kind : Nat) (ops : Nat → Bool) (hit : Bool) (also : CascCtx → Chunk → State → State)
    (hf : EachKeepsQueue fun (x : CascCtx × Chunk) => also x.1 x.2) :
    (s.recvChunk kind ops hit also).pending = s.pending := by
  have hmsg := s.takeMsg_pending (isChunk kind)
  have halso : ∀ k c t, (also k c t).pending = t.pending := fun k c t => hf (k, c) t
  unfold State.recvChunk
  dsimp only
  split
  · exact hmsg
  · repeat' split
    all_goals simp [halso]

@[simp] theorem State.takeDeficit_pending (k : CascCtx) (c : Chunk) (s : State) : (s.takeDeficit k c).pending = s.pending := by
  simp [State.takeDeficit]

@[simp] theorem execSum_answers (residueHit : Bool) (s : State) : s.Answers (execSum residueHit s) := by simp [execSum]

@[simp] theorem execSumRepeat_answers (residueHit : Bool) (s : State) : s.Answers (execSumRepeat residueHit s) := by simp [execSumRepeat]

@[simp] theorem execAnchor_answers (residueHit : Bool) (s : State) : s.Answers (execAnchor residueHit s) := by simp [execAnchor]

@[simp] theorem execDataChunk_answers (residueHit : Bool) (s : State) : s.Answers (execDataChunk residueHit s) := by simp [execDataChunk]

@[simp] theorem execDeficit_answers (residueHit : Bool) (s : State) : s.Answers (execDeficit residueHit s) := by simp [execDeficit]

@[simp] theorem execScalar_answers (residueHit : Bool) (s : State) : s.Answers (execScalar residueHit s) := by
  simp only [execScalar, State.answers_next]
  repeat' split
  all_goals simp

@[simp] theorem State.takeCtl_pending (s : State) (typ : Nat) : (s.takeCtl typ).2.pending = s.pending := by
  have hmsg := s.takeMsg_pending (isCtl typ)
  unfold State.takeCtl
  dsimp only
  split
  · exact hmsg
  · exact (State.msgFrom_pending _ _ _ _ _).trans hmsg

@[simp] theorem execConfirm_answers (s : State) : s.Answers (execConfirm s) := by
  simp only [execConfirm, State.answers_next]
  split <;> simp

@[simp] theorem State.undoChunk_pending (s : State) (k : CascCtx) (rank : Nat) (c : Chunk) : (s.undoChunk k rank c).pending = s.pending := by
  simp [State.undoChunk]

@[simp] theorem execRetract_answers (s : State) : s.Answers (execRetract s) := by
  simp only [execRetract, State.answers_next]
  repeat' split
  all_goals simp

@[simp] theorem execRecall_answers (s : State) : s.Answers (execRecall s) := by
  simp only [execRecall, State.answers_next]
  repeat' split
  all_goals simp

@[simp] theorem execAbandon_answers (s : State) : s.Answers (execAbandon s) := by
  simp only [execAbandon, State.answers_next]
  split <;> simp

@[simp] theorem execSuspect_answers (s : State) : s.Answers (execSuspect s) := by
  simp only [execSuspect, State.answers_next]
  split <;> simp

@[simp] theorem State.refuseGroup_pending (s : State) (slot code : Nat) : (s.refuseGroup slot code).pending = s.pending := by
  simp [State.refuseGroup]

@[simp] theorem State.enterForm_pending (s : State) (slot : Nat) (b : List Byte) (cands : List Nat) :
    (s.enterForm slot b cands).pending = s.pending := by simp [State.enterForm]

@[simp] theorem State.formGroup_pending (s : State) (slot : Nat) (b : List Byte) (proto epoch : Nat) (claimFail : Bool) :
    (s.formGroup slot b proto epoch claimFail).pending = s.pending := by simp [State.formGroup]

@[simp] theorem State.judgeForm_pending (s : State) (slot : Nat) (b : List Byte) (es : List (List Byte)) :
    (s.judgeForm slot b es).pending = s.pending := by fun_cases State.judgeForm s slot b es <;> simp

@[simp] theorem execGroupFormation_answers (slot : Fin 256) (s : State) : s.Answers (execGroupFormation slot s) := by
  simp only [execGroupFormation, State.answers_next]
  repeat' split
  all_goals simp

@[simp] theorem execGroupWaiting_answers (slot : Fin 256) (s : State) : s.Answers (execGroupWaiting slot s) := by simp [execGroupWaiting]

@[simp] theorem execPeerTimeout_answers (slot : Fin 256) (position : Word) (s : State) : s.Answers (execPeerTimeout slot position s) := by
  simp only [execPeerTimeout, State.answers_next]
  split <;> simp

end Sys2Proof.Machine
end

section
/-! PROOFS. The queue under the journals, the fault units and the Fountainers. -/
namespace Sys2Proof.Machine

/-! ### Cistern.lean -/

@[simp] theorem State.charge_pending (s : State) (prio : Nat) : (s.charge prio).pending = s.pending := by simp [State.charge]

@[simp] theorem State.setGovwait_pending (s : State) (b : Bool) : (s.setGovwait b).pending = s.pending := by simp [State.setGovwait]

@[simp] theorem State.setCisState_pending (s : State) (st : Nat) : (s.setCisState st).pending = s.pending := by simp [State.setCisState]

@[simp] theorem State.startProgram_pending (s : State) : s.startProgram.pending = s.pending := by
  fun_cases State.startProgram s <;> simp +zetaDelta

@[simp] theorem State.noteWait_pending (s : State) (typ : Nat) : (s.noteWait typ).pending = s.pending := by
  fun_cases State.noteWait s typ <;> simp +zetaDelta

@[simp] theorem State.jsubmit_pending (s : State) (typ : Nat) (body : List Byte) : (s.jsubmit typ body).pending = s.pending := by
  simp [State.jsubmit]

@[simp] theorem State.placeCommit_pending (s : State) : s.placeCommit.pending = s.pending := by
  fun_cases State.placeCommit s <;> simp +zetaDelta

@[simp] theorem State.onCommit_pending (s : State) (r : JRec) : (s.onCommit r).pending = s.pending := by simp [State.onCommit]

@[simp] theorem State.applyCommit_pending (s : State) (c : JRec) (page : Nat) : (s.applyCommit c page).pending = s.pending := by
  simp [State.applyCommit]

@[simp] theorem State.startErase_pending (s : State) : s.startErase.pending = s.pending := by
  fun_cases State.startErase s <;> simp +zetaDelta

@[simp] theorem State.programDone_pending (s : State) (ok : Bool) : (s.programDone ok).pending = s.pending := by
  fun_cases State.programDone s ok <;> simp +zetaDelta

@[simp] theorem State.presence_pending (s : State) (ev arg : Nat) : (s.presence ev arg).pending = s.pending := by simp [State.presence]

@[simp] theorem State.putDefect_pending (s : State) (d : Defect) : (s.putDefect d).pending = s.pending := by simp [State.putDefect]

@[simp] theorem State.defectState_pending (s : State) (d : Defect) : (s.defectState d).pending = s.pending := by simp [State.defectState]

@[simp] theorem State.candidacy_pending (s : State) (key src : Nat) (byTest : Bool) : (s.candidacy key src byTest).pending = s.pending := by
  fun_cases State.candidacy s key src byTest <;> simp

@[simp] theorem State.boundLedgers_pending (s : State) : s.boundLedgers.pending = s.pending := by simp [State.boundLedgers]

@[simp] theorem State.ledger_pending (s : State) (t : TagEnergy) (part : Bool) : (s.ledger t part).pending = s.pending := by
  simp [State.ledger]

@[simp] theorem State.ledgerAll_pending (s : State) (part : Bool) : (s.ledgerAll part).pending = s.pending := by simp [State.ledgerAll]

@[simp] theorem State.errCount_pending (s : State) (r : Rec) : (s.errCount r).pending = s.pending := by simp [State.errCount]

@[simp] theorem State.writeErrhist_pending (s : State) : s.writeErrhist.pending = s.pending := by simp [State.writeErrhist]

@[simp] theorem State.startFlush_pending (s : State) : s.startFlush.pending = s.pending := by simp [State.startFlush]

@[simp] theorem State.writeNow_pending (s : State) (typ : Nat) (body : List Byte) : (s.writeNow typ body).pending = s.pending := by
  fun_cases State.writeNow s typ body <;> simp +zetaDelta

@[simp] theorem State.ledgerGaps_pending (s : State) : s.ledgerGaps.pending = s.pending := by simp [State.ledgerGaps]

@[simp] theorem State.mount_pending (s : State) (ok : Bool) (lost : List Nat) : (s.mount ok lost).pending = s.pending := by
  simp -implicitDefEqProofs [State.mount]

@[simp] theorem execJournalRecordSubmit_answers (typ : Byte) (body : List Byte) (s : State) : s.Answers (execJournalRecordSubmit typ body s) := by
  simp [execJournalRecordSubmit]

@[simp] theorem execPageProgramDone_answers (plane0Ok plane1Ok : Bool) (s : State) : s.Answers (execPageProgramDone plane0Ok plane1Ok s) := by
  simp [execPageProgramDone]

@[simp] theorem execEraseDone_answers (ok : Bool) (s : State) : s.Answers (execEraseDone ok s) := by
  simp only [execEraseDone, State.answers_next]
  split <;> simp

@[simp] theorem execCheckpoint_answers (s : State) : s.Answers (execCheckpoint s) := by simp [execCheckpoint]

@[simp] theorem execGovernorCredit_answers (s : State) : s.Answers (execGovernorCredit s) := by simp [execGovernorCredit]

@[simp] theorem execGovernorBin_answers (s : State) : s.Answers (execGovernorBin s) := by simp [execGovernorBin]

@[simp] theorem State.liveLimits_pending (s : State) : s.liveLimits.pending = s.pending := by simp [State.liveLimits]

@[simp] theorem execLedgerHour_answers (s : State) : s.Answers (execLedgerHour s) := by
  simp only [execLedgerHour, State.answers_next]
  repeat' split
  all_goals simp -implicitDefEqProofs

@[simp] theorem execJournalPatrol_answers (page : Nat) (c0 c1 : Option Nat) (s : State) : s.Answers (execJournalPatrol page c0 c1 s) := by
  simp only [execJournalPatrol, State.answers_next]
  split <;> simp

@[simp] theorem execCompaction_answers (s : State) : s.Answers (execCompaction s) := by
  simp only [execCompaction, State.answers_next]
  repeat' split
  all_goals simp -implicitDefEqProofs

@[simp] theorem execDefectExpire_answers (resource : BitVec 64) (s : State) : s.Answers (execDefectExpire resource s) := by
  simp only [execDefectExpire, State.answers_next]
  split <;> simp

@[simp] theorem execPfwPauseEnd_answers (s : State) : s.Answers (execPfwPauseEnd s) := by simp [execPfwPauseEnd]

@[simp] theorem State.hostStamp_pending (s : State) (v : Nat) : (s.hostStamp v).pending = s.pending := by simp [State.hostStamp]

@[simp] theorem State.queryNext_pending (s : State) : s.queryNext.pending = s.pending := by fun_cases State.queryNext s <;> simp

@[simp] theorem State.queryRestart_pending (s : State) : s.queryRestart.pending = s.pending := by simp [State.queryRestart]

@[simp] theorem State.writeCisternCmd_pending (s : State) (w : Nat) : (s.writeCisternCmd w).pending = s.pending := by
  simp [State.writeCisternCmd]

@[simp] theorem State.clearDefect_pending (s : State) : s.clearDefect.pending = s.pending := by fun_cases State.clearDefect s <;> simp

@[simp] theorem State.clearHistory_pending (s : State) : s.clearHistory.pending = s.pending := by simp [State.clearHistory]

/-! ### Faults.lean -/

@[simp] theorem State.issueRing_pending (k : Nat) (s : State) : (s.issueRing k).pending = s.pending := by
  induction k generalizing s with
  | zero => rfl
  | succ k ih =>
    unfold State.issueRing
    dsimp only
    split
    · rfl
    · split <;> simp [ih]

@[simp] theorem State.pumpRing_pending (s : State) : s.pumpRing.pending = s.pending := by simp [State.pumpRing]

@[simp] theorem State.ringAcked_pending (s : State) (uid : Nat) : (s.ringAcked uid).pending = s.pending := by simp [State.ringAcked]

@[simp] theorem State.ringFailed_pending (s : State) (uid : Nat) : (s.ringFailed uid).pending = s.pending := by simp [State.ringFailed]

@[simp] theorem State.ringOff_pending (s : State) : s.ringOff.pending = s.pending := by simp [State.ringOff]

@[simp] theorem State.ringDropped_pending (s : State) : s.ringDropped.pending = s.pending := by simp [State.ringDropped]

@[simp] theorem State.handleRecord_pending (s : State) : s.handleRecord.pending = s.pending := by
  unfold State.handleRecord
  split
  · rfl
  · extract_lets seq d1 r lost s1 last s2 s3 s4 s5 s6 s7
    have hlast : s2.pending = s.pending := forEach_pending _ _ _ fun w t => State.put_pending _ _ _
    have hevent : s3.pending = s2.pending := by
      simp only [s3]
      split <;> simp
    have hcounts : s7.pending = s3.pending := by simp [s7, s6, s5, s4]
    have h := hcounts.trans (hevent.trans hlast)
    split <;> simp [h]

@[simp] theorem execRecordHandle_answers (s : State) : s.Answers (execRecordHandle s) := by simp [execRecordHandle]

@[simp] theorem execCorrectedWindowExpire_answers (die block n detail : Nat) (s : State) :
    s.Answers (execCorrectedWindowExpire die block n detail s) := by
  simp only [execCorrectedWindowExpire, State.answers_next]
  split <;> simp

@[simp] theorem execSuspectWindowExpire_answers (port : Port) (s : State) : s.Answers (execSuspectWindowExpire port s) := by
  simp only [execSuspectWindowExpire, State.answers_next]
  split <;> simp

/-! ### Fountainer.lean -/

@[simp] theorem State.maskInput_pending (s : State) (i reason : Nat) : (s.maskInput i reason).pending = s.pending := by
  simp [State.maskInput]

@[simp] theorem State.inputChange_pending (s : State) (i : Nat) (lvl : Bool) : (s.inputChange i lvl).2.pending = s.pending := by
  simp [State.inputChange]

@[simp] theorem execStormDuration_answers (input : Fin 7) (s : State) : s.Answers (execStormDuration input s) := by
  simp only [execStormDuration, State.answers_next]
  split <;> simp

@[simp] theorem State.unmask_pending (s : State) (i : Nat) : (s.unmask i).pending = s.pending := by simp [State.unmask]

@[simp] theorem State.sampleStraps_pending (s : State) : s.sampleStraps.pending = s.pending := by
  simp -implicitDefEqProofs [State.sampleStraps]

@[simp] theorem execStrapChange_answers (straps : BitVec 6) (s : State) : s.Answers (execStrapChange straps s) := by
  simp -implicitDefEqProofs [execStrapChange]

@[simp] theorem execIntcClaim_answers (pair : Pair) (s : State) : s.Answers (execIntcClaim pair s) := by
  simp only [execIntcClaim, State.answers_next]
  split <;> simp

@[simp] theorem execIntcEoi_answers (pair : Pair) (source : Byte) (s : State) : s.Answers (execIntcEoi pair source s) := by
  simp only [execIntcEoi, State.answers_next]
  split <;> simp

@[simp] theorem execThresholdWrite_answers (pair : Pair) (thresh : Fin 16) (s : State) : s.Answers (execThresholdWrite pair thresh s) := by
  simp [execThresholdWrite]

@[simp] theorem State.writeDisable_pending (s : State) (b : Bool) : (s.writeDisable b).pending = s.pending := by simp [State.writeDisable]

@[simp] theorem State.mbAnswer_pending (s : State) (m status : Nat) (body : List Byte) : (s.mbAnswer m status body).pending = s.pending := by
  simp -implicitDefEqProofs [State.mbAnswer]

@[simp] theorem State.writeMbCtl_pending (s : State) (m w : Nat) : (s.writeMbCtl m w).pending = s.pending := by simp [State.writeMbCtl]

@[simp] theorem execInfo_answers (mailbox : Pair) (s : State) : s.Answers (execInfo mailbox s) := by simp [execInfo]

@[simp] theorem execPhaseRead_answers (mailbox : Pair) (s : State) : s.Answers (execPhaseRead mailbox s) := by
  simp only [execPhaseRead, State.answers_next]
  repeat' split
  all_goals simp

@[simp] theorem State.holdPair_pending (s : State) (m cause : Nat) : (s.holdPair m cause).pending = s.pending := by
  fun_cases State.holdPair s m cause <;> simp +zetaDelta

@[simp] theorem execLockstepMismatch_answers (pair : Pair) (s : State) : s.Answers (execLockstepMismatch pair s) := by
  simp [execLockstepMismatch]

@[simp] theorem execPairWatchdog_answers (pair : Pair) (s : State) : s.Answers (execPairWatchdog pair s) := by simp [execPairWatchdog]

@[simp] theorem execPairRestartDone_answers (pair : Pair) (s : State) : s.Answers (execPairRestartDone pair s) := by
  simp [execPairRestartDone]

@[simp] theorem execWatchdogKick_answers (pair : Pair) (s : State) : s.Answers (execWatchdogKick pair s) := by simp [execWatchdogKick]

@[simp] theorem execButtonRelease_answers (s : State) : s.Answers (execButtonRelease s) := by simp [execButtonRelease]

@[simp] theorem execChassisAttention_answers (active : Bool) (s : State) : s.Answers (execChassisAttention active s) := by
  simp [execChassisAttention]

/-! ### Gate.lean -/

@[simp] theorem State.hostWrite_pending (s : State) (off : Nat) (f : State → State) (hf : KeepsQueue f) :
    (s.hostWrite off f).pending = s.pending := by
  unfold State.hostWrite
  split
  · rfl
  · split
    · simp
    · exact hf s

@[simp] theorem State.noPres_pending (s : State) (off recOff cmd : Nat) : (s.noPres off recOff cmd).pending = s.pending := by
  simp [State.noPres]

end Sys2Proof.Machine
end

section
/-! PROOFS. The queue under the loader and the Weir. -/
namespace Sys2Proof.Machine

/-! ### WeirPlan.lean -/

@[simp] theorem State.keepProfile_pending (s : State) (pt : Nat) (l : List Stage) : (s.keepProfile pt l).pending = s.pending := by
  simp [State.keepProfile]

/-! ### Loader.lean -/

@[simp] theorem State.dropGroups_pending (s : State) (pt : Nat) : (s.dropGroups pt).pending = s.pending := by
  simp -implicitDefEqProofs [State.dropGroups]

@[simp] theorem State.openGroups_pending (s : State) (pt : Nat) (im : List Byte) (old : List (Nat × Nat)) :
    (s.openGroups pt im old).pending = s.pending := by
  refine forEach_pending _ _ _ fun g t => ?_
  split <;> simp

@[simp] theorem State.readvertise_pending (before s : State) : (before.readvertise s).pending = s.pending := by
  simp [State.readvertise]

@[simp] theorem State.putDigest_pending (s : State) (im : List Byte) (dig : Nat → Nat) (id : Nat) :
    (s.putDigest im dig id).pending = s.pending := by simp -implicitDefEqProofs [State.putDigest]

@[simp] theorem State.takeBed_pending (s : State) (pt : Nat) (im : List Byte) (masks : List (Nat × List Byte)) :
    (s.takeBed pt im masks).pending = s.pending := by simp [State.takeBed]

@[simp] theorem State.pendingBed_pending (s : State) (pt : Nat) : (s.pendingBed pt).pending = s.pending := by
  fun_cases State.pendingBed s pt <;> simp +zetaDelta

@[simp] theorem State.clearArray_pending (s : State) (i : Nat) : (s.clearArray i).pending = s.pending := by simp [State.clearArray]

@[simp] theorem State.applyPlan_pending (s : State) (im : List Byte) : (s.applyPlan im).pending = s.pending := by
  unfold State.applyPlan
  extract_lets before s1 moved pools chans roles splits s2 s3 s4 gone s5 s6 s7
  have hclear : s3.pending = s2.pending := forEach_pending _ _ _ fun r t => by
    split <;> simp
  have hledger : s5.pending = s4.pending := forEach_pending _ _ _ fun x t => State.ledger_pending _ _ _
  have hports : s7.pending = s6.pending := forEach_pending _ _ _ fun p t => by simp
  simp [hports, s6, hledger, s4, hclear, s2, s1]

@[simp] theorem State.writeParterreCtl_pending (s : State) (w : Nat) : (s.writeParterreCtl w).pending = s.pending := by
  fun_cases State.writeParterreCtl s w <;> simp

@[simp] theorem execLoad_answers (key : Byte) (s : State) : s.Answers (execLoad key s) := by simp [execLoad]

@[simp] theorem execClear_answers (key : Byte) (s : State) : s.Answers (execClear key s) := by simp [execClear]

@[simp] theorem execCancel_answers (key : Byte) (pt : Pt) (s : State) : s.Answers (execCancel key pt s) := by simp [execCancel]

@[simp] theorem State.loadDone_pending (s : State) (res sec rec_ : Nat) : (s.loadDone res sec rec_).pending = s.pending := by
  simp [State.loadDone]

@[simp] theorem execLoadFinish_answers (s : State) : s.Answers (execLoadFinish s) := by
  simp only [execLoadFinish, State.answers_next]
  repeat' split
  all_goals simp

@[simp] theorem execBedTakeEffect_answers (pt : Pt) (s : State) : s.Answers (execBedTakeEffect pt s) := by simp [execBedTakeEffect]

@[simp] theorem State.writePersist_pending (s : State) (w : Nat) : (s.writePersist w).pending = s.pending := by
  fun_cases State.writePersist s w <;> simp +zetaDelta

@[simp] theorem execPersist_answers (s : State) : s.Answers (execPersist s) := by simp [execPersist]

@[simp] theorem execEraseDefault_answers (s : State) : s.Answers (execEraseDefault s) := by simp [execEraseDefault]

@[simp] theorem State.applyDefault_pending (s : State) : s.applyDefault.pending = s.pending := by fun_cases State.applyDefault s <;> simp

/-! ### Objects.lean -/

@[simp] theorem State.putDigestRegs_pending (s : State) (r : Nat → Nat) (d : List Byte) : (s.putDigestRegs r d).pending = s.pending := by
  simp -implicitDefEqProofs [State.putDigestRegs]

@[simp] theorem State.modSlot_pending (s : State) (i : Nat) (x : NorSlot) : (s.modSlot i x).pending = s.pending := by simp [State.modSlot]

@[simp] theorem State.dropSlot_pending (s : State) (r : SecRun) : (s.dropSlot r).pending = s.pending := by simp [State.dropSlot]

@[simp] theorem State.cutInstall_pending (s : State) : s.cutInstall.pending = s.pending := by fun_cases State.cutInstall s <;> simp

/-! ### Weir.lean -/

@[simp] theorem State.takeHead_pending (s : State) (pt sq : Nat) : (s.takeHead pt sq).pending = s.pending := by simp [State.takeHead]

@[simp] theorem State.refuse_pending (s : State) (pt sq : Nat) (d : List Byte) (code quote : Nat) :
    (s.refuse pt sq d code quote).pending = s.pending := by simp [State.refuse]

@[simp] theorem State.chargeSeed_pending (s : State) (a : Adm) : (s.chargeSeed a).pending = s.pending := by
  fun_cases State.chargeSeed s a <;> simp

@[simp] theorem State.admitOne_pending (s : State) (a : Adm) (resv : List Resv) : (s.admitOne a resv).pending = s.pending := by
  simp [State.admitOne]

@[simp] theorem State.settleVerdict_pending (s : State) (pt sq : Nat) (d : List Byte) (v : Verdict) (after : State → Nat → State)
    (hf : EachKeepsQueue fun n s => after s n) :
    (s.settleVerdict pt sq d v after).pending = s.pending := by
  have hafter : ∀ n t, (after t n).pending = t.pending := hf
  unfold State.settleVerdict
  split
  · simp
  · dsimp only
    repeat' split
    all_goals simp [hafter]

@[simp] theorem State.skipUndefined_pending (k : Nat) (s : State) : (s.skipUndefined k).pending = s.pending := by
  induction k generalizing s with
  | zero => rfl
  | succ k ih =>
    unfold State.skipUndefined
    split
    · rfl
    · split
      · rfl
      · split <;> simp [ih]

@[simp] theorem State.decideHead_pending (s : State) (pt sq op : Nat) (v : State → List Byte → Verdict)
    (after : List Byte → State → Nat → State) (hf : EachKeepsQueue fun (x : List Byte × Nat) s => after x.1 s x.2) :
    (s.decideHead pt sq op v after).pending = s.pending := by
  unfold State.decideHead
  split
  · split
    · rfl
    · simp [State.settleVerdict_pending _ _ _ _ _ _ fun n t => hf (_, n) t]
  · rfl

@[simp] theorem execStep_answers (pt : Pt) (sq : QueueIx) (s : State) : s.Answers (execStep pt sq s) := by simp [execStep]

@[simp] theorem execSeed_answers (pt : Pt) (sq : QueueIx) (s : State) : s.Answers (execSeed pt sq s) := by simp [execSeed]

@[simp] theorem execCopy_answers (pt : Pt) (sq : QueueIx) (s : State) : s.Answers (execCopy pt sq s) := by simp [execCopy]

@[simp] theorem execGather_answers (pt : Pt) (sq : QueueIx) (s : State) : s.Answers (execGather pt sq s) := by simp [execGather]

@[simp] theorem execScatter_answers (pt : Pt) (sq : QueueIx) (s : State) : s.Answers (execScatter pt sq s) := by simp [execScatter]

@[simp] theorem execScalarSet_answers (pt : Pt) (sq : QueueIx) (hostRecord : List Byte) (s : State) :
    s.Answers (execScalarSet pt sq hostRecord s) := by simp [execScalarSet]

@[simp] theorem execSnapshot_answers (pt : Pt) (sq : QueueIx) (s : State) : s.Answers (execSnapshot pt sq s) := by
  refine (s.answers_next _).mpr (s.decideHead_pending pt sq 7 _ _ fun x t => ?_)
  dsimp only
  split
  · split <;> simp
  · rfl

@[simp] theorem execDmaIn_answers (pt : Pt) (sq : QueueIx) (s : State) : s.Answers (execDmaIn pt sq s) := by simp [execDmaIn]

@[simp] theorem execDmaOut_answers (pt : Pt) (sq : QueueIx) (s : State) : s.Answers (execDmaOut pt sq s) := by simp [execDmaOut]

@[simp] theorem execFence_answers (pt : Pt) (sq : QueueIx) (s : State) : s.Answers (execFence pt sq s) := by simp [execFence]

@[simp] theorem execPromiseExpire_answers (pt : Pt) (admno : Word) (s : State) : s.Answers (execPromiseExpire pt admno s) := by
  simp only [execPromiseExpire, State.answers_next]
  split <;> simp

@[simp] theorem State.endStopped_pending (s : State) : s.endStopped.pending = s.pending := by simp [State.endStopped]

@[simp] theorem execHostDmaStageStart_answers (pt : Pt) (admno : Word) (s : State) : s.Answers (execHostDmaStageStart pt admno s) := by
  simp only [execHostDmaStageStart, State.answers_next]
  split <;> simp

@[simp] theorem State.hostVersion_pending (s : State) (pt : Nat) (r : Nat × Int × Int) : (s.hostVersion pt r).pending = s.pending := by
  fun_cases State.hostVersion s pt r <;> simp

@[simp] theorem State.dmaArrives_pending (s : State) (pt admno off : Nat) (data : List Byte) :
    (s.dmaArrives pt admno off data).pending = s.pending := by fun_cases State.dmaArrives s pt admno off data <;> simp +zetaDelta

@[simp] theorem State.dmaAccepted_pending (s : State) (pt admno n : Nat) : (s.dmaAccepted pt admno n).pending = s.pending := by
  fun_cases State.dmaAccepted s pt admno n <;> simp +zetaDelta

@[simp] theorem State.dmaFails_pending (s : State) (pt admno : Nat) : (s.dmaFails pt admno).pending = s.pending := by simp [State.dmaFails]

end Sys2Proof.Machine
end

section
/-! PROOFS. The queue under the host link, the resets and the security block. -/
namespace Sys2Proof.Machine

/-! ### Rill.lean -/

@[simp] theorem State.secFails_pending (s : State) : s.secFails.pending = s.pending := by simp [State.secFails]

@[simp] theorem State.transferFails_pending (s : State) (p : Purpose) : (s.transferFails p).pending = s.pending := by
  fun_cases State.transferFails s p <;> simp

@[simp] theorem State.takeOut_pending (s : State) (tag : Nat) (read : Bool) : (s.takeOut tag read).2.pending = s.pending := by
  simp [State.takeOut]

@[simp] theorem State.pumpHeld_pending (k : Nat) (s : State) : (s.pumpHeld k).pending = s.pending := by
  induction k generalizing s with
  | zero => rfl
  | succ k ih =>
    unfold State.pumpHeld
    split
    · rfl
    · extract_lets o stopped s1 s2
      clear_value stopped o
      split
      · split <;> simp [s1, ih]
      · simp [s2, ih]

@[simp] theorem State.pumpLink_pending (s : State) : s.pumpLink.pending = s.pending := by simp [State.pumpLink]

@[simp] theorem State.staleFetches_pending (s : State) (pt sq : Nat) : (s.staleFetches pt sq).pending = s.pending := by
  simp [State.staleFetches]

@[simp] theorem State.ringPump_pending (s : State) (id : RingId) : (s.ringPump id).pending = s.pending := by
  fun_cases State.ringPump s id <;> simp

@[simp] theorem State.ringDisable_pending (s : State) (id : RingId) : (s.ringDisable id).pending = s.pending := by
  fun_cases State.ringDisable s id <;> simp +zetaDelta

@[simp] theorem State.writeRingCtl_pending (s : State) (id : RingId) (w : Word) : (s.writeRingCtl id w).pending = s.pending := by
  simp [State.writeRingCtl]

@[simp] theorem execQueueEnable_answers (ring : RingId) (ctl : Word) (s : State) : s.Answers (execQueueEnable ring ctl s) := by
  simp [execQueueEnable]

@[simp] theorem State.writeSqDb_pending (s : State) (pt : Pt) (n : QueueIx) (v : Nat) : (s.writeSqDb pt n v).pending = s.pending := by
  simp [State.writeSqDb]

@[simp] theorem State.writeHeadDb_pending (s : State) (id : RingId) (v : Nat) : (s.writeHeadDb id v).pending = s.pending := by
  simp [State.writeHeadDb]

@[simp] theorem execQwSqDb_answers (pt : Pt) (n : QueueIx) (tail : BitVec 16) (s : State) : s.Answers (execQwSqDb pt n tail s) := by
  simp [execQwSqDb]

@[simp] theorem execQwCqDb_answers (pt : Pt) (n : QueueIx) (head : BitVec 16) (s : State) : s.Answers (execQwCqDb pt n head s) := by
  simp [execQwCqDb]

@[simp] theorem execQwEqDb_answers (pt : Pt) (head : BitVec 16) (s : State) : s.Answers (execQwEqDb pt head s) := by simp [execQwEqDb]

@[simp] theorem execRillMeqDb_answers (head : BitVec 16) (s : State) : s.Answers (execRillMeqDb head s) := by simp [execRillMeqDb]

@[simp] theorem execFaultRingDb_answers (head : BitVec 16) (s : State) : s.Answers (execFaultRingDb head s) := by simp [execFaultRingDb]

@[simp] theorem execModTimeExpire_answers (ring : RingId) (s : State) : s.Answers (execModTimeExpire ring s) := by
  simp only [execModTimeExpire, State.answers_next]
  split <;> simp

@[simp] theorem State.ringRevoked_pending (s : State) (id : RingId) : (s.ringRevoked id).pending = s.pending := by
  fun_cases State.ringRevoked s id <;> simp +zetaDelta

@[simp] theorem State.revoke_pending (s : State) (w : Nat) (owner : Option Nat) : (s.revoke w owner).pending = s.pending := by
  simp [State.revoke]

@[simp] theorem State.writeWinCtl_pending (s : State) (w v : Nat) : (s.writeWinCtl w v).pending = s.pending := by simp [State.writeWinCtl]

@[simp] theorem execWindowGrant_answers (w : Fin 64) (ctl : Word) (s : State) : s.Answers (execWindowGrant w ctl s) := by
  simp [execWindowGrant]

@[simp] theorem execWindowRevoke_answers (w : Fin 64) (ctl : Word) (s : State) : s.Answers (execWindowRevoke w ctl s) := by
  simp [execWindowRevoke]

@[simp] theorem State.relink_pending (s : State) (f : Rill → Rill) : (s.relink f).pending = s.pending := by
  fun_cases State.relink s f <;> simp +zetaDelta

@[simp] theorem State.trainRill_pending (s : State) : s.trainRill.pending = s.pending := by simp [State.trainRill]

@[simp] theorem State.rillClear_pending (s : State) : s.rillClear.pending = s.pending := by simp [State.rillClear]

@[simp] theorem State.rillReset_pending (s : State) : s.rillReset.pending = s.pending := by simp [State.rillReset]

@[simp] theorem State.linkUp_pending (s : State) (w : Nat) : (s.linkUp w).pending = s.pending := by
  simp only [State.linkUp, State.modEvent_pending]
  exact (forEach_pending _ _ _ fun r t => by split <;> simp).trans (s.relink_pending _)

@[simp] theorem State.rillFails_pending (s : State) : s.rillFails.pending = s.pending := by simp [State.rillFails]

@[simp] theorem State.rillNext_pending (s : State) (stage : Nat) : (s.rillNext stage).pending = s.pending := by simp [State.rillNext]

@[simp] theorem execRillTrainingStage_answers (cable : Bool) (result : RillStageEnd) (s : State) :
    s.Answers (execRillTrainingStage cable result s) := by
  unfold execRillTrainingStage
  extract_lets st s1
  have h1 : s1.pending = s.pending := by simp [s1]
  refine (s.answers_next _).mpr ?_
  clear_value s1
  repeat' split
  all_goals simp [h1]

@[simp] theorem execRillRetry_answers (s : State) : s.Answers (execRillRetry s) := by simp [execRillRetry]

@[simp] theorem execLinkDown_answers (s : State) : s.Answers (execLinkDown s) := by simp [execLinkDown]

@[simp] theorem execReset_answers (s : State) : s.Answers (execReset s) := by simp [execReset]

@[simp] theorem State.writeRillCmd_pending (s : State) (v : Nat) : (s.writeRillCmd v).pending = s.pending := by simp [State.writeRillCmd]

@[simp] theorem execLinkrst_answers (key : Byte) (s : State) : s.Answers (execLinkrst key s) := by simp [execLinkrst]

@[simp] theorem State.resendFrom_pending (s : State) (ack : Nat) : (s.resendFrom ack).pending = s.pending := by simp [State.resendFrom]

@[simp] theorem execFlit_answers (f : Flit) (s : State) : s.Answers (execFlit f s) := by simp [execFlit]

@[simp] theorem State.message_pending (s : State) (h : MsgHeader) (mt : Nat) (f : State → State) (hf : KeepsQueue f) :
    (s.message h mt f).pending = s.pending := by
  unfold State.message
  split
  · rfl
  · split
    · simp
    · split
      · rfl
      · exact hf s

@[simp] theorem State.takeDescriptors_pending (s : State) (pt sq n : Nat) (data : List Byte) :
    (s.takeDescriptors pt sq n data).pending = s.pending := by simp [State.takeDescriptors]

@[simp] theorem execMemCpl_answers (h : MsgHeader) (data : List Byte) (s : State) : s.Answers (execMemCpl h data s) := by
  refine (s.answers_next _).mpr (s.message_pending h 5 _ fun t => ?_)
  have htake := t.takeOut_pending h.tag.toNat true
  split
  · next hu => rfl
  · next o u hu =>
    replace htake : u.pending = t.pending := by rw [hu] at htake; exact htake
    simp only [State.pumpLink_pending]
    repeat' split
    all_goals simp [htake]

@[simp] theorem execMemAck_answers (h : MsgHeader) (s : State) : s.Answers (execMemAck h s) := by
  refine (s.answers_next _).mpr (s.message_pending h 7 _ fun t => ?_)
  have htake := t.takeOut_pending h.tag.toNat false
  split
  · next hu => rfl
  · next o u hu =>
    replace htake : u.pending = t.pending := by rw [hu] at htake; exact htake
    simp only [State.pumpLink_pending]
    repeat' split
    all_goals simp [htake]

@[simp] theorem execCplTimeout_answers (tag : BitVec 16) (s : State) : s.Answers (execCplTimeout tag s) := by
  simp only [execCplTimeout, State.answers_next]
  split <;> simp

/-! ### Resets.lean -/

@[simp] theorem State.endTest_pending (s : State) (i : Nat) : (s.endTest i).pending = s.pending := by simp [State.endTest]

@[simp] theorem State.dropEngines_pending (s : State) (pt : Nat) : (s.dropEngines pt).pending = s.pending := by
  simp -implicitDefEqProofs [State.dropEngines]

@[simp] theorem State.resetQueues_pending (s : State) (pt : Nat) : (s.resetQueues pt).pending = s.pending := by simp [State.resetQueues]

@[simp] theorem State.dropWeir_pending (s : State) (pt : Nat) : (s.dropWeir pt).pending = s.pending := by simp [State.dropWeir]

@[simp] theorem State.resetPt_pending (s : State) (pt : Nat) : (s.resetPt pt).pending = s.pending := by
  simp -implicitDefEqProofs [State.resetPt]

@[simp] theorem State.computeReset_pending (s : State) : s.computeReset.pending = s.pending := by
  simp -implicitDefEqProofs [State.computeReset]

@[simp] theorem State.partitionReset_pending (s : State) (mask : Nat) : (s.partitionReset mask).pending = s.pending := by
  simp [State.partitionReset]

@[simp] theorem execScrubComplete_answers (compute : Bool) (pt : Pt) (s : State) : s.Answers (execScrubComplete compute pt s) := by
  simp -implicitDefEqProofs [execScrubComplete]

@[simp] theorem State.startRails_pending (s : State) : s.startRails.pending = s.pending := by simp [State.startRails]

@[simp] theorem State.startBringup_pending (s : State) : s.startBringup.pending = s.pending := by simp [State.startBringup]

@[simp] theorem State.moduleDown_pending (s : State) (cause source : Nat) : (s.moduleDown cause source).pending = s.pending := by
  simp [State.moduleDown]

@[simp] theorem State.moduleReset_pending (s : State) (cause source : Nat) : (s.moduleReset cause source).pending = s.pending := by
  simp [State.moduleReset]

@[simp] theorem State.writeGlobalReset_pending (s : State) (w : Nat) : (s.writeGlobalReset w).pending = s.pending := by
  simp [State.writeGlobalReset]

@[simp] theorem execPartitionReset_answers (key : Byte) (ptmask : BitVec 16) (s : State) : s.Answers (execPartitionReset key ptmask s) := by
  simp [execPartitionReset]

@[simp] theorem execComputeReset_answers (key : Byte) (s : State) : s.Answers (execComputeReset key s) := by simp [execComputeReset]

@[simp] theorem execModuleReset_answers (key : Byte) (s : State) : s.Answers (execModuleReset key s) := by simp [execModuleReset]

/-! ### Security.lean -/

@[simp] theorem State.openWindow_pending (s : State) : s.openWindow.pending = s.pending := by simp [State.openWindow]

@[simp] theorem State.inputLater_pending (s : State) (i : Nat) (lvl : Bool) (f : Bool → State → State) (hf : EachKeepsQueue f) :
    (s.inputLater i lvl f).pending = s.pending := by
  unfold State.inputLater
  split
  · rfl
  · split
    · rfl
    · exact (hf _ _).trans (s.inputChange_pending i lvl)

@[simp] theorem execButtonPress_answers (s : State) : s.Answers (execButtonPress s) := by simp [execButtonPress]

@[simp] theorem execButtonWindowExpire_answers (s : State) : s.Answers (execButtonWindowExpire s) := by simp [execButtonWindowExpire]

@[simp] theorem execJumperFit_answers (s : State) : s.Answers (execJumperFit s) := by simp [execJumperFit]

@[simp] theorem execJumperRemove_answers (s : State) : s.Answers (execJumperRemove s) := by simp [execJumperRemove]

@[simp] theorem execSealBreak_answers (s : State) : s.Answers (execSealBreak s) := by simp [execSealBreak]

@[simp] theorem execSealLoopClose_answers (s : State) : s.Answers (execSealLoopClose s) := by simp [execSealLoopClose]

@[simp] theorem State.writeSealno_pending (s : State) (w : Nat) : (s.writeSealno w).pending = s.pending := by simp [State.writeSealno]

@[simp] theorem execSecSealno_answers (number : Word) (s : State) : s.Answers (execSecSealno number s) := by simp [execSecSealno]

@[simp] theorem State.commitGroup_offers (s : State) (l : List (Nat × List Byte)) : s.Offers (s.commitGroup l) := by
  unfold State.commitGroup
  dsimp only
  split
  · exact s.offers_none
  · intro t ht
    obtain ⟨x, -, rfl⟩ := Option.map_eq_some_iff.mp ht
    simp only [forEach_pending, eachKeepsQueue_iff, implies_true, State.onCommit_pending, State.modCis_pending, State.modJournal_pending,
      State.charge_pending]

@[simp] theorem State.raiseNote_pending (s before : State) (c : Nat) : (s.raiseNote before c).pending = s.pending := by
  simp [State.raiseNote]

@[simp] theorem State.secFinish_pending (s : State) (code : Nat) : (s.secFinish code).pending = s.pending := by simp [State.secFinish]

@[simp] theorem State.programFuses_pending (s : State) (o : List Byte) (ok : Bool) : (s.programFuses o ok).pending = s.pending := by
  simp [State.programFuses]

@[simp] theorem State.secEffect_offers (s : State) (r : SecRun) (o : List Byte) (norOk fuseOk : Bool) :
    s.Offers (s.secEffect r o norOk fuseOk) := by
  unfold State.secEffect
  dsimp only
  repeat' split
  all_goals simp

@[simp] theorem State.ownerClear_offers (s : State) : s.Offers (s.ownerClear) := by
  unfold State.ownerClear
  dsimp only
  split <;> simp

@[simp] theorem State.startActivation_pending (s : State) (arg : Nat) : (s.startActivation arg).pending = s.pending := by
  have hgroup : ∀ l : List (Nat × List Byte), s.Offers (if l.isEmpty then some s else s.commitGroup l) := by
    intro l
    split <;> simp
  unfold State.startActivation
  dsimp only
  split
  · rfl
  · next t ht => simpa using hgroup _ t ht

@[simp] theorem State.startOutput_pending (s : State) (owner : Option Nat) (dst : Nat) (out : List Byte) :
    (s.startOutput owner dst out).pending = s.pending := by fun_cases State.startOutput s owner dst out <;> simp +zetaDelta

@[simp] theorem State.secStart_pending (s : State) (cmd arg : Nat) (ptv : Bool) : (s.secStart cmd arg ptv).pending = s.pending := by
  fun_cases State.secStart s cmd arg ptv <;> simp +zetaDelta

@[simp] theorem State.writeSecCmd_pending (s : State) (w : Nat) : (s.writeSecCmd w).pending = s.pending := by simp [State.writeSecCmd]

@[simp] theorem State.secCommand_pending (s : State) (cmd : Nat) (key : Byte) (arg : Nat) (ptv : Bool) :
    (s.secCommand cmd key arg ptv).pending = s.pending := by simp [State.secCommand]

@[simp] theorem execFwInstall_answers (key : Byte) (arg : Fin 16) (s : State) : s.Answers (execFwInstall key arg s) := by
  simp [execFwInstall]

@[simp] theorem execFwActivate_answers (key : Byte) (arg : Fin 16) (s : State) : s.Answers (execFwActivate key arg s) := by
  simp [execFwActivate]

@[simp] theorem execLicenceInstall_answers (key : Byte) (s : State) : s.Answers (execLicenceInstall key s) := by simp [execLicenceInstall]

@[simp] theorem execOwnerEnrol_answers (key : Byte) (s : State) : s.Answers (execOwnerEnrol key s) := by simp [execOwnerEnrol]

@[simp] theorem execOwnerClear_answers (key : Byte) (s : State) : s.Answers (execOwnerClear key s) := by simp [execOwnerClear]

@[simp] theorem execRecoveryWrite_answers (key : Byte) (s : State) : s.Answers (execRecoveryWrite key s) := by simp [execRecoveryWrite]

@[simp] theorem execFuseProgram_answers (key : Byte) (s : State) : s.Answers (execFuseProgram key s) := by simp [execFuseProgram]

@[simp] theorem execAttest_answers (key : Byte) (arg : Fin 16) (ptv : Bool) (s : State) : s.Answers (execAttest key arg ptv s) := by
  simp [execAttest]

@[simp] theorem execIdkeyOut_answers (key : Byte) (s : State) : s.Answers (execIdkeyOut key s) := by simp [execIdkeyOut]

@[simp] theorem execClose_answers (key : Byte) (s : State) : s.Answers (execClose key s) := by simp [execClose]

@[simp] theorem execSecCmdComplete_answers (norOk fuseOk : Bool) (s : State) : s.Answers (execSecCmdComplete norOk fuseOk s) := by
  simp only [execSecCmdComplete, State.answers_next]
  repeat' split
  all_goals simp

end Sys2Proof.Machine
end

section
/-! PROOFS. The queue under power, bring-up, tests and scrubs. -/
namespace Sys2Proof.Machine

/-! ### Power.lean -/

@[simp] theorem State.chargeClock_pending (s : State) (die dom : Nat) : (s.chargeClock die dom).pending = s.pending := by
  simp [State.chargeClock]

@[simp] theorem State.chargeClocks_pending (s : State) : s.chargeClocks.pending = s.pending := by
  simp -implicitDefEqProofs [State.chargeClocks]

@[simp] theorem State.setVca_pending (s : State) (die : Nat) : (s.setVca die).pending = s.pending := by simp [State.setVca]

@[simp] theorem execVoltageUpdate_answers (s : State) : s.Answers (execVoltageUpdate s) := by simp -implicitDefEqProofs [execVoltageUpdate]

@[simp] theorem State.publish_pending (s : State) (die point : Nat) : (s.publish die point).pending = s.pending := by simp [State.publish]

@[simp] theorem State.aimPoint_pending (s : State) (die point : Nat) : (s.aimPoint die point).pending = s.pending := by
  simp [State.aimPoint]

@[simp] theorem execPointChangeDone_answers (die : Die) (s : State) : s.Answers (execPointChangeDone die s) := by simp [execPointChangeDone]

@[simp] theorem State.enableOrder_pending (s : State) (o : Nat) : (s.enableOrder o).pending = s.pending := by
  simp -implicitDefEqProofs [State.enableOrder]

@[simp] theorem execRailPowerGood_answers (rail : Fin 16) (s : State) : s.Answers (execRailPowerGood rail s) := by
  simp -implicitDefEqProofs [execRailPowerGood]

@[simp] theorem execRailFault_answers (rail : Fin 16) (s : State) : s.Answers (execRailFault rail s) := by simp [execRailFault]

@[simp] theorem execRailRetry_answers (s : State) : s.Answers (execRailRetry s) := by simp [execRailRetry]

@[simp] theorem execInputValid_answers (s : State) : s.Answers (execInputValid s) := by
  simp only [execInputValid, State.answers_next]
  repeat' split
  all_goals simp

/-- The shape of the operation that shares the measured energy over the tags (R456): a forEach, then a change of the power state. -/
theorem State.forEach_modPower_pending {α : Type} {s u : State} (l : List α) (g : α → State → State) (f : Power → Power)
    (hu : u.pending = s.pending) (hg : EachKeepsQueue g) : ((forEach l g u).modPower f).pending = s.pending :=
  ((forEach l g u).modPower_pending f).trans ((forEach_pending l g u hg).trans hu)

@[simp] theorem State.inputLost_pending (s : State) (lowest : Nat) : (s.inputLost lowest).pending = s.pending := by
  unfold State.inputLost
  extract_lets s1 s2 s3
  have h3 : s3.pending = s.pending := by simp -implicitDefEqProofs [s3, s2, s1]
  clear_value s3
  rw [State.startFlush_pending, ← h3]
  exact State.forEach_modPower_pending _ _ _ (by simp -implicitDefEqProofs) (by simp -implicitDefEqProofs)

@[simp] theorem execInputLoss_answers (lowest10mV : Nat) (s : State) : s.Answers (execInputLoss lowest10mV s) := by simp [execInputLoss]

@[simp] theorem execInputReturn_answers (s : State) : s.Answers (execInputReturn s) := by simp [execInputReturn]

@[simp] theorem execHoldupExpire_answers (s : State) : s.Answers (execHoldupExpire s) := by simp [execHoldupExpire]

@[simp] theorem execOverVoltage_answers (s : State) : s.Answers (execOverVoltage s) := by simp [execOverVoltage]

@[simp] theorem execOvervoltageClear_answers (s : State) : s.Answers (execOvervoltageClear s) := by simp [execOvervoltageClear]

@[simp] theorem execPllLockLoss_answers (s : State) : s.Answers (execPllLockLoss s) := by simp [execPllLockLoss]

@[simp] theorem State.closeDroop_pending (s : State) (die : Nat) : (s.closeDroop die).pending = s.pending := by
  fun_cases State.closeDroop s die <;> simp

@[simp] theorem execDroopDetect_answers (die : Die) (rail : Rail) (s : State) : s.Answers (execDroopDetect die rail s) := by
  simp [execDroopDetect]

@[simp] theorem execDroopRelease_answers (die : Die) (rail : Rail) (s : State) : s.Answers (execDroopRelease die rail s) := by
  simp [execDroopRelease]

@[simp] theorem State.addStress_pending (s : State) (die : Nat) (t : Int) (mv : Nat) : (s.addStress die t mv).pending = s.pending := by
  simp [State.addStress]

@[simp] theorem State.thermalTrip_pending (s : State) (source : Nat) : (s.thermalTrip source).pending = s.pending := by
  simp [State.thermalTrip]

@[simp] theorem execSensorRead_answers (dies : List (List Int)) (hub : List Int) (s : State) : s.Answers (execSensorRead dies hub s) := by
  simp only [execSensorRead, State.answers_next]
  repeat' split
  all_goals simp -implicitDefEqProofs

@[simp] theorem execThermalRestart_answers (s : State) : s.Answers (execThermalRestart s) := by
  simp -implicitDefEqProofs [execThermalRestart]

@[simp] theorem execPlanningStepDown_answers (die : Die) (s : State) : s.Answers (execPlanningStepDown die s) := by
  simp [execPlanningStepDown]

@[simp] theorem execEstimatorWindow_answers (watts inputVolts10mV inputWatts : Nat) (energies : List (EnergyBlock × Nat)) (s : State) :
    s.Answers (execEstimatorWindow watts inputVolts10mV inputWatts energies s) := by simp -implicitDefEqProofs [execEstimatorWindow]

@[simp] theorem execMeasurementWindow_answers (microjoules : Nat) (s : State) : s.Answers (execMeasurementWindow microjoules s) := by
  refine (s.answers_next _).mpr ?_
  split
  · rfl
  · rw [State.fire_pending]
    exact State.forEach_modPower_pending _ _ _ (by simp -implicitDefEqProofs) (by simp -implicitDefEqProofs)

@[simp] theorem execCalibration_answers (scales : Vector Nat 11) (s : State) : s.Answers (execCalibration scales s) := by
  simp -implicitDefEqProofs [execCalibration]

@[simp] theorem execAbsoluteLimitEngage_answers (s : State) : s.Answers (execAbsoluteLimitEngage s) := by simp [execAbsoluteLimitEngage]

@[simp] theorem execAbsoluteLimitRelease_answers (s : State) : s.Answers (execAbsoluteLimitRelease s) := by simp [execAbsoluteLimitRelease]

@[simp] theorem State.learn_pending (s : State) (pt phase die watts : Nat) : (s.learn pt phase die watts).pending = s.pending := by
  fun_cases State.learn s pt phase die watts <;> simp

@[simp] theorem execCapControllerPeriod_answers (baseWatts : Nat) (samples : List (Nat × Nat × Nat × Nat)) (s : State) :
    s.Answers (execCapControllerPeriod baseWatts samples s) := by simp -implicitDefEqProofs [execCapControllerPeriod]

@[simp] theorem State.powerInput_pending (s : State) (i : Nat) (active : Bool) (f : State → State) (hf : KeepsQueue f) :
    (s.powerInput i active f).pending = s.pending :=
  s.inputLater_pending i active _ fun _ t => hf t

@[simp] theorem execLeakDetect_answers (active : Bool) (s : State) : s.Answers (execLeakDetect active s) := by simp [execLeakDetect]

@[simp] theorem execCoolantOverTemperature_answers (active : Bool) (s : State) : s.Answers (execCoolantOverTemperature active s) := by
  simp [execCoolantOverTemperature]

@[simp] theorem execCotHoldExpire_answers (s : State) : s.Answers (execCotHoldExpire s) := by simp [execCotHoldExpire]

@[simp] theorem execPowerFailWarning_answers (s : State) : s.Answers (execPowerFailWarning s) := by simp [execPowerFailWarning]

@[simp] theorem execPowerFailWarningRelease_answers (s : State) : s.Answers (execPowerFailWarningRelease s) := by
  simp [execPowerFailWarningRelease]

/-! ### BringUp.lean -/

@[simp] theorem State.mapRow_offers (s : State) (kind unit row : Nat) : s.Offers (s.mapRow kind unit row) := by
  fun_cases State.mapRow s kind unit row <;> simp

@[simp] theorem State.applyDefect_pending (s : State) (d : Defect) : (s.applyDefect d).pending = s.pending := by
  fun_cases State.applyDefect s d
  case case4 t ht => exact s.mapRow_offers _ _ _ t ht
  all_goals simp +zetaDelta

@[simp] theorem State.applyRepairs_pending (s : State) : s.applyRepairs.pending = s.pending := by
  simp [State.applyRepairs]

@[simp] theorem State.testFinds_pending (s : State) (kind die n row : Nat) : (s.testFinds kind die n row).pending = s.pending := by
  simp [State.testFinds]

@[simp] theorem State.arrayFails_pending (s : State) (i : Nat) : (s.arrayFails i).pending = s.pending := by simp [State.arrayFails]

@[simp] theorem State.loadFirmware_pending (s : State) (c : Nat) : (s.loadFirmware c).pending = s.pending := by simp [State.loadFirmware]

@[simp] theorem State.runPairs_pending (s : State) : s.runPairs.pending = s.pending := by simp -implicitDefEqProofs [State.runPairs]

@[simp] theorem State.nextPhase_pending (s : State) (n : Nat) : (s.nextPhase n).pending = s.pending := by simp [State.nextPhase]

@[simp] theorem State.candFails_pending (s : State) (c why : Nat) : (s.candFails c why).pending = s.pending := by simp [State.candFails]

@[simp] theorem execFirmwareWatchdog_answers (s : State) : s.Answers (execFirmwareWatchdog s) := by
  simp only [execFirmwareWatchdog, State.answers_next]
  split <;> simp

@[simp] theorem State.startMemTest_pending (s : State) : s.startMemTest.pending = s.pending := by simp [State.startMemTest]

@[simp] theorem State.writeMemsel_pending (s : State) (w : Nat) : (s.writeMemsel w).pending = s.pending := by simp [State.writeMemsel]

@[simp] theorem execForceFull_answers (s : State) : s.Answers (execForceFull s) := by simp [execForceFull]

@[simp] theorem State.channelOut_pending (s : State) (c why : Nat) : (s.channelOut c why).pending = s.pending := by simp [State.channelOut]

@[simp] theorem State.endMemTest_pending (s : State) (pool hbm : List (Nat × Nat)) (phy : List Nat) :
    (s.endMemTest pool hbm phy).pending = s.pending := by simp [State.endMemTest]

@[simp] theorem State.evaluate_pending (s : State) : s.evaluate.pending = s.pending := by simp -implicitDefEqProofs [State.evaluate]

@[simp] theorem State.checkPresence_pending (s : State) : s.checkPresence.pending = s.pending := by
  fun_cases State.checkPresence s <;> simp +zetaDelta

@[simp] theorem State.release_pending (s : State) : s.release.pending = s.pending := by fun_cases State.release s <;> simp +zetaDelta

@[simp] theorem State.loadFuses_pending (s : State) : s.loadFuses.pending = s.pending := by simp -implicitDefEqProofs [State.loadFuses]

@[simp] theorem State.applyTables_pending (s : State) : s.applyTables.pending = s.pending := by
  unfold State.applyTables
  dsimp only
  split <;> simp -implicitDefEqProofs

@[simp] theorem State.becomeReady_pending (s : State) : s.becomeReady.pending = s.pending := by
  simp -implicitDefEqProofs [State.becomeReady]

@[simp] theorem execBringupPhaseEnd_answers (found : BringupFindings) (s : State) : s.Answers (execBringupPhaseEnd found s) := by
  simp only [execBringupPhaseEnd, State.answers_next]
  repeat' split
  all_goals simp -implicitDefEqProofs

@[simp] theorem State.holdRole_pending (s : State) (i : Nat) : (s.holdRole i).pending = s.pending := by
  fun_cases State.holdRole s i <;> simp

@[simp] theorem State.freeRole_pending (s : State) (i : Nat) : (s.freeRole i).pending = s.pending := by simp [State.freeRole]

@[simp] theorem execTestDue_answers (die : Die) (arr : ArrayIx) (s : State) : s.Answers (execTestDue die arr s) := by
  simp only [execTestDue, State.answers_next]
  repeat' split
  all_goals simp -implicitDefEqProofs

@[simp] theorem execTestForced_answers (die : Die) (arr : ArrayIx) (s : State) : s.Answers (execTestForced die arr s) := by
  simp only [execTestForced, State.answers_next]
  repeat' split
  all_goals simp

@[simp] theorem execTestComplete_answers (die : Die) (arr : ArrayIx) (failure : Option (Fin 6 × Nat)) (s : State) :
    s.Answers (execTestComplete die arr failure s) := by
  simp only [execTestComplete, State.answers_next]
  repeat' split
  all_goals simp

@[simp] theorem State.activationEnds_pending (s : State) (outcome : Nat) : (s.activationEnds outcome).pending = s.pending := by
  simp [State.activationEnds]

@[simp] theorem execActivationDrainEnd_answers (s : State) : s.Answers (execActivationDrainEnd s) := by simp [execActivationDrainEnd]

@[simp] theorem execDrainTimeout_answers (s : State) : s.Answers (execDrainTimeout s) := by simp [execDrainTimeout]

@[simp] theorem State.writeActcmd_pending (s : State) (w : Nat) : (s.writeActcmd w).pending = s.pending := by simp [State.writeActcmd]

@[simp] theorem execPostpone_answers (key : Byte) (s : State) : s.Answers (execPostpone key s) := by simp [execPostpone]

@[simp] theorem execRestBegin_answers (s : State) : s.Answers (execRestBegin s) := by simp -implicitDefEqProofs [execRestBegin]

@[simp] theorem execRestEnd_answers (s : State) : s.Answers (execRestEnd s) := by simp [execRestEnd]

@[simp] theorem execActivationComplete_answers (s : State) : s.Answers (execActivationComplete s) := by
  simp -implicitDefEqProofs [execActivationComplete]

@[simp] theorem execActivationTimeout_answers (s : State) : s.Answers (execActivationTimeout s) := by simp [execActivationTimeout]

/-! ### Scrub.lean -/

@[simp] theorem State.scrubBad_pending (s : State) (space unit size : Nat) (bad : List Nat) (r : Rec) :
    (s.scrubBad space unit size bad r).pending = s.pending := by
  fun_cases State.scrubBad s space unit size bad r <;> simp -implicitDefEqProofs +zetaDelta

@[simp] theorem State.trackPool_pending (s : State) (die pool row ev item : Nat) : (s.trackPool die pool row ev item).pending = s.pending := by
  simp [State.trackPool]

@[simp] theorem State.poolCorrected_pending (s : State) (die pool i pos : Nat) : (s.poolCorrected die pool i pos).pending = s.pending := by
  simp [State.poolCorrected]

@[simp] theorem execPoolScrub_answers (die : Die) (pool : Fin 64) (errors : List MemError) (s : State) :
    s.Answers (execPoolScrub die pool errors s) := by
  refine (s.answers_next _).mpr ?_
  split
  · rfl
  · simp only [forEach_pending, eachKeepsQueue_iff, State.trackPool_pending, State.scrubBad_pending, State.poisonAt_pending, implies_true]
    exact forEach_pending _ _ _ fun e t => by split <;> simp

@[simp] theorem State.hbmCandidate_pending (s : State) (stack n row : Nat) : (s.hbmCandidate stack n row).pending = s.pending := by
  simp [State.hbmCandidate]

@[simp] theorem State.trackHbm_pending (s : State) (stack n row ev item : Nat) : (s.trackHbm stack n row ev item).pending = s.pending := by
  simp [State.trackHbm]

@[simp] theorem State.hbmCorrected_pending (s : State) (stack ch i sym : Nat) : (s.hbmCorrected stack ch i sym).pending = s.pending := by
  simp [State.hbmCorrected]

@[simp] theorem State.hbmBad_pending (s : State) (stack ch : Nat) (addr : Bool) (i : Nat) : (s.hbmBad stack ch addr i).pending = s.pending := by
  simp [State.hbmBad]

@[simp] theorem State.hbmErrors_pending (s : State) (stack ch : Nat) (errors : List MemError) :
    (s.hbmErrors stack ch errors).pending = s.pending := by
  simp only [State.hbmErrors, State.trackHbm_pending, State.scrubBad_pending, State.hbmBad_pending, forEach_pending, eachKeepsQueue_iff,
    implies_true]
  exact forEach_pending _ _ _ fun e t => by split <;> simp

@[simp] theorem execHbmScrub_answers (stack : Fin 12) (channel : Fin 32) (errors : List MemError) (s : State) :
    s.Answers (execHbmScrub stack channel errors s) := by simp -implicitDefEqProofs [execHbmScrub]

@[simp] theorem execDielinkFlitError_answers (die : Die) (link : Fin 3) (sends : Fin 9) (s : State) :
    s.Answers (execDielinkFlitError die link sends s) := by simp [execDielinkFlitError]

@[simp] theorem execDielinkRetrainDone_answers (die : Die) (link : Fin 3) (ok : Bool) (s : State) :
    s.Answers (execDielinkRetrainDone die link ok s) := by simp [execDielinkRetrainDone]

end Sys2Proof.Machine
end

section
/-! PROOFS. The queue under the access of registers and under every command; the step on an empty queue (R14, R51). -/
namespace Sys2Proof.Machine

/-! ### RegAccess.lean -/

@[simp] theorem State.readRow_pending (s : State) (off : Nat) (acc : Access) (pair : Nat) : (s.readRow off acc pair).2.pending = s.pending := by
  fun_cases State.readRow s off acc pair <;> simp +zetaDelta

@[simp] theorem State.readReg_pending (s : State) (off : Nat) : (s.readReg off).2.pending = s.pending := by
  fun_cases State.readReg s off <;> simp

@[simp] theorem State.readRegs_pending (k off : Nat) (s : State) : (s.readRegs k off).2.pending = s.pending := by
  induction k generalizing off s with
  | zero => rfl
  | succ k ih => exact (ih (off + 4) _).trans (s.readReg_pending off)

@[simp] theorem State.hostRead_pending (s : State) (tag off n : Nat) : (s.hostRead tag off n).pending = s.pending := by
  simp [State.hostRead]

@[simp] theorem State.storeMasked_pending (s : State) (off mask : Nat) (val : Word) : (s.storeMasked off mask val).pending = s.pending := by
  simp [State.storeMasked]

@[simp] theorem State.pairTakes_pending (s : State) (lo : Nat) (vlo vhi : Word) : (s.pairTakes lo vlo vhi).pending = s.pending := by
  simp [State.pairTakes]

@[simp] theorem State.writeLow_pending (s : State) (off : Nat) (val : Word) : (s.writeLow off val).pending = s.pending := by
  simp [State.writeLow]

@[simp] theorem State.writeHigh_pending (s : State) (off : Nat) (val : Word) : (s.writeHigh off val).pending = s.pending := by
  simp [State.writeHigh]

@[simp] theorem State.writeQueue_pending (s : State) (off mask : Nat) (val : Word) : (s.writeQueue off mask val).pending = s.pending := by
  simp [State.writeQueue]

@[simp] theorem State.writePos_pending (s : State) (v : Nat) : (s.writePos v).pending = s.pending := by simp [State.writePos]

@[simp] theorem State.writePortCmd_pending (s : State) (p v : Nat) : (s.writePortCmd p v).pending = s.pending := by
  simp [State.writePortCmd]

@[simp] theorem State.writeDefclr_pending (s : State) (v : Nat) : (s.writeDefclr v).pending = s.pending := by
  fun_cases State.writeDefclr s v <;> simp +zetaDelta

@[simp] theorem State.writeStorm_pending (s : State) (i v : Nat) : (s.writeStorm i v).pending = s.pending := by simp [State.writeStorm]

@[simp] theorem State.writeActs_offers (s : State) (off mask : Nat) (val : Word) : s.Offers (s.writeActs off mask val) := by
  fun_cases State.writeActs s off mask val <;> simp +zetaDelta

@[simp] theorem State.writeRow_pending (s : State) (off : Nat) (r : RegRow) (val : Word) : (s.writeRow off r val).pending = s.pending := by
  have hacts : ∀ t, s.writeActs off r.mask val = some t → t.pending = s.pending := s.writeActs_offers off r.mask val
  fun_cases State.writeRow s off r val <;> simp [*]

@[simp] theorem State.writeReg_pending (s : State) (off : Nat) (val : Word) : (s.writeReg off val).pending = s.pending := by
  unfold State.writeReg
  split
  · simp
  · split <;> simp

@[simp] theorem State.writeRegs_pending (words : List Word) (off : Nat) (s : State) : (s.writeRegs words off).pending = s.pending := by
  induction words generalizing off s with
  | nil => rfl
  | cons w ws ih =>
    unfold State.writeRegs
    split <;> simp [ih]

@[simp] theorem State.hostWriteReg_pending (s : State) (off : Nat) (val : Word) : (s.hostWriteReg off val).pending = s.pending := by
  simp [State.hostWriteReg]

@[simp] theorem execRegisterWrite_answers (off : Nat) (val : Word) (s : State) : s.Answers (execRegisterWrite off val s) := by
  simp [execRegisterWrite]

@[simp] theorem execRcRead_answers (off : Nat) (s : State) : s.Answers (execRcRead off s) := by simp [execRcRead]

@[simp] theorem execPairLowRead_answers (off : Nat) (s : State) : s.Answers (execPairLowRead off s) := by simp [execPairLowRead]

@[simp] theorem execPairLowWrite_answers (off : Nat) (val : Word) (s : State) : s.Answers (execPairLowWrite off val s) := by
  simp [execPairLowWrite]

@[simp] theorem execPairHighWrite_answers (off : Nat) (val : Word) (s : State) : s.Answers (execPairHighWrite off val s) := by
  simp [execPairHighWrite]

@[simp] theorem execAccerrClear_answers (refusedSameCycle : List (Nat × AccCause)) (s : State) :
    s.Answers (execAccerrClear refusedSameCycle s) := by simp [execAccerrClear]

@[simp] theorem execRetrain_answers (port : Port) (key : Byte) (s : State) : s.Answers (execRetrain port key s) := by simp [execRetrain]

@[simp] theorem execLock_answers (rack : BitVec 11) (s : State) : s.Answers (execLock rack s) := by simp [execLock]

@[simp] theorem execNext_answers (key : Byte) (s : State) : s.Answers (execNext key s) := by simp [execNext]

@[simp] theorem execRestart_answers (key : Byte) (s : State) : s.Answers (execRestart key s) := by simp [execRestart]

@[simp] theorem execClearEntry_answers (s : State) : s.Answers (execClearEntry s) := by simp [execClearEntry]

@[simp] theorem execClearSummary_answers (s : State) : s.Answers (execClearSummary s) := by simp [execClearSummary]

@[simp] theorem execCisternStamp_answers (high : Word) (s : State) : s.Answers (execCisternStamp high s) := by simp [execCisternStamp]

@[simp] theorem execMasked_answers (input : Fin 7) (s : State) : s.Answers (execMasked input s) := by simp [execMasked]

@[simp] theorem execDisable_answers (value : Bool) (s : State) : s.Answers (execDisable value s) := by simp [execDisable]

@[simp] theorem execPortEnable_answers (port : Port) (ctl : Word) (s : State) : s.Answers (execPortEnable port ctl s) := by
  simp [execPortEnable]

@[simp] theorem execRegRd_answers (h : MsgHeader) (s : State) : s.Answers (execRegRd h s) := by
  refine (s.answers_next _).mpr (s.message_pending h 1 _ fun t => ?_)
  simp

@[simp] theorem execRegWr_answers (h : MsgHeader) (words : List Word) (s : State) : s.Answers (execRegWr h words s) := by
  refine (s.answers_next _).mpr (s.message_pending h 2 _ fun t => ?_)
  simp

@[simp] theorem execLldpRead_answers (mailbox : Pair) (s : State) : s.Answers (execLldpRead mailbox s) := by simp [execLldpRead]

@[simp] theorem execDiscRead_answers (mailbox : Pair) (s : State) : s.Answers (execDiscRead mailbox s) := by
  simp only [execDiscRead, State.answers_next]
  repeat' split
  all_goals simp

@[simp] theorem execRouteRecompute_answers (mailbox : Pair) (s : State) : s.Answers (execRouteRecompute mailbox s) := by
  simp [execRouteRecompute]

/-! ### Every command, and the step -/

@[simp] theorem exec_answers (i : Instr) (s : State) : s.Answers (exec i s) := by fun_cases exec <;> simp

theorem State.tick_time (s : State) : s.tick.time = if s.boot.released then s.time + 1 else s.time :=
  apply_ite State.time _ _ _

theorem State.rollPort_time (s : State) (p : Nat) : (s.rollPort p).time = s.time := by
  unfold State.rollPort
  extract_lets x cap s1
  split
  · rfl
  · have h1 : s1.time = s.time := by
      unfold s1
      split <;> rfl
    exact h1

theorem State.serve_time (k : Nat) (s : State) (p : Nat) : (s.serve k p).time = s.time := by
  induction k generalizing s with
  | zero => rfl
  | succ k ih =>
    unfold State.serve
    extract_lets x
    split
    · rfl
    · split
      · rfl
      · exact ih _

theorem State.servePort_time (s : State) (p : Nat) : (s.servePort p).time = s.time :=
  (State.serve_time _ _ _).trans (s.rollPort_time p)

theorem State.clock_time (s : State) : s.clock.time = if s.boot.released then s.time + 1 else s.time := by
  unfold State.clock
  extract_lets t
  split
  · exact s.tick_time
  · exact forEach_keeps (P := fun u : State => u.time = if s.boot.released then s.time + 1 else s.time) _ _ _ s.tick_time
      fun p _ u hu => (u.servePort_time p).trans hu

theorem State.tick_with_time (s : State) : { s.tick with time := s.time } = s := by
  unfold State.tick
  split <;> rfl

theorem State.tick_port (s : State) (p : Nat) : s.tick.port p = s.port p := by
  unfold State.tick
  split <;> rfl

/-- With no frame at any port no port serves one, and the cycle is the tick of local time alone. -/
theorem State.clock_of_no_frame (s : State) (h : ∀ p : Fin 24, (s.port p).queue = []) : s.clock = s.tick := by
  have hnone : ((List.range 24).filter fun p => !(s.tick.port p).queue.isEmpty) = [] :=
    List.filter_eq_nil_iff.mpr fun p hp => by
      have hq : (s.port p).queue = [] := h ⟨p, List.mem_range.mp hp⟩
      simp [State.tick_port, hq]
  unfold State.clock
  extract_lets t
  split
  · rfl
  · exact congrArg (fun l => forEach l (fun p s => s.servePort p) s.tick) hnone

theorem step_nil {s : State} (h : s.pending = []) : step s = .next s.clock := by
  unfold step
  rw [h]

theorem step_cons {s : State} {c : Instr} {rest : List Instr} (h : s.pending = c :: rest) :
    step s = exec c { s with pending := rest } := by
  unfold step
  rw [h]

theorem step_answers (s : State) : ∃ t, step s = .next t ∧ t.pending = s.pending.tail := by
  cases h : s.pending with
  | nil => exact ⟨s.clock, step_nil h, s.clock_pending.trans h⟩
  | cons c rest =>
    obtain ⟨t, ht, hq⟩ := exec_answers c { s with pending := rest }
    exact ⟨t, (step_cons h).trans ht, hq⟩

/-- Settles O2: every command's arm answers a next state and leaves the queue it finds; the empty queue runs one cycle of State.clock. -/
theorem stepConsumesOne : Obligations.StepConsumesOne := by
  refine ⟨step_answers, fun s hs => ⟨s.clock, step_nil hs, s.clock_time, fun hp => ?_⟩⟩
  rw [s.clock_of_no_frame hp]
  exact s.tick_with_time

end Sys2Proof.Machine
end

section
/-! PROOFS. The scrub of a reset: what it zeroes, and the end of the reset (R25, R44). -/
namespace Sys2Proof.Machine

/-- A change that every step of a forEach commutes with commutes with the whole. -/
theorem forEach_comm {α σ : Type} (f : α → σ → σ) (g : σ → σ) (h : ∀ x s, f x (g s) = g (f x s)) :
    ∀ (l : List α) (s : σ), forEach l f (g s) = g (forEach l f s)
  | [], _ => rfl
  | x :: l, s => (congrArg (forEach l f) (h x s)).trans (forEach_comm f g h l (f x s))

theorem bindDie_scrubMem (s : State) (k : Nat → Bool) (die : Nat) : bindDie (s.scrubMem k) die = (bindDie s die).scrubMem k :=
  forEach_comm _ (fun s : State => s.scrubMem k) (fun _ _ => rfl) _ s

theorem bindDie_regs (s : State) (die : Nat) : (bindDie s die).regs = s.regs :=
  forEach_keeps (P := fun t : State => t.regs = s.regs) _ _ s rfl fun _ _ _ h => h

theorem bindDies_scrubMem (s : State) (k : Nat → Bool) :
    forEach (List.range 4) (fun d s => bindDie s d) (s.scrubMem k) = (forEach (List.range 4) (fun d s => bindDie s d) s).scrubMem k :=
  forEach_comm _ (fun s : State => s.scrubMem k) (fun d s => bindDie_scrubMem s k d) _ s

theorem bindDies_regs (s : State) : (forEach (List.range 4) (fun d s => bindDie s d) s).regs = s.regs :=
  forEach_keeps (P := fun t : State => t.regs = s.regs) _ _ s rfl fun d _ t h => (bindDie_regs t d).trans h

theorem Memory.scrub_all (m : Memory) : Memory.scrub m (fun _ => true) = [] := List.filter_eq_nil_iff.mpr (by simp)

theorem exec_scrubComplete (c : Bool) (p : Pt) (s : State) : exec (.scrubComplete c p) s = execScrubComplete c p s := rfl

/-- All memory scrubbed, and no partition resetting any more: what the end of the scrub of a compute reset makes of the state whose roles are
bound. -/
def State.computeScrubbed (s : State) : State :=
  (s.scrubMem fun _ => true).modBoot fun b => { b with computeResetting := false, ptResetting := 0#16, unbound := [] }

theorem State.computeScrubbed_mem (s : State) : s.computeScrubbed.mem = [] := Memory.scrub_all s.mem

theorem State.computeScrubbed_poison (s : State) : s.computeScrubbed.poison = [] := List.filter_eq_nil_iff.mpr (by simp)

theorem State.computeScrubbed_arrays (s : State) : s.computeScrubbed.arrays = s.arrays := rfl

theorem State.computeScrubbed_regs (s : State) : s.computeScrubbed.regs = s.regs := rfl

theorem State.computeScrubbed_resetting (s : State) :
    s.computeScrubbed.boot.computeResetting = false ∧ s.computeScrubbed.boot.ptResetting = 0#16 := ⟨rfl, rfl⟩

theorem exec_scrubComplete_compute {s : State} (p : Pt) (h : s.boot.computeResetting = true) :
    exec (.scrubComplete true p) s = .next (forEach (List.range 4) (fun d s => bindDie s d) s).computeScrubbed := by
  rw [exec_scrubComplete, execScrubComplete, if_pos rfl, if_neg (by simp [h])]
  exact congrArg (fun t : State => Host.Outcome.next (t.modBoot fun b =>
    { b with computeResetting := false, ptResetting := 0#16, unbound := [] })) (bindDies_scrubMem s _)

theorem exec_scrubComplete_partition {s : State} (p : Pt) (hc : s.boot.computeResetting = false) (hp : s.boot.ptResetting.getLsbD p = true) :
    exec (.scrubComplete false p) s = .next ((s.scrubMem (s.ownsKey p)).modBoot fun b =>
      { b with ptResetting := b.ptResetting &&& ~~~ BitVec.ofNat 16 (2 ^ p.val) }) := by
  rw [exec_scrubComplete, execScrubComplete, if_neg (by simp), if_neg (by simp [hc, hp])]

/-- Settles O13: the scrub reads and writes memory alone, which binding the roles does not touch. -/
theorem scrubZeroes : Obligations.ScrubZeroes := by
  refine fun s p ⟨hmem, _⟩ =>
    ⟨fun h => ⟨_, exec_scrubComplete_compute p h, ?_⟩, fun hc hp => ⟨_, exec_scrubComplete_partition p hc hp, ?_⟩⟩
  · have hends := State.computeScrubbed_resetting (forEach (List.range 4) (fun d s => bindDie s d) s)
    exact ⟨State.computeScrubbed_mem _, State.computeScrubbed_poison _, State.computeScrubbed_arrays _, hends.1, hends.2,
      (State.computeScrubbed_regs _).trans (bindDies_regs s)⟩
  · exact ⟨fun a => Memory.read_scrub hmem, rfl, rfl, rfl⟩

end Sys2Proof.Machine
end

section
/-! PROOFS. Adverts: sent, taken into the table, passed on and dropped from it; LOCK (R296, R304, R315, R316). -/
namespace Sys2Proof.Machine

/-! ### What sending frames leaves alone -/

/-- What the adverts of a module turn on, and what they must leave alone: the table and the module's own count, time and serial, the
partitions and memory. Egress touches none of it. -/
structure AdvertView where
  table : List Advert
  seq : Nat
  sentAt : Nat
  nv : Nv
  time : Nat
  parts : Vector Part 16
  mem : Memory
  poison : List Nat

def State.advertView (s : State) : AdvertView where
  table := s.comp.fab.adverts
  seq := s.comp.fab.advSeq
  sentAt := s.comp.fab.advertAt
  nv := s.nv
  time := s.time
  parts := s.comp.parts
  mem := s.mem
  poison := s.poison

theorem State.advertView_adverts {s t : State} (h : t.advertView = s.advertView) : t.comp.fab.adverts = s.comp.fab.adverts :=
  (congrArg AdvertView.table h :)
theorem State.advertView_time {s t : State} (h : t.advertView = s.advertView) : t.time = s.time := (congrArg AdvertView.time h :)
theorem State.advertView_nv {s t : State} (h : t.advertView = s.advertView) : t.nv = s.nv := (congrArg AdvertView.nv h :)
theorem State.advertView_memory {s t : State} (h : t.advertView = s.advertView) : SameMemory s t :=
  ⟨fun a => congrArg (fun v : AdvertView => Memory.read v.mem a) h, congrArg AdvertView.poison h⟩

theorem State.advertView_bump (s : State) (off n : Nat) : (s.bump off n).advertView = s.advertView := rfl
theorem State.advertView_modPort (s : State) (p : Nat) (f : PortSt → PortSt) : (s.modPort p f).advertView = s.advertView := rfl
theorem State.advertView_contend (s : State) (p : Nat) : (s.contend p).advertView = s.advertView := rfl

theorem State.advertView_rollPort (s : State) (p : Nat) : (s.rollPort p).advertView = s.advertView := by
  unfold State.rollPort
  extract_lets x cap s1
  have h1 : s1.advertView = s.advertView := by
    unfold s1
    split
    · exact s.advertView_contend p
    · rfl
  split
  · rfl
  · exact h1

theorem State.advertView_serve (k : Nat) (s : State) (p : Nat) : (s.serve k p).advertView = s.advertView := by
  induction k generalizing s with
  | zero => rfl
  | succ k ih =>
    unfold State.serve
    extract_lets x
    split
    · rfl
    · split
      · rfl
      · exact ih _

theorem State.advertView_servePort (s : State) (p : Nat) : (s.servePort p).advertView = s.advertView :=
  (State.advertView_serve _ _ _).trans (s.advertView_rollPort p)

theorem State.advertView_emit (s : State) (p : Nat) (m : PortMsg) : (s.emit p m).advertView = s.advertView := by
  unfold State.emit
  extract_lets q all mk s1 s2 s3 s4
  have h1 : s1.advertView = s.advertView := by
    unfold s1
    split
    · exact s.advertView_bump _ _
    · rfl
  have h2 : s2.advertView = s1.advertView := s1.advertView_rollPort p
  have h3 : s3.advertView = s2.advertView := s2.advertView_modPort p _
  have h4 : s4.advertView = s3.advertView := by
    unfold s4
    split
    · exact s3.advertView_contend p
    · rfl
  split
  · exact s.advertView_bump _ _
  · exact (s4.advertView_servePort p).trans (h4.trans (h3.trans (h2.trans h1)))

theorem State.advertView_emits (l : List Nat) (m : Nat → PortMsg) (s : State) :
    (forEach l (fun p s => s.emit p (m p)) s).advertView = s.advertView :=
  forEach_keeps (P := fun t : State => t.advertView = s.advertView) _ l s rfl fun p _ t h => (t.advertView_emit p (m p)).trans h

theorem State.advertView_fire (s : State) (n : Nat) : (s.fire n).advertView = s.advertView :=
  (congrArg State.advertView (s.posts_fire n).rest :)

/-! ### The module's own adverts (R296, R315, R316) -/

/-- The state whose advert is being sent: the next SEQ, and the period that starts. -/
def State.advertCounted (s : State) : State :=
  s.modFab fun f => { f with advSeq := (s.comp.fab.advSeq + 1) % 2 ^ 32, advertAt := s.time }

theorem State.sendAdvert_discovers {s : State} (h : s.discovers = true) : s.sendAdvert.advertView = s.advertCounted.advertView := by
  unfold State.sendAdvert
  rw [if_neg (by simp [h])]
  exact State.advertView_emits _ _ _

theorem State.sendAdvert_silent {s : State} (h : s.discovers = false) : s.sendAdvert = s := by
  unfold State.sendAdvert
  rw [if_pos (by simp [h])]

/-- An advert of the module leaves the table, time, the serial and memory as they are. -/
theorem State.sendAdvert_keeps (s : State) :
    s.sendAdvert.comp.fab.adverts = s.comp.fab.adverts ∧ s.sendAdvert.nv = s.nv ∧ s.sendAdvert.time = s.time ∧ SameMemory s s.sendAdvert := by
  cases h : s.discovers with
  | false => rw [State.sendAdvert_silent h]; exact ⟨rfl, rfl, rfl, fun _ => rfl, rfl⟩
  | true =>
    have hv := State.sendAdvert_discovers h
    exact ⟨(State.advertView_adverts hv).trans rfl, (State.advertView_nv hv).trans rfl, (State.advertView_time hv).trans rfl,
      show SameMemory s.advertCounted _ from State.advertView_memory hv⟩

theorem State.sendAdvert_counts {s : State} (h : s.discovers = true) :
    s.sendAdvert.comp.fab.advSeq = (s.comp.fab.advSeq + 1) % 2 ^ 32 ∧ s.sendAdvert.comp.fab.advertAt = s.time ∧
      SameMemory s s.sendAdvert ∧ s.sendAdvert.comp.parts = s.comp.parts := by
  have hv := State.sendAdvert_discovers h
  exact ⟨congrArg AdvertView.seq hv, congrArg AdvertView.sentAt hv,
    show SameMemory s.advertCounted _ from State.advertView_memory hv, congrArg AdvertView.parts hv⟩

theorem exec_advertPeriod (s : State) : exec .advertPeriod s = execAdvertPeriod s := rfl

theorem exec_advertPeriod_due {s : State} (hl : s.posLocked = true) (ht : s.comp.fab.advertAt + s.reg Reg.fabricDiscPeriod ≤ s.time) :
    exec .advertPeriod s = .next s.sendAdvert := by
  rw [exec_advertPeriod, execAdvertPeriod, if_pos ⟨hl, ht⟩]

theorem exec_advertPeriod_early {s : State}
    (h : s.posLocked = false ∨ s.time < s.comp.fab.advertAt + s.reg Reg.fabricDiscPeriod) : exec .advertPeriod s = .next s := by
  rw [exec_advertPeriod, execAdvertPeriod, if_neg]
  rintro ⟨hl, ht⟩
  obtain h | h := h
  · exact absurd (hl.symm.trans h) (by decide)
  · omega

/-! ### LOCK (R296) -/

/-- FABRIC_POS with its RACK and LOCK. -/
def State.posStored (s : State) (rack : Nat) : State := s.put Reg.fabricPos (setField (s.reg Reg.fabricPos) 26 16 rack % 2 ^ 31 + 2 ^ 31)

theorem State.accessCause_fabricPos {s : State} (h : s.boot.ready = true) : s.accessCause Reg.fabricPos false = none := by
  have hblock : blockOf Reg.fabricPos = .fabric := rfl
  have hrow : (regRow Reg.fabricPos).isNone = false := rfl
  simp [State.accessCause, hblock, hrow, h]

theorem State.posStored_reg {s : State} (h : s.Canonical) (rack : Nat) :
    (s.posStored rack).reg Reg.fabricPos = setField (s.reg Reg.fabricPos) 26 16 rack % 2 ^ 31 + 2 ^ 31 := by
  unfold State.posStored
  rw [State.reg_put_same _ _ h]
  omega

theorem State.posStored_locked {s : State} (h : s.Canonical) (rack : Nat) : (s.posStored rack).posLocked = true := by
  rw [State.posLocked, State.posStored_reg h, bit, Nat.shiftRight_eq_div_pow]
  simp

theorem State.posStored_rack {s : State} (h : s.Canonical) {rack : Nat} (hr : rack < 2 ^ 11) :
    field ((s.posStored rack).reg Reg.fabricPos) 26 16 = rack := by
  rw [State.posStored_reg h]
  simp only [setField, field, Nat.shiftRight_eq_div_pow, Nat.shiftLeft_eq]
  omega

theorem regRow_fabricPos : regRow Reg.fabricPos = some ⟨0x2400008, [], .rwl, 0x0, 0x87FF0000, 0, 0x0⟩ := rfl

/-- The word LOCK writes: RACK, and LOCK set. -/
theorem lockWord_toNat (rack : BitVec 11) : (wd (at_ 16 rack.toNat + 2 ^ 31)).toNat = 65536 * rack.toNat + 2 ^ 31 := by
  have := rack.isLt
  simp only [wd, at_, Nat.shiftLeft_eq, BitVec.toNat_ofNat]
  omega

theorem State.writePos_lock (s : State) (rack : BitVec 11) : s.writePos (65536 * rack.toNat + 2 ^ 31) = s.lockPos rack.toNat := by
  have hlt := rack.isLt
  have hlock : bit (65536 * rack.toNat + 2 ^ 31) 31 = true := by
    simp only [bit, Nat.shiftRight_eq_div_pow, beq_iff_eq]
    omega
  have hrack : field (65536 * rack.toNat + 2 ^ 31) 26 16 = rack.toNat := by
    simp only [field, Nat.shiftRight_eq_div_pow]
    omega
  rw [State.writePos, if_pos hlock, hrack]

theorem exec_lock {s : State} (hu : s.hostUp = true) (hr : s.boot.ready = true) (hl : s.posLocked = false) (rack : BitVec 11) :
    exec (.lock rack) s = .next (s.posStored rack.toNat).sendAdvert := by
  have hlocked : s.writeLocked Reg.fabricPos = false := by
    have hblock : blockOf Reg.fabricPos = .fabric := rfl
    simp [State.writeLocked, hblock, hl]
  have hact : s.writeActs Reg.fabricPos 0x87FF0000 (wd (at_ 16 rack.toNat + 2 ^ 31)) = some (s.lockPos rack.toNat) := by
    have hblock : blockOf Reg.fabricPos = .fabric := rfl
    simp only [State.writeActs, hblock, if_true]
    rw [lockWord_toNat, State.writePos_lock]
  have hrow := exec_registerWrite_row (val := wd (at_ 16 rack.toNat + 2 ^ 31)) hu (by decide) (by decide)
    (State.accessCause_fabricPos hr) regRow_fabricPos
  rw [State.writeRow_act ⟨by decide, by decide, by decide⟩ hlocked rfl hact] at hrow
  exact hrow

/-! ### Adverts of other modules (R304, R315) -/

theorem exec_advert (port : Port) (k : Packet) (s : State) : exec (.advert port k) s = execAdvert port k s := rfl

theorem exec_advert_oversize {s : State} (port : Port) {k : Packet} (hr : s.boot.routerRest = false) (h : 9216 < 98 + k.payload.length) :
    exec (.advert port k) s = .next (s.bump (Reg.fabricPortDrop port) 1) := by
  rw [exec_advert, execAdvert, if_neg (by simp [hr]), if_pos (by simp [oversize, h])]

/-- POSDUP is the one thing that looking for a duplicate position can change. -/
theorem State.seeDup_eq_or (s : State) (ser pos : Nat) : s.seeDup ser pos = s.orReg Reg.fabricStat 0x200 ∨ s.seeDup ser pos = s :=
  ite_eq_or_eq _ _ _

theorem State.advertView_seeDup (s : State) (ser pos : Nat) : (s.seeDup ser pos).advertView = s.advertView := by
  obtain h | h := s.seeDup_eq_or ser pos <;> rw [h]
  rfl

theorem State.seeDup_comp (s : State) (ser pos : Nat) : (s.seeDup ser pos).comp = s.comp := by
  obtain h | h := s.seeDup_eq_or ser pos <;> rw [h]
  rfl

theorem State.seeDup_reg {s : State} (h : s.Canonical) (ser pos : Nat) {o : Nat} (ho : regHome o ≠ regHome Reg.fabricStat) :
    (s.seeDup ser pos).reg o = s.reg o := by
  obtain hs | hs := s.seeDup_eq_or ser pos <;> rw [hs]
  exact congrArg BitVec.toNat (State.getReg_setReg_ne _ _ _ _ h.2.1 ho)

theorem regHome_srcfilt_ne : regHome Reg.fabricSrcfilt ≠ regHome Reg.fabricStat := by decide

/-- An advert that the source filter drops: it is counted, and a duplicate of the module's position is seen if the advert is sound. -/
def State.advertFiltered (s : State) (k : Packet) : State :=
  if k.checksumOk ∧ k.ver = 1 ∧ k.typ = 3 ∧ 0x80 ≤ k.payload.length then
    (s.bump Reg.fabricSrcfilt 1).seeDup (u64 k.payload 0) (u32 k.payload 8)
  else s.bump Reg.fabricSrcfilt 1

theorem exec_advert_own {s : State} (port : Port) {k : Packet} (hr : s.boot.routerRest = false) (hl : 98 + k.payload.length ≤ 9216)
    (hm : s.isMine k.srcAddr = true) : exec (.advert port k) s = .next (s.advertFiltered k) := by
  rw [exec_advert, execAdvert, if_neg (by simp [hr]), if_neg (by simp [oversize, hl]), if_pos hm]
  rfl

theorem State.advertFiltered_spec {s : State} (h : s.Canonical) (k : Packet) :
    (s.advertFiltered k).comp = s.comp ∧ (s.advertFiltered k).mem = s.mem ∧
      (s.advertFiltered k).reg Reg.fabricSrcfilt = min (s.reg Reg.fabricSrcfilt + 1) 0xFFFFFFFF := by
  have hcount := State.reg_bump_same Reg.fabricSrcfilt 1 h
  unfold State.advertFiltered
  split
  · have hmem := State.advertView_seeDup (s.bump Reg.fabricSrcfilt 1) (u64 k.payload 0) (u32 k.payload 8)
    exact ⟨State.seeDup_comp _ _ _, congrArg AdvertView.mem hmem,
      (State.seeDup_reg (State.canonical_bump _ _ h) _ _ regHome_srcfilt_ne).trans hcount⟩
  · exact ⟨rfl, rfl, hcount⟩

/-- A neighbour's advert names the partner of its port; a new partner is told at once (R315). -/
def State.partnerSeen (s : State) (p : Nat) (k : Packet) : State :=
  let near := k.hopLimit == 255
  let changed := near && (s.reg (Reg.fabricPortPartnerpos p) != u32 k.payload 8 || s.reg64 (Reg.fabricPortPartnerLo p) != u64 k.payload 0)
  let s := if near then (s.put64 (Reg.fabricPortPartnerLo p) (u64 k.payload 0)).put (Reg.fabricPortPartnerpos p) (u32 k.payload 8) else s
  if changed then s.sendAdvert else s

/-- The entry of the table that an advert makes. -/
def State.advertEntry (s : State) (p : Nat) (k : Packet) : Advert :=
  { serial := u64 k.payload 0, seq := u32 k.payload 0xC, body := k.payload, at_ := s.time
    port := if k.hopLimit == 255 then some p
      else ((s.comp.fab.adverts.find? fun a => a.serial == u64 k.payload 0).bind (·.port)) }

/-- The table takes an entry in place of its module's last; the routes follow. -/
def State.advertStored (s : State) (a : Advert) : State :=
  (((s.modFab fun f => { f with adverts := f.adverts.filter (fun x => x.serial != a.serial) ++ [a] }).seeDup a.serial
    (u32 a.body 8)).fire 0x38).followRoutes

theorem State.advertView_partnerSeen (s : State) (p : Nat) (k : Packet) :
    (s.partnerSeen p k).comp.fab.adverts = s.comp.fab.adverts ∧ (s.partnerSeen p k).nv = s.nv ∧ (s.partnerSeen p k).time = s.time ∧
      SameMemory s (s.partnerSeen p k) := by
  unfold State.partnerSeen
  extract_lets near changed s1
  have h1 : s1.advertView = s.advertView := by
    unfold s1
    split <;> rfl
  obtain ⟨hadv, hnv, htime, hmem, hpoison⟩ := s1.sendAdvert_keeps
  obtain ⟨hmem1, hpoison1⟩ := State.advertView_memory h1
  split
  · exact ⟨hadv.trans (State.advertView_adverts h1), hnv.trans (State.advertView_nv h1), htime.trans (State.advertView_time h1),
      fun a => (hmem a).trans (hmem1 a), hpoison.trans hpoison1⟩
  · exact ⟨State.advertView_adverts h1, State.advertView_nv h1, State.advertView_time h1, hmem1, hpoison1⟩

theorem State.advertView_followRoutes (s : State) : s.followRoutes.advertView = s.advertView := by
  have hset : ∀ (off mask : Nat) (t : State),
      (if bit (t.reg off) 31 then t else t.put off (if mask = 0 then 0 else mask + at_ 30 1)).advertView = t.advertView := by
    intro off mask t
    split <;> rfl
  have hroutes : s.routes.advertView = s.advertView := by
    unfold State.routes
    extract_lets adv mine set racks old s1
    have h1 : s1.advertView = s.advertView :=
      forEach_keeps (P := fun t : State => t.advertView = s.advertView) _ _ s rfl fun r _ t h => (hset _ _ t).trans h
    exact forEach_keeps (P := fun t : State => t.advertView = s.advertView) _ _ s1 h1 fun i _ t h => (hset _ _ t).trans h
  unfold State.followRoutes
  split
  · exact hroutes
  · rfl

theorem State.advertView_advertStored (s : State) (a : Advert) : (s.advertStored a).advertView =
    (s.modFab fun f => { f with adverts := f.adverts.filter (fun x => x.serial != a.serial) ++ [a] }).advertView := by
  unfold State.advertStored
  rw [State.advertView_followRoutes, State.advertView_fire]
  exact State.advertView_seeDup _ _ _

/-- Whether an advert is newer than what the table holds of its module. -/
def State.advertNew (s : State) (k : Packet) : Prop :=
  ∀ y, (s.comp.fab.adverts.find? fun y => y.serial == u64 k.payload 0) = some y → newer (u32 k.payload 0xC) y.seq = true

theorem exec_advert_new {s : State} (port : Port) {k : Packet} (hr : s.boot.routerRest = false) (hl : 98 + k.payload.length ≤ 9216)
    (hm : s.isMine k.srcAddr = false) (hsum : k.checksumOk = true) (hver : k.ver = 1) (htyp : k.typ = 3) (hlen : 0x80 ≤ k.payload.length)
    (hser : u64 k.payload 0 ≠ s.nv.factory.serial) (hnew : s.advertNew k) :
    let s1 := (s.partnerSeen port k).advertStored ((s.partnerSeen port k).advertEntry port k)
    exec (.advert port k) s = .next (if s1.discovers = false ∨ k.hopLimit ≤ 1 then s1
      else forEach (s1.portsUp.filter fun q => q != port.val) (fun q s => s.emit q (.qwt q { k with hopLimit := k.hopLimit - 1 })) s1) := by
  intro s1
  obtain ⟨hadv, hnv, -, -⟩ := s.advertView_partnerSeen port k
  rw [exec_advert, execAdvert, if_neg (by simp [hr]), if_neg (by simp [oversize, hl]), if_neg (by simp [hm]),
    if_neg (by simp [hsum, hver, htyp]; omega)]
  extract_lets b ser pos near changed t1 t2 old isNew a t3 t4 t5
  have hold : isNew = true := by
    have hfind : old = s.comp.fab.adverts.find? fun a => a.serial == ser := congrArg _ hadv
    unfold isNew
    rw [hfind]
    split
    · rfl
    · next y hy => exact hnew y hy
  have hforeign : ¬ ser = t2.nv.factory.serial := fun h => hser (h.trans (congrArg (fun v : Nv => v.factory.serial) hnv))
  rw [if_neg hforeign, if_neg (by simp [hold])]
  have hs1 : t5 = s1 := rfl
  exact congrArg Host.Outcome.next (if_congr (by rw [hs1]; simp) rfl rfl)

/-- The table after an advert: its entry, in place of its module's last, and those of the other modules. -/
theorem State.advertStored_adverts (s : State) (a : Advert) :
    (s.advertStored a).comp.fab.adverts = s.comp.fab.adverts.filter (fun x => x.serial != a.serial) ++ [a] :=
  (State.advertView_adverts (s.advertView_advertStored a)).trans rfl

theorem State.mem_advertStored (s : State) (a y : Advert) :
    y ∈ (s.advertStored a).comp.fab.adverts ↔ (y ∈ s.comp.fab.adverts ∧ y.serial ≠ a.serial) ∨ y = a := by
  simp [State.advertStored_adverts]

theorem State.sameMemory_advertStored (s : State) (a : Advert) : SameMemory s (s.advertStored a) :=
  show SameMemory (s.modFab fun f => { f with adverts := f.adverts.filter (fun x => x.serial != a.serial) ++ [a] }) _ from
    State.advertView_memory (s.advertView_advertStored a)

/-! ### Entries that are not refreshed (R315) -/

theorem exec_advertExpire (serial : BitVec 64) (s : State) : exec (.advertExpire serial) s = execAdvertExpire serial s := rfl

/-- The table without a module; the routes follow. -/
def State.advertDropped (s : State) (serial : Nat) : State :=
  (s.modFab fun f => { f with adverts := f.adverts.filter fun x => x.serial != serial }).followRoutes

theorem exec_advertExpire_due {s : State} {serial : BitVec 64} {a : Advert}
    (hf : (s.comp.fab.adverts.find? fun y => y.serial == serial.toNat) = some a) (ht : a.at_ + 3 * s.reg Reg.fabricDiscPeriod ≤ s.time) :
    exec (.advertExpire serial) s = .next (s.advertDropped serial.toNat) := by
  simp only [exec_advertExpire, execAdvertExpire, hf, if_neg (Nat.not_lt.mpr ht)]
  rfl

theorem exec_advertExpire_kept {s : State} {serial : BitVec 64}
    (h : ∀ a, (s.comp.fab.adverts.find? fun y => y.serial == serial.toNat) = some a → s.time < a.at_ + 3 * s.reg Reg.fabricDiscPeriod) :
    exec (.advertExpire serial) s = .next s := by
  rw [exec_advertExpire, execAdvertExpire]
  split
  · rfl
  · next a ha => rw [if_pos (h a ha)]

theorem State.advertDropped_adverts (s : State) (serial : Nat) :
    (s.advertDropped serial).comp.fab.adverts = s.comp.fab.adverts.filter (fun y => y.serial != serial) :=
  (State.advertView_adverts (State.advertView_followRoutes _)).trans rfl

theorem State.sameMemory_advertDropped (s : State) (serial : Nat) : SameMemory s (s.advertDropped serial) :=
  show SameMemory (s.modFab fun f => { f with adverts := f.adverts.filter fun x => x.serial != serial }) _ from
    State.advertView_memory (State.advertView_followRoutes _)

/-- Settles O39: sending an advert changes the module's count and egress alone, so the table turns on the entry that comes or goes. -/
theorem fabricAdverts : Obligations.FabricAdverts := by
  refine ⟨fun s => ⟨State.sendAdvert_counts, State.sendAdvert_silent, exec_advertPeriod_due, exec_advertPeriod_early⟩,
    fun s rack hcan hu hr hl => ?lock, fun s port k hr => ⟨exec_advert_oversize port hr, fun hlen => ⟨?own, ?foreign⟩⟩,
    fun s serial => ?expire⟩
  case lock =>
    exact ⟨s.posStored rack.toNat, exec_lock hu hr hl rack, State.posStored_locked hcan _, State.posStored_rack hcan rack.isLt,
      State.sameRegsBut_setReg _ _ hcan, rfl⟩
  case own =>
    exact fun hm hcan => ⟨s.advertFiltered k, exec_advert_own port hr hlen hm, State.advertFiltered_spec hcan k⟩
  case foreign =>
    intro hm hsum hver htyp hbody hser hnew
    obtain ⟨hadv, -, htime, hmem⟩ := s.advertView_partnerSeen port k
    have hstored := (s.partnerSeen port k).mem_advertStored ((s.partnerSeen port k).advertEntry port k)
    have hmem1 := (s.partnerSeen port k).sameMemory_advertStored ((s.partnerSeen port k).advertEntry port k)
    refine ⟨_, exec_advert_new port hr hlen hm hsum hver htyp hbody hser hnew,
      ⟨_, (hstored _).mpr (.inr rfl), rfl, rfl, rfl, htime⟩, fun y hy hs => ?_, fun y hs => ?_,
      fun a => (hmem1.1 a).trans (hmem.1 a), hmem1.2.trans hmem.2⟩
    · obtain ⟨-, hne⟩ | rfl := (hstored y).mp hy
      · exact absurd hs hne
      · rfl
    · rw [hstored, hadv]
      constructor
      · rintro (⟨hy, -⟩ | rfl)
        · exact hy
        · exact absurd rfl hs
      · exact fun hy => .inl ⟨hy, hs⟩
  case expire =>
    exact ⟨fun a hf ht => ⟨_, exec_advertExpire_due hf ht, s.advertDropped_adverts _, s.sameMemory_advertDropped _⟩, exec_advertExpire_kept⟩

end Sys2Proof.Machine
end

section
/-! PROOFS. The reset of one partition: what it leaves of the partition in the Weir, the queues and the registers (R43 to R45, R338). -/
namespace Sys2Proof.Machine

/-! ### Which partition's queues an operation can touch (R331 to R335) -/

theorem State.sendHost_queues (s : State) (m : HostMsg) : (s.sendHost m).queues = s.queues := by
  unfold State.sendHost
  split <;> rfl

theorem State.memWr1_queues (s : State) (owner : Option Nat) (addr : Nat) (data : List Byte) (why : Purpose) :
    (s.memWr1 owner addr data why).queues = s.queues := by
  unfold State.memWr1
  split
  · rfl
  · exact State.sendHost_queues _ _

theorem State.pumpReads_queues (k : Nat) (s : State) : (State.pumpReads k s).queues = s.queues := by
  induction k generalizing s with
  | zero => rfl
  | succ k ih =>
    unfold State.pumpReads
    split
    · rfl
    · split
      · rfl
      · extract_lets rill s1 s2
        have h2 : s2.queues = s.queues := by
          unfold s2
          split
          · rfl
          · exact State.sendHost_queues _ _
        exact (ih s2).trans h2

theorem State.memRdAll_queues (s : State) (owner : Option Nat) (addr len : Nat) (why : Nat → Purpose) :
    (s.memRdAll owner addr len why).queues = s.queues := State.pumpReads_queues _ _

theorem State.pumpFetch_queues (s : State) (pt sq : Nat) : (s.pumpFetch pt sq).queues = s.queues := by
  unfold State.pumpFetch
  extract_lets id cq r size have_ room addr n
  split
  · rfl
  · exact State.memRdAll_queues _ _ _ _ _

theorem State.pumpFetches_queues (s : State) (pt : Nat) : (s.pumpFetches pt).queues = s.queues :=
  forEach_keeps (P := fun t : State => t.queues = s.queues) _ _ s rfl fun n _ t h => (t.pumpFetch_queues pt n).trans h

/-- A ring of another owner is none of a partition's queues. -/
theorem State.modRing_queues_of_ne (s : State) {id : RingId} {p : Pt} (h : ringOwner id ≠ some p.val) (f : Ring → Ring) :
    vget (s.modRing id f).queues p = vget s.queues p := by
  have hne : ∀ pt : Pt, some pt.val ≠ some p.val → pt.val % 16 ≠ p.val % 16 := fun pt hpt he =>
    hpt (congrArg some (by rw [← Nat.mod_eq_of_lt pt.isLt, ← Nat.mod_eq_of_lt p.isLt, he]))
  cases id with
  | sq pt n => exact vget_vmod_ne _ _ _ _ (hne pt h)
  | cq pt n => exact vget_vmod_ne _ _ _ _ (hne pt h)
  | eq pt => exact vget_vmod_ne _ _ _ _ (hne pt h)
  | meq => rfl
  | faultRing => rfl

theorem State.ringSignal_queues_of_ne (s : State) {id : RingId} {p : Pt} (h : ringOwner id ≠ some p.val) (now : Bool) :
    vget (s.ringSignal id now).queues p = vget s.queues p := by
  unfold State.ringSignal
  extract_lets c r
  split
  · rw [State.modRing_queues_of_ne _ h, State.sendHost_queues]
  · rfl

theorem State.ringPost_queues_of_ne (s : State) {id : RingId} {p : Pt} (h : ringOwner id ≠ some p.val) (entry : Bool → List Byte)
    (why : Purpose) : vget (s.ringPost id entry why).queues p = vget s.queues p := by
  unfold State.ringPost
  extract_lets r size s1 t s2
  rw [State.ringSignal_queues_of_ne _ h, State.modRing_queues_of_ne _ h, State.memWr1_queues]

theorem State.postEntry_none_queues (s : State) (e : Event) (p : Pt) : vget (s.postEntry none e).queues p = vget s.queues p :=
  State.ringPost_queues_of_ne _ (by simp [evRing, ringOwner]) _ _

theorem State.drainEvents_none_queues (k : Nat) (s : State) (p : Pt) : vget (s.drainEvents k none).queues p = vget s.queues p := by
  induction k generalizing s with
  | zero => rfl
  | succ k ih =>
    unfold State.drainEvents
    extract_lets x s1
    split
    · rfl
    · split
      · exact (ih _).trans (State.postEntry_none_queues _ _ p)
      · split
        · rfl
        · exact (ih _).trans (State.postEntry_none_queues _ _ p)

/-- A module event is in no partition's queues. -/
theorem State.event_none_queues (s : State) (e : Event) (p : Pt) : vget (s.event none e).queues p = vget s.queues p := by
  unfold State.event
  extract_lets x s1
  have h1 : s1.queues = s.queues := by
    unfold s1
    split <;> rfl
  rw [State.drainEvents_none_queues, h1]

theorem State.drainHold_queues_of_ne (k : Nat) (s : State) {pt : Nat} {p : Pt} (h : pt % 16 ≠ p.val) (cq : Nat) :
    vget (State.drainHold k s pt cq).queues p = vget s.queues p := by
  have hmod : pt % 16 ≠ p.val % 16 := by omega
  induction k generalizing s with
  | zero => rfl
  | succ k ih =>
    unfold State.drainHold
    split
    · rfl
    · extract_lets id head s1 s2
      split
      · rfl
      · rw [ih s2, State.ringPost_queues_of_ne _ (by simpa [id, ringOwner] using h)]
        exact vget_vmod_ne _ _ _ _ hmod

theorem State.weirEntry_queues_of_ne (s : State) {pt : Nat} {p : Pt} (h : pt % 16 ≠ p.val) (sq cq : Nat) (bytes : List Byte) :
    vget (s.weirEntry pt sq cq bytes).queues p = vget s.queues p := by
  have hmod : pt % 16 ≠ p.val % 16 := by omega
  exact (State.drainHold_queues_of_ne _ _ h cq).trans (vget_vmod_ne _ _ _ _ hmod)

theorem State.refuse_queues_of_ne (s : State) {pt : Nat} {p : Pt} (h : pt % 16 ≠ p.val) (sq : Nat) (d : List Byte) (code quote : Nat) :
    vget (s.refuse pt sq d code quote).queues p = vget s.queues p := by
  unfold State.refuse
  extract_lets s1 s2 s3
  rw [State.pumpFetches_queues, State.weirEntry_queues_of_ne _ h]
  rfl

theorem State.refuse_comp (s : State) (pt sq : Nat) (d : List Byte) (code quote : Nat) : (s.refuse pt sq d code quote).comp = s.comp := by
  unfold State.refuse
  extract_lets s1 s2 s3
  have h2 : s2.comp = s.comp := (State.put_comp _ _ _).trans (State.bump_comp _ _ _)
  exact (State.posts_pumpFetches _ _).comp.trans ((State.posts_weirEntry _ _ _ _ _).comp.trans h2)

/-! ### A partition with nothing of its own (R44, R338) -/

/-- Nothing of a partition is in its job state, in its queues or in the Weir. -/
structure State.PartBare (s : State) (p : Pt) : Prop where
  part : s.part p = {}
  queues : vget s.queues p = {}
  heads : ∀ h ∈ s.comp.weir.heads, h.1 ≠ p.val
  adms : ∀ a ∈ s.comp.weir.adms, a.pt ≠ p
  resv : ∀ r ∈ s.comp.weir.resv, r.pt ≠ p

/-- What leaves the compute side and the partition's queues as they are leaves the partition bare. -/
theorem State.PartBare.of_same {s t : State} {p : Pt} (h : s.PartBare p) (hc : t.comp = s.comp) (hq : vget t.queues p = vget s.queues p) :
    t.PartBare p where
  part := by rw [State.part, hc]; exact h.part
  queues := hq.trans h.queues
  heads := by rw [hc]; exact h.heads
  adms := by rw [hc]; exact h.adms
  resv := by rw [hc]; exact h.resv

theorem State.PartBare.takeHead {s : State} {p : Pt} (h : s.PartBare p) (pt sq : Nat) : (s.takeHead pt sq).PartBare p where
  part := h.part
  queues := h.queues
  heads x hx := h.heads x (List.mem_of_mem_eraseIdx hx)
  adms := h.adms
  resv := h.resv

theorem mem_of_nextAbove {l : List Nat} {last : Option Nat} {x : Nat} (h : nextAbove l last = some x) : x ∈ l := by
  unfold nextAbove at h
  split at h
  · exact List.mem_of_mem_head? h
  · next n =>
    cases hf : l.find? fun x => decide (n < x) with
    | none =>
      rw [hf] at h
      exact List.mem_of_mem_head? h
    | some y =>
      rw [hf] at h
      exact Option.some.inj h ▸ List.mem_of_find?_eq_some hf

/-- The partition whose turn it is has a head. -/
theorem State.head_of_turn {s : State} {pt sq : Nat} (h : s.turn = some (pt, sq)) : pt < 16 ∧ ∃ x ∈ s.comp.weir.heads, x.1 = pt := by
  unfold State.turn at h
  obtain ⟨q, hq, hp⟩ := Option.bind_eq_some_iff.mp h
  obtain ⟨n, -, he⟩ := Option.map_eq_some_iff.mp hp
  obtain ⟨rfl, -⟩ := Prod.mk.inj he
  obtain ⟨hlt, hany⟩ := List.mem_filter.mp (mem_of_nextAbove hq)
  obtain ⟨x, hx, hxq⟩ := List.any_eq_true.mp hany
  exact ⟨List.mem_range.mp hlt, x, hx, by simpa using hxq⟩

theorem State.PartBare.turn_ne {s : State} {p : Pt} (h : s.PartBare p) {pt sq : Nat} (ht : s.turn = some (pt, sq)) : pt % 16 ≠ p.val := by
  obtain ⟨hlt, x, hx, rfl⟩ := State.head_of_turn ht
  have hne := h.heads x hx
  omega

/-- The heads that are refused in turn are those of other partitions. -/
theorem State.PartBare.skipUndefined {s : State} {p : Pt} (h : s.PartBare p) (k : Nat) : (State.skipUndefined k s).PartBare p := by
  induction k generalizing s with
  | zero => exact h
  | succ k ih =>
    unfold State.skipUndefined
    split
    · exact h
    · next pt sq ht =>
      split
      · exact h
      · split
        · exact h
        · exact ih ((h.takeHead pt sq).of_same (State.refuse_comp _ _ _ _ _ _) (State.refuse_queues_of_ne _ (h.turn_ne ht) _ _ _ _))

theorem State.resetQueues_comp (s : State) (pt : Nat) : (s.resetQueues pt).comp = s.comp :=
  (State.posts_event _ none _).comp.trans ((State.modRill_comp _ _).trans (State.modQ_comp _ _ _))

theorem State.resetQueues_queues (s : State) (p : Pt) : vget (s.resetQueues p).queues p = {} := by
  unfold State.resetQueues
  extract_lets gone mine s1 s2
  rw [State.event_none_queues]
  exact vget_vmod_same _ _ _

/-- The Weir holds nothing of a partition that has left it. -/
theorem State.dropWeir_clean (s : State) (p : Pt) : (∀ h ∈ (s.dropWeir p).comp.weir.heads, h.1 ≠ p.val) ∧
    (∀ a ∈ (s.dropWeir p).comp.weir.adms, a.pt ≠ p) ∧ ∀ r ∈ (s.dropWeir p).comp.weir.resv, r.pt ≠ p :=
  ⟨fun h hh => by simpa using (List.mem_filter.mp hh).2, fun a ha => by simpa using (List.mem_filter.mp ha).2,
    fun r hr => by simpa using (List.mem_filter.mp hr).2⟩

/-- A partition that has left the Weir and the Jobs is bare once its queues are reset. -/
theorem State.partBare_resetQueues {s u : State} {p : Pt} (hpart : s.part p = {}) (hweir : s.comp.weir = (u.dropWeir p).comp.weir) :
    (s.resetQueues p).PartBare p := by
  obtain ⟨hheads, hadms, hresv⟩ := u.dropWeir_clean p
  rw [← hweir] at hheads hadms hresv
  refine ⟨?_, s.resetQueues_queues p, ?_, ?_, ?_⟩
  · rw [State.part, State.resetQueues_comp]
    exact hpart
  all_goals rw [State.resetQueues_comp]; assumption

theorem State.part_modPart_same (s : State) (pt : Nat) (f : Part → Part) : (s.modPart pt f).part pt = f (s.part pt) :=
  vget_vmod_same _ _ _

theorem State.modPart_weir (s : State) (pt : Nat) (f : Part → Part) : (s.modPart pt f).comp.weir = s.comp.weir := rfl

theorem State.resetPt_bare (s : State) (p : Pt) : (s.resetPt p).PartBare p := by
  unfold State.resetPt
  extract_lets s1 s2 s3 s4 s5 mine s6 s7 slots s8 s9 s10 s11 s12 s13 s14 s15 s16
  have hcomp : s14.comp = s12.comp := (State.modPower_comp _ _).trans (State.modFault_comp _ _)
  have hpart : s14.part p = {} := by
    rw [State.part, hcomp]
    exact State.part_modPart_same s11 p _
  have hweir : s14.comp.weir = ((s10.dropEngines p).dropWeir p).comp.weir := by
    rw [hcomp, State.modPart_weir s11, State.dropLearned_comp]
  have hbare : s15.PartBare p := State.partBare_resetQueues hpart hweir
  exact (hbare.skipUndefined _).of_same (State.resetRegs_comp _ _) (congrArg (vget · p) (State.resetRegs_queues _ _))

theorem State.resetPt_getReg (s : State) (p : Pt) {o : Nat} (h : regDomain (regHome o) = .partition p) :
    (s.resetPt p).getReg o = regReset (regHome o) := by
  unfold State.resetPt
  extract_lets s1 s2 s3 s4 s5 mine s6 s7 slots s8 s9 s10 s11 s12 s13 s14 s15 s16
  exact State.getReg_resetRegs_of _ (by simp [h])

/-! ### The request for one partition (R43, R45) -/

theorem bitsOf_two_pow (p : Pt) : bitsOf 16 (2 ^ p.val) = [p.val] := by
  revert p
  decide

theorem exec_partitionReset_one {s : State} {p : Pt} (hu : s.hostUp = true) (hr : s.boot.ready = true)
    (hc : s.boot.computeResetting = false) (hd : s.defined p = true) :
    exec (.partitionReset 0xA5#8 (BitVec.ofNat 16 (2 ^ p.val))) s =
      .next (if s.boot.ptResetting.getLsbD p then s else s.resetPt p) := by
  have hmask : (BitVec.ofNat 16 (2 ^ p.val)).toNat = 2 ^ p.val := by
    rw [BitVec.toNat_ofNat, Nat.mod_eq_of_lt (Nat.pow_lt_pow_right (by decide) p.isLt)]
  rw [exec_partitionReset_ready hu hr, hmask, State.partitionReset, if_neg (by simp [hc]), bitsOf_two_pow]
  dsimp only
  rw [if_neg (by simp [hd]), List.filter_cons, List.filter_nil, hd]
  cases s.boot.ptResetting.getLsbD p <;> rfl

/-- Settles O12: what State.resetPt leaves bare stays so while the heads of other partitions are refused. -/
theorem partitionReset : Obligations.PartitionReset := by
  intro s p hu hr hc hd
  have hexec := exec_partitionReset_one hu hr hc hd
  refine ⟨fun hm => ⟨s.resetPt p, ?_, s.resetPt_ptResetting p, fun o => s.resetPt_getReg p, ?_⟩, fun hm => ?_⟩
  · rw [hexec, hm, if_neg (by decide)]
  · obtain ⟨hpart, hqueues, hheads, hadms, hresv⟩ := s.resetPt_bare p
    exact ⟨hpart, hqueues, hheads, hadms, hresv⟩
  · rw [hexec, hm, if_pos rfl]

end Sys2Proof.Machine
end

section
/-! PROOFS. Module reset: its key, and what it puts at its reset value (R42, R45, R49, R51, R411). -/
namespace Sys2Proof.Machine

/-! ### The word written to GLOBAL_RESET (R49) -/

/-- SCOPE, KEY and PTMASK in one word. -/
def resetWord (scope key mask : Nat) : Nat := scope + at_ 8 key + at_ 16 mask

theorem field_resetWord_key {scope key : Nat} (hs : scope < 16) (hk : key < 256) (mask : Nat) :
    field (resetWord scope key mask) 15 8 = key := by
  simp only [resetWord, at_, field, Nat.shiftLeft_eq, Nat.shiftRight_eq_div_pow]
  omega

theorem field_resetWord_scope {scope : Nat} (hs : scope < 16) (key mask : Nat) :
    field (resetWord scope key mask) 3 0 = scope := by
  simp only [resetWord, at_, field, Nat.shiftLeft_eq, Nat.shiftRight_eq_div_pow]
  omega

/-- GLOBAL answers before READY too, so no cause refuses a write of GLOBAL_RESET (R414). -/
theorem State.accessCause_globalReset_early (s : State) : s.accessCause Reg.globalReset false = none := by
  have hblock : blockOf Reg.globalReset = .global := rfl
  have hrow : (regRow Reg.globalReset).isNone = false := rfl
  simp [State.accessCause, hblock, hrow, earlyBlock]

theorem State.hostWrite_globalReset_early {s : State} (hu : s.hostUp = true) (f : State → State) : s.hostWrite Reg.globalReset f = f s := by
  simp [State.hostWrite, hu, State.accessCause_globalReset_early]

theorem exec_partitionReset_word {s : State} (hu : s.hostUp = true) (key : Byte) (m : BitVec 16) :
    exec (.partitionReset key m) s = .next (s.writeGlobalReset (resetWord 1 key.toNat m.toNat)) := by
  rw [exec_partitionReset, State.hostWrite_globalReset_early hu, resetWord]

theorem exec_computeReset_word {s : State} (hu : s.hostUp = true) (key : Byte) :
    exec (.computeReset key) s = .next (s.writeGlobalReset (resetWord 2 key.toNat 0)) := by
  rw [exec_computeReset, State.hostWrite_globalReset_early hu]
  rfl

theorem exec_moduleReset (key : Byte) (s : State) : exec (.moduleReset key) s =
    .next (s.hostWrite Reg.globalReset fun s => s.writeGlobalReset (4 + at_ 8 key.toNat)) := rfl

theorem exec_moduleReset_word {s : State} (hu : s.hostUp = true) (key : Byte) :
    exec (.moduleReset key) s = .next (s.writeGlobalReset (resetWord 4 key.toNat 0)) := by
  rw [exec_moduleReset, State.hostWrite_globalReset_early hu]
  rfl

theorem State.writeGlobalReset_badKey (s : State) {scope : Nat} (hs : scope < 16) {key : Byte} (hk : key ≠ 0xA5#8) (mask : Nat) :
    s.writeGlobalReset (resetWord scope key.toNat mask) = s.accErr Reg.globalReset .badKey := by
  have hne : key.toNat ≠ 0xA5 := fun h => hk (BitVec.eq_of_toNat_eq h)
  unfold State.writeGlobalReset
  extract_lets sc
  rw [field_resetWord_key hs key.isLt, if_pos (.inl hne)]

/-- A partition or compute reset asked for before READY (R45). -/
theorem State.writeGlobalReset_notReady {s : State} {scope : Nat} (hs : scope = 1 ∨ scope = 2) (mask : Nat) (hr : s.boot.ready = false) :
    s.writeGlobalReset (resetWord scope 0xA5 mask) = s.accErr Reg.globalReset .notReady := by
  have hlt : scope < 16 := by omega
  unfold State.writeGlobalReset
  rw [field_resetWord_key hlt (by decide), field_resetWord_scope hlt]
  obtain rfl | rfl := hs <;> simp [hr]

theorem State.writeGlobalReset_module (s : State) (mask : Nat) : s.writeGlobalReset (resetWord 4 0xA5 mask) = s.moduleReset 1 0 := by
  unfold State.writeGlobalReset
  rw [field_resetWord_key (by decide) (by decide), field_resetWord_scope (by decide)]
  rfl

/-! ### What a module reset leaves (R42, R51, R411) -/

/-- The state as the reset finds it: the page program has completed, and an install that ran has left its slot invalid. -/
def State.settledForReset (s : State) : State := (if s.cis.prog.isSome then s.programDone true else s).cutInstall

theorem State.settledForReset_pending (s : State) : s.settledForReset.pending = s.pending := by
  unfold State.settledForReset
  split <;> simp

theorem State.settledForReset_idle {s : State} (hp : s.cis.prog = none) (hr : s.sec.run = none) : s.settledForReset = s := by
  unfold State.settledForReset State.cutInstall
  simp [hp, hr]

/-- Everything that a module reset puts at its reset value, of a state before or after bring-up has started. -/
structure State.ResetBut (s u : State) : Prop where
  regs : s.regs = []
  mem : s.mem = []
  poison : s.poison = []
  time : s.time = 0
  comp : s.comp = State.reset.comp
  arrays : s.arrays = State.reset.arrays
  rill : s.rill = {}
  cis : s.cis = {}
  sec : s.sec = {}
  fault : s.fault = {}
  queues : s.queues = State.reset.queues
  pending : s.pending = u.pending
  nv : s.nv = u.nv
  released : s.boot.released = false
  ready : s.boot.ready = false

theorem State.moduleDown_resets (s : State) (cause source : Nat) : (s.moduleDown cause source).ResetBut s.settledForReset where
  regs := rfl
  mem := rfl
  poison := rfl
  time := rfl
  comp := rfl
  arrays := rfl
  rill := rfl
  cis := rfl
  sec := rfl
  fault := rfl
  queues := rfl
  pending := rfl
  nv := rfl
  released := rfl
  ready := rfl

theorem State.ResetBut.startBringup {s u : State} (h : s.ResetBut u) : s.startBringup.ResetBut u where
  regs := h.regs
  mem := h.mem
  poison := h.poison
  time := h.time
  comp := h.comp
  arrays := h.arrays
  rill := h.rill
  cis := h.cis
  sec := h.sec
  fault := h.fault
  queues := h.queues
  pending := h.pending
  nv := h.nv
  released := rfl
  ready := rfl

theorem State.moduleReset_resets (s : State) (cause source : Nat) : (s.moduleReset cause source).ResetBut s.settledForReset := by
  unfold State.moduleReset
  extract_lets t
  split
  · exact (s.moduleDown_resets cause source).startBringup
  · exact s.moduleDown_resets cause source

theorem State.startBringup_rails (s : State) :
    s.startBringup.boot.phase = 1 ∧ s.startBringup.power.order = 1 ∧ (vget s.startBringup.power.rails 0).on = true := ⟨rfl, rfl, rfl⟩

/-- With 54 V and rails that nothing holds, bring-up starts with B1 and its first rail; else it waits (R42). -/
theorem State.moduleReset_phase (s : State) (cause source : Nat) :
    (s.moduleReset cause source).boot.phase = (if s.settledForReset.boot.input ∧ !s.settledForReset.power.latched ∧
        s.settledForReset.power.overAt.isNone then 1 else 0) ∧
      ((s.moduleReset cause source).boot.phase = 1 →
        (s.moduleReset cause source).power.order = 1 ∧ (vget (s.moduleReset cause source).power.rails 0).on = true) := by
  unfold State.moduleReset
  extract_lets t
  have hphase : t.boot.phase = 0 := rfl
  by_cases h : t.boot.input ∧ !t.power.latched ∧ t.power.overAt.isNone
  · obtain ⟨hone, hrails⟩ := t.startBringup_rails
    rw [if_pos h]
    exact ⟨hone.trans (if_pos h).symm, fun _ => hrails⟩
  · rw [if_neg h]
    exact ⟨hphase.trans (if_neg h).symm, fun h1 => absurd (hphase.symm.trans h1) (by decide)⟩

/-- Settles O10: State.moduleDown builds on the reset state, and the start of bring-up touches bring-up's state and power alone. -/
theorem moduleReset : Obligations.ModuleReset := by
  refine ⟨fun s key m hu => ⟨fun hk => ⟨?_, ?_, ?_⟩, fun hr => ⟨?_, ?_⟩⟩, fun s hu => ⟨s.moduleReset 1 0, ?_, ?_⟩⟩
  · rw [exec_partitionReset_word hu, State.writeGlobalReset_badKey s (by decide) hk]
  · rw [exec_computeReset_word hu, State.writeGlobalReset_badKey s (by decide) hk]
  · rw [exec_moduleReset_word hu, State.writeGlobalReset_badKey s (by decide) hk]
  · exact (exec_partitionReset_word hu _ m).trans (congrArg _ (State.writeGlobalReset_notReady (.inl rfl) _ hr))
  · exact (exec_computeReset_word hu _).trans (congrArg _ (State.writeGlobalReset_notReady (.inr rfl) _ hr))
  · exact (exec_moduleReset_word hu _).trans (congrArg _ (s.writeGlobalReset_module 0))
  · have h := s.moduleReset_resets 1 0
    obtain ⟨hphase, hrails⟩ := s.moduleReset_phase 1 0
    refine ⟨h.regs, h.mem, h.poison, h.time, h.comp, h.arrays, h.rill, h.cis, h.sec, h.fault, h.queues,
      h.pending.trans s.settledForReset_pending, h.nv, fun hp hr => ?_, h.released, h.ready, fun hp hr => ⟨?_, hrails⟩⟩
    · rw [h.nv, State.settledForReset_idle hp hr]
    · rw [hphase, State.settledForReset_idle hp hr]

end Sys2Proof.Machine
end

section
/-! PROOFS. Poison codes, and products with a poison operand (R56). -/
namespace Sys2Proof.Machine

/-- A product with a poison operand sets POISON and leaves the rest of the word (R56). -/
theorem Place.accumulate_concat_poison (p : Place) (d : Nat) (al : Option Int) (l : List (OpElem × OpElem)) {x y : OpElem}
    (h : x.poison = true ∨ y.poison = true) : p.accumulate d al (l ++ [(x, y)]) = { p.accumulate d al l with poison := true } := by
  simp only [Place.accumulate, List.foldl_append, List.foldl_cons, List.foldl_nil, if_pos h]

/-- The codes of FP16 and BF16 that decode to no value are those whose exponent field is all ones (R56). -/
theorem decodeFp_eq_none_iff_exponent {f : Nat} (hf : f = 2 ∨ f = 3) (code : Nat) : decodeFp f code = none ↔
    code / 2 ^ (fmtBits f).1 % 2 ^ (fmtBits f).2.2 = 2 ^ (fmtBits f).2.2 - 1 := by
  obtain rfl | rfl := hf <;> simp [decodeFp, fmtBits, field, Nat.shiftRight_eq_div_pow]

/-- The codes of QE43 and QE52 that decode to no value have all seven bits below the sign set (R56). -/
theorem decodeFp_eq_none_iff_low_bits {f : Nat} (hf : f = 0 ∨ f = 1) (code : Nat) : decodeFp f code = none ↔ code % 2 ^ 7 = 0x7F := by
  obtain rfl | rfl := hf <;> simp [decodeFp, fmtBits, field]

/-- Settles O14: the last product of a list finds the word the others leave; the poison codes by format. -/
theorem poisonProducts : Obligations.PoisonProducts := by
  have hbyte : ∀ code < 2 ^ 8, code % 2 ^ 7 = 0x7F ↔ code = 0x7F ∨ code = 0xFF := by omega
  exact ⟨fun p d al l _ _ h => p.accumulate_concat_poison d al l h,
    fun code h => (decodeFp_eq_none_iff_low_bits (.inl rfl) code).trans (hbyte code h),
    fun code h => (decodeFp_eq_none_iff_low_bits (.inr rfl) code).trans (hbyte code h),
    fun code _ => decodeFp_eq_none_iff_exponent (.inl rfl) code,
    fun code _ => decodeFp_eq_none_iff_exponent (.inr rfl) code⟩

end Sys2Proof.Machine
end

section
/-! PROOFS. Sums that pass the headroom test, and repeats of those that fail, never wrap (R54, R58, R61, R62). -/
namespace Sys2Proof.Machine

/-! ### The 128-bit word (R54) -/

/-- A 128-bit word holds an integer's balanced remainder modulo 2^128. -/
theorem wrap128_eq_bmod (z : Int) : wrap128 z = z.bmod (2 ^ 128) := by
  simp only [wrap128, sN, toBits, Int.bmod]
  omega

theorem wrap128_of_bounds {z : Int} (hlo : -2 ^ 127 ≤ z) (hhi : z < 2 ^ 127) : wrap128 z = z := by
  rw [wrap128_eq_bmod]
  exact Int.bmod_eq_of_le (by omega) (by omega)

/-- What a sum has wrapped so far does not change what it wraps to. -/
theorem wrap128_wrap128_add (a b : Int) : wrap128 (wrap128 a + b) = wrap128 (a + b) := by
  simp only [wrap128_eq_bmod, Int.bmod_add_bmod]

/-! ### Entering a list of products (R58, R62) -/

/-- A product enters truncated by the deficit in force, which is nothing where that is 0 (R58, R62). -/
theorem Basin.enter_b (w : Basin) (p : Int) (d : Nat) : (w.enter p false d).b = wrap128 (w.b + p / ((2 ^ d : Nat) : Int)) := by
  obtain rfl | hd := Nat.eq_zero_or_pos d
  · simp [Basin.enter]
  · simp [Basin.enter, shiftFloor, hd.ne']

/-- After a list of products a word holds the sum of what they enter, wrapped once. -/
theorem Basin.foldl_enter_b (d : Nat) : ∀ (ps : List Int) (w : Basin), wrap128 w.b = w.b →
    (ps.foldl (fun w p => w.enter p false d) w).b = wrap128 (w.b + (ps.map fun p => p / ((2 ^ d : Nat) : Int)).sum)
  | [], w, hw => by simp [hw]
  | p :: ps, w, _ => by
    have hwrapped : wrap128 (w.enter p false d).b = (w.enter p false d).b := by
      rw [Basin.enter_b]
      simpa using wrap128_wrap128_add (w.b + p / ((2 ^ d : Nat) : Int)) 0
    rw [List.foldl_cons, Basin.foldl_enter_b d ps _ hwrapped, Basin.enter_b, wrap128_wrap128_add, List.map_cons, List.sum_cons,
      Int.add_assoc]

/-! ### The bound of the headroom test (R61, R62) -/

theorem le_two_pow_clog2 (n : Nat) : n ≤ 2 ^ clog2 n := by
  unfold clog2
  split
  · simpa
  · have := Nat.lt_log2_self (n := n - 1)
    omega

theorem clog2_le_of_lt {n k : Nat} (h : n < 2 ^ k) : clog2 n ≤ k := by
  unfold clog2
  split
  · exact k.zero_le
  · exact (Nat.log2_lt (by omega)).mpr (by omega)

/-- A product whose MSB position is at most m, truncated by d, lies in a range of 2^(m + 1 − d) on either side of zero. -/
theorem truncated_bounds {p : Int} {m d : Nat} (hp : msb p ≤ m) (hd : d ≤ m + 1) :
    -2 ^ (m + 1 - d) ≤ p / ((2 ^ d : Nat) : Int) ∧ p / ((2 ^ d : Nat) : Int) ≤ 2 ^ (m + 1 - d) - 1 := by
  have habs : p.natAbs < 2 ^ (m + 1) := Nat.lt_log2_self.trans_le (Nat.pow_le_pow_right (by decide) (Nat.succ_le_succ hp))
  have hsplit : (2 ^ (m + 1 - d) * (2 ^ d : Nat) : Int) = (2 ^ (m + 1) : Nat) := by
    rw [← Nat.sub_add_cancel hd, Nat.add_sub_cancel, Nat.pow_add]
    push_cast
    rfl
  have hpos : (0 : Int) < (2 ^ d : Nat) := by positivity
  constructor
  · rw [Int.le_ediv_iff_mul_le hpos, Int.neg_mul, hsplit]
    omega
  · rw [Int.le_sub_one_iff, Int.ediv_lt_iff_lt_mul hpos, hsplit]
    omega

/-- The sum of n products, each of MSB position at most m and truncated by d, fits the word once m + ⌈log₂ n⌉ is at most 126 + d (R61, R62). -/
theorem truncatedSum_bounds {ps : List Int} {m d : Nat} (hne : ps ≠ []) (hm : ∀ p ∈ ps, msb p ≤ m) (hd : d ≤ m + 1)
    (hroom : m + clog2 ps.length ≤ 126 + d) :
    -2 ^ 127 ≤ (ps.map fun p => p / ((2 ^ d : Nat) : Int)).sum ∧ (ps.map fun p => p / ((2 ^ d : Nat) : Int)).sum < 2 ^ 127 := by
  have hlen : 0 < ps.length := List.length_pos_iff.mpr hne
  have hfit : (ps.length : Int) * 2 ^ (m + 1 - d) ≤ 2 ^ 127 := by
    have : ps.length * 2 ^ (m + 1 - d) ≤ 2 ^ 127 := calc
      _ ≤ 2 ^ clog2 ps.length * 2 ^ (m + 1 - d) := Nat.mul_le_mul_right _ (le_two_pow_clog2 _)
      _ = 2 ^ (clog2 ps.length + (m + 1 - d)) := (Nat.pow_add ..).symm
      _ ≤ 2 ^ 127 := Nat.pow_le_pow_right (by decide) (by omega)
    exact_mod_cast this
  have hlo := List.card_nsmul_le_sum (ps.map fun p => p / ((2 ^ d : Nat) : Int)) (-2 ^ (m + 1 - d)) fun q hq => by
    obtain ⟨p, hp, rfl⟩ := List.mem_map.mp hq
    exact (truncated_bounds (hm p hp) hd).1
  have hhi := List.sum_le_card_nsmul (ps.map fun p => p / ((2 ^ d : Nat) : Int)) (2 ^ (m + 1 - d) - 1) fun q hq => by
    obtain ⟨p, hp, rfl⟩ := List.mem_map.mp hq
    exact (truncated_bounds (hm p hp) hd).2
  simp only [List.length_map, nsmul_eq_mul, mul_neg, mul_sub, mul_one] at hlo hhi
  omega

/-- A word that products enter under a deficit that leaves them room holds the exact sum of what they enter. -/
theorem Basin.foldl_enter_exact {ps : List Int} {m d : Nat} (hne : ps ≠ []) (hm : ∀ p ∈ ps, msb p ≤ m) (hd : d ≤ m + 1)
    (hroom : m + clog2 ps.length ≤ 126 + d) :
    (ps.foldl (fun w p => w.enter p false d) ({} : Basin)).b = (ps.map fun p => p / ((2 ^ d : Nat) : Int)).foldl (· + ·) 0 := by
  obtain ⟨hlo, hhi⟩ := truncatedSum_bounds hne hm hd hroom
  rw [Basin.foldl_enter_b d ps {} rfl, Int.zero_add, wrap128_of_bounds hlo hhi, List.sum_eq_foldl]

/-- Settles O15: a sum that passes enters with deficit 0; one that fails has, with its deficit, just the room that the test asks for. -/
theorem acceptedSumsExact : Obligations.AcceptedSumsExact := by
  refine fun ps m hne hlen hm => ⟨fun hok => ?_, fun hfail => ?_⟩
  · have hroom : m + clog2 ps.length ≤ 126 := of_decide_eq_true hok
    simpa using Basin.foldl_enter_exact (d := 0) hne hm (by omega) (by omega)
  · have hn : clog2 ps.length ≤ 64 := clog2_le_of_lt hlen
    have hroom : ¬ m + clog2 ps.length ≤ 126 := of_decide_eq_false hfail
    exact Basin.foldl_enter_exact hne hm (by unfold deficit; omega) (by unfold deficit; omega)

end Sys2Proof.Machine
end

section
/-! PROOFS. Columns that drain, tiles that repeat, stalls that end, fused fills that arrive (R61 to R63, R70, R73, R75, R146, R202). -/
namespace Sys2Proof.Machine

/-! ### Poisoned elements are counted, and nothing else (Table 02-8) -/

/-- A write of a value that the key does not read by default leaves every other key alone, in any order of the list. -/
theorem Sparse.get_set_ne_of_ne_dflt {α : Type} [DecidableEq α] {dflt : Nat → α} {k j : Nat} {v : α} (hj : j ≠ k) (hv : v ≠ dflt k) :
    ∀ m : List (Nat × α), Sparse.get dflt (Sparse.set dflt m k v) j = Sparse.get dflt m j
  | [] => by simp [Sparse.set, Sparse.get, hv, hj]
  | (k', v') :: t => by
    rcases Nat.lt_trichotomy k k' with hlt | rfl | hgt
    · by_cases hjk : j < k
      · have hjk' : j < k' := hjk.trans hlt
        simp [Sparse.set, Sparse.get, hv, hj, hlt, hlt.ne, hjk, hjk', hjk'.ne]
      · simp [Sparse.set, Sparse.get, hv, hj, hlt, hlt.ne, hjk]
    · simp [Sparse.set, Sparse.get, hv, hj]
    · simp [Sparse.set, Sparse.get, hgt.ne', hgt.not_gt, Sparse.get_set_ne_of_ne_dflt hj hv t]

theorem regReset_basinPoison : ∀ (die : Die) (arr : ArrayIx), regReset (regHome (Reg.basinPoison die arr)) = 0#32 := by decide

theorem satAdd_ne_zero (w : Word) {n : Nat} (hn : n ≠ 0) : satAdd w n ≠ 0#32 := by
  intro h
  have := satAdd_toNat w n
  rw [h] at this
  simp at this
  omega

@[simp] theorem State.logPoison_zero (s : State) (die arr : Nat) : s.logPoison die arr 0 = s := rfl

/-- Counting poisoned elements stores their register alone (Table 02-8). -/
theorem State.sameRegsBut_logPoison (s : State) (die : Die) (arr : ArrayIx) (n : Nat) :
    SameRegsBut [Reg.basinPoison die arr] s (s.logPoison die arr n) := by
  intro o ho
  unfold State.logPoison
  split
  · rfl
  · next hn =>
    refine Sparse.get_set_ne_of_ne_dflt (by simpa using ho) ?_ s.regs
    rw [regReset_basinPoison]
    exact satAdd_ne_zero _ hn

/-- An array changed once poisoned elements are counted: its register and the array are all that differs. -/
theorem State.logPoison_modArr (s : State) (die : Die) (arr : ArrayIx) (n : Nat) (f : ArraySt → ArraySt) :
    let t := (s.logPoison die arr n).modArr (arrIx die arr) f
    vget t.arrays (arrIx die arr) = f (vget s.arrays (arrIx die arr)) ∧ SameRegsBut [Reg.basinPoison die arr] s t ∧
      { t with arrays := s.arrays, regs := s.regs } = s := by
  have hrest : (s.logPoison die arr n).arrays = s.arrays ∧ { s.logPoison die arr n with regs := s.regs } = s := by
    unfold State.logPoison
    split <;> exact ⟨rfl, rfl⟩
  refine ⟨?_, s.sameRegsBut_logPoison die arr n, congrArg (fun u : State => { u with arrays := s.arrays }) hrest.2⟩
  exact (vget_vmod_same _ _ _).trans (by rw [hrest.1])

/-! ### One column of a tile (R61, R63, R73) -/

/-- Elements of the next column of a tile: place in the column, output row and output column. -/
def State.columnElems (s : State) (b : List Byte) (T : Tile) : List (Nat × Nat × Nat) :=
  (List.range 256).filterMap fun i => (s.tileElem T.pt b T.step T.task i T.col).map fun rc => (i, rc.1, rc.2)

/-- Deficits of the next column's elements that fail the headroom test here, as (place, d, m). -/
def State.columnFails (s : State) (b : List Byte) (T : Tile) : List (Nat × Nat × Nat) :=
  if !(s.scopeLocal b T.task && !T.cross) ∨ T.rep then []
  else (s.columnElems b T).filterMap fun x =>
    let w := nth T.words (256 * T.col + x.1) {}
    let n := s.scopeN T.pt b T.step T.task.layer T.task.prod T.task.mb x.2.1 x.2.2
    if w.poison ∨ n = 0 ∨ headroomOk w.mtop n then none else some (256 * T.col + x.1, deficit w.mtop n, w.mtop)

/-- Number of the next column's elements that count as poisoned: none in a repeat or a cross-chip recompute. -/
def State.columnPoisoned (s : State) (b : List Byte) (T : Tile) : Nat :=
  ((s.columnElems b T).filter fun x => (nth T.words (256 * T.col + x.1) {}).poison && !(T.rep || T.cross)).length

/-- The tile once its next column has drained. -/
def State.drainedTile (s : State) (b : List Byte) (T : Tile) : Tile :=
  { T with col := T.col + 1, deficits := T.deficits ++ s.columnFails b T }

/-- Whether a tile repeats once its next column, its last, has drained. -/
def State.repeatsNext (s : State) (b : List Byte) (T : Tile) : Bool :=
  decide ((s.scopeLocal b T.task && !T.cross) = true ∧ !(s.drainedTile b T).deficits.isEmpty ∧ !T.rep)

/-- Tiles of the array once the next column of its first tile has drained. -/
def State.tilesNext (s : State) (b : List Byte) (T : Tile) (rest : List Tile) : List Tile :=
  if T.col + 1 < 256 then s.drainedTile b T :: rest
  else if s.repeatsNext b T = true then { s.drainedTile b T with again := true } :: rest
  else rest

/-- The state once the next column of an array's first tile has drained and the array holds the tiles listed, before a finished tile is
merged. -/
def State.columnTo (s : State) (die arr : Nat) (b : List Byte) (T : Tile) (tiles : List Tile) : State :=
  (s.logPoison die arr (s.columnPoisoned b T)).modArr (arrIx die arr) fun A => { A with tiles := tiles }

/-- An element joins those to repeat only where its word fails the test at its own count, and in no repeat (R61, R62). -/
theorem State.mem_columnFails {s : State} {b : List Byte} {T : Tile} {e : Nat × Nat × Nat} (h : e ∈ s.columnFails b T) :
    T.rep = false ∧ 256 * T.col ≤ e.1 ∧ e.1 < 256 * (T.col + 1) ∧ e.2.2 = (nth T.words e.1 {}).mtop ∧
      ∃ n, headroomOk e.2.2 n = false ∧ e.2.1 = deficit e.2.2 n := by
  unfold State.columnFails at h
  split at h
  · simp at h
  · next hrep =>
    obtain ⟨x, hx, hfail⟩ := List.mem_filterMap.mp h
    obtain ⟨i, hi, hix⟩ := List.mem_filterMap.mp hx
    obtain ⟨rc, -, rfl⟩ := Option.map_eq_some_iff.mp hix
    have hlt : i < 256 := List.mem_range.mp hi
    dsimp only at hfail
    split at hfail
    · simp at hfail
    · next htest =>
      obtain rfl := Option.some.inj hfail
      refine ⟨by simp_all, ?_, ?_, rfl, _, by simpa using fun hok => htest (.inr (.inr hok)), rfl⟩ <;> dsimp only <;> omega

section
variable {s : State} {die : Die} {arr : ArrayIx} {T : Tile} {rest : List Tile} {b : List Byte}
variable (hrun : s.diesStopped = false) (htiles : (vget s.arrays (arrIx die arr)).tiles = T :: rest) (hbed : (s.part T.pt).bed = some b)
include hrun htiles hbed

/-- A discarded tile leaves the array (R202). -/
theorem exec_columnDrain_discard (hd : T.discard = true) :
    exec (.columnDrain die arr []) s = .next (s.modArr (arrIx die arr) fun A => { A with tiles := rest }) := by
  change execColumnDrain die arr [] s = _
  simp [execColumnDrain, State.clocked, hrun, htiles, hbed, hd]

variable (hd : T.discard = false) (hfills : T.fills = 0) (hagain : T.again = false) (hcol : T.col < 256)
include hd hfills hagain hcol

/-- A column that its consumer refuses stalls the array (R75). -/
theorem exec_columnDrain_refused (href : s.drainRefused b T = true) :
    exec (.columnDrain die arr []) s =
      .next (s.modArr (arrIx die arr) fun A => { A with stall := true, refused := true }) := by
  change execColumnDrain die arr [] s = _
  simp [execColumnDrain, State.clocked, hrun, htiles, hbed, hd, hfills, hagain, hcol, href]

/-- A column drains; a tile that has drained its last column and does not repeat is merged (R61, R63). -/
theorem exec_columnDrain_next (href : s.drainRefused b T = false) :
    exec (.columnDrain die arr []) s =
      .next (if T.col + 1 < 256 then s.columnTo die arr b T (s.drainedTile b T :: rest)
        else if s.repeatsNext b T = true then s.columnTo die arr b T ({ s.drainedTile b T with again := true } :: rest)
        else (s.columnTo die arr b T rest).finishTile b (s.drainedTile b T)) := by
  have hkept : ¬ T.discard = true := by simp [hd]
  have hopen : ¬ (T.fills ≠ 0 ∨ T.again = true ∨ 256 ≤ T.col) := by simp [hfills, hagain, hcol]
  change execColumnDrain die arr [] s = _
  simp only [execColumnDrain, State.clocked, hrun, htiles, hbed, if_neg hkept, if_neg hopen, href, List.filter_nil, List.map_nil,
    List.eraseDups_nil, forEach, List.foldl_nil, List.any_nil, List.isEmpty_nil, Bool.or_false, Bool.false_eq_true, if_false, if_true,
    State.repeatsNext, decide_eq_true_eq]
  rfl

end

theorem State.columnTo_spec (s : State) (die : Die) (arr : ArrayIx) (b : List Byte) (T : Tile) (tiles : List Tile) :
    (vget (s.columnTo die arr b T tiles).arrays (arrIx die arr)).tiles = tiles ∧
      SameRegsBut [Reg.basinPoison die arr] s (s.columnTo die arr b T tiles) ∧
      { s.columnTo die arr b T tiles with arrays := s.arrays, regs := s.regs } = s := by
  obtain ⟨harr, hregs, hrest⟩ := s.logPoison_modArr die arr (s.columnPoisoned b T) fun A => { A with tiles := tiles }
  exact ⟨congrArg ArraySt.tiles harr, hregs, hrest⟩

theorem State.repeatsNext_iff (s : State) (b : List Byte) (T : Tile) : s.repeatsNext b T = true ↔
    s.scopeLocal b T.task = true ∧ T.cross = false ∧ T.rep = false ∧ (s.drainedTile b T).deficits ≠ [] := by
  simp only [State.repeatsNext, decide_eq_true_eq, Bool.and_eq_true, Bool.not_eq_true', List.isEmpty_eq_false_iff]
  tauto

theorem State.tilesNext_mid (s : State) (b : List Byte) {T : Tile} (rest : List Tile) (h : T.col + 1 < 256) :
    s.tilesNext b T rest = s.drainedTile b T :: rest := if_pos h

theorem State.tilesNext_again (s : State) {b : List Byte} {T : Tile} (rest : List Tile) (hlast : T.col + 1 = 256)
    (h : s.repeatsNext b T = true) : s.tilesNext b T rest = { s.drainedTile b T with again := true } :: rest :=
  (if_neg (by omega)).trans (if_pos h)

theorem State.tilesNext_leaves (s : State) {b : List Byte} {T : Tile} (rest : List Tile) (hlast : T.col + 1 = 256)
    (h : ¬ s.repeatsNext b T = true) : s.tilesNext b T rest = rest :=
  (if_neg (by omega)).trans (if_neg h)

/-! ### One column of row statistics (R61, R70) -/

/-- Row statistics after their next column. -/
def State.statsNext (s : State) (b : List Byte) (q : RowStat) : RowStat :=
  let v := s.view q.pt b q.tensor q.step
  let ds := if q.rep ∨ v.fmt = 3 then [] else q.column.map fun r => rowDeficit (nth q.words r ({}, {})) v.cols
  { q with defs := if q.rep then q.defs else q.defs ++ ds, col := q.col + 1 }

/-- Number of rows of the next column of row statistics that count as poisoned: none in a repeat. -/
def RowStat.poisoned (q : RowStat) : Nat :=
  if q.rep then 0 else (q.column.filter fun r => (nth q.words r ({}, {})).1.poison).length

/-- A column of row statistics that is not the last drains (R70). -/
theorem exec_columnDrain_stats {s : State} {die : Die} {arr : ArrayIx} {q : RowStat} {b : List Byte} (hrun : s.diesStopped = false)
    (htiles : (vget s.arrays (arrIx die arr)).tiles = []) (hstats : (vget s.arrays (arrIx die arr)).stats = some q)
    (hbed : (s.part q.pt).bed = some b) (hagain : q.again = false) (hmore : 256 * (q.col + 1) < q.words.length) :
    exec (.columnDrain die arr []) s =
      .next ((s.logPoison die arr q.poisoned).modArr (arrIx die arr) fun A => { A with stats := some (s.statsNext b q) }) := by
  have hopen : ¬ q.again = true := by simp [hagain]
  change execColumnDrain die arr [] s = _
  simp only [execColumnDrain, State.clocked, hrun, htiles, State.drainStats, hstats, hbed, if_neg hopen, if_pos hmore, Bool.false_eq_true,
    if_false]
  cases hrep : q.rep
  · simp only [RowStat.poisoned, State.statsNext, hrep, Bool.false_eq_true, if_false]
  · simp only [RowStat.poisoned, State.statsNext, hrep, if_true, State.logPoison_zero]

/-! ### Repeats (R62, R63, R75) -/

theorem State.logRepeat_arrays (s : State) (die arr scope d m n : Nat) : (s.logRepeat die arr scope d m n).arrays = s.arrays := by
  unfold State.logRepeat
  dsimp only
  split <;> rfl

theorem State.logMacs_arrays (s : State) (die arr n : Nat) : (s.logMacs die arr n).arrays = s.arrays := rfl
theorem State.chargeStep_arrays (s : State) (pt step cause detail : Nat) : (s.chargeStep pt step cause detail).arrays = s.arrays := rfl

/-- A tile that waits for its repeat starts it from its first column, in the array's next Basin word (R62, R63, R75). -/
theorem exec_tileRepeat {s : State} {die : Die} {arr : ArrayIx} {T : Tile} {rest : List Tile} {b : List Byte} (hrun : s.diesStopped = false)
    (htiles : (vget s.arrays (arrIx die arr)).tiles = T :: rest) (hbed : (s.part T.pt).bed = some b) (hagain : T.again = true) :
    ∃ (u : State) (words : List Basin), u.arrays = s.arrays ∧ exec (.tileRepeat die arr) s =
      .next (u.modArr (arrIx die arr) fun A => { A with
        nextWord := !A.nextWord
        tiles := { T with again := false, rep := true, col := 0, words := words, word := A.nextWord } :: rest }) := by
  have hwaits : ¬ (!T.again) = true := by simp [hagain]
  change ∃ u words, _ ∧ execTileRepeat die arr s = _
  simp only [execTileRepeat, State.clocked, hrun, htiles, hbed, if_neg hwaits, Bool.false_eq_true, if_false]
  exact ⟨_, _, by rw [State.chargeStep_arrays, State.logMacs_arrays, State.logRepeat_arrays], rfl⟩

/-! ### Stalls (R75) -/

/-- A stall ends (R75): its word is free, or its consumer accepts data. -/
theorem exec_basinStallEnd {s : State} {die : Die} {arr : ArrayIx} (hstall : (vget s.arrays (arrIx die arr)).stall = true)
    (hend : ((vget s.arrays (arrIx die arr)).refused = false ∧ (vget s.arrays (arrIx die arr)).tiles.length ≤ 1) ∨
      ((vget s.arrays (arrIx die arr)).refused = true ∧ ∃ T rest b, (vget s.arrays (arrIx die arr)).tiles = T :: rest ∧
        (s.part T.pt).bed = some b ∧ s.drainRefused b T = false)) :
    exec (.basinStallEnd die arr) s = .next (s.modArr (arrIx die arr) fun A => { A with stall := false, refused := false }) := by
  change execBasinStallEnd die arr s = _
  obtain ⟨href, hfree⟩ | ⟨href, T, rest, b, htiles, hbed, haccepts⟩ := hend
  · simp [execBasinStallEnd, hstall, href, hfree]
  · simp [execBasinStallEnd, hstall, href, htiles, hbed, haccepts]

/-! ### Fused fills (R146) -/

theorem setNth_eq_set {α : Type} : ∀ (l : List α) (i : Nat) (v : α), setNth l i v = l.set i v
  | [], _, _ => rfl
  | _ :: _, 0, _ => rfl
  | h :: t, i + 1, v => congrArg (h :: ·) (setNth_eq_set t i v)

/-- A tile with one fill less to wait for, which accumulates when it was the last. -/
def State.fillArrives (s : State) (T : Tile) : Tile :=
  let T : Tile := { T with fills := T.fills - 1 }
  match (s.part T.pt).bed with
  | some b => if T.fills = 0 ∧ !T.discard then s.fillTile b T else T
  | none => T

theorem State.fillArrives_fills (s : State) (T : Tile) : (s.fillArrives T).fills = T.fills - 1 := by
  unfold State.fillArrives
  dsimp only
  split
  · split <;> rfl
  · rfl

/-- A fill arrives at the first tile of an array that waits for one. -/
def State.fillArrivesAt (s : State) (ai : Nat) : State :=
  match (vget s.arrays ai).tiles.findIdx? fun T => T.fills != 0 with
  | none => s
  | some i => s.modArr ai fun A =>
    { A with
      tiles := setNth A.tiles i
        (s.fillArrives (nth (vget s.arrays ai).tiles i { pt := 0, step := 0, task := ⟨0, 0, 0, 0, 0⟩, word := false })) }

theorem State.fillArrivesAt_first {s : State} {ai i : Nat} {T : Tile}
    (hfirst : (vget s.arrays ai).tiles.findIdx? (fun T => T.fills != 0) = some i) (hT : (vget s.arrays ai).tiles[i]? = some T) :
    s.fillArrivesAt ai = s.modArr ai fun A => { A with tiles := A.tiles.set i (s.fillArrives T) } := by
  simp only [State.fillArrivesAt, hfirst, nth, hT, Option.getD_some, setNth_eq_set]

theorem execFusedFillComplete_eq (die : Die) (eng : Engine) (s : State) : execFusedFillComplete die eng s =
    s.clocked (.next (match (vget s.comp.engines (2 * die + eng)).fills with
      | [] => s
      | (ai, _) :: rest => (s.modEng (2 * die + eng) fun e => { e with fills := rest }).fillArrivesAt ai)) := rfl

/-- The running fill of an engine ends and arrives at its array (R146). -/
theorem exec_fusedFillComplete {s : State} {die : Die} {eng : Engine} {ai pt : Nat} {rest : List (Nat × Nat)}
    (hrun : s.diesStopped = false) (hfills : (vget s.comp.engines (2 * die + eng)).fills = (ai, pt) :: rest) :
    exec (.fusedFillComplete die eng) s =
      .next ((s.modEng (2 * die + eng) fun e => { e with fills := rest }).fillArrivesAt ai) := by
  change execFusedFillComplete die eng s = _
  simp only [execFusedFillComplete_eq, State.clocked, hrun, hfills, Bool.false_eq_true, if_false]

/-- Settles O19: each command by its equation; a drained column's tile joins the failing elements and moves on, repeats or leaves. -/
theorem tilesDrain : Obligations.TilesDrain := by
  refine ⟨fun s die arr T rest b hrun htiles hbed =>
      ⟨fun hd => ?discard, fun hd hfills hagain hcol => ⟨fun href => ?refused, fun href => ?column⟩⟩,
    fun s die arr q b hrun htiles hstats hbed hagain hmore => ?stats,
    fun s die arr => ⟨fun T rest b hrun htiles hbed hagain => ?again, fun hstall hend => ?stall⟩,
    fun s die eng ai pt i rest hrun hfills hfirst => ?fill⟩
  case discard => exact ⟨_, exec_columnDrain_discard hrun htiles hbed hd, congrArg ArraySt.tiles (vget_vmod_same _ _ _), rfl⟩
  case refused => exact ⟨_, exec_columnDrain_refused hrun htiles hbed hd hfills hagain hcol href, vget_vmod_same _ _ _, rfl⟩
  case column =>
    have hexec := exec_columnDrain_next hrun htiles hbed hd hfills hagain hcol href
    obtain ⟨hlist, hregs, hrest⟩ := s.columnTo_spec die arr b T (s.tilesNext b T rest)
    refine ⟨_, s.drainedTile b T, rfl, rfl, rfl, rfl, fun e he => (List.mem_append.mp he).imp_right State.mem_columnFails,
      fun hmid => ?_, fun hlast hloc hcross hrep hfail => ?_, fun hlast hdone => ?_, hregs, hrest⟩
    · have hnext := s.tilesNext_mid b rest hmid
      exact ⟨by rw [hexec, if_pos hmid, hnext], hlist.trans hnext⟩
    · have hrepeats := (s.repeatsNext_iff b T).mpr ⟨hloc, hcross, hrep, hfail⟩
      have hnext := s.tilesNext_again rest hlast hrepeats
      exact ⟨by rw [hexec, if_neg (by omega), if_pos hrepeats, hnext], hlist.trans hnext⟩
    · have hleaves : ¬ s.repeatsNext b T = true := by
        rw [State.repeatsNext_iff]
        rintro ⟨hloc, hcross, hrep, hfail⟩
        simp [hloc, hcross, hrep, hfail] at hdone
      have hnext := s.tilesNext_leaves rest hlast hleaves
      exact ⟨by rw [hexec, if_neg (by omega), if_neg hleaves, hnext], hlist.trans hnext⟩
  case stats =>
    obtain ⟨harr, hregs, hrest⟩ :=
      s.logPoison_modArr die arr q.poisoned fun A => { A with stats := some (s.statsNext b q) }
    exact ⟨_, _, exec_columnDrain_stats hrun htiles hstats hbed hagain hmore, congrArg ArraySt.stats harr, rfl, rfl, hregs, hrest⟩
  case again =>
    obtain ⟨u, words, hu, hexec⟩ := exec_tileRepeat hrun htiles hbed hagain
    rw [← hu]
    exact ⟨_, _, hexec, congrArg ArraySt.tiles (vget_vmod_same _ _ _), rfl, rfl, rfl, rfl, rfl, rfl,
      congrArg ArraySt.nextWord (vget_vmod_same _ _ _)⟩
  case stall => exact ⟨_, exec_basinStallEnd hstall hend, vget_vmod_same _ _ _, rfl⟩
  case fill =>
    obtain ⟨hlt, -⟩ := List.findIdx?_eq_some_iff_getElem.mp hfirst
    have hT : (vget s.arrays ai).tiles[i]? = some (vget s.arrays ai).tiles[i] := List.getElem?_eq_getElem hlt
    refine ⟨_, (exec_fusedFillComplete hrun hfills).trans (congrArg _ (State.fillArrivesAt_first hfirst hT)),
      congrArg EngineSt.fills (vget_vmod_same _ _ _), ?_, fun j hj => ?_, rfl⟩
    · rw [hT, State.modArr_arrays, vget_vmod_same]
      exact (congrArg (Option.map Tile.fills) (List.getElem?_set_self hlt)).trans (congrArg some (State.fillArrives_fills _ _))
    · rw [State.modArr_arrays, vget_vmod_same]
      exact List.getElem?_set_ne hj.symm

end Sys2Proof.Machine
end

section
/-! PROOFS. The codes stored for poison, for an exact zero and for what rounds to zero (R84). -/
namespace Sys2Proof.Machine

/-- The poison code written is all ones below the sign, or the largest code with a positive sign (R84). -/
theorem poisonCode_eq {f : Nat} (hf : f ≤ 3) : poisonCode f = if f ≤ 1 then 0x7F else 0x7FFF := by
  interval_cases f <;> rfl

/-- A magnitude of zero lies below every other. -/
theorem magLe_zero (ea : Int) (b : Nat) (eb : Int) : magLe 0 ea b eb = true := by simp [magLe]

/-- A result of magnitude zero is below the sign a code of zeros (R84). -/
theorem encodeFp_zero {f : Nat} (hf : f ≤ 3) (neg : Bool) (e : Int) :
    encodeFp f neg (0, e) = if neg then (if f ≤ 1 then 0x80 else 0x8000) else 0 := by
  interval_cases f <;> cases neg <;> simp [encodeFp, fmtBits, at_, b2n]

theorem storeCode_poison (f : Nat) (c : Int) (k mode bits : Nat) {x : Exact} (hp : x.poison = true) :
    storeCode f c k mode bits x = (poisonCode f, false) := by
  rw [storeCode, if_pos hp]

theorem storeCode_exactZero (f : Nat) (c : Int) (k mode bits : Nat) {x : Exact} (hp : x.poison = false) (hz : x.isZero = true) :
    storeCode f c k mode bits x = (0, false) := by
  simp only [storeCode, hp, hz, Bool.false_eq_true, if_false, if_true]

theorem storeCode_roundsToZero {f : Nat} {c : Int} {k mode bits : Nat} {x : Exact} (hp : x.poison = false) (hz : x.isZero = false)
    (hr : (roundTo f c k mode bits x).1 = 0) :
    storeCode f c k mode bits x = (encodeFp f x.neg (0, (roundTo f c k mode bits x).2), false) := by
  have hround : roundTo f c k mode bits x = (0, (roundTo f c k mode bits x).2) := Prod.ext hr rfl
  have hfits : tooLarge f (roundTo f c k mode bits x) = false := by rw [hround, tooLarge, magLe_zero]; rfl
  simp only [storeCode, hp, hz, hfits, Bool.false_eq_true, if_false]
  rw [← hround]

/-- Settles O16: poison, an exact zero and a result that rounds to zero are three branches of the store. -/
theorem zeroAndPoisonCodes : Obligations.ZeroAndPoisonCodes := by
  intro f c k mode bits x hf
  refine ⟨fun hp => ?poison, fun hp hm hst => ?zero, fun hp hne hr => ?rounds, ?minusZero⟩
  case poison => rw [storeCode_poison f c k mode bits hp, poisonCode_eq hf]
  case zero => rw [storeCode_exactZero f c k mode bits hp (by simp [Exact.isZero, hm, hst])]
  case rounds =>
    have hz : x.isZero = false := by simpa [Exact.isZero, imp_iff_not_or] using hne
    rw [storeCode_roundsToZero hp hz hr, encodeFp_zero hf]
  case minusZero => interval_cases f <;> rfl

end Sys2Proof.Machine
end

section
/-! PROOFS. The fine code of a block (R91). -/
namespace Sys2Proof.Machine

/-- The exponents among which the fine code of a block finds the largest (R91). -/
def blockLgs (xs : List Exact) : List Int := (xs.filter fun x => !x.poison).filterMap Exact.lg

theorem mem_blockLgs {xs : List Exact} {l : Int} : l ∈ blockLgs xs ↔ ∃ x ∈ xs, x.poison = false ∧ x.lg = some l := by
  simp [blockLgs, and_assoc]

theorem fineCode_of_nil {f : Nat} {c : Int} {xs : List Exact} (h : blockLgs xs = []) : fineCode f c xs = 0 := by
  rw [blockLgs] at h
  simp only [fineCode, h]

theorem fineCode_of_isMax {f : Nat} {c : Int} {xs : List Exact} {l : Int} (hl : (blockLgs xs).max? = some l) :
    fineCode f c xs = (min 15 (fmtTop f - (l - c))).toNat := by
  rw [blockLgs] at hl
  unfold fineCode
  dsimp only
  split
  case h_1 h => simp [h] at hl
  case h_2 a t h =>
    rw [h, List.max?_cons'] at hl
    rw [Option.some.inj hl]

/-- A value that is zero has no exponent. -/
theorem Exact.lg_eq_none {x : Exact} (h : x.m = 0) : x.lg = none := if_pos h

/-- Settles O17: with an element that counts the largest exponent of the block decides, else no exponent stands in the list. -/
theorem fineCodeRule : Obligations.FineCodeRule := by
  intro f c xs
  refine ⟨fun hnone => fineCode_of_nil ?nil, fun x hx l hp hlg hmax => ?largest⟩
  case nil =>
    refine List.eq_nil_iff_forall_not_mem.mpr fun l hl => ?_
    obtain ⟨x, hx, hp, hlg⟩ := mem_blockLgs.mp hl
    rcases hnone x hx with h | h
    · simp [h] at hp
    · simp [Exact.lg_eq_none h] at hlg
  case largest =>
    have hl : (blockLgs xs).max? = some l := List.max?_eq_some_iff.mpr
      ⟨mem_blockLgs.mpr ⟨x, hx, hp, hlg⟩, fun l' hl' => by
        obtain ⟨y, hy, hyp, hylg⟩ := mem_blockLgs.mp hl'
        exact hmax y hy l' hyp hylg⟩
    rw [fineCode_of_isMax hl, Int.ofNat_toNat]
    split <;> omega

end Sys2Proof.Machine
end

section
/-! PROOFS. A settle round that ends in a partition with two steps of one number (R197, R198). -/
namespace Sys2Proof.Machine

/-- A settling step whose settle round serves as its commit round. -/
def settlingStep : StepSt := { num := 5, st := 2, both := true }

/-- A partition with step 7 uncommitted and two steps of the number 5: one committed that waits for its apply passes (state 6), and one that
settles. R244 numbers the steps of a partition apart; the statement does not ask for that. -/
def numberedAlike : State :=
  State.reset.modPart 0 fun p => { p with bed := some [], steps := [{ num := 5, st := 6 }, { num := 7, st := 3 }, settlingStep] }

/-- Numbers of the steps in flight after an outcome. -/
def stepNumbersAfter (o : Host.Outcome State Fault Refusal) (pt : Pt) : List Nat :=
  match o with
  | .next t => (t.part pt).steps.map (·.num)
  | .fault _ | .refused _ => []

theorem numberedAlike_settling :
    ((numberedAlike.part 0).steps.find? fun x => x.st == 2 && x.again.isEmpty) = some settlingStep := by decide +kernel

/-- A BED of no tensor and no group: the round ends at once, and finds neither failure nor spill. -/
theorem numberedAlike_roundOut : numberedAlike.roundOut 0 [] settlingStep 2 true true = some ⟨0, [], []⟩ := by decide +kernel

theorem numberedAlike_isOldest : numberedAlike.isOldest 0 settlingStep.num = false := by decide +kernel

theorem numberedAlike_settled : stepNumbersAfter (exec (.settleRoundComplete 0) numberedAlike) 0 = [7] := by decide +kernel

/-- Refutes O24: the end of the settle round sets both steps of the number 5 to COMMITTING, so that the committed one, which did not count before,
makes 5 the oldest number; the step commits and both leave, where the statement has it stand until its turn. -/
theorem not_rounds : ¬ Obligations.Rounds := by
  rintro ⟨hsettle, -⟩
  obtain ⟨-, hcomplete⟩ := hsettle numberedAlike 0 [] settlingStep rfl
  obtain ⟨-, hend⟩ := hcomplete numberedAlike_settling
  obtain ⟨-, -, -, hpasses⟩ := hend _ numberedAlike_roundOut
  obtain ⟨t, ht, -, hstands⟩ := hpasses rfl rfl
  obtain ⟨y, hy, hnum, -⟩ := hstands (.inr numberedAlike_isOldest)
  have hleft : (t.part 0).steps.map (·.num) = [7] := by rw [← numberedAlike_settled, ht]; rfl
  have hmem : y.num ∈ (t.part 0).steps.map (·.num) := List.mem_map_of_mem hy
  rw [hleft, hnum] at hmem
  exact absurd hmem (by decide)

end Sys2Proof.Machine
end

section
/-! PROOFS. What the completion of descriptors and a step boundary leave alone (R246 to R251, R353, R431). -/
namespace Sys2Proof.Machine

/-- What the completion of descriptors and a step boundary leave alone: the compute side apart from the Weir, memory, what outlives power, and the
canonical form of the state's sparse data. -/
structure BesideWeir (s t : State) : Prop where
  comp : { t.comp with weir := s.comp.weir } = s.comp
  mem : t.mem = s.mem
  poison : t.poison = s.poison
  nv : t.nv = s.nv
  canon : s.Canonical → t.Canonical

theorem BesideWeir.refl (s : State) : BesideWeir s s := ⟨rfl, rfl, rfl, rfl, fun h => h⟩

theorem BesideWeir.trans {s t u : State} (a : BesideWeir s t) (b : BesideWeir t u) : BesideWeir s u where
  comp := by
    have ha := a.comp
    rw [← b.comp] at ha
    exact ha
  mem := b.mem.trans a.mem
  poison := b.poison.trans a.poison
  nv := b.nv.trans a.nv
  canon h := b.canon (a.canon h)

theorem Reports.besideWeir {s t : State} (h : Reports s t) : BesideWeir s t :=
  ⟨by rw [h.comp], h.mem, h.poison, h.nv, h.canon⟩

theorem Posts.besideWeir {s t : State} (h : Posts s t) : BesideWeir s t := h.reports.besideWeir

theorem State.besideWeir_bump (s : State) (off n : Nat) : BesideWeir s (s.bump off n) :=
  ⟨rfl, rfl, rfl, rfl, s.canonical_bump off n⟩

theorem State.besideWeir_modWeir (s : State) (f : Weir → Weir) : BesideWeir s (s.modWeir f) := ⟨rfl, rfl, rfl, rfl, fun h => h⟩
theorem State.besideWeir_chargeAdm (s : State) (pt admno cause detail : Nat) : BesideWeir s (s.chargeAdm pt admno cause detail) :=
  ⟨rfl, rfl, rfl, rfl, fun h => h⟩
theorem State.besideWeir_modArr (s : State) (i : Nat) (f : ArraySt → ArraySt) : BesideWeir s (s.modArr i f) := ⟨rfl, rfl, rfl, rfl, fun h => h⟩
theorem State.besideWeir_modTest (s : State) (i : Nat) (f : ArrayTest → ArrayTest) : BesideWeir s (s.modTest i f) :=
  ⟨rfl, rfl, rfl, rfl, fun h => h⟩
theorem State.besideWeir_modBoot (s : State) (f : Boot → Boot) : BesideWeir s (s.modBoot f) := ⟨rfl, rfl, rfl, rfl, fun h => h⟩

theorem BesideWeir.ite {c : Prop} [Decidable c] {s t : State} (h : BesideWeir s t) : BesideWeir s (if c then t else s) := by
  split
  · exact h
  · exact .refl s

theorem BesideWeir.forEach {α : Type} (l : List α) (f : α → State → State) (s : State) (h : ∀ x s, BesideWeir s (f x s)) :
    BesideWeir s (forEach l f s) :=
  forEach_keeps (P := BesideWeir s) f l s (.refl s) fun x _ t ht => ht.trans (h x t)

theorem BesideWeir.part {s t : State} (h : BesideWeir s t) (pt : Nat) : t.part pt = s.part pt :=
  congrArg (vget · pt) (congrArg Comp.parts h.comp :)
theorem BesideWeir.group {s t : State} (h : BesideWeir s t) (i : Nat) : t.group i = s.group i :=
  congrArg (vget · i) (congrArg (fun c : Comp => c.casc.groups) h.comp :)

/-! ### Descriptors complete (R246 to R251) -/

theorem State.besideWeir_chargeWaiting (s : State) (x : Adm) : BesideWeir s (s.chargeWaiting x) :=
  .forEach _ _ s fun _ t => t.besideWeir_chargeAdm _ _ _ _

/-- A late descriptor counts, may place a record and posts its event (R246). -/
theorem State.besideWeir_completeOne (s : State) (pt admno status : Nat) : BesideWeir s (s.completeOne pt admno status) := by
  unfold State.completeOne
  split
  · exact .refl s
  · dsimp only
    refine (((BesideWeir.ite (s.besideWeir_chargeWaiting _)).trans (State.besideWeir_modWeir _ _)).trans (.ite ?late)).trans <|
      (State.posts_weirEntry _ _ _ _ _).besideWeir.trans <| (BesideWeir.ite (State.posts_fire _ _).besideWeir).trans <|
      (BesideWeir.ite (State.posts_fire _ _).besideWeir).trans (State.posts_pumpFetches _ _).besideWeir
    exact ((State.besideWeir_bump _ _ _).trans (.ite (State.reports_record _ _).besideWeir)).trans
      (State.posts_ptEvent _ _ _ _).besideWeir

theorem State.besideWeir_settleFences (k : Nat) (s : State) (pt : Nat) : BesideWeir s (s.settleFences k pt) := by
  induction k generalizing s with
  | zero => exact .refl s
  | succ k ih =>
    unfold State.settleFences
    split
    · exact .refl s
    · exact (s.besideWeir_completeOne _ _ _).trans (ih _)

theorem State.besideWeir_complete (s : State) (pt admno status : Nat) : BesideWeir s (s.complete pt admno status) := by
  unfold State.complete
  split
  · exact .refl s
  · split
    · exact s.besideWeir_modWeir _
    · exact (s.besideWeir_completeOne _ _ _).trans (State.besideWeir_settleFences _ _ _)

theorem State.besideWeir_completeStep (s : State) (pt step status : Nat) : BesideWeir s (s.completeStep pt step status) := by
  unfold State.completeStep
  split
  · exact .refl s
  · exact s.besideWeir_complete _ _ _

/-! ### Step boundaries (R353, R369, R431) -/

theorem State.besideWeir_moveRole (s : State) (i j : Nat) : BesideWeir s (s.moveRole i j) := ⟨rfl, rfl, rfl, rfl, fun h => h⟩

theorem State.besideWeir_rebind (s : State) (die : Nat) : BesideWeir s (s.rebind die) := by
  unfold State.rebind
  split
  · exact (s.besideWeir_modBoot _).trans (State.besideWeir_modArr _ _ _)
  · exact .refl s

theorem State.besideWeir_endRotation (s : State) (i : Nat) : BesideWeir s (s.endRotation i) := by
  unfold State.endRotation
  split
  · exact ((s.besideWeir_moveRole _ _).trans (State.besideWeir_modTest _ _ _)).trans (State.besideWeir_rebind _ _)
  · exact .refl s

/-- What a boundary does with one array: a role moves, a test is forced and charged, or a rotation starts or ends. -/
theorem State.besideWeir_boundaryArray (s : State) (i : Nat) : BesideWeir s (s.boundaryArray i) := by
  unfold State.boundaryArray
  extract_lets die A T spared code forced
  have hspare : BesideWeir s spared := by
    unfold spared
    split
    · exact s.besideWeir_endRotation _
    · exact .refl s
  have hforced : BesideWeir s forced :=
    ((s.besideWeir_modTest _ _).trans (State.posts_fire _ _).besideWeir).trans (State.besideWeir_bump _ _ _)
  split
  · split
    · exact (hspare.trans (State.besideWeir_moveRole _ _ _)).trans (State.besideWeir_modArr _ _ _)
    · exact hspare
  split
  · exact s.besideWeir_endRotation i
  split
  · split
    · exact (hforced.trans (.forEach _ _ _ fun _ t => t.besideWeir_chargeAdm _ _ _ _)).trans (State.posts_ptEvent _ _ _ _).besideWeir
    · exact hforced
  split
  · split
    · exact (s.besideWeir_moveRole _ _).trans (State.besideWeir_modTest _ _ _)
    · exact .refl s
  · exact .refl s

theorem State.besideWeir_boundary (s : State) (pt : Nat) : BesideWeir s (s.boundary pt) :=
  .forEach _ _ s fun i t => t.besideWeir_boundaryArray i

end Sys2Proof.Machine
end

section
/-! PROOFS. Rungs that return, undos that complete, replays that start or end their step (R102, R202, R258, R351, R352). -/
namespace Sys2Proof.Machine

/-! ### Steps and groups -/

theorem State.part_modPart_ne (s : State) {pt q : Pt} (f : Part → Part) (h : q ≠ pt) : (s.modPart pt f).part q = s.part q :=
  vget_vmod_ne _ _ _ _ (by have := Fin.val_ne_of_ne h; omega)

theorem State.modStep_steps (s : State) (pt num : Nat) (f : StepSt → StepSt) :
    ((s.modStep pt num f).part pt).steps = (s.part pt).steps.map fun x => if x.num == num then f x else x :=
  congrArg Part.steps (s.part_modPart_same pt _)

/-- A step is found as it has been changed, where the change keeps its number. -/
theorem State.stepSt_modStep {s : State} {pt : Nat} {x : StepSt} (h : x ∈ (s.part pt).steps) (f : StepSt → StepSt)
    (hnum : ∀ y, (f y).num = y.num) : ∃ y, (s.modStep pt x.num f).stepSt pt x.num = some (f y) := by
  obtain ⟨y, hy⟩ := Option.isSome_iff_exists.mp
    (List.find?_isSome (p := fun y : StepSt => y.num == x.num) |>.mpr ⟨x, h, beq_self_eq_true x.num⟩)
  have hynum : (y.num == x.num) = true := List.find?_some (p := fun y : StepSt => y.num == x.num) hy
  have hsame : ((fun z => z.num == x.num) ∘ fun z : StepSt => if z.num == x.num then f z else z) = fun z => z.num == x.num := by
    funext z
    by_cases hz : z.num = x.num <;> simp [hz, hnum]
  refine ⟨y, ?_⟩
  rw [State.stepSt, s.modStep_steps, List.find?_map, hsame, hy]
  exact congrArg some (if_pos hynum)

theorem State.group_modGroup_same (s : State) (i : Nat) (f : Group → Group) : (s.modGroup i f).group i = f (s.group i) := vget_vmod_same _ _ _

theorem State.group_modGroup_ne (s : State) {i j : Nat} (h : i % 256 ≠ j % 256) (f : Group → Group) : (s.modGroup j f).group i = s.group i :=
  vget_vmod_ne _ _ _ _ h.symm

theorem State.setGroupSt_other (s : State) {i j : Nat} (h : i % 256 ≠ j % 256) (st : Nat) : (s.setGroupSt j st).group i = s.group i := by
  unfold State.setGroupSt
  dsimp only
  split
  · rfl
  · exact (((State.posts_fire _ _).trans (State.posts_fire _ _)).besideWeir.group i).trans (s.group_modGroup_ne h _)

theorem State.setGroupSt_st (s : State) (i st : Nat) : ((s.setGroupSt i st).group i).st = st := by
  unfold State.setGroupSt
  dsimp only
  split
  · assumption
  · rw [((State.posts_fire _ _).trans (State.posts_fire _ _)).besideWeir.group i, State.group_modGroup_same]

theorem State.setGroupSt_part (s : State) (i st pt : Nat) : (s.setGroupSt i st).part pt = s.part pt := by
  unfold State.setGroupSt
  dsimp only
  split
  · rfl
  · exact ((State.posts_fire _ _).trans (State.posts_fire _ _)).besideWeir.part pt

/-! ### A rung returns (R102) -/

/-- The job entry of a tensor whose rung has returned, with the hold since a committed step. -/
def TensorJob.returned (j : TensorJob) (T : Tensor) (at0 : Nat) : TensorJob :=
  let down := if T.ret = 1 then T.format else j.rung - 1
  { j with rung := down, since := if down = T.format then none else some (at0 + T.hold) }

/-- The job state with one tensor's entry replaced. -/
def Part.setJob (p : Part) (tensor : Nat) (j : TensorJob) : Part :=
  { p with jobs := p.jobs.map fun y => if y.tensor == tensor then j else y }

theorem Part.job_setJob {p : Part} {tensor : Nat} {j : TensorJob} (hp : p.job tensor = some j) {k : TensorJob} (hk : k.tensor = j.tensor) :
    (p.setJob tensor k).job tensor = some k := by
  have hj : (j.tensor == tensor) = true := List.find?_some (p := fun y : TensorJob => y.tensor == tensor) hp
  have hsame : ((fun y => y.tensor == tensor) ∘ fun y : TensorJob => if y.tensor == tensor then k else y) = fun y => y.tensor == tensor := by
    funext y
    by_cases hy : y.tensor = tensor <;> simp_all
  rw [Part.job] at hp
  rw [Part.job, Part.setJob, List.find?_map, hsame, hp]
  exact congrArg some (if_pos hj)

theorem exec_rungReturn {s : State} {pt : Pt} {tensor at0 : Nat} {b : List Byte} {j : TensorJob} (hbed : (s.part pt).bed = some b)
    (hjob : (s.part pt).job tensor = some j) (hsince : j.since = some at0) (hret : (bedTensor b tensor).ret ≠ 0)
    (habove : (bedTensor b tensor).format < j.rung) (hheld : at0 + (bedTensor b tensor).hold ≤ (s.part pt).commit) :
    exec (.rungReturn pt tensor) s = .next (s.modPart pt fun p => p.setJob tensor (j.returned (bedTensor b tensor) at0)) := by
  have hdue : ¬((bedTensor b tensor).ret = 0 ∨ j.rung ≤ (bedTensor b tensor).format ∨
      (s.part pt).commit < at0 + (bedTensor b tensor).hold) := by omega
  change execRungReturn pt tensor s = _
  simp only [execRungReturn, hbed, hjob, hsince, if_neg hdue]
  rfl

/-! ### An undo completes (R202, R258) -/

/-- An abandoned group goes back to FORMED, or forms anew when it lost a member (R258). -/
def State.regroup (s : State) (i : Nat) : State :=
  (if (s.group i).lost then s.modGroup i fun g => { g with lost := false, told := false } else s).setGroupSt i (if (s.group i).lost then 1 else 2)

theorem State.regroup_st (s : State) (i : Nat) : ((s.regroup i).group i).st = if (s.group i).lost then 1 else 2 := State.setGroupSt_st _ _ _

theorem State.regroup_other (s : State) {i j : Nat} (h : i % 256 ≠ j % 256) : (s.regroup j).group i = s.group i := by
  refine (State.setGroupSt_other _ h _).trans ?_
  split
  · exact s.group_modGroup_ne h _
  · rfl

theorem State.regroup_part (s : State) (i pt : Nat) : (s.regroup i).part pt = s.part pt := by
  refine (State.setGroupSt_part _ _ _ _).trans ?_
  split <;> rfl

theorem State.regroupAll_st {i : Nat} (hi : i < 256) : ∀ {l : List Nat} (s : State), l.Nodup → (∀ j ∈ l, j < 256) → i ∈ l →
    ((forEach l (fun j t => t.regroup j) s).group i).st = if (s.group i).lost then 1 else 2
  | [], _, _, _, h => absurd h List.not_mem_nil
  | a :: l, s, hnd, hlt, hmem => by
    obtain ⟨ha, hnd⟩ := List.nodup_cons.mp hnd
    have hl : ∀ j ∈ l, j < 256 := fun j hj => hlt j (List.mem_cons_of_mem a hj)
    change ((forEach l (fun j t => t.regroup j) (s.regroup a)).group i).st = _
    rcases List.mem_cons.mp hmem with rfl | hmem
    · have hrest : (forEach l (fun j t => t.regroup j) (s.regroup i)).group i = (s.regroup i).group i :=
        forEach_keeps (P := fun t : State => t.group i = (s.regroup i).group i) _ l _ rfl fun j hj t ht =>
          (t.regroup_other (by have := hl j hj; rintro h; exact ha (by rwa [show i = j by omega]))).trans ht
      rw [hrest, s.regroup_st]
    · have hne : i ≠ a := fun h => ha (h ▸ hmem)
      have := hlt a List.mem_cons_self
      rw [State.regroupAll_st hi _ hnd hl hmem, s.regroup_other (by omega)]

/-- The slots of the groups that a partition has abandoned (R258). -/
def State.abandoned (s : State) (pt : Nat) : List Nat := (List.range 256).filter fun i => (s.group i).st == 3 && (s.group i).pt == pt

/-- The failed steps of a partition stand at the boundary before them. -/
def Part.undone (p : Part) : Part := { p with steps := p.steps.map fun x => if x.st == 5 then { x with undone := true } else x }

theorem exec_undoComplete {s : State} {pt : Pt} (hdrained : s.draining pt = false)
    (hdue : ((s.part pt).steps.any fun x => x.st == 5 && !x.undone) = true ∨ s.abandoned pt ≠ []) :
    exec (.undoComplete pt) s = .next (forEach (s.abandoned pt) (fun i t => t.regroup i) ((s.modPart pt Part.undone).boundary pt)) := by
  have hmoment : ¬((!((s.part pt).steps.any fun x => x.st == 5 && !x.undone)) = true ∧ (s.abandoned pt).isEmpty = true ∨
      s.draining pt = true) := by
    simp only [hdrained, Bool.not_eq_true', List.isEmpty_iff, Bool.false_eq_true, or_false, not_and]
    rcases hdue with h | h
    · simp [h]
    · exact fun _ => h
  exact congrArg Host.Outcome.next (if_neg hmoment)

/-! ### A replay starts, or the step ends (R351, R352) -/

/-- A replay of a partition counts, and the partition recovers no longer (R351). -/
def State.replayCounted (s : State) (pt : Pt) : State :=
  (s.bump (Reg.dieReplaycnt 0 pt) 1).modFault fun f => { f with recov := f.recov.filter fun p => p != pt.val }

theorem exec_replayStart {s : State} {pt : Pt} {x : StepSt} (hx : ((s.part pt).steps.find? fun x => x.st == 5 && x.undone) = some x)
    (hlim : x.replays ≤ field (s.reg Reg.faultCtl) 3 0) :
    exec (.replayStart pt) s = .next ((s.replayCounted pt).modStep pt x.num fun x => { x with st := 0, replay := true }) := by
  change execReplayStart pt s = _
  simp only [execReplayStart, hx, if_neg (Nat.not_lt.mpr hlim)]
  rfl

theorem exec_replayStart_limit {s : State} {pt : Pt} {x : StepSt} (hx : ((s.part pt).steps.find? fun x => x.st == 5 && x.undone) = some x)
    (hlim : field (s.reg Reg.faultCtl) 3 0 < x.replays) : ∃ u, exec (.replayStart pt) s = .next (State.endStep u pt x.num 0x0F) := by
  change ∃ u, execReplayStart pt s = _
  simp only [execReplayStart, hx, if_pos hlim]
  exact ⟨_, rfl⟩

/-- A step that ends leaves the partition only steps before it (R203). -/
theorem State.endStep_steps (s : State) (pt step status : Nat) : ∀ y ∈ ((s.endStep pt step status).part pt).steps, y.num < step := by
  unfold State.endStep
  extract_lets s1 s2 later s3 s4
  have hcut : ∀ y ∈ (s3.part pt).steps, y.num < step := fun y hy => by
    rw [show s3.part pt = _ from State.part_modPart_same _ _ _] at hy
    exact of_decide_eq_true (List.mem_filter.mp hy).2
  have hend : BesideWeir s3 (forEach later (fun n s => s.completeStep pt n 3) s4) :=
    (s3.besideWeir_completeStep _ _ _).trans (.forEach _ _ _ fun n t => t.besideWeir_completeStep _ _ _)
  rwa [hend.part pt]

theorem State.endStep_stepSt (s : State) (pt step status : Nat) : (s.endStep pt step status).stepSt pt step = none :=
  List.find?_eq_none.mpr fun y hy => by
    have := s.endStep_steps pt step status y hy
    simp only [beq_iff_eq]
    omega

/-- Settles O25: each command by its equation; the boundary of an undo and the descriptors that end leave the job state and the groups alone. -/
theorem rungsAndReplays : Obligations.RungsAndReplays := by
  refine ⟨fun s pt tensor at0 b j hbed hjob hsince hret habove hheld => ?rung, fun s pt hdrained hdue => ?undo,
    fun s pt x hcan hx => ⟨fun hlim => ?replay, fun hlim => ?limit⟩⟩
  case rung =>
    have hpart := s.part_modPart_same pt fun p => p.setJob tensor (j.returned (bedTensor b tensor) at0)
    refine ⟨_, j.returned (bedTensor b tensor) at0, exec_rungReturn hbed hjob hsince hret habove hheld, ?_, rfl, rfl, rfl, rfl, ?_,
      fun q hq => s.part_modPart_ne _ hq⟩
    · rw [hpart]
      exact Part.job_setJob hjob rfl
    · rw [hpart]; rfl
  case undo =>
    have hmem : ∀ {i}, i < 256 → (s.group i).st = 3 → (s.group i).pt = pt.val → i ∈ s.abandoned pt := fun hi hst hpt =>
      List.mem_filter.mpr ⟨List.mem_range.mpr hi, by simp [hst, hpt]⟩
    have hbound := (s.modPart pt Part.undone).besideWeir_boundary pt
    refine ⟨_, exec_undoComplete hdrained (hdue.imp_right ?_), fun y hy hst => ?_, fun i hi hst hpt => ?_⟩
    · rintro ⟨i, hi, hst, hpt⟩
      exact List.ne_nil_of_mem (hmem hi hst hpt)
    · have hpart : ∀ l (t : State), (forEach l (fun i t => t.regroup i) t).part pt = t.part pt := fun l t =>
        forEach_keeps (P := fun u : State => u.part pt = t.part pt) _ l t rfl fun i _ u hu => (u.regroup_part i pt).trans hu
      rw [hpart, hbound.part, State.part_modPart_same] at hy
      obtain ⟨x, -, rfl⟩ := List.mem_map.mp hy
      split at hst <;> simp_all
    · have hnd : (s.abandoned pt).Nodup := List.nodup_range.filter _
      have hlt : ∀ j ∈ s.abandoned pt, j < 256 := fun j hj => List.mem_range.mp (List.mem_filter.mp hj).1
      rw [State.regroupAll_st hi _ hnd hlt (hmem hi hst hpt), hbound.group]
      rfl
  case replay =>
    refine ⟨_, exec_replayStart hx hlim, ?_, s.reg_bump_same _ 1 hcan, s.sameRegsBut_setReg _ _ hcan, rfl, rfl⟩
    obtain ⟨y, hy⟩ := State.stepSt_modStep (s := s.replayCounted pt) (List.mem_of_find?_eq_some hx)
      (fun x => { x with st := 0, replay := true }) fun _ => rfl
    rw [hy]
    rfl
  case limit =>
    obtain ⟨u, hu⟩ := exec_replayStart_limit hx hlim
    exact ⟨_, hu, u.endStep_stepSt _ _ _⟩

end Sys2Proof.Machine
end

section
/-! PROOFS. What a PLAN or a BED changes as it takes effect, and what it leaves alone (R41, R104, R172 to R174). -/
namespace Sys2Proof.Machine

/-! ### What the parts of a PLAN or a BED that takes effect leave alone -/

/-- The loader is as it was, and the state's sparse data keep their canonical form. -/
structure LoaderKept (s t : State) : Prop where
  loader : t.comp.loader = s.comp.loader
  canon : s.Canonical → t.Canonical

/-- What a BED's taking effect leaves alone beside the partition's own job: the loader, the partitions' jobs, memory and what outlives power. -/
structure BesideJobs (s t : State) : Prop extends LoaderKept s t where
  parts : t.comp.parts = s.comp.parts
  mem : t.mem = s.mem
  poison : t.poison = s.poison
  nv : t.nv = s.nv

theorem LoaderKept.refl (s : State) : LoaderKept s s := ⟨rfl, fun h => h⟩
theorem LoaderKept.trans {s t u : State} (a : LoaderKept s t) (b : LoaderKept t u) : LoaderKept s u :=
  ⟨b.loader.trans a.loader, fun h => b.canon (a.canon h)⟩
theorem LoaderKept.ite {c : Prop} [Decidable c] {s t : State} (h : LoaderKept s t) : LoaderKept s (if c then t else s) := by
  split
  · exact h
  · exact .refl s
theorem LoaderKept.forEach {α : Type} (l : List α) (f : α → State → State) (s : State) (h : ∀ x s, LoaderKept s (f x s)) :
    LoaderKept s (forEach l f s) :=
  forEach_keeps (P := LoaderKept s) f l s (.refl s) fun x _ t ht => ht.trans (h x t)

theorem BesideJobs.refl (s : State) : BesideJobs s s := ⟨.refl s, rfl, rfl, rfl, rfl⟩
theorem BesideJobs.trans {s t u : State} (a : BesideJobs s t) (b : BesideJobs t u) : BesideJobs s u :=
  ⟨a.toLoaderKept.trans b.toLoaderKept, b.parts.trans a.parts, b.mem.trans a.mem, b.poison.trans a.poison, b.nv.trans a.nv⟩
theorem BesideJobs.ite {c : Prop} [Decidable c] {s t : State} (h : BesideJobs s t) : BesideJobs s (if c then t else s) := by
  split
  · exact h
  · exact .refl s
theorem BesideJobs.forEach {α : Type} (l : List α) (f : α → State → State) (s : State) (h : ∀ x s, BesideJobs s (f x s)) :
    BesideJobs s (forEach l f s) :=
  forEach_keeps (P := BesideJobs s) f l s (.refl s) fun x _ t ht => ht.trans (h x t)
theorem BesideJobs.part {s t : State} (h : BesideJobs s t) (pt : Nat) : t.part pt = s.part pt := congrArg (vget · pt) h.parts
theorem BesideJobs.sameMemory {s t : State} (h : BesideJobs s t) : SameMemory s t := ⟨fun _ => by rw [h.mem], h.poison⟩

theorem BesideWeir.besideJobs {s t : State} (h : BesideWeir s t) : BesideJobs s t :=
  ⟨⟨(congrArg Comp.loader h.comp :), h.canon⟩, (congrArg Comp.parts h.comp :), h.mem, h.poison, h.nv⟩
theorem Posts.besideJobs {s t : State} (h : Posts s t) : BesideJobs s t := h.besideWeir.besideJobs

theorem State.besideJobs_put (s : State) (off v : Nat) : BesideJobs s (s.put off v) := ⟨⟨rfl, s.canonical_put off v⟩, rfl, rfl, rfl, rfl⟩
theorem State.besideJobs_put64 (s : State) (lo v : Nat) : BesideJobs s (s.put64 lo v) := (s.besideJobs_put _ _).trans (State.besideJobs_put _ _ _)
theorem State.besideJobs_bump (s : State) (off n : Nat) : BesideJobs s (s.bump off n) := (s.besideWeir_bump off n).besideJobs
theorem State.besideJobs_modWeir (s : State) (f : Weir → Weir) : BesideJobs s (s.modWeir f) := (s.besideWeir_modWeir f).besideJobs
theorem State.besideJobs_chargePort (s : State) (p cause : Nat) (hit : Resv → Bool) : BesideJobs s (s.chargePort p cause hit) :=
  s.besideJobs_modWeir _
theorem State.besideJobs_modCasc (s : State) (f : Cascade → Cascade) : BesideJobs s (s.modCasc f) := ⟨⟨rfl, fun h => h⟩, rfl, rfl, rfl, rfl⟩
theorem State.besideJobs_modFab (s : State) (f : Fabric → Fabric) : BesideJobs s (s.modFab f) := ⟨⟨rfl, fun h => h⟩, rfl, rfl, rfl, rfl⟩
theorem State.besideJobs_modPort (s : State) (p : Nat) (f : PortSt → PortSt) : BesideJobs s (s.modPort p f) := s.besideJobs_modFab _
theorem State.besideJobs_modGroup (s : State) (i : Nat) (f : Group → Group) : BesideJobs s (s.modGroup i f) := s.besideJobs_modCasc _
theorem State.besideJobs_dropLearned (s : State) (pt : Nat) : BesideJobs s (s.dropLearned pt) := ⟨⟨rfl, fun h => h⟩, rfl, rfl, rfl, rfl⟩

/-! ### Egress and adverts (R301, R302, R315) -/

theorem State.besideJobs_rollPort (s : State) (p : Nat) : BesideJobs s (s.rollPort p) := by
  unfold State.rollPort
  extract_lets x cap contended
  split
  · exact .refl s
  · have hcontended : BesideJobs s contended := .ite (s.besideJobs_chargePort _ _ _)
    exact hcontended.trans (contended.besideJobs_modPort _ _)

theorem State.besideJobs_serve (k : Nat) (s : State) (p : Nat) : BesideJobs s (s.serve k p) := by
  induction k generalizing s with
  | zero => exact .refl s
  | succ k ih =>
    unfold State.serve
    extract_lets x
    split
    · exact .refl s
    · split
      · exact .refl s
      · refine .trans ?_ (ih _)
        exact ⟨⟨rfl, fun h => h⟩, rfl, rfl, rfl, rfl⟩

theorem State.besideJobs_emit (s : State) (p : Nat) (m : PortMsg) : BesideJobs s (s.emit p m) := by
  unfold State.emit
  extract_lets q all mk marked rolled joined paused
  have hmarked : BesideJobs s marked := .ite (s.besideJobs_bump _ _)
  have hjoined : BesideJobs s joined := (hmarked.trans (marked.besideJobs_rollPort p)).trans (State.besideJobs_modPort _ _ _)
  have hpaused : BesideJobs joined paused := .ite (joined.besideJobs_chargePort _ _ _)
  split
  · exact s.besideJobs_bump _ _
  · exact (hjoined.trans hpaused).trans ((State.besideJobs_rollPort _ _).trans (State.besideJobs_serve _ _ _))

theorem State.besideJobs_sendAdvert (s : State) : BesideJobs s s.sendAdvert := by
  unfold State.sendAdvert
  extract_lets seq k counted
  split
  · exact .refl s
  · exact (s.besideJobs_modFab _).trans (.forEach _ _ _ fun p t => t.besideJobs_emit p _)

theorem State.besideJobs_readvertise (before s : State) : BesideJobs s (before.readvertise s) := by
  unfold State.readvertise
  split
  · exact .refl s
  · exact s.besideJobs_sendAdvert

/-! ### A BED takes effect (R104, R173, R174) -/

theorem State.besideJobs_setGroupSt (s : State) (i st : Nat) : BesideJobs s (s.setGroupSt i st) := by
  unfold State.setGroupSt
  dsimp only
  split
  · exact .refl s
  · exact (s.besideJobs_modGroup _ _).trans ((State.posts_fire _ _).trans (State.posts_fire _ _)).besideJobs

theorem State.besideJobs_dropGroups (s : State) (pt : Nat) : BesideJobs s (s.dropGroups pt) :=
  ((s.besideJobs_modFab _).trans (State.besideJobs_modCasc _ _)).trans
    (.forEach _ _ _ fun i t => (t.besideJobs_setGroupSt i 0).trans (State.besideJobs_modGroup _ _ _))

theorem State.besideJobs_openGroups (s : State) (pt : Nat) (im : List Byte) (old : List (Nat × Nat)) : BesideJobs s (s.openGroups pt im old) :=
  .forEach _ _ _ fun g t => by
    split
    · exact (t.posts_ptEvent _ _ _).besideJobs
    · exact (t.besideJobs_modGroup _ _).trans (State.besideJobs_setGroupSt _ _ _)

theorem State.besideJobs_putDigest (s : State) (im : List Byte) (dig : Nat → Nat) (id : Nat) : BesideJobs s (s.putDigest im dig id) :=
  (BesideJobs.forEach _ _ _ fun _ t => t.besideJobs_put _ _).trans (State.besideJobs_put64 _ _ _)

/-- The job of a partition whose BED has just taken effect: nothing in flight, an empty job state, the committed step as it was (R104, R173). -/
def Part.fresh (p : Part) (im : List Byte) (masks : List (Nat × List Byte)) : Part := { bed := some im, masks := masks, commit := p.commit }

theorem State.takeBed_around (s : State) (pt : Nat) (im : List Byte) (masks : List (Nat × List Byte)) :
    ∃ u, BesideJobs s u ∧ BesideJobs (u.modPart pt fun p => p.fresh im masks) (s.takeBed pt im masks) := by
  unfold State.takeBed
  extract_lets before old cleared taken signed staled profiled
  refine ⟨cleared, (s.besideJobs_dropGroups pt).trans (State.besideJobs_dropLearned _ _), ?_⟩
  have hprofiled : BesideJobs taken profiled :=
    ((taken.besideJobs_putDigest _ _ _).trans (signed.besideJobs_modWeir _)).trans (staled.besideJobs_modWeir _)
  exact (hprofiled.trans (profiled.besideJobs_openGroups pt im old)).trans (State.besideJobs_readvertise _ _)

theorem State.takeBed_part (s : State) (pt : Nat) (im : List Byte) (masks : List (Nat × List Byte)) :
    (s.takeBed pt im masks).part pt = (s.part pt).fresh im masks := by
  obtain ⟨u, hbefore, hafter⟩ := s.takeBed_around pt im masks
  rw [hafter.part, State.part_modPart_same, hbefore.part]

theorem State.canonical_takeBed {s : State} (h : s.Canonical) (pt : Nat) (im : List Byte) (masks : List (Nat × List Byte)) :
    (s.takeBed pt im masks).Canonical := by
  obtain ⟨u, hbefore, hafter⟩ := s.takeBed_around pt im masks
  exact hafter.canon (hbefore.canon h)

theorem State.takeBed_sameMemory (s : State) (pt : Nat) (im : List Byte) (masks : List (Nat × List Byte)) :
    SameMemory s (s.takeBed pt im masks) ∧ (s.takeBed pt im masks).nv = s.nv := by
  obtain ⟨u, hbefore, hafter⟩ := s.takeBed_around pt im masks
  have hmem : SameMemory (u.modPart pt fun p => p.fresh im masks) (s.takeBed pt im masks) := hafter.sameMemory
  exact ⟨⟨fun a => (hmem.1 a).trans (hbefore.sameMemory.1 a), hmem.2.trans hbefore.poison⟩, hafter.nv.trans hbefore.nv⟩

/-- The descriptors that end with the BED they were admitted under complete before the pending one takes effect (R173). -/
theorem exec_bedTakeEffect {s : State} {pt : Pt} {im : List Byte} (hpend : (s.part pt).pendBed = some im) (hreset : s.resetting pt = false)
    (hidle : ((s.part pt).steps.all fun x => x.st == 0) = true) :
    ∃ u, BesideJobs s u ∧ exec (.bedTakeEffect pt) s = .next (u.takeBed pt im (s.part pt).pendMasks) := by
  refine ⟨forEach ((s.admsOf pt).filter Adm.endsWithBed) (fun a t => t.complete pt a.admno 5) s,
    .forEach _ _ _ fun a t => (t.besideWeir_complete _ _ _).besideJobs, ?_⟩
  change Host.Outcome.next (s.pendingBed pt) = _
  simp only [State.pendingBed, hpend, hreset, hidle, Bool.true_or, Bool.not_true, Bool.false_eq_true, or_self, if_false]

/-! ### A PLAN takes effect (R41, R156, R161, R172, R174) -/

theorem State.loaderKept_modCis (s : State) (f : Cistern → Cistern) : LoaderKept s (s.modCis f) := ⟨rfl, fun h => h⟩
theorem State.loaderKept_modJournal (s : State) (f : Journal → Journal) : LoaderKept s (s.modJournal f) := ⟨rfl, fun h => h⟩

theorem State.loaderKept_setGovwait (s : State) (b : Bool) : LoaderKept s (s.setGovwait b) := by
  unfold State.setGovwait
  split
  · exact .refl s
  · exact (s.loaderKept_modCis _).trans (State.posts_fire _ _).besideJobs.toLoaderKept

theorem State.loaderKept_startProgram (s : State) : LoaderKept s s.startProgram := by
  fun_cases State.startProgram s with
  | case1 | case3 | case4 | case6 => exact .refl s
  | case2 | case5 => exact s.loaderKept_setGovwait _
  | case7 =>
    exact (((s.loaderKept_modCis _).trans (State.loaderKept_modJournal _ _)).trans (State.loaderKept_modCis _ _)).trans
      (State.loaderKept_setGovwait _ _)

theorem State.loaderKept_noteWait (s : State) (typ : Nat) : LoaderKept s (s.noteWait typ) := by
  unfold State.noteWait
  extract_lets counted told
  have hcounted : LoaderKept s counted := (s.besideJobs_bump _ _).toLoaderKept
  split
  · split
    · exact hcounted
    · exact (hcounted.trans (counted.loaderKept_modCis _)).trans (told.reports_record _).besideWeir.besideJobs.toLoaderKept
  · exact .refl s

theorem State.loaderKept_jsubmit (s : State) (typ : Nat) (body : List Byte) : LoaderKept s (s.jsubmit typ body) := by
  unfold State.jsubmit
  extract_lets fr n rs numbered paged
  split
  · exact .refl s
  split
  · exact s.loaderKept_modCis _
  · exact ((s.loaderKept_modJournal _).trans (numbered.loaderKept_modCis _)).trans
      ((State.loaderKept_startProgram _).trans (State.loaderKept_noteWait _ _))

theorem State.loaderKept_ledger (s : State) (t : TagEnergy) (part : Bool) : LoaderKept s (s.ledger t part) := by
  unfold State.ledger
  extract_lets e st tagged
  split
  · exact .refl s
  · exact ((s.loaderKept_modCis _).trans (tagged.loaderKept_jsubmit _ _)).trans (.ite (State.loaderKept_modCis _ _))

theorem State.loaderKept_scrubMem (s : State) (p : Nat → Bool) : LoaderKept s (s.scrubMem p) :=
  ⟨rfl, fun ⟨hmem, hregs, hpoison⟩ => ⟨s.scrubMem_mem_wf p hmem, hregs, hpoison.filter _⟩⟩

theorem State.besideJobs_setHalf (s : State) (p h : Nat) (f : HalfSt → HalfSt) : BesideJobs s (s.setHalf p h f) := by
  unfold State.setHalf
  extract_lets a changed b told fired degraded
  have hchanged : BesideJobs s changed := s.besideJobs_modPort _ _
  have hfired : BesideJobs changed fired := ((changed.posts_modEvent _ _).trans (State.posts_fire _ _)).besideJobs
  have hdegraded : BesideJobs fired degraded := .ite (fired.besideJobs_chargePort _ _ _)
  split
  · exact hchanged
  split
  · exact (hchanged.trans hfired).trans hdegraded
  · exact ((hchanged.trans hfired).trans hdegraded).trans degraded.besideJobs_sendAdvert

theorem State.besideJobs_trainPort (s : State) (p : Nat) : BesideJobs s (s.trainPort p) := by
  unfold State.trainPort
  split
  · exact .refl s
  · exact .forEach _ _ _ fun h t => t.besideJobs_setHalf p h _

/-- After a PLAN has become the plan in effect, scrubs, routes, ledgers, digests, ports and adverts leave the loader alone. -/
theorem State.loaderKept_applyPlan (s : State) (im : List Byte) : LoaderKept (s.modLoader fun l => { l with plan := some im }) (s.applyPlan im) := by
  unfold State.applyPlan
  extract_lets before planned moved pools chans roles splits scrubbed cleared routed gone billed signed trained
  have hcleared : LoaderKept scrubbed cleared := .forEach _ _ _ fun r t => by
    split
    · exact ⟨rfl, fun h => h⟩
    · exact .refl t
  have hbilled : LoaderKept routed billed := .forEach _ _ _ fun t u => u.loaderKept_ledger t true
  have htrained : LoaderKept signed trained := .forEach _ _ _ fun p t =>
    ((t.besideJobs_modPort _ _).trans (State.besideJobs_trainPort _ _)).toLoaderKept
  have hrouted : LoaderKept planned routed := ((planned.loaderKept_scrubMem _).trans hcleared).trans ⟨rfl, fun h => h⟩
  have hsigned : LoaderKept planned signed := (hrouted.trans hbilled).trans (billed.besideJobs_putDigest _ _ _).toLoaderKept
  exact (hsigned.trans htrained).trans (trained.posts_postIntrs.besideJobs.trans (State.besideJobs_readvertise _ _)).toLoaderKept

theorem State.applyPlan_plan (s : State) (im : List Byte) : (s.applyPlan im).comp.loader.plan = some im :=
  congrArg Loader.plan (s.loaderKept_applyPlan im).loader

theorem State.canonical_applyPlan {s : State} (h : s.Canonical) (im : List Byte) : (s.applyPlan im).Canonical :=
  (s.loaderKept_applyPlan im).canon h

end Sys2Proof.Machine
end

section
/-! PROOFS. The end of a load, and a pending BED that takes effect (R169 to R174, R176, R180). -/
namespace Sys2Proof.Machine

/-! ### The end of a load (R180) -/

/-- Posting counts in no register of the Parterre loader. -/
theorem not_postReg_of_parterre {o : Nat} (hlo : 0x400000 ≤ o) (hhi : o < 0x500000) : ¬ PostReg (regHome o) := by
  have hhome : regHome o = o := if_neg (by omega)
  rw [hhome]
  rintro (hd | ⟨q, hq⟩)
  · have : regHome Reg.rillDmaref = 0x10001C := by decide
    omega
  · cases q with
    | none =>
      have : regHome (evLostReg none) = 0x100914 := by decide
      omega
    | some pt =>
      have hoff : evLostReg (some pt) = 0x3800314 + 0x40000 * pt := rfl
      have : regHome (evLostReg (some pt)) = 0x3800314 + 0x40000 * pt := by rw [hoff]; exact if_neg (by omega)
      omega

/-- The loader idle again, with the result of the load in its registers (R180). -/
def State.loadNoted (s : State) (res sec rec_ : Nat) : State :=
  (((s.modLoader fun l => { l with st := 0, hit := 0#16 }).put Reg.parterreResult res).put Reg.parterreErrsec sec).put Reg.parterreErrrec rec_

theorem State.posts_loadDone (s : State) (res sec rec_ : Nat) : Posts (s.loadNoted res sec rec_) (s.loadDone res sec rec_) :=
  (State.posts_fire _ _).trans (State.posts_modEvent _ _ _)

theorem State.loadDone_comp (s : State) (res sec rec_ : Nat) :
    (s.loadDone res sec rec_).comp = { s.comp with loader := { s.comp.loader with st := 0, hit := 0#16 } } := (s.posts_loadDone res sec rec_).comp

theorem State.loadDone_sameMemory (s : State) (res sec rec_ : Nat) : SameMemory s (s.loadDone res sec rec_) :=
  (s.posts_loadDone res sec rec_).sameMemory

/-- The result registers hold what the load left (R180). -/
theorem State.loadDone_regs {s : State} (h : s.Canonical) (res sec rec_ : Nat) :
    (s.loadDone res sec rec_).reg Reg.parterreResult = res % 2 ^ 32 ∧ (s.loadDone res sec rec_).reg Reg.parterreErrsec = sec % 2 ^ 32 ∧
      (s.loadDone res sec rec_).reg Reg.parterreErrrec = rec_ % 2 ^ 32 := by
  have h0 : (s.modLoader fun l => { l with st := 0, hit := 0#16 }).Canonical := h
  have h1 := State.canonical_put Reg.parterreResult res h0
  have h2 := State.canonical_put Reg.parterreErrsec sec h1
  have h3 := State.canonical_put Reg.parterreErrrec rec_ h2
  have hposts : ∀ o, 0x400000 ≤ o → o < 0x500000 → (s.loadDone res sec rec_).reg o = (s.loadNoted res sec rec_).reg o := fun o hlo hhi =>
    congrArg BitVec.toNat ((s.posts_loadDone res sec rec_).regs h3 o (not_postReg_of_parterre hlo hhi))
  refine ⟨(hposts _ (by decide) (by decide)).trans ?_, (hposts _ (by decide) (by decide)).trans ?_,
    (hposts _ (by decide) (by decide)).trans ?_⟩
  · exact (State.reg_put_ne _ _ _ h2 (by decide)).trans ((State.reg_put_ne _ _ _ h1 (by decide)).trans (State.reg_put_same _ _ h0))
  · exact (State.reg_put_ne _ _ _ h2 (by decide)).trans (State.reg_put_same _ _ h1)
  · exact State.reg_put_same _ _ h2

/-- What a refused load leaves: everything but the loader's work, whose result registers say where the image failed (R170, R180). -/
def State.LeftByRefusal (s t : State) (c sec rec_ : Nat) : Prop :=
  t.comp.loader.st = 0 ∧ t.comp.parts = s.comp.parts ∧ t.comp.loader.plan = s.comp.loader.plan ∧ t.comp.casc = s.comp.casc ∧
    t.comp.weir = s.comp.weir ∧ t.reg Reg.parterreResult = 3 + 2 ^ 16 * c ∧ t.reg Reg.parterreErrsec = sec ∧
    t.reg Reg.parterreErrrec = rec_ ∧ SameMemory s t ∧ t.nv = s.nv ∧ t.arrays = s.arrays

theorem State.loadDone_refusal {s : State} (h : s.Canonical) {c sec rec_ : Nat} (hc : c < 2 ^ 16) (hsec : sec < 2 ^ 32) (hrec : rec_ < 2 ^ 32) :
    s.LeftByRefusal (s.loadDone (3 + at_ 16 c) sec rec_) c sec rec_ := by
  have hcomp := s.loadDone_comp (3 + at_ 16 c) sec rec_
  have hposts := s.posts_loadDone (3 + at_ 16 c) sec rec_
  obtain ⟨hres, hs, hr⟩ := State.loadDone_regs h (3 + at_ 16 c) sec rec_
  refine ⟨by rw [hcomp], by rw [hcomp], by rw [hcomp], by rw [hcomp], by rw [hcomp], ?_, ?_, ?_, s.loadDone_sameMemory _ _ _,
    hposts.nv, hposts.arrays⟩
  · rw [hres, at_eq_mul]; omega
  · rw [hs, Nat.mod_eq_of_lt hsec]
  · rw [hr, Nat.mod_eq_of_lt hrec]

/-- The job of a partition with a BED that waits for its time (R173). -/
def Part.withPending (p : Part) (im : List Byte) (masks : List (Nat × List Byte)) : Part := { p with pendBed := some im, pendMasks := masks }

/-! ### LOAD_FINISH, by what the checks and the device say (R170 to R173) -/

/-- The partition that an image names. -/
def imagePt (im : List Byte) : Nat := field (u8 im 0x0C) 3 0

/-- Whether the partition of a staged BED entered reset since LOAD (R172). -/
def State.loadHit (s : State) : Bool :=
  u8 s.staged 4 == 2 && s.comp.loader.hit.getLsbD (imagePt s.staged) && (s.headerCode s.staged (s.reg Reg.parterreLen) false).isNone

theorem exec_loadFinish_idle {s : State} (h : s.comp.loader.st = 0) : exec .loadFinish s = .next s :=
  congrArg Host.Outcome.next (if_pos h)

section
variable {s : State} (hst : s.comp.loader.st ≠ 0)
include hst

theorem exec_loadFinish_hit (hhit : s.loadHit = true) : exec .loadFinish s = .next (s.loadDone (3 + at_ 16 0x21) 0xFF none32) :=
  congrArg Host.Outcome.next ((if_neg hst).trans (if_pos hhit))

variable (hhit : s.loadHit = false)
include hhit

theorem exec_loadFinish_invalid {a c sec rec_ : Nat} (hval : s.validate s.staged (s.reg Reg.parterreLen) false = some (a, c, sec, rec_)) :
    exec .loadFinish s = .next (s.loadDone (3 + at_ 16 c) sec rec_) := by
  rw [State.loadHit, imagePt] at hhit
  change execLoadFinish s = _
  simp only [execLoadFinish, hst, hhit, hval, Bool.false_eq_true, if_false]

variable (hval : s.validate s.staged (s.reg Reg.parterreLen) false = none)
include hval

theorem exec_loadFinish_device {c : Nat} (hdev : s.phase6 s.staged = some c) :
    exec .loadFinish s = .next (s.loadDone (3 + at_ 16 c) 0xFF none32) := by
  rw [State.loadHit, imagePt] at hhit
  change execLoadFinish s = _
  simp only [execLoadFinish, hst, hhit, hval, hdev, Bool.false_eq_true, if_false]

variable (hdev : s.phase6 s.staged = none)
include hdev

theorem exec_loadFinish_plan (htype : u8 s.staged 4 = 1) : exec .loadFinish s = .next ((s.applyPlan s.staged).loadDone 1 0 0) := by
  rw [State.loadHit, imagePt, htype] at hhit
  change execLoadFinish s = _
  simp only [execLoadFinish, hst, hhit, hval, hdev, htype, Bool.false_eq_true, if_false, if_true]

theorem exec_loadFinish_bed (htype : u8 s.staged 4 ≠ 1) (hbed : (s.part (imagePt s.staged)).bed = none) : exec .loadFinish s =
    .next ((s.takeBed (imagePt s.staged) s.staged (s.readMasks (imagePt s.staged) s.staged)).loadDone 1 0 0) := by
  rw [State.loadHit, imagePt] at hhit
  rw [imagePt] at hbed ⊢
  change execLoadFinish s = _
  simp only [execLoadFinish, hst, hhit, hval, hdev, htype, hbed, Option.isNone_none, Bool.false_eq_true, if_false, if_true]

theorem exec_loadFinish_pending (htype : u8 s.staged 4 ≠ 1) (hbed : (s.part (imagePt s.staged)).bed ≠ none) : exec .loadFinish s =
    .next ((s.modPart (imagePt s.staged) fun p => p.withPending s.staged (s.readMasks (imagePt s.staged) s.staged)).loadDone 5 0 0) := by
  rw [State.loadHit, imagePt] at hhit
  rw [imagePt] at hbed ⊢
  change execLoadFinish s = _
  simp only [execLoadFinish, hst, hhit, hval, hdev, htype, Option.isNone_iff_eq_none.not.mpr hbed, Bool.false_eq_true, if_false]
  rfl

end

/-- The codes by which the state of the device refuses an image (Table 06-18). -/
theorem State.phase6_lt {s : State} {im : List Byte} {c : Nat} (h : s.phase6 im = some c) : c < 2 ^ 16 := by
  unfold State.phase6 at h
  dsimp only at h
  split_ifs at h <;> (injection h; omega)

/-- An accepted load: what it brings stands beside the loader's work, RESULT tells which (R172, R173). -/
theorem State.loadDone_accepted {u : State} (h : u.Canonical) {res : Nat} (hres : res < 2 ^ 32) :
    (u.loadDone res 0 0).comp.loader.st = 0 ∧ (u.loadDone res 0 0).comp.loader.plan = u.comp.loader.plan ∧
      (∀ pt, (u.loadDone res 0 0).part pt = u.part pt) ∧ (u.loadDone res 0 0).reg Reg.parterreResult = res := by
  have hcomp := u.loadDone_comp res 0 0
  refine ⟨by rw [hcomp], by rw [hcomp], fun pt => by rw [State.part, hcomp]; rfl, ?_⟩
  rw [(State.loadDone_regs h res 0 0).1, Nat.mod_eq_of_lt hres]

/-- Settles O29: LOAD_FINISH by its checks, each refusal leaving all but the loader alone; a pending BED after the descriptors that end with the
one before it. -/
theorem loadEnds : Obligations.LoadEnds := by
  refine ⟨fun s hcan hst => ⟨fun hhit => ?hit, fun hhit => ⟨fun a c sec rec_ hval hc hsec hrec => ?invalid, fun hval =>
      ⟨fun c hdev => ?device, fun hdev => ?accepted⟩⟩⟩,
    fun s => exec_loadFinish_idle, fun s pt im hpend hreset hidle => ?effect⟩
  case hit => exact ⟨_, exec_loadFinish_hit hst hhit, State.loadDone_refusal hcan (by decide) (by decide) (by decide)⟩
  case invalid => exact ⟨_, exec_loadFinish_invalid hst hhit hval, State.loadDone_refusal hcan hc hsec hrec⟩
  case device =>
    exact ⟨_, exec_loadFinish_device hst hhit hval hdev, State.loadDone_refusal hcan (State.phase6_lt hdev) (by decide) (by decide)⟩
  case accepted =>
    by_cases htype : u8 s.staged 4 = 1
    · obtain ⟨hidle, hplan, -, hres⟩ := State.loadDone_accepted (State.canonical_applyPlan hcan s.staged) (res := 1) (by decide)
      exact ⟨_, exec_loadFinish_plan hst hhit hval hdev htype, hidle, fun _ => ⟨hplan.trans (s.applyPlan_plan _), hres⟩,
        fun h => absurd htype h, fun h => absurd htype h⟩
    by_cases hbed : (s.part (imagePt s.staged)).bed = none
    · obtain ⟨hidle, -, hpart, hres⟩ := State.loadDone_accepted
        (State.canonical_takeBed hcan (imagePt s.staged) s.staged (s.readMasks (imagePt s.staged) s.staged)) (res := 1) (by decide)
      exact ⟨_, exec_loadFinish_bed hst hhit hval hdev htype hbed, hidle, fun h => absurd h htype,
        fun _ _ => ⟨by rw [← imagePt, hpart, State.takeBed_part]; rfl, hres⟩, fun _ h => absurd hbed h⟩
    · obtain ⟨hidle, -, hpart, hres⟩ := State.loadDone_accepted (u := s.modPart (imagePt s.staged) fun p =>
        p.withPending s.staged (s.readMasks (imagePt s.staged) s.staged)) hcan (res := 5) (by decide)
      have hjob := (hpart (imagePt s.staged)).trans (s.part_modPart_same _ _)
      exact ⟨_, exec_loadFinish_pending hst hhit hval hdev htype hbed, hidle, fun h => absurd h htype, fun _ h => absurd h hbed,
        fun _ _ => ⟨(congrArg Part.bed hjob :), (congrArg Part.pendBed hjob :), hres⟩⟩
  case effect =>
    obtain ⟨u, hends, hexec⟩ := exec_bedTakeEffect hpend hreset hidle
    obtain ⟨hmem, hnv⟩ := u.takeBed_sameMemory pt im (s.part pt).pendMasks
    have hjob := u.takeBed_part pt im (s.part pt).pendMasks
    rw [hends.part] at hjob
    exact ⟨_, hexec, by rw [hjob]; rfl, by rw [hjob]; rfl, by rw [hjob]; rfl, by rw [hjob]; rfl, by rw [hjob]; rfl,
      ⟨fun a => (hmem.1 a).trans (hends.sameMemory.1 a), hmem.2.trans hends.poison⟩, hnv.trans hends.nv⟩

end Sys2Proof.Machine
end

section
/-! PROOFS. The commands of the Parterre loader, and the persisted default (R175, R176, R180, R401). -/
namespace Sys2Proof.Machine

/-! ### Writes of the loader's registers (R180, R414) -/

/-- Once READY, no cause refuses a write of a register of the Parterre block. -/
theorem State.hostWrite_parterre {s : State} (hu : s.hostUp = true) (hr : s.boot.ready = true) {off : Nat}
    (hblock : blockOf off = .parterre) (hrow : (regRow off).isNone = false) (f : State → State) : s.hostWrite off f = f s := by
  simp [State.hostWrite, State.accessCause, hu, hr, hblock, hrow]

/-! ### PARTERRE_CTL (Table 06-17), whose CMD, KEY and PT lie where GLOBAL_RESET has SCOPE, KEY and PTMASK -/

theorem field_resetWord_mask {scope key mask : Nat} (hs : scope < 16) (hk : key < 256) (hm : mask < 16) :
    field (resetWord scope key mask) 19 16 = mask := by
  simp only [resetWord, at_, field, Nat.shiftLeft_eq, Nat.shiftRight_eq_div_pow]
  omega

/-- The loader at work on the staged image from a time on (R176, R180). -/
def Loader.started (l : Loader) (time : Nat) : Loader := { l with st := 1, hit := 0#16, since := time }

/-- The loader with an empty staging window (R180). -/
def Loader.emptied (l : Loader) : Loader := { l with stage := [] }

/-- The job of a partition with no BED that waits for its time (R173, R180). -/
def Part.withoutPending (p : Part) : Part := { p with pendBed := none, pendMasks := [] }

section
variable {s : State} {w : Nat}

theorem State.writeParterreCtl_badKey (hkey : field w 15 8 ≠ 0xC3) : s.writeParterreCtl w = s.accErr Reg.parterreCtl .badKey :=
  if_pos hkey

variable (hkey : field w 15 8 = 0xC3)
include hkey

theorem State.writeParterreCtl_load (hcmd : field w 3 0 = 1) : s.writeParterreCtl w =
    if s.comp.loader.st ≠ 0 then s.accErr Reg.parterreCtl .notReady else s.modLoader fun l => l.started s.time := by
  rw [State.writeParterreCtl, if_neg (not_not_intro hkey), hcmd]
  rfl

theorem State.writeParterreCtl_clear (hcmd : field w 3 0 = 2) : s.writeParterreCtl w =
    if s.comp.loader.st ≠ 0 then s.accErr Reg.parterreCtl .notReady else s.modLoader Loader.emptied := by
  rw [State.writeParterreCtl, if_neg (not_not_intro hkey), hcmd]
  rfl

theorem State.writeParterreCtl_cancel (hcmd : field w 3 0 = 3) :
    s.writeParterreCtl w = s.modPart (field w 19 16) Part.withoutPending := by
  rw [State.writeParterreCtl, if_neg (not_not_intro hkey), hcmd]
  rfl

end

/-! ### LOAD, CLEAR and CANCEL -/

section
variable {s : State} (hu : s.hostUp = true) (hr : s.boot.ready = true)
include hu hr

theorem exec_load_word (key : Byte) : exec (.load key) s = .next (s.writeParterreCtl (resetWord 1 key.toNat 0)) :=
  congrArg Host.Outcome.next (State.hostWrite_parterre hu hr rfl rfl _)

theorem exec_clear_word (key : Byte) : exec (.clear key) s = .next (s.writeParterreCtl (resetWord 2 key.toNat 0)) :=
  congrArg Host.Outcome.next (State.hostWrite_parterre hu hr rfl rfl _)

theorem exec_cancel_word (key : Byte) (pt : Pt) :
    exec (.cancel key pt) s = .next (s.writeParterreCtl (resetWord 3 key.toNat pt.val)) :=
  congrArg Host.Outcome.next (State.hostWrite_parterre hu hr rfl rfl _)

theorem exec_load_keyed : exec (.load 0xC3#8) s =
    .next (if s.comp.loader.st ≠ 0 then s.accErr Reg.parterreCtl .notReady else s.modLoader fun l => l.started s.time) := by
  rw [exec_load_word hu hr, State.writeParterreCtl_load (by decide) (by decide)]

theorem exec_clear_keyed : exec (.clear 0xC3#8) s =
    .next (if s.comp.loader.st ≠ 0 then s.accErr Reg.parterreCtl .notReady else s.modLoader Loader.emptied) := by
  rw [exec_clear_word hu hr, State.writeParterreCtl_clear (by decide) (by decide)]

theorem exec_cancel_keyed (pt : Pt) : exec (.cancel 0xC3#8 pt) s = .next (s.modPart pt Part.withoutPending) := by
  have hkey : field (resetWord 3 (0xC3#8 : Byte).toNat pt.val) 15 8 = 0xC3 := field_resetWord_key (by decide) (by decide) _
  rw [exec_cancel_word hu hr, State.writeParterreCtl_cancel hkey (field_resetWord_scope (by decide) _ _),
    field_resetWord_mask (by decide) (by decide) pt.isLt]

/-- Under another key each of the three commands is refused (R180). -/
theorem exec_parterreCtl_badKey {key : Byte} (hkey : key ≠ 0xC3#8) (pt : Pt) :
    exec (.load key) s = .next (s.accErr Reg.parterreCtl .badKey) ∧
      exec (.clear key) s = .next (s.accErr Reg.parterreCtl .badKey) ∧
      exec (.cancel key pt) s = .next (s.accErr Reg.parterreCtl .badKey) := by
  have hword : ∀ cmd mask, cmd < 16 → field (resetWord cmd key.toNat mask) 15 8 ≠ 0xC3 := fun cmd mask hcmd h =>
    hkey (BitVec.eq_of_toNat_eq ((field_resetWord_key hcmd key.isLt mask).symm.trans h))
  refine ⟨?_, ?_, ?_⟩
  · rw [exec_load_word hu hr, State.writeParterreCtl_badKey (hword 1 0 (by decide))]
  · rw [exec_clear_word hu hr, State.writeParterreCtl_badKey (hword 2 0 (by decide))]
  · rw [exec_cancel_word hu hr, State.writeParterreCtl_badKey (hword 3 pt (by decide))]

end

/-- What CANCEL drops, and what it leaves (R173, R180). -/
theorem State.modPart_withoutPending (s : State) (pt : Pt) :
    ((s.modPart pt Part.withoutPending).part pt).pendBed = none ∧
      ((s.modPart pt Part.withoutPending).part pt).bed = (s.part pt).bed ∧
      ((s.modPart pt Part.withoutPending).part pt).steps = (s.part pt).steps := by
  rw [s.part_modPart_same]
  exact ⟨rfl, rfl, rfl⟩

/-! ### PARTERRE_PERSIST and DEFSTAT.NO_IMAGE (R175, R401) -/

/-- A register stores the flag that is set in its bit 2. -/
theorem bit_setField_two (w : Nat) (b : Bool) : bit (setField w 2 2 (b2n b) % 2 ^ 32) 2 = b := by
  simp only [bit, setField, field, Nat.shiftLeft_eq, Nat.shiftRight_eq_div_pow]
  cases b <;> simp [b2n] <;> omega

/-- PARTERRE_PERSIST as a command leaves it (Table 06-18). -/
def State.persistNoted (s : State) (cmd : Nat) : State := s.put Reg.parterrePersist cmd

/-- DEFSTAT.NO_IMAGE as PERSIST leaves it (Table 06-18). -/
def State.noImage (s : State) (b : Bool) : State :=
  s.put Reg.parterreDefstat (setField (s.reg Reg.parterreDefstat) 2 2 (b2n b))

/-- PERSIST under presence: the plan in effect goes to the journal, or NO_IMAGE tells that there is none (R175). -/
def State.planKept (s : State) : State :=
  match s.plan with
  | none => s.noImage true
  | some im => (s.noImage false).jsubmit 0x30 im

theorem State.planKept_none {s : State} (h : s.plan = none) : s.planKept = s.noImage true := by rw [State.planKept, h]

theorem State.planKept_some {s : State} {im : List Byte} (h : s.plan = some im) :
    s.planKept = (s.noImage false).jsubmit 0x30 im := by rw [State.planKept, h]

theorem State.noImage_defstat {s : State} (h : s.Canonical) (b : Bool) : bit ((s.noImage b).reg Reg.parterreDefstat) 2 = b := by
  rw [State.noImage, State.reg_put_same _ _ h, bit_setField_two]

section
variable {s : State}

theorem State.writePersist_noPres (hp : s.pres = false) (w : Nat) :
    s.writePersist w = s.noPres Reg.parterrePersist Reg.parterrePersist 0 :=
  if_pos (by simp [hp])

variable (hp : s.pres = true)
include hp

theorem State.writePersist_persist : s.writePersist 1 = (s.persistNoted 1).planKept := if_neg (by simp [hp])

theorem State.writePersist_erase : s.writePersist 2 = (s.persistNoted 2).jsubmit 0x30 [] := if_neg (by simp [hp])

end

section
variable {s : State} (hu : s.hostUp = true) (hr : s.boot.ready = true)
include hu hr

theorem exec_persist_ready : exec .persist s = .next (s.writePersist 1) :=
  congrArg Host.Outcome.next (State.hostWrite_parterre hu hr rfl rfl _)

theorem exec_eraseDefault_ready : exec .eraseDefault s = .next (s.writePersist 2) :=
  congrArg Host.Outcome.next (State.hostWrite_parterre hu hr rfl rfl _)

theorem exec_persist_plan (hp : s.pres = true) {im : List Byte} (hplan : s.plan = some im) :
    exec .persist s = .next (((s.persistNoted 1).noImage false).jsubmit 0x30 im) := by
  rw [exec_persist_ready hu hr, State.writePersist_persist hp, State.planKept_some (s := s.persistNoted 1) hplan]

theorem exec_persist_noPlan (hp : s.pres = true) (hplan : s.plan = none) :
    exec .persist s = .next ((s.persistNoted 1).noImage true) := by
  rw [exec_persist_ready hu hr, State.writePersist_persist hp, State.planKept_none (s := s.persistNoted 1) hplan]

theorem exec_eraseDefault_empty (hp : s.pres = true) : exec .eraseDefault s = .next ((s.persistNoted 2).jsubmit 0x30 []) := by
  rw [exec_eraseDefault_ready hu hr, State.writePersist_erase hp]

/-- Without presence both commands are refused (R401), whatever the plan. -/
theorem exec_parterrePersist_noPres (hp : s.pres = false) :
    exec .persist s = .next (s.noPres Reg.parterrePersist Reg.parterrePersist 0) ∧
      exec .eraseDefault s = .next (s.noPres Reg.parterrePersist Reg.parterrePersist 0) := by
  rw [exec_persist_ready hu hr, exec_eraseDefault_ready hu hr, State.writePersist_noPres hp, State.writePersist_noPres hp]
  exact ⟨rfl, rfl⟩

end

/-- Settles O28: the three commands of PARTERRE_CTL by key and state of the loader, the two of PARTERRE_PERSIST by presence and plan. -/
theorem loaderCommands : Obligations.LoaderCommands := by
  refine ⟨fun s pt key hu hr => ⟨fun hidle => ⟨?load, ?clear⟩, ?cancel, fun hbusy => ⟨?loadBusy, ?clearBusy⟩, fun hkey => ?badKey⟩,
    fun s hcan hu hr => ⟨fun hp im hplan => ?persist, fun hp hplan => ?noPlan, fun hp => ?erase, fun hp => ?noPres⟩⟩
  case load => exact ⟨_, (exec_load_keyed hu hr).trans (congrArg _ (if_neg (not_not_intro hidle))), rfl, rfl, rfl, rfl, rfl⟩
  case clear => exact ⟨_, (exec_clear_keyed hu hr).trans (congrArg _ (if_neg (not_not_intro hidle))), rfl, rfl, rfl⟩
  case cancel =>
    obtain ⟨hpend, hbed, hsteps⟩ := s.modPart_withoutPending pt
    exact ⟨_, exec_cancel_keyed hu hr pt, hpend, hbed, hsteps, fun q hq => s.part_modPart_ne _ hq, rfl⟩
  case loadBusy => exact (exec_load_keyed hu hr).trans (congrArg _ (if_pos hbusy))
  case clearBusy => exact (exec_clear_keyed hu hr).trans (congrArg _ (if_pos hbusy))
  case badKey => exact exec_parterreCtl_badKey hu hr hkey pt
  case persist => exact ⟨_, exec_persist_plan hu hr hp hplan, rfl, rfl, State.noImage_defstat (State.canonical_put _ _ hcan) false⟩
  case noPlan => exact ⟨_, exec_persist_noPlan hu hr hp hplan, State.noImage_defstat (State.canonical_put _ _ hcan) true, rfl, rfl⟩
  case erase => exact ⟨_, exec_eraseDefault_empty hu hr hp, rfl, rfl⟩
  case noPres => exact exec_parterrePersist_noPres hu hr hp

end Sys2Proof.Machine
end

section
/-! PROOFS. The task that TASK_CHOOSE starts (R187, R188). -/
namespace Sys2Proof.Machine

/-! ### The order of the scheduler's keys (R188) -/

theorem lexLt_irrefl : ∀ x : List Nat, lexLt x x = false
  | [] => rfl
  | a :: x => by simp [lexLt, lexLt_irrefl x]

theorem lexLt_cons_iff {a b : Nat} {x y : List Nat} : lexLt (a :: x) (b :: y) = true ↔ a < b ∨ a = b ∧ lexLt x y = true := by
  simp [lexLt]

theorem lexLt_trans : ∀ {x y z : List Nat}, lexLt x y = true → lexLt y z = true → lexLt x z = true
  | _ :: _, _ :: _, _ :: _, hxy, hyz => by
    rw [lexLt_cons_iff] at hxy hyz ⊢
    obtain hab | ⟨rfl, hxy⟩ := hxy
    · exact .inl (hyz.elim hab.trans fun h => h.1 ▸ hab)
    · exact hyz.imp_right fun h => ⟨h.1, lexLt_trans hxy h.2⟩

/-! ### The ready task that no other precedes (R187, R188) -/

/-- A ready task as State.readyTasks lists it: partition, step, task, array, key. -/
abbrev ReadyTask := Nat × Nat × Task × Nat × List Nat

/-- The key of one ready task precedes that of another. -/
abbrev ReadyTask.Precedes (x y : ReadyTask) : Prop := lexLt x.2.2.2.2 y.2.2.2.2 = true

/-- The task that the scheduler takes of the ready tasks of a die: the first that no other precedes. -/
def State.chosenTask (s : State) (die : Nat) : Option ReadyTask :=
  (s.readyTasks die true).foldl (List.argAux ReadyTask.Precedes) none

theorem State.exists_chosenTask {s : State} {die : Nat} (h : s.readyTasks die true ≠ []) : ∃ x, s.chosenTask die = some x :=
  Option.ne_none_iff_exists'.mp fun hnone => h ((List.foldl_argAux_eq_none _).mp hnone).1

theorem State.chosenTask_mem {s : State} {die : Nat} {x : ReadyTask} (h : s.chosenTask die = some x) :
    x ∈ s.readyTasks die true := by
  refine List.foldlRecOn (motive := fun m : Option ReadyTask => ∀ x ∈ m, x ∈ s.readyTasks die true) (s.readyTasks die true) _
    (fun _ hx => absurd hx (Option.not_mem_none _)) (fun m hm y hy x hx => ?_) x h
  cases m with
  | none => exact Option.some.inj hx ▸ hy
  | some z =>
    change x ∈ (if _ then some y else some z) at hx
    split at hx
    · exact Option.some.inj hx ▸ hy
    · exact hm x hx

theorem State.chosenTask_least {s : State} {die : Nat} {x : ReadyTask} (h : s.chosenTask die = some x) :
    ∀ y ∈ s.readyTasks die true, lexLt y.2.2.2.2 x.2.2.2.2 = false := fun y hy =>
  Bool.eq_false_of_not_eq_true <| List.not_of_mem_foldl_argAux ReadyTask.Precedes
    ⟨fun z => by simp [lexLt_irrefl]⟩ ⟨fun _ _ _ => lexLt_trans⟩ hy h

/-- Only a partition with a BED has ready tasks. -/
theorem State.bed_of_mem_readyTasks {s : State} {die : Nat} {needRole : Bool} {x : ReadyTask}
    (h : x ∈ s.readyTasks die needRole) : ∃ b, (s.part x.1).bed = some b := by
  obtain ⟨pt, -, h⟩ := List.mem_flatMap.mp h
  cases hbed : (s.part pt).bed with
  | none => simp [hbed] at h
  | some b =>
    have hpt : x.1 = pt := by
      simp only [hbed] at h
      split at h
      · simp at h
      · obtain ⟨y, -, h⟩ := List.mem_flatMap.mp h
        obtain ⟨t, -, h⟩ := List.mem_filterMap.mp h
        split at h
        · simp at h
        · split at h
          · rw [← Option.some.inj h]
          · simp at h
    exact ⟨b, hpt ▸ hbed⟩

/-- The chosen task starts as the last tile of its role's array. -/
theorem exec_taskChoose_starts {s : State} {die : Die} {pt step a : Nat} {tk : Task} {key : List Nat} {b : List Byte}
    (hrun : s.diesStopped = false) (hchosen : s.chosenTask die = some (pt, step, tk, a, key)) (hbed : (s.part pt).bed = some b) :
    ∃ t T, exec (.taskChoose die) s = .next t ∧ (vget t.arrays (arrIx die a)).tiles.getLast? = some T ∧
      T.pt = pt ∧ T.step = step ∧ T.task = tk ∧ T.col = 0 := by
  generalize hout : exec (.taskChoose die) s = out
  change execTaskChoose die s = out at hout
  unfold execTaskChoose State.clocked at hout
  rw [hrun] at hout
  extract_lets cand best at hout
  have hbest : best = some (pt, step, tk, a, key) :=
    (congrArg (fun f => cand.foldl f none) (funext₂ fun m _ => by cases m <;> rfl)).trans hchosen
  simp -zeta only [hbest, hbed, Bool.false_eq_true, if_false] at hout
  extract_lets started L uses ai copied fused counted filling A x empty tile quarter depth sigma placed i top n logged charged at hout
  have htile : tile.pt = pt ∧ tile.step = step ∧ tile.task = tk ∧ tile.col = 0 := by
    unfold tile
    split <;> exact ⟨rfl, rfl, rfl, rfl⟩
  have hlogged : logged.arrays = placed.arrays := by
    unfold logged
    split
    · exact State.logRepeat_arrays _ _ _ _ _ _ _
    · rfl
  refine ⟨_, tile, hout.symm, ?_, htile⟩
  rw [State.put64_arrays, State.logMacs_arrays, hlogged, State.modArr_arrays, vget_vmod_same]
  exact List.getLast?_concat

/-- Settles O18: the scheduler's fold over the ready tasks keeps one that none precedes, since the order of the keys is transitive. -/
theorem taskChooseSmallest : Obligations.TaskChooseSmallest := by
  intro s die hrun hready
  obtain ⟨⟨pt, step, tk, a, key⟩, hchosen⟩ := State.exists_chosenTask hready
  have hmem := State.chosenTask_mem hchosen
  obtain ⟨b, hbed⟩ := State.bed_of_mem_readyTasks hmem
  obtain ⟨t, T, hexec, hlast, htile⟩ := exec_taskChoose_starts hrun hchosen hbed
  exact ⟨t, pt, step, tk, a, key, hexec, hmem, State.chosenTask_least hchosen, T, hlast, htile⟩

end Sys2Proof.Machine
end

section
/-! PROOFS. The updates of a step, and the start of a pass (R209, R220, R221). -/
namespace Sys2Proof.Machine

/-! ### An update of a step -/

/-- A step with an update in place of the one of its layer. -/
def StepSt.putUpd (x : StepSt) (u : Upd) : StepSt := { x with upds := u :: x.upds.filter fun v => v.layerId != u.layerId }

theorem StepSt.upd_putUpd (x : StepSt) (u : Upd) : (x.putUpd u).upd u.layerId = some u :=
  List.find?_cons_of_pos (beq_self_eq_true u.layerId)

/-- A step with the updates of one layer changed. -/
def StepSt.mapUpd (x : StepSt) (id : Nat) (f : Upd → Upd) : StepSt :=
  { x with upds := x.upds.map fun u => if u.layerId == id then f u else u }

theorem StepSt.upd_mapUpd (x : StepSt) {id : Nat} {f : Upd → Upd} (hid : ∀ u, u.layerId = id → (f u).layerId = id) :
    (x.mapUpd id f).upd id = (x.upd id).map f := by
  have hsame : ((fun u => u.layerId == id) ∘ fun u : Upd => if u.layerId == id then f u else u) = fun u => u.layerId == id := by
    funext u
    by_cases hu : u.layerId = id <;> simp [hu, hid]
  rw [StepSt.upd, StepSt.upd, StepSt.mapUpd, List.find?_map, hsame]
  cases h : x.upds.find? (fun u => u.layerId == id) with
  | none => rfl
  | some u => exact congrArg some (if_pos (List.find?_some (p := fun u : Upd => u.layerId == id) h))

theorem State.modUpd_eq (s : State) (pt step id : Nat) (f : Upd → Upd) : s.modUpd pt step id f = s.modStep pt step fun x => x.mapUpd id f := rfl

theorem StepSt.layerId_of_upd {x : StepSt} {id : Nat} {u : Upd} (h : x.upd id = some u) : u.layerId = id :=
  eq_of_beq (List.find?_some (p := fun u : Upd => u.layerId == id) h)

/-- A step is found as it has been changed where it was found before, and the change keeps its number. -/
theorem State.stepSt_modStep_same (s : State) (pt num : Nat) {f : StepSt → StepSt} (hnum : ∀ y, (f y).num = y.num) :
    (s.modStep pt num f).stepSt pt num = (s.stepSt pt num).map f := by
  have hsame : ((fun z => z.num == num) ∘ fun z : StepSt => if z.num == num then f z else z) = fun z => z.num == num := by
    funext z
    by_cases hz : z.num = num <;> simp [hz, hnum]
  rw [State.stepSt, s.modStep_steps, List.find?_map, hsame, State.stepSt]
  cases h : (s.part pt).steps.find? (fun z => z.num == num) with
  | none => rfl
  | some x => exact congrArg some (if_pos (List.find?_some (p := fun z : StepSt => z.num == num) h))

theorem State.exists_stepSt {s : State} {pt : Nat} {x : StepSt} (h : x ∈ (s.part pt).steps) : ∃ y, s.stepSt pt x.num = some y :=
  Option.isSome_iff_exists.mp (List.find?_isSome.mpr ⟨x, h, beq_self_eq_true x.num⟩)

theorem State.upd_modUpd (s : State) (pt step : Nat) {id : Nat} {f : Upd → Upd} (hid : ∀ u, u.layerId = id → (f u).layerId = id) :
    ((s.modUpd pt step id f).stepSt pt step).bind (·.upd id) = ((s.stepSt pt step).bind (·.upd id)).map f := by
  rw [s.modUpd_eq, s.stepSt_modStep_same pt step (f := fun x => x.mapUpd id f) fun _ => rfl]
  cases s.stepSt pt step with
  | none => rfl
  | some x => exact x.upd_mapUpd hid

/-- Every step of the number has its update changed. -/
theorem State.mem_modUpd {s : State} {pt : Nat} {x : StepSt} {id : Nat} {u : Upd} {f : Upd → Upd} (hx : x ∈ (s.part pt).steps)
    (hu : x.upd id = some u) (hid : ∀ u, u.layerId = id → (f u).layerId = id) :
    ∃ y ∈ ((s.modUpd pt x.num id f).part pt).steps, y.num = x.num ∧ y.upd id = some (f u) := by
  refine ⟨x.mapUpd id f, ?_, rfl, by rw [x.upd_mapUpd hid, hu]; rfl⟩
  rw [s.modUpd_eq, s.modStep_steps]
  exact List.mem_map.mpr ⟨x, hx, if_pos (beq_self_eq_true x.num)⟩

/-! ### A pass starts (R209, R220, R221) -/

/-- An update in another pass. -/
def Upd.withPass (u : Upd) (pass : Nat) : Upd := { u with pass := pass }

/-- An update as a pass of it starts: the apply pass of an in-place weight writes the values of its verify pass (R221). -/
def Upd.atPass (u : Upd) (p : Part) (b : List Byte) (pass : Nat) : Upd :=
  { u with pass := pass, stored := if pass = 1 ∨ (pass = 3 ∧ p.ring b (progW b u.prog) = 1) then u.stored else [] }

theorem State.jetTake_parts (s : State) (ji : Nat) (r : JetRun) : (s.jetTake ji r).comp.parts = s.comp.parts := by
  unfold State.jetTake
  split <;> rfl

/-- The start of a pass changes no partition's job but the update. -/
theorem State.startPass_parts (s : State) (pt step : Nat) (b : List Byte) (u : Upd) (pass : Nat) :
    (s.startPass pt step b u pass).comp.parts =
      (s.modUpd pt step u.layerId fun v => v.atPass (s.part pt) b pass).comp.parts := by
  unfold State.startPass
  extract_lets jets v nv ws pc0 begun mine
  refine forEach_keeps (P := fun t : State => t.comp.parts = begun.comp.parts) _ _ begun rfl fun j _ t ht => ?_
  extract_lets vecs cleared
  have hcleared : cleared.comp.parts = begun.comp.parts := ht
  split
  · split <;> exact hcleared
  · exact (cleared.jetTake_parts _ _).trans hcleared

theorem State.startPass_part (s : State) (pt step : Nat) (b : List Byte) (u : Upd) (pass : Nat) :
    (s.startPass pt step b u pass).part pt =
      (s.modUpd pt step u.layerId fun v => v.atPass (s.part pt) b pass).part pt :=
  congrArg (vget · pt) (s.startPass_parts pt step b u pass)

/-- A pass that has started goes on, or ends at once where it finds no vector on this module. -/
def State.passBegun (s : State) (pt step : Nat) (b : List Byte) (id : Nat) (u : Upd) : State :=
  if s.passRuns pt step id then s else if u.pass = 1 then s.endPass pt step b id else s.closePass pt step b u

theorem State.passBegun_statistics (s : State) (pt step : Nat) (b : List Byte) (id : Nat) {u : Upd} (h : u.pass = 1) :
    s.passBegun pt step b id u = if s.passRuns pt step id then s else s.endPass pt step b id := by
  rw [State.passBegun, if_pos h]

theorem State.passBegun_vectors (s : State) (pt step : Nat) (b : List Byte) (id : Nat) {u : Upd} (h : u.pass ≠ 1) :
    s.passBegun pt step b id u = if s.passRuns pt step id then s else s.closePass pt step b u := by
  rw [State.passBegun, if_neg h]

theorem Part.nextPass_ne_one (p : Part) (b : List Byte) (prog : Nat) : p.nextPass b prog ≠ 1 := by
  unfold Part.nextPass
  split <;> decide

theorem State.startNext_eq (s : State) (pt step : Nat) (b : List Byte) (u : Upd) :
    let pass := (s.part pt).nextPass b u.prog
    s.startNext pt step b u = (s.startPass pt step b u pass).passBegun pt step b u.layerId (u.withPass pass) := by
  intro pass
  rw [State.passBegun_vectors _ _ _ _ _ (u := u.withPass pass) (Part.nextPass_ne_one _ _ _)]
  rfl

end Sys2Proof.Machine
end

section
/-! PROOFS. The update of a layer starts, or waits for its scalar set or a slot (R194, R198, R199, R215, R217, R220, R226). -/
namespace Sys2Proof.Machine

/-! ### The update of a layer starts or waits (R194, R198, R215, R217) -/

theorem State.mem_steps_of_mem_active {s : State} {pt : Nat} {x : StepSt} (h : x ∈ s.active pt) : x ∈ (s.part pt).steps := by
  unfold State.active at h
  split at h
  · exact absurd h List.not_mem_nil
  · exact List.mem_of_mem_filter (List.mem_of_mem_take h)

/-- Whether a step wants the update of a layer started, and may have it: the gradients that it reads are rounded (R198, R199). -/
def State.wantsUpdate (s : State) (pt : Nat) (b : List Byte) (layerId : Nat) (x : StepSt) : Bool :=
  ((x.upd layerId).map fun u => u.pass == 0).getD true &&
    (if jobAhead b = 0 then x.st == 3 || (x.st == 1 && x.settled) else decide (1 ≤ x.st ∧ x.st ≤ 3)) && s.gradReady b x pt layerId

/-- A Jet unit waits for the scalar set of an update. -/
def JetSt.awaitSet (j : JetSt) (w : JetWait) : JetSt :=
  { j with scalarWait := if j.scalarWait.contains w then j.scalarWait else j.scalarWait ++ [w] }

/-- Jet units wait for the scalar set of an update. -/
def State.jetsAwaitSet (s : State) (jets : List Nat) (w : JetWait) : State := forEach jets (fun j t => t.modJet j fun y => y.awaitSet w) s

/-- The update of a layer waits for its scalar set: its Jet units wait, the step's descriptor is charged, and the host is told once (R217). -/
def State.updateAwaitsSet (s : State) (pt : Nat) (b : List Byte) (layerId : Nat) (x : StepSt) : State :=
  let waiting := (s.jetsAwaitSet (s.layerJets b layerId) ⟨pt, x.num, layerId⟩).chargeStep pt x.num 3 (x.num % 2 ^ 32)
  if x.scalarTold then waiting
  else ((waiting.modStep pt x.num fun x => { x with scalarTold := true }).ptEvent pt 4 (packLE [(8, x.num), (4, layerId)])).fire (0x80 + 8 * pt + 3)

/-- The update of a layer waits for the slot of its next version, which counts once (R194). -/
def State.updateAwaitsSlot (s : State) (pt layerId prog : Nat) (x : StepSt) : State :=
  let met := s.endScalarWait pt x.num
  (if ((x.upd layerId).map (·.waited)).getD false then met else met.bump (Reg.dieVerwait 0 pt) 1).modStep pt x.num fun x =>
    x.putUpd { layerId := layerId, prog := prog, waited := true }

/-- The update of a layer before its first pass, with the slots of its scalar set (R215). -/
def Upd.opened (layerId prog : Nat) (slots : List Nat) : Upd := { layerId := layerId, prog := prog, slots := slots }

/-- A partition's job with the steps of a number changed. -/
def Part.mapSteps (p : Part) (num : Nat) (f : StepSt → StepSt) : Part :=
  { p with steps := p.steps.map fun x => if x.num == num then f x else x }

/-- A partition's job with the scalar set of a step locked (R215). -/
def Part.lockSet (p : Part) (step : Nat) : Part :=
  { p with sets := p.sets.map fun z => if z.step == step then { z with locked := true } else z }

/-- The first pass of an update goes over the statistics: its program has a LAYER_REDUCE, or its FROZEN_STRICT stores have no verify pass (R220,
R226). -/
abbrev Part.statisticsFirst (p : Part) (b : List Byte) (prog : Nat) : Prop :=
  (lastReduce (progWords (recOf b 0x0208 prog))).isSome ∨
    (jobStrict b ∧ ((progWords (recOf b 0x0208 prog)).any fun w => jOp w == 0x0B) ∧ p.nextPass b prog = 3)

/-- The first pass of an update. -/
def Part.firstPass (p : Part) (b : List Byte) (prog : Nat) : Nat := if p.statisticsFirst b prog then 1 else p.nextPass b prog

/-- The update of a layer stands, with its scalar set locked and its die in the phase of updates. -/
def State.updateStands (s : State) (pt : Nat) (b : List Byte) (li step : Nat) (u : Upd) : State :=
  (((s.endScalarWait pt step).modPart pt fun p => p.lockSet step).modStep pt step fun x => x.putUpd u).notePhase pt b (bedLayer b li).die 3 li

/-- The update of a layer starts with its first pass. -/
def State.updateStarts (s : State) (pt : Nat) (b : List Byte) (li step : Nat) (u : Upd) : State :=
  ((s.updateStands pt b li step u).startPass pt step b u ((s.part pt).firstPass b u.prog)).passBegun pt step b u.layerId
    (u.withPass ((s.part pt).firstPass b u.prog))

theorem State.notePhase_comp (s : State) (pt : Nat) (b : List Byte) (die prod layer : Nat) :
    (s.notePhase pt b die prod layer).comp = s.comp := by
  unfold State.notePhase
  split <;> rfl

theorem State.updateStands_part (s : State) (pt : Nat) (b : List Byte) (li step : Nat) (u : Upd) :
    (s.updateStands pt b li step u).part pt = ((s.part pt).lockSet step).mapSteps step fun x => x.putUpd u := by
  rw [State.updateStands, State.part, State.notePhase_comp]
  exact (State.part_modPart_same _ pt fun p => p.mapSteps step fun x => x.putUpd u).trans
    (congrArg (fun p : Part => p.mapSteps step fun x => x.putUpd u) (State.part_modPart_same _ pt fun p => p.lockSet step))

theorem Part.nextPass_congr {p q : Part} (h : q.masks = p.masks) (b : List Byte) (prog : Nat) : q.nextPass b prog = p.nextPass b prog := by
  unfold Part.nextPass Part.ring Part.heldWeight Part.allFrozen Part.frozen Part.maskBit
  rw [h]

theorem State.updateStands_nextPass (s : State) (pt : Nat) (b : List Byte) (li step : Nat) (u : Upd) (prog : Nat) :
    ((s.updateStands pt b li step u).part pt).nextPass b prog = (s.part pt).nextPass b prog :=
  Part.nextPass_congr (by rw [s.updateStands_part]; rfl) b prog

theorem Part.firstPass_statistics {p : Part} {b : List Byte} {prog : Nat} (h : p.statisticsFirst b prog) : p.firstPass b prog = 1 := if_pos h

theorem Part.firstPass_next {p : Part} {b : List Byte} {prog : Nat} (h : ¬ p.statisticsFirst b prog) : p.firstPass b prog = p.nextPass b prog :=
  if_neg h

theorem State.slotFree_endScalarWait (s : State) (pt step : Nat) (b : List Byte) (w : Nat) :
    (s.endScalarWait pt step).slotFree pt b w step = s.slotFree pt b w step := rfl

/-- The start of an update, as UPDATE_START tests for its first pass once the update stands. -/
theorem State.updateStarts_eq (s : State) (pt : Nat) (b : List Byte) (li step : Nat) (u : Upd) :
    s.updateStarts pt b li step u =
      if ((s.updateStands pt b li step u).part pt).statisticsFirst b u.prog then
        if ((s.updateStands pt b li step u).startPass pt step b u 1).passRuns pt step u.layerId then
          (s.updateStands pt b li step u).startPass pt step b u 1
        else ((s.updateStands pt b li step u).startPass pt step b u 1).endPass pt step b u.layerId
      else (s.updateStands pt b li step u).startNext pt step b u := by
  have hsame : ((s.updateStands pt b li step u).part pt).statisticsFirst b u.prog ↔ (s.part pt).statisticsFirst b u.prog := by
    unfold Part.statisticsFirst
    rw [s.updateStands_nextPass]
  rw [State.updateStarts]
  by_cases h : (s.part pt).statisticsFirst b u.prog
  · rw [if_pos (hsame.mpr h), Part.firstPass_statistics h, State.passBegun_statistics _ _ _ _ _ (u := u.withPass 1) rfl]
  · rw [if_neg (hsame.not.mpr h), Part.firstPass_next h, State.startNext_eq, s.updateStands_nextPass]

section
variable {s : State} {pt : Pt} {layerId li : Nat} {lrest : List Nat} {b : List Byte} {x : StepSt}
variable (hrun : s.diesStopped = false) (hbed : (s.part pt).bed = some b) (hlayer : layerRecs b layerId = li :: lrest)
variable (hjet : (bedLayer b li).jet ≠ none32) (hheld : (s.part pt).heldWeight b (progW b (bedLayer b li).jet) = false)
variable (hx : (s.active pt).find? (s.wantsUpdate pt b layerId) = some x)
include hrun hbed hlayer hjet hheld hx

/-- UPDATE_START, by the scalar set and the slot of the next version (R194, R198, R217). -/
theorem exec_updateStart_eq : exec (.updateStart pt layerId) s = .next (match (s.part pt).sets.find? fun y => y.step == x.num with
    | none => s.updateAwaitsSet pt b layerId x
    | some z =>
      if s.slotFree pt b (progW b (bedLayer b li).jet) x.num then
        s.updateStarts pt b li x.num (.opened layerId (bedLayer b li).jet z.slots)
      else s.updateAwaitsSlot pt layerId (bedLayer b li).jet x) := by
  change execUpdateStart pt layerId s = _
  unfold execUpdateStart State.clocked
  simp -zeta only [hrun, hbed, Bool.false_eq_true, if_false]
  extract_lets ahead cand
  have hcand : cand = some x := by
    rw [← hx]
    refine congrArg (fun f => (s.active pt).find? f) (funext fun y => ?_)
    have hnamed : ((bedLayer b li).jet != none32) = true := bne_iff_ne.mpr hjet
    simp only [hlayer, List.head?_cons, hnamed, hheld, Bool.not_false, Bool.true_and]
    rfl
  simp -zeta only [hcand, hlayer, List.head?_cons]
  cases (s.part pt).sets.find? fun y => y.step == x.num with
  | none => rfl
  | some z =>
    simp only [State.slotFree_endScalarWait]
    cases s.slotFree pt b (progW b (bedLayer b li).jet) x.num with
    | false => rfl
    | true =>
      simp only [Bool.not_true, Bool.false_eq_true, if_false, if_true]
      rw [s.updateStarts_eq]
      rfl

theorem exec_updateStart_noSet (hset : ((s.part pt).sets.find? fun y => y.step == x.num) = none) :
    exec (.updateStart pt layerId) s = .next (s.updateAwaitsSet pt b layerId x) := by
  rw [exec_updateStart_eq hrun hbed hlayer hjet hheld hx, hset]

variable {z : ScalarSet} (hset : ((s.part pt).sets.find? fun y => y.step == x.num) = some z)
include hset

theorem exec_updateStart_noSlot (hslot : s.slotFree pt b (progW b (bedLayer b li).jet) x.num = false) :
    exec (.updateStart pt layerId) s = .next (s.updateAwaitsSlot pt layerId (bedLayer b li).jet x) := by
  rw [exec_updateStart_eq hrun hbed hlayer hjet hheld hx, hset]
  exact congrArg Host.Outcome.next (if_neg (by simp [hslot]))

theorem exec_updateStart_starts (hslot : s.slotFree pt b (progW b (bedLayer b li).jet) x.num = true) :
    exec (.updateStart pt layerId) s =
      .next (s.updateStarts pt b li x.num (.opened layerId (bedLayer b li).jet z.slots)) := by
  rw [exec_updateStart_eq hrun hbed hlayer hjet hheld hx, hset]
  exact congrArg Host.Outcome.next (if_pos hslot)

end

/-! ### What the start, or the wait, of an update leaves (R194, R215, R217) -/

/-- What a function keeps of a value, the change of any entry of a vector by it keeps of every entry. -/
theorem vget_vmod_keeps {α : Type} {n : Nat} {P : α → Prop} (v : Vector α (n + 1)) (i j : Nat) {f : α → α} (hf : ∀ a, P a → P (f a))
    (h : P (vget v i)) : P (vget (vmod v j f) i) := by
  by_cases hij : j % (n + 1) = i % (n + 1)
  · have hsame : vget (vmod v j f) i = f (vget v i) := by simp [vget, vmod, hij]
    exact hsame ▸ hf _ h
  · rwa [vget_vmod_ne v j i f hij]

theorem JetSt.mem_awaitSet (j : JetSt) (w : JetWait) : w ∈ (j.awaitSet w).scalarWait := by
  unfold JetSt.awaitSet
  split
  · next h => exact List.contains_iff_mem.mp h
  · exact List.mem_append_right _ List.mem_cons_self

theorem JetSt.awaitSet_keeps {j : JetSt} {v : JetWait} (w : JetWait) (h : v ∈ j.scalarWait) : v ∈ (j.awaitSet w).scalarWait := by
  unfold JetSt.awaitSet
  split
  · exact h
  · exact List.mem_append_left _ h

theorem State.jetsAwaitSet_waits (s : State) {jets : List Nat} (w : JetWait) :
    ∀ j ∈ jets, w ∈ (vget (s.jetsAwaitSet jets w).comp.jets j).scalarWait :=
  forEach_establishes (P := fun j (t : State) => w ∈ (vget t.comp.jets j).scalarWait) _
    (fun i j _ h => vget_vmod_keeps (P := fun y : JetSt => w ∈ y.scalarWait) _ i j (fun _ => JetSt.awaitSet_keeps w) h) jets s
    fun j _ t => (vget_vmod_same t.comp.jets j fun y => y.awaitSet w) ▸ JetSt.mem_awaitSet _ w

theorem State.besideJobs_jetsAwaitSet (s : State) (jets : List Nat) (w : JetWait) : BesideJobs s (s.jetsAwaitSet jets w) :=
  .forEach _ _ s fun _ _ => ⟨⟨rfl, fun h => h⟩, rfl, rfl, rfl, rfl⟩

theorem State.chargeStep_jets (s : State) (pt step cause detail : Nat) : (s.chargeStep pt step cause detail).comp.jets = s.comp.jets := rfl

theorem State.updateAwaitsSet_spec (s : State) (pt : Nat) (b : List Byte) (layerId : Nat) (x : StepSt) :
    (∀ j ∈ s.layerJets b layerId, ⟨pt, x.num, layerId⟩ ∈ (vget (s.updateAwaitsSet pt b layerId x).comp.jets j).scalarWait) ∧
      SameMemory s (s.updateAwaitsSet pt b layerId x) ∧ (s.updateAwaitsSet pt b layerId x).nv = s.nv := by
  unfold State.updateAwaitsSet
  extract_lets waiting
  have hwaits : ∀ j ∈ s.layerJets b layerId, ⟨pt, x.num, layerId⟩ ∈ (vget waiting.comp.jets j).scalarWait := by
    rw [State.chargeStep_jets]
    exact s.jetsAwaitSet_waits _
  have hkept : BesideJobs s waiting := (s.besideJobs_jetsAwaitSet _ _).trans (State.besideJobs_modWeir _ _)
  clear_value waiting
  split
  · exact ⟨hwaits, hkept.sameMemory, hkept.nv⟩
  · have htold := (State.posts_ptEvent (waiting.modStep pt x.num fun x => { x with scalarTold := true }) pt 4
      (packLE [(8, x.num), (4, layerId)])).trans (State.posts_fire _ (0x80 + 8 * pt + 3))
    refine ⟨?_, ⟨fun a => ?_, htold.poison.trans hkept.poison⟩, htold.nv.trans hkept.nv⟩
    · rw [htold.comp]
      exact hwaits
    · rw [htold.mem]
      exact hkept.sameMemory.1 a

theorem State.updateAwaitsSlot_spec {s : State} {pt : Nat} {x : StepSt} (hx : x ∈ (s.part pt).steps) (layerId prog : Nat) :
    (((s.updateAwaitsSlot pt layerId prog x).stepSt pt x.num).bind (·.upd layerId)).map (fun u => (u.pass, u.waited)) = some (0, true) ∧
      SameMemory s (s.updateAwaitsSlot pt layerId prog x) ∧ (s.updateAwaitsSlot pt layerId prog x).nv = s.nv := by
  obtain ⟨y, hy⟩ := State.exists_stepSt hx
  unfold State.updateAwaitsSlot
  extract_lets met
  have hcounted : BesideJobs s (if ((x.upd layerId).map (·.waited)).getD false then met else met.bump (Reg.dieVerwait 0 pt) 1) := by
    have hmet : BesideJobs s met := ⟨⟨rfl, fun h => h⟩, rfl, rfl, rfl, rfl⟩
    split
    · exact hmet
    · exact hmet.trans (met.besideJobs_bump _ _)
  generalize (if ((x.upd layerId).map (·.waited)).getD false then met else met.bump (Reg.dieVerwait 0 pt) 1) = counted at hcounted ⊢
  refine ⟨?_, hcounted.sameMemory, hcounted.nv⟩
  rw [counted.stepSt_modStep_same pt x.num (f := fun x => x.putUpd { layerId := layerId, prog := prog, waited := true }) fun _ => rfl,
    State.stepSt, hcounted.part, ← State.stepSt, hy]
  exact congrArg (Option.map fun u => (u.pass, u.waited)) (y.upd_putUpd { layerId := layerId, prog := prog, waited := true })

theorem Part.lockSet_locked (p : Part) (step : Nat) : ∀ y ∈ (p.lockSet step).sets, y.step = step → y.locked = true := by
  intro y hy hstep
  obtain ⟨z, -, rfl⟩ := List.mem_map.mp hy
  split
  · rfl
  · next h =>
    rw [if_neg h] at hstep
    exact absurd (beq_iff_eq.mpr hstep) h

theorem State.upd_updateStands {s : State} {pt : Nat} {x : StepSt} (hx : x ∈ (s.part pt).steps) (b : List Byte) (li : Nat) (u : Upd) :
    ((s.updateStands pt b li x.num u).stepSt pt x.num).bind (·.upd u.layerId) = some u := by
  obtain ⟨y, hy⟩ := State.exists_stepSt hx
  rw [State.updateStands, State.stepSt, State.part, State.notePhase_comp, ← State.part, ← State.stepSt,
    State.stepSt_modStep_same _ pt x.num (f := fun x => x.putUpd u) fun _ => rfl, State.stepSt, State.part_modPart_same]
  change (((s.stepSt pt x.num).map fun x => x.putUpd u).bind (·.upd u.layerId)) = some u
  rw [hy]
  exact y.upd_putUpd u

theorem Upd.atPass_of_nothing_stored {u : Upd} (h : u.stored = []) (p : Part) (b : List Byte) (pass : Nat) :
    u.atPass p b pass = u.withPass pass := by
  unfold Upd.atPass Upd.withPass
  rw [h, ite_self]

theorem State.upd_startPass {s : State} {pt step : Nat} {b : List Byte} {u : Upd} (pass : Nat) :
    ((s.startPass pt step b u pass).stepSt pt step).bind (·.upd u.layerId) =
      ((s.stepSt pt step).bind (·.upd u.layerId)).map fun v => v.atPass (s.part pt) b pass := by
  rw [State.stepSt, s.startPass_part, ← State.stepSt]
  exact s.upd_modUpd pt step fun _ h => h

theorem State.sets_startPass (s : State) (pt step : Nat) (b : List Byte) (u : Upd) (pass : Nat) :
    ((s.startPass pt step b u pass).part pt).sets = (s.part pt).sets := by
  rw [s.startPass_part, State.modUpd, State.modStep, State.part_modPart_same]

/-- Once the first pass of an update has started, the update stands with nothing stored and the set of its step is locked. -/
theorem State.startPass_updateStands {s : State} {pt : Nat} {x : StepSt} (hx : x ∈ (s.part pt).steps) (b : List Byte) (li : Nat) {u : Upd}
    (hu : u.stored = []) (pass : Nat) :
    (((s.updateStands pt b li x.num u).startPass pt x.num b u pass).stepSt pt x.num).bind (·.upd u.layerId) = some (u.withPass pass) ∧
      ∀ y ∈ (((s.updateStands pt b li x.num u).startPass pt x.num b u pass).part pt).sets, y.step = x.num → y.locked = true := by
  constructor
  · rw [State.upd_startPass, State.upd_updateStands hx, ← Upd.atPass_of_nothing_stored hu]
    rfl
  · rw [State.sets_startPass, State.updateStands_part]
    exact (s.part pt).lockSet_locked x.num

end Sys2Proof.Machine
end

section
/-! PROOFS. The statistics of a layer's update complete, or are found again (R223, R224). -/
namespace Sys2Proof.Machine

theorem State.leaveRound_parts (s : State) (pt round ident step : Nat) : (s.leaveRound pt round ident step).comp.parts = s.comp.parts :=
  forEach_keeps (P := fun t : State => t.comp.parts = s.comp.parts) _ _ s rfl fun _ _ _ h => h

theorem State.stepRec_comp (s : State) (pt step : Nat) (r : Rec) : (s.stepRec pt step r).comp = s.comp := (s.reports_record _).comp

/-! ### One statistic is tested and converted (R223, R224) -/

section
variable (s : State) (pt step : Nat) (b : List Byte) (u : Upd) (again : List Nat) (c : StatAcc) (w : Nat)

/-- The deficit that a statistic has been truncated by, none before its first repeat. -/
def Upd.truncation (u : Upd) (slot : Nat) : Int := ((u.trunc.find? fun t => t.1 == slot).map fun t => (t.2 : Int)).getD 0

theorem State.settleStat_max (h : field w 17 16 = 2) :
    s.settleStat pt step b u again c w = ({ u with tvals := (c.slot, { bits := c.max.getD 0 }) :: u.tvals }, again, s) := if_pos h

theorem State.settleStat_repeat (h : field w 17 16 ≠ 2) (hd : u.truncation c.slot = 0) (hroom : headroomOk c.mtop c.n = false) (hn : c.n ≠ 0) :
    (s.settleStat pt step b u again c w).1 = { u with trunc := (c.slot, deficit c.mtop c.n) :: u.trunc } ∧
      (s.settleStat pt step b u again c w).2.1 = c.slot :: again := by
  have hagain : u.truncation c.slot = 0 ∧ (!headroomOk c.mtop c.n) = true ∧ c.n ≠ 0 := ⟨hd, by simp [hroom], hn⟩
  unfold State.settleStat
  extract_lets d0 d counted kind reported e q
  rw [if_neg h, show d0 = u.truncation c.slot from rfl, if_pos hagain]
  exact ⟨rfl, rfl⟩

/-- The pattern of a statistic's T slot: its sum at the exponent in force, divided where DIVN says so; none beyond binary32. -/
def Upd.converted (u : Upd) (c : StatAcc) (w : Nat) : Option Nat :=
  let e := sN 8 (field w 14 7) + u.truncation c.slot
  let q := if bit w 15 ∧ c.n ≠ 0 then quotient c.sum c.n e else exactZ c.sum e
  if c.n = 0 ∨ q.m = 0 then some 0 else f32Round q.neg q.m q.e q.sticky

/-- An update whose T slot is filled, or that fails where the value is beyond binary32. -/
def Upd.fillSlot (u : Upd) (slot : Nat) : Option Nat → Upd
  | some bits => { u with tvals := (slot, { bits := bits }) :: u.tvals }
  | none => { u with fail := 4 }

theorem State.settleStat_convert (h : field w 17 16 ≠ 2) (hconv : u.truncation c.slot ≠ 0 ∨ headroomOk c.mtop c.n = true ∨ c.n = 0) :
    s.settleStat pt step b u again c w = (u.fillSlot c.slot (u.converted c w), again, s) := by
  have honce : ¬(u.truncation c.slot = 0 ∧ (!headroomOk c.mtop c.n) = true ∧ c.n ≠ 0) := by
    rintro ⟨hd, hroom, hn⟩
    simp_all
  have hout : s.settleStat pt step b u again c w = match u.converted c w with
      | some bits => ({ u with tvals := (c.slot, { bits := bits }) :: u.tvals }, again, s)
      | none => ({ u with fail := 4 }, again, s) := (if_neg h).trans (if_neg honce)
  rw [hout]
  cases u.converted c w <;> rfl

/-- The update keeps its layer and its program, and the compute side is as it was. -/
theorem State.settleStat_keeps :
    ((s.settleStat pt step b u again c w).1.layerId, (s.settleStat pt step b u again c w).1.prog,
      (s.settleStat pt step b u again c w).2.2.comp) = (u.layerId, u.prog, s.comp) := by
  unfold State.settleStat
  extract_lets d0 d counted kind reported e q
  split
  · rfl
  split
  · have hcounted : counted.comp = s.comp := forEach_keeps (P := fun t : State => t.comp = s.comp) _ _ s rfl fun _ _ _ h => h
    have hreported : reported.comp = s.comp := (counted.stepRec_comp _ _ _).trans hcounted
    exact congrArg (fun k : Comp => (u.layerId, u.prog, k)) hreported
  split <;> rfl

end

/-! ### The statistics of a layer complete or repeat (R223, R224) -/

/-- The T slots that an update has not filled, with the LAYER_REDUCE of each. -/
def Upd.openSlots (u : Upd) (b : List Byte) : List (Nat × Nat) :=
  (((progWords (recOf b 0x0208 u.prog)).filter fun w => jOp w == 0x0A).map fun w => (field w 25 24, w)).filter fun y =>
    !u.tvals.any fun t => t.1 == y.1

/-- The statistics of T slots, settled in their turn with the lists received. -/
def settleEach (pt step : Nat) (b : List Byte) (es : List (List Byte)) (slots : List (Nat × Nat)) (a : Upd × List Nat × State) :
    Upd × List Nat × State :=
  slots.foldl (fun a y => a.2.2.settleStat pt step b a.1 a.2.1 (statOf y.1 (nth es y.1 [])) y.2) a

theorem settleEach_keeps (pt step : Nat) (b : List Byte) (es : List (List Byte)) (slots : List (Nat × Nat)) (a : Upd × List Nat × State) :
    ((settleEach pt step b es slots a).1.layerId, (settleEach pt step b es slots a).1.prog, (settleEach pt step b es slots a).2.2.comp) =
      (a.1.layerId, a.1.prog, a.2.2.comp) :=
  foldl_keeps_value (fun a : Upd × List Nat × State => (a.1.layerId, a.1.prog, a.2.2.comp)) _
    (fun _ _ => State.settleStat_keeps _ _ _ _ _ _ _ _) slots a

/-- The outcome of the statistics of a layer whose lists have come: the update, the T slots to repeat, and the state. -/
def State.settleStats (s : State) (pt step : Nat) (b : List Byte) (li : Nat) (u : Upd) (es : List (List Byte)) : Upd × List Nat × State :=
  settleEach pt step b es (u.openSlots b) (u, [], s.leaveRound pt 1 li step)

theorem State.settleStats_keeps (s : State) (pt step : Nat) (b : List Byte) (li : Nat) (u : Upd) (es : List (List Byte)) :
    (s.settleStats pt step b li u es).1.layerId = u.layerId ∧ (s.settleStats pt step b li u es).1.prog = u.prog ∧
      (s.settleStats pt step b li u es).2.2.comp.parts = s.comp.parts := by
  unfold State.settleStats
  have hkeep := settleEach_keeps pt step b es (u.openSlots b) (u, [], s.leaveRound pt 1 li step)
  obtain ⟨hlayer, hrest⟩ := Prod.mk.inj hkeep
  obtain ⟨hprog, hcomp⟩ := Prod.mk.inj hrest
  exact ⟨hlayer, hprog, (congrArg Comp.parts hcomp).trans (s.leaveRound_parts _ _ _ _)⟩

/-- The update after its statistics: those to repeat are found again from nothing. -/
def Upd.withoutStats (u : Upd) (again : List Nat) : Upd := { u with stats := u.stats.filter fun t => !again.contains t.slot }

/-- The settled statistics are those of the layer's update, and the step is in flight as it was. -/
theorem State.mem_steps_settleStats {s : State} {pt : Pt} {layerId li : Nat} {b : List Byte} {x : StepSt} {u : Upd} {es : List (List Byte)}
    (hx : ((s.part pt).steps.find? fun x => ((x.upd layerId).map fun u => u.pass == 5).getD false) = some x) (hu : x.upd layerId = some u)
    {u' : Upd} {again : List Nat} {t : State} (hR : s.settleStats pt x.num b li u es = (u', again, t)) :
    u'.layerId = layerId ∧ x ∈ (t.part pt).steps ∧ t.comp.parts = s.comp.parts ∧ u'.prog = u.prog := by
  obtain ⟨hlayer, hprog, hparts⟩ := s.settleStats_keeps pt x.num b li u es
  rw [hR] at hlayer hprog hparts
  have hpart : t.part pt = s.part pt := congrArg (vget · pt.val) hparts
  exact ⟨hlayer.trans (StepSt.layerId_of_upd hu), hpart ▸ List.mem_of_find?_eq_some hx, hparts, hprog⟩

section
variable {s : State} {pt : Pt} {layerId : Nat} {b : List Byte} {x : StepSt} {u : Upd}
variable (hrun : s.diesStopped = false) (hbed : (s.part pt).bed = some b)
variable (hx : ((s.part pt).steps.find? fun x => ((x.upd layerId).map fun u => u.pass == 5).getD false) = some x)
variable (hu : x.upd layerId = some u)
include hrun hbed hx hu

/-- While a member's list is missing the statistics wait. -/
theorem exec_statisticsComplete_waits (hes : s.roundResult pt 1 ((layerRecs b layerId).head?.getD 0) x.num (u.statList b) = none) :
    exec (.statisticsComplete pt layerId) s = .next s := by
  change execStatisticsComplete pt layerId s = _
  simp -zeta only [execStatisticsComplete, State.clocked, hrun, hbed, hx, hu, Bool.false_eq_true, if_false]
  simp only [hes]

/-- STATISTICS_COMPLETE, by the failure and the slots to repeat. -/
theorem exec_statisticsComplete_eq {es : List (List Byte)}
    (hes : s.roundResult pt 1 ((layerRecs b layerId).head?.getD 0) x.num (u.statList b) = some es)
    {u' : Upd} {again : List Nat} {t : State} (hR : s.settleStats pt x.num b ((layerRecs b layerId).head?.getD 0) u es = (u', again, t)) :
    exec (.statisticsComplete pt layerId) s = .next (
      let t := t.modUpd pt x.num layerId fun _ => u'.withoutStats again
      if u'.fail = 4 then (t.overflowEvent pt x.num (bedTensor b (progW b u.prog)).tag).endPass pt x.num b layerId
      else if again.isEmpty then t.startNext pt x.num b (u'.withoutStats again)
      else
        let t := (t.chargeStep pt x.num 1 layerId).startPass pt x.num b (u'.withoutStats again) 1
        if t.passRuns pt x.num layerId then t else t.endPass pt x.num b layerId) := by
  change execStatisticsComplete pt layerId s = _
  simp -zeta only [execStatisticsComplete, State.clocked, hrun, hbed, hx, hu, Bool.false_eq_true, if_false]
  unfold State.settleStats settleEach Upd.openSlots at hR
  simp only [hes, hR]
  rfl

variable {es : List (List Byte)} (hes : s.roundResult pt 1 ((layerRecs b layerId).head?.getD 0) x.num (u.statList b) = some es)
variable {u' : Upd} {again : List Nat} {t : State} (hR : s.settleStats pt x.num b ((layerRecs b layerId).head?.getD 0) u es = (u', again, t))
include hes hR

/-- A statistic beyond binary32 fails the update, whose pass ends (R224). -/
theorem exec_statisticsComplete_fails (hfail : u'.fail = 4) :
    ∃ s1 : State, exec (.statisticsComplete pt layerId) s = .next (s1.endPass pt x.num b layerId) ∧
      ∃ y ∈ (s1.part pt).steps, y.num = x.num ∧ (y.upd layerId).map (·.fail) = some 4 := by
  obtain ⟨hlayer, hmem, -, -⟩ := State.mem_steps_settleStats hx hu hR
  refine ⟨_, (exec_statisticsComplete_eq hrun hbed hx hu hes hR).trans (congrArg _ (if_pos hfail)), ?_⟩
  obtain ⟨y, hy, hnum, hupd⟩ := State.mem_modUpd hmem hu (f := fun _ => u'.withoutStats again) fun _ _ => hlayer
  refine ⟨y, ?_, hnum, by rw [hupd]; exact congrArg some hfail⟩
  rw [State.overflowEvent, (State.posts_ptEvent _ _ _ _).besideWeir.part]
  exact hy

/-- With nothing to repeat the next pass starts (R224). -/
theorem exec_statisticsComplete_nextPass (hfail : u'.fail ≠ 4) (hagain : again = []) :
    let pass := (s.part pt).nextPass b u.prog
    exec (.statisticsComplete pt layerId) s = .next (((t.modUpd pt x.num layerId fun _ => u'.withoutStats again).startPass pt x.num b
      (u'.withoutStats again) pass).passBegun pt x.num b layerId ((u'.withoutStats again).withPass pass)) := by
  intro pass
  obtain ⟨hlayer, -, hparts, hprog⟩ := State.mem_steps_settleStats hx hu hR
  have hnext : ((t.modUpd pt x.num layerId fun _ => u'.withoutStats again).part pt).nextPass b (u'.withoutStats again).prog = pass := by
    rw [State.modUpd, State.modStep, State.part_modPart_same, State.part, hparts, show (u'.withoutStats again).prog = u.prog from hprog]
    exact Part.nextPass_congr (by rfl) b u.prog
  rw [exec_statisticsComplete_eq hrun hbed hx hu hes hR]
  dsimp only
  rw [if_neg hfail, if_pos (by rw [hagain]; rfl), State.startNext_eq, hnext, show (u'.withoutStats again).layerId = layerId from hlayer]

/-- With a sum to repeat the statistics pass runs again (R224). -/
theorem exec_statisticsComplete_repeats (hfail : u'.fail ≠ 4) (hagain : again ≠ []) :
    exec (.statisticsComplete pt layerId) s =
      .next ((((t.modUpd pt x.num layerId fun _ => u'.withoutStats again).chargeStep pt x.num 1 layerId).startPass pt x.num b
        (u'.withoutStats again) 1).passBegun pt x.num b layerId ((u'.withoutStats again).withPass 1)) := by
  rw [exec_statisticsComplete_eq hrun hbed hx hu hes hR]
  dsimp only
  rw [if_neg hfail, if_neg (by rwa [List.isEmpty_iff]), State.passBegun_statistics _ _ _ _ _ (u := (u'.withoutStats again).withPass 1) rfl]

/-- A pass starts over the update whose statistics have settled, the statistics pass where one of them repeats (R224). -/
theorem exec_statisticsComplete_goesOn (hfail : u'.fail ≠ 4) :
    ∃ (t1 : State) (pass : Nat), t1.comp.parts = (t.modUpd pt x.num layerId fun _ => u'.withoutStats again).comp.parts ∧
      (pass = if again = [] then (s.part pt).nextPass b u.prog else 1) ∧
      exec (.statisticsComplete pt layerId) s = .next ((t1.startPass pt x.num b (u'.withoutStats again) pass).passBegun pt x.num b
        layerId ((u'.withoutStats again).withPass pass)) := by
  by_cases hagain : again = []
  · refine ⟨_, _, ?_, (if_pos hagain).symm, exec_statisticsComplete_nextPass hrun hbed hx hu hes hR hfail hagain⟩
    rfl
  · refine ⟨_, _, ?_, (if_neg hagain).symm, exec_statisticsComplete_repeats hrun hbed hx hu hes hR hfail hagain⟩
    rfl

end

/-- An update put in place of a step's own stands as its pass starts. -/
theorem State.mem_startPass {t t1 : State} {pt : Nat} {x : StepSt} {id : Nat} {u v : Upd} (hx : x ∈ (t.part pt).steps) (hu : x.upd id = some u)
    (hv : v.layerId = id) (hparts : t1.comp.parts = (t.modUpd pt x.num id fun _ => v).comp.parts) (b : List Byte) (pass : Nat) :
    ∃ y ∈ ((t1.startPass pt x.num b v pass).part pt).steps, y.num = x.num ∧ y.upd id = some (v.atPass (t1.part pt) b pass) := by
  obtain ⟨y, hy, hnum, hupd⟩ := State.mem_modUpd hx hu (f := fun _ => v) fun _ _ => hv
  rw [State.part, ← hparts, ← State.part] at hy
  obtain ⟨z, hz, hznum, hzupd⟩ := State.mem_modUpd hy hupd (f := fun w => w.atPass (t1.part pt) b pass) fun _ h => h
  rw [hnum] at hz hznum
  exact ⟨z, by rwa [State.startPass_part, hv], hznum, hzupd⟩

/-- Settles O23: UPDATE_START and STATISTICS_COMPLETE by their equations, each ending in the start of a pass, which changes the update alone. -/
theorem updatePasses : Obligations.UpdatePasses := by
  refine ⟨fun s pt layerId li lrest b x hrun hbed hlayer hjet hheld hx => ?start,
    fun s pt layerId b x u es hrun hbed hx hu => ⟨fun hes => ?waits, fun hes => ?settles⟩, fun s pt step b u again c w => ?statistic⟩
  case start =>
    have hmem : x ∈ (s.part pt).steps := State.mem_steps_of_mem_active (List.mem_of_find?_eq_some hx)
    refine ⟨fun z hset hfree => ?starts, fun hset => ?noSet, fun hset hslot => ?noSlot⟩
    case starts =>
      have hexec := exec_updateStart_starts hrun hbed hlayer hjet hheld hx hset hfree
      obtain ⟨hupd, hlocked⟩ := State.startPass_updateStands hmem b li
        (u := .opened layerId (bedLayer b li).jet z.slots) rfl ((s.part pt).firstPass b (bedLayer b li).jet)
      rw [State.updateStarts] at hexec
      exact ⟨_, _, hexec, hupd, rfl, hlocked⟩
    case noSet => exact ⟨_, exec_updateStart_noSet hrun hbed hlayer hjet hheld hx hset, s.updateAwaitsSet_spec pt b layerId x⟩
    case noSlot =>
      obtain ⟨z, hz⟩ := Option.isSome_iff_exists.mp hset
      exact ⟨_, exec_updateStart_noSlot hrun hbed hlayer hjet hheld hx hz hslot, State.updateAwaitsSlot_spec hmem layerId _⟩
  case waits => exact exec_statisticsComplete_waits hrun hbed hx hu hes
  case settles =>
    generalize hR : s.settleStats pt x.num b ((layerRecs b layerId).head?.getD 0) u es = R
    intro slots R'
    have hR' : R' = R := hR
    rw [hR']
    obtain ⟨u', again, t⟩ := R
    obtain ⟨hlayer, hmem, -, -⟩ := State.mem_steps_settleStats hx hu hR
    refine ⟨fun hfail => ?goesOn, fun hfail => exec_statisticsComplete_fails hrun hbed hx hu hes hR hfail⟩
    obtain ⟨t1, pass, hparts, hpass, hexec⟩ := exec_statisticsComplete_goesOn hrun hbed hx hu hes hR hfail
    have hstands := State.mem_startPass hmem hu (v := u'.withoutStats again) hlayer hparts b pass
    exact ⟨_, (u'.withoutStats again).atPass (t1.part pt) b pass, hexec, hstands, rfl, rfl, rfl, rfl, hpass⟩
  case statistic =>
    refine ⟨State.settleStat_max s pt step b u again c w, State.settleStat_repeat s pt step b u again c w, fun h hconv => ?_⟩
    refine (State.settleStat_convert s pt step b u again c w h hconv).trans ?_
    unfold Upd.fillSlot
    rfl

end Sys2Proof.Machine
end

section
/-! PROOFS. Zeros, signs and poison of the lane arithmetic (R211, Table 08-1). -/
namespace Sys2Proof.Machine

/-! ### Zeros (Table 08-1) -/

/-- A pattern of zero has no magnitude (R211). -/
theorem f32Exact_m_of_isZero {a : JVal} (h : a.isZero = true) : (f32Exact a).m = 0 := by
  have hz : a.bits % 2 ^ 31 = 0 := by simpa [JVal.isZero] using h
  have hexp : field a.bits 30 23 = 0 := by unfold field; rw [Nat.shiftRight_eq_div_pow]; omega
  have hfrac : field a.bits 22 0 = 0 := by unfold field; rw [Nat.shiftRight_eq_div_pow]; omega
  simp [f32Exact, hexp, hfrac]

theorem JVal.toInt_of_isZero {a : JVal} (h : a.isZero = true) : a.toInt = 0 := by
  simp [JVal.toInt, f32Exact_m_of_isZero h]

theorem jAdd_of_isZero {a b : JVal} (ha : a.isZero = true) (hb : b.isZero = true) :
    jAdd a b = some (if a.neg && b.neg then { bits := 0x80000000 } else { bits := 0 }) := by
  simp [jAdd, jRound, JVal.toInt_of_isZero, ha, hb, jZero]

theorem jSub_of_isZero {a b : JVal} (ha : a.isZero = true) (hb : b.isZero = true) : jSub a b = some { bits := 0 } := by
  simp [jSub, jRound, JVal.toInt_of_isZero, ha, hb, jZero]

theorem jMul_of_isZero {a : JVal} (b : JVal) (ha : a.isZero = true) :
    jMul a b = some { bits := if a.neg != b.neg then 0x80000000 else 0 } := by
  have hprod : (f32Exact a).m * (f32Exact b).m = 0 := by rw [f32Exact_m_of_isZero ha, Nat.zero_mul]
  have hsign : ∀ n : Bool, at_ 31 (b2n n) = if n then 0x80000000 else 0 := by decide
  simp [jMul, hprod, hsign]

theorem jSign_eq (a : JVal) :
    jSign a = some { bits := if a.isZero then 0 else if a.neg then 0xBF800000 else 0x3F800000 } := by
  unfold jSign
  split
  · rfl
  · split <;> rfl

theorem jRsqrt_of_not_pos {a : JVal} (h : a.isZero = true ∨ a.neg = true) : jRsqrt a = some { bits := 0 } := if_pos h

/-! ### Poison (R211) -/

theorem lift1_poison (f : JVal → Option JVal) {a : JVal} (h : a.poison = true) : lift1 f a = some { poison := true } := if_pos h
theorem lift1_sound (f : JVal → Option JVal) {a : JVal} (h : a.poison = false) : lift1 f a = f a := by simp [lift1, h]
theorem lift2_poison (f : JVal → JVal → Option JVal) {a b : JVal} (h : a.poison = true ∨ b.poison = true) :
    lift2 f a b = some { poison := true } := if_pos h
theorem lift2_sound (f : JVal → JVal → Option JVal) {a b : JVal} (ha : a.poison = false) (hb : b.poison = false) :
    lift2 f a b = f a b := by simp [lift2, ha, hb]

theorem jSelect_eq (a b c : JVal) : jSelect a b c = some (if a.poison then { poison := true } else if a.isZero then c else b) := by
  unfold jSelect
  split <;> rfl

/-- Settles O20. -/
theorem laneZeroRules : Obligations.LaneZeroRules := by
  refine ⟨fun a b ha hb hpa hpb => ?_, fun a b ha hpa hpb => ?_, by decide +kernel, by decide +kernel, fun a hpa => ?_, jSelect_eq, fun a b hp => ?_,
    fun a i hp => ?_⟩
  · exact ⟨(lift2_sound jAdd hpa hpb).trans (jAdd_of_isZero ha hb), (lift2_sound jSub hpa hpb).trans (jSub_of_isZero ha hb)⟩
  · exact (lift2_sound jMul hpa hpb).trans (jMul_of_isZero b ha)
  · exact ⟨(lift1_sound jSign hpa).trans (jSign_eq a), fun h => (lift1_sound jRsqrt hpa).trans (jRsqrt_of_not_pos h)⟩
  · exact ⟨lift2_poison jAdd hp, lift2_poison jSub hp, lift2_poison jMul hp, lift2_poison jMax hp⟩
  · exact ⟨lift1_poison jAbs hp, lift1_poison jSign hp, lift1_poison jRsqrt hp, lift1_poison (jScale i) hp⟩

end Sys2Proof.Machine
end

section
/-! PROOFS. What a Jet unit goes on to after an instruction (R209, R211, R220). -/
namespace Sys2Proof.Machine

/-! ### A unit takes its next run (R209) -/

theorem vmod_vmod {α : Type} {n : Nat} (v : Vector α (n + 1)) (i : Nat) (f g : α → α) : vmod (vmod v i f) i g = vmod v i fun x => g (f x) := by
  simp [vmod, vget]

theorem vmod_eq_self {α : Type} {n : Nat} (v : Vector α (n + 1)) (i : Nat) {f : α → α} (h : f (vget v i) = vget v i) : vmod v i f = v := by
  rw [vmod, h]
  simp [vget]

theorem State.modJet_modJet (s : State) (i : Nat) (f g : JetSt → JetSt) : (s.modJet i f).modJet i g = s.modJet i fun x => g (f x) :=
  congrArg (fun jets => { s with comp := { s.comp with jets := jets } }) (vmod_vmod s.comp.jets i f g)

theorem State.jet_modJet_same (s : State) (i : Nat) (f : JetSt → JetSt) : vget (s.modJet i f).comp.jets i = f (vget s.comp.jets i) :=
  vget_vmod_same _ _ _

/-- Runs that come to a unit with a run wait behind it. -/
theorem State.forEach_jetTake_busy (ji : Nat) : ∀ (q : List JetRun) (s : State), (vget s.comp.jets ji).run.isSome = true →
    forEach q (fun r s => s.jetTake ji r) s = s.modJet ji fun x => { x with queue := x.queue ++ q }
  | [], s, _ => by
    have hself : vmod s.comp.jets ji (fun x => { x with queue := x.queue ++ [] }) = s.comp.jets :=
      vmod_eq_self _ _ (by rw [List.append_nil])
    exact congrArg (fun jets => { s with comp := { s.comp with jets := jets } }) hself.symm
  | r :: q, s, h => by
    have htake : s.jetTake ji r = s.modJet ji fun x => { x with queue := x.queue ++ [r] } := if_pos h
    have hbusy : (vget (s.modJet ji fun x => { x with queue := x.queue ++ [r] }).comp.jets ji).run.isSome = true := by
      rw [s.jet_modJet_same]; exact h
    calc forEach (r :: q) (fun r s => s.jetTake ji r) s
        = forEach q (fun r s => s.jetTake ji r) (s.jetTake ji r) := rfl
      _ = _ := by
        rw [htake, State.forEach_jetTake_busy ji q _ hbusy, s.modJet_modJet]
        simp

/-- A unit without a waiting run is free. -/
theorem State.jetFree_of_empty {s : State} {ji : Nat} (h : (vget s.comp.jets ji).queue = []) :
    s.jetFree ji = s.modJet ji fun x => { x with run := none, queue := [] } := by
  unfold State.jetFree
  rw [h]
  rfl

/-- The first waiting run is taken, JET_LAYER names its layer, and the others wait on. -/
theorem State.jetFree_of_waiting {s : State} {ji : Nat} {q : JetRun} {rest : List JetRun} (h : (vget s.comp.jets ji).queue = q :: rest) :
    s.jetFree ji = (s.put (Reg.jetLayer (ji / 18) (ji % 18)) q.layerId).modJet ji fun x => { x with run := some q, queue := rest } := by
  have hidle : (vget (s.modJet ji fun x => { x with run := none, queue := [] }).comp.jets ji).run.isSome = false := by
    rw [s.jet_modJet_same]; rfl
  calc s.jetFree ji
      = forEach rest (fun r s => s.jetTake ji r) ((s.modJet ji fun x => { x with run := none, queue := [] }).jetTake ji q) := by
        unfold State.jetFree; rw [h]; rfl
    _ = _ := by
      rw [State.jetTake, if_neg (by simp [hidle]), State.forEach_jetTake_busy]
      · rw [State.modJet_modJet]
        exact State.modJet_modJet (s.put _ _) ji (fun x => { x with run := none, queue := [] }) _
      · rw [State.jet_modJet_same]; rfl

theorem arrIx_div (die : Die) (arr : ArrayIx) : arrIx die arr / 18 = die.val := by
  have := arr.isLt
  unfold arrIx
  omega

theorem arrIx_mod (die : Die) (arr : ArrayIx) : arrIx die arr % 18 = arr.val := by
  have := arr.isLt
  unfold arrIx
  omega

/-- What a unit that is free again has: the head of its waiting runs; registers but JET_LAYER and every partition's job stand. -/
theorem State.jetFree_next (s : State) (die : Die) (arr : ArrayIx) (hc : s.Canonical) :
    let ji := arrIx die arr
    (vget (s.jetFree ji).comp.jets ji).run = (vget s.comp.jets ji).queue.head? ∧
      (vget (s.jetFree ji).comp.jets ji).queue = (vget s.comp.jets ji).queue.tail ∧
      SameRegsBut [Reg.jetLayer die arr] s (s.jetFree ji) ∧ (s.jetFree ji).comp.parts = s.comp.parts := by
  intro ji
  cases hq : (vget s.comp.jets ji).queue with
  | nil =>
    rw [State.jetFree_of_empty hq, State.jet_modJet_same]
    exact ⟨rfl, rfl, fun _ _ => rfl, rfl⟩
  | cons q rest =>
    rw [State.jetFree_of_waiting hq, State.jet_modJet_same, arrIx_div, arrIx_mod]
    exact ⟨rfl, rfl, s.sameRegsBut_setReg _ _ hc, rfl⟩

/-! ### The next instruction, the next vector, the end of the pass (R209, R220) -/

/-- Instructions of a run's pass. -/
def JetRun.pcs (r : JetRun) (b : List Byte) : List Nat := passPcs (progWords (recOf b 0x0208 r.prog)) r.pass (jobStrict b)

/-- A vector more in JET_VECS. -/
def State.countVector (s : State) (die arr : Nat) : State :=
  s.put64 (Reg.jetVecsLo die arr) ((s.reg64 (Reg.jetVecsLo die arr) + 1) % 2 ^ 64)

theorem State.sameRegsBut_put64 {s : State} (lo v : Nat) (h : s.Canonical) : SameRegsBut [lo, lo + 4] s (s.put64 lo v) :=
  (s.sameRegsBut_setReg lo _ h).trans (State.sameRegsBut_setReg (lo + 4) _ (s.canonical_put lo v h))

theorem State.reg64_put64 {s : State} {lo : Nat} (v : Nat) (h : s.Canonical) : (s.put64 lo v).reg64 lo = v % 2 ^ 64 := by
  have hlo : (s.put64 lo v).reg lo = v % 2 ^ 32 := by
    have := State.getReg_put_ne (lo + 4) lo (v / 2 ^ 32) (s.canonical_put lo v h) (regHome_add_four_ne lo).symm
    exact (congrArg BitVec.toNat this).trans (s.reg_put_same lo v h)
  have hhi : (s.put64 lo v).reg (lo + 4) = v / 2 ^ 32 % 2 ^ 32 := State.reg_put_same (lo + 4) _ (s.canonical_put lo v h)
  rw [State.reg64, hlo, hhi]
  omega

section
variable (s : State) (die : Die) (arr : ArrayIx) (b : List Byte) (r : JetRun)

theorem State.jetAdvance_of_next {p : Nat} (h : ((r.pcs b).find? fun q => decide (r.pc < q)) = some p) :
    s.jetAdvance die arr b r = s.modJet (arrIx die arr) fun x => { x with run := some { r with pc := p }, lastPc := r.pc } := by
  unfold JetRun.pcs at h
  unfold State.jetAdvance
  simp only [h]
  exact State.modJet_modJet _ _ _ _

theorem State.jetAdvance_of_vector {v w : Nat} {rest : List Nat} (h : ((r.pcs b).find? fun q => decide (r.pc < q)) = none)
    (hv : r.vecs = v :: w :: rest) :
    s.jetAdvance die arr b r = (s.countVector die arr).modJet (arrIx die arr) fun x =>
      { x with run := some { r with vecs := w :: rest, pc := (r.pcs b).headD 0, regs := Vector.replicate 8 [] }, lastPc := r.pc } := by
  unfold JetRun.pcs at *
  unfold State.jetAdvance
  simp only [h, hv]
  exact State.modJet_modJet (s.countVector die arr) _ (fun x => { x with lastPc := r.pc }) _

/-- A run that has finished its pass, before its unit is free. -/
def State.passFinished : State :=
  let t := (s.countVector die arr).modJet (arrIx die arr) fun x => { x with lastPc := r.pc }
  if r.pass = 1 ∧ (lastReduce (progWords (recOf b 0x0208 r.prog))).isSome then t.statWaits (arrIx die arr) r.pt r.step r.layerId else t

theorem State.jetAdvance_of_last (h : ((r.pcs b).find? fun q => decide (r.pc < q)) = none) (hv : r.vecs.length ≤ 1) :
    s.jetAdvance die arr b r =
      let t := (s.passFinished die arr b r).jetFree (arrIx die arr)
      if t.passRuns r.pt r.step r.layerId then t else t.endPass r.pt r.step b r.layerId := by
  unfold JetRun.pcs at h
  unfold State.jetAdvance
  simp only [h]
  split
  · next hvecs => simp [hvecs] at hv
  · rfl

/-- The waiting runs, the registers and the jobs of a unit that has finished its pass. -/
theorem State.passFinished_keeps (hc : s.Canonical) :
    (s.passFinished die arr b r).Canonical ∧
    (vget (s.passFinished die arr b r).comp.jets (arrIx die arr)).queue = (vget s.comp.jets (arrIx die arr)).queue ∧
    SameRegsBut [Reg.jetVecsLo die arr, Reg.jetVecsLo die arr + 4] s (s.passFinished die arr b r) ∧
    (s.passFinished die arr b r).comp.parts = s.comp.parts := by
  have hcounted : (s.countVector die arr).Canonical := s.canonical_put64 _ _ hc
  have hregs := State.sameRegsBut_put64 (s := s) (Reg.jetVecsLo die arr) ((s.reg64 (Reg.jetVecsLo die arr) + 1) % 2 ^ 64) hc
  unfold State.passFinished
  dsimp only
  split
  · exact ⟨hcounted, by simp [State.statWaits, State.jet_modJet_same]; rfl, hregs, rfl⟩
  · exact ⟨hcounted, by rw [State.jet_modJet_same]; rfl, hregs, rfl⟩

theorem arrIx_lt : arrIx die arr < 72 := by
  have := die.isLt
  have := arr.isLt
  unfold arrIx
  omega

theorem State.jet_modJet_other (f : JetSt → JetSt) (j : Fin 72) (h : j.val ≠ arrIx die arr) :
    vget (s.modJet (arrIx die arr) f).comp.jets j = vget s.comp.jets j :=
  vget_vmod_ne s.comp.jets _ _ f (by rw [Nat.mod_eq_of_lt (arrIx_lt die arr), Nat.mod_eq_of_lt j.isLt]; exact h.symm)

/-- An instruction done, the unit goes on as R209 and R220 say, where the register file is in canonical form. -/
theorem State.jetAdvance_goesOn (hc : s.Canonical) : JetGoesOn s (s.jetAdvance die arr b r) die arr b r := by
  refine ⟨fun p hp => ?_, fun hlast v w rest hv => ?_, fun hlast hv => ?_, fun hmore => ?_⟩
  · rw [s.jetAdvance_of_next die arr b r hp, s.jet_modJet_same]
    exact ⟨rfl, rfl⟩
  · rw [s.jetAdvance_of_vector die arr b r hlast hv, State.jet_modJet_same]
    refine ⟨rfl, fun _ => ?_, State.sameRegsBut_put64 _ _ hc⟩
    exact (State.reg64_put64 _ hc).trans (Nat.mod_mod _ _)
  · obtain ⟨hcanon, hqueue, hregs, hparts⟩ := s.passFinished_keeps die arr b r hc
    obtain ⟨hrun, hrest, hlayer, hfree⟩ := (s.passFinished die arr b r).jetFree_next die arr hcanon
    exact ⟨_, hrun.trans (congrArg _ hqueue), hrest.trans (congrArg _ hqueue), hregs.trans hlayer, hfree.trans hparts,
      s.jetAdvance_of_last die arr b r hlast hv⟩
  · cases hnext : (r.pcs b).find? fun q => decide (r.pc < q) with
    | some p =>
      rw [s.jetAdvance_of_next die arr b r hnext]
      exact ⟨s.jet_modJet_other die arr _, rfl⟩
    | none =>
      have hlong : 2 ≤ r.vecs.length := hmore.resolve_left fun h => h hnext
      obtain ⟨v, w, rest, hv⟩ : ∃ v w rest, r.vecs = v :: w :: rest := by
        match r.vecs, hlong with
        | v :: w :: rest, _ => exact ⟨v, w, rest, rfl⟩
      rw [s.jetAdvance_of_vector die arr b r hnext hv]
      exact ⟨(s.countVector die arr).jet_modJet_other die arr _, rfl⟩

end

end Sys2Proof.Machine
end

section
/-! PROOFS. What the operands of an update program are read from (R212, R219). -/
namespace Sys2Proof.Machine

/-- A step without what the failing lanes of an update change. -/
def StepSt.unfailed (x : StepSt) : StepSt := { x with upds := [], lostTag := 0 }

def Part.unfailed (p : Part) : Part := { p with steps := p.steps.map StepSt.unfailed }

/-- A state without its updates, without what posting to the host changes, and with no register but GLOBAL_LICSTAT: what the lanes of an update
program and their operands depend on. -/
def State.sources (s : State) : State :=
  { s with
    regs := [(regHome Reg.globalLicstat, s.getReg Reg.globalLicstat)], rill := {}, hostTx := [], queues := Vector.replicate 16 {}, intc := {}
    comp := { s.comp with parts := s.comp.parts.map Part.unfailed } }

section
variable (s : State)

theorem State.part_sources (pt : Nat) : s.sources.part pt = (s.part pt).unfailed := by
  simp [State.part, State.sources, vget]

theorem State.coarse_sources : s.sources.coarse = s.coarse := by
  funext pt t step
  unfold State.coarse State.coarseRaw
  rw [s.part_sources]
  rfl

theorem State.rungAt_sources : s.sources.rungAt = s.rungAt := by
  funext pt t step
  have hown : (((s.part pt).unfailed.steps.filter fun x => decide (x.num ≤ step)).reverse.findSome? fun x =>
        (x.rungs.find? fun r => r.1 == t).map fun r => (x.num, r.2)) =
      (((s.part pt).steps.filter fun x => decide (x.num ≤ step)).reverse.findSome? fun x =>
        (x.rungs.find? fun r => r.1 == t).map fun r => (x.num, r.2)) := by
    rw [Part.unfailed, List.filter_map, ← List.map_reverse, List.findSome?_map]
    rfl
  unfold State.rungAt
  rw [s.part_sources]
  dsimp only
  rw [hown]
  rfl

theorem State.instScale_sources : s.sources.instScale = s.instScale := by
  funext pt t v
  have hscales : (s.part pt).unfailed.steps.flatMap (·.scales) = (s.part pt).steps.flatMap (·.scales) := by
    rw [Part.unfailed, List.flatMap_map]
    rfl
  unfold State.instScale
  rw [s.part_sources, s.coarse_sources, s.rungAt_sources]
  dsimp only
  rw [hscales]
  rfl

theorem State.axisOf_sources : s.sources.axisOf = s.axisOf := by
  funext pt axis
  unfold State.axisOf
  rw [s.part_sources]
  rfl

theorem State.view_sources : s.sources.view = s.view := by
  funext pt b t v
  unfold State.view State.viewAt State.usedExt
  rw [s.instScale_sources, s.part_sources, s.axisOf_sources]
  rfl

theorem State.spaceUnits_sources : s.sources.spaceUnits = s.spaceUnits := by
  have hplan : s.sources.plan = s.plan := rfl
  have hlic : s.sources.reg Reg.globalLicstat = s.reg Reg.globalLicstat := by
    have hget : s.sources.getReg Reg.globalLicstat = s.getReg Reg.globalLicstat := by
      simp [State.getReg, State.sources, Sparse.get]
    rw [State.reg, hget, State.reg]
  have hroles : s.sources.usableRoles = s.usableRoles := rfl
  have hboot : s.sources.boot = s.boot := rfl
  funext pt space
  unfold State.spaceUnits State.ptRes State.hbmInService
  rw [hplan, hlic, hroles, hboot]

theorem State.readSpace_sources : s.sources.readSpace = s.readSpace := by
  have hmem : s.sources.mem = s.mem := rfl
  funext pt space a n
  unfold State.readSpace State.phys
  rw [s.spaceUnits_sources, hmem]

theorem State.poisonSpace_sources : s.sources.poisonSpace = s.poisonSpace := by
  have hpoison : s.sources.poison = s.poison := rfl
  funext pt space a n
  unfold State.poisonSpace State.poisoned State.phys
  rw [s.spaceUnits_sources, hpoison]

theorem State.inSpace_sources : s.sources.inSpace = s.inSpace := by
  funext pt space a n
  unfold State.inSpace State.spaceSize
  rw [s.spaceUnits_sources]

theorem State.readElem_sources : s.sources.readElem = s.readElem := by
  funext b w ix
  unfold State.readElem State.malformed State.escapes State.recHead State.sideAddr State.packed State.zeroPoint State.rawAt State.fineAt
  rw [s.readSpace_sources, s.poisonSpace_sources, s.inSpace_sources]

theorem State.frozen_sources (pt : Nat) : (s.sources.part pt).frozen = (s.part pt).frozen := by
  rw [s.part_sources]
  rfl

theorem State.ring_sources (pt : Nat) : (s.sources.part pt).ring = (s.part pt).ring := by
  rw [s.part_sources]
  rfl

theorem State.masked_sources (pt : Nat) : (s.sources.part pt).masked = (s.part pt).masked := by
  rw [s.part_sources]
  rfl

theorem State.laneVal_sources : s.sources.laneVal = s.laneVal := by
  funext b r u code n lane
  unfold State.laneVal
  rw [s.view_sources, s.readElem_sources, s.readSpace_sources, s.poisonSpace_sources, s.frozen_sources, s.masked_sources]

theorem State.lanes_sources : s.sources.lanes = s.lanes := by
  funext b r
  unfold State.lanes
  rw [s.view_sources]

end

end Sys2Proof.Machine
end

section
/-! PROOFS. What failing lanes change: the failure of the update, the errors of the unit, the step's event (R211, R220, R223, R225, R349). -/
namespace Sys2Proof.Machine

/-! ### Changes of an update leave the sources of operands -/

theorem vmod_map {α β : Type} {n : Nat} (v : Vector α (n + 1)) (i : Nat) {f : α → α} (g : α → β) (h : ∀ a, g (f a) = g a) :
    (vmod v i f).map g = v.map g := by
  ext j hj
  by_cases hij : i % (n + 1) = j
  · simp [vmod, vget, h, hij]
  · simp [vmod, hij]

theorem State.modPart_sources (s : State) (pt : Nat) {f : Part → Part} (h : ∀ p, (f p).unfailed = p.unfailed) :
    (s.modPart pt f).sources = s.sources :=
  congrArg (fun parts => { s.sources with comp := { s.comp with parts := parts } }) (vmod_map s.comp.parts pt Part.unfailed h)

theorem State.modStep_sources (s : State) (pt num : Nat) {f : StepSt → StepSt} (h : ∀ x, (f x).unfailed = x.unfailed) :
    (s.modStep pt num f).sources = s.sources := by
  refine s.modPart_sources pt fun p => ?_
  have hsame : StepSt.unfailed ∘ (fun x => if x.num == num then f x else x) = StepSt.unfailed := by
    funext x
    by_cases hx : x.num = num <;> simp [hx, h]
  have hsteps : (p.steps.map fun x => if x.num == num then f x else x).map StepSt.unfailed = p.steps.map StepSt.unfailed := by
    rw [List.map_map, hsame]
  exact congrArg (fun steps => { p with steps := steps }) hsteps

theorem State.modUpd_sources (s : State) (pt step id : Nat) (f : Upd → Upd) : (s.modUpd pt step id f).sources = s.sources :=
  s.modStep_sources pt step fun _ => rfl

theorem State.setReg_sources {s : State} (off : Nat) (v : Word) (hc : s.Canonical) (h : regHome off ≠ regHome Reg.globalLicstat) :
    (s.setReg off v).sources = s.sources := by
  have hlic := s.getReg_setReg_ne off Reg.globalLicstat v hc.regs_wf h.symm
  calc (s.setReg off v).sources
      = { s.sources with regs := [(regHome Reg.globalLicstat, (s.setReg off v).getReg Reg.globalLicstat)] } := rfl
    _ = s.sources := by rw [hlic]; rfl

theorem Posts.sources {s t : State} (h : Posts s t) (hc : s.Canonical) : t.sources = s.sources := by
  have hlic := h.regs hc Reg.globalLicstat (not_postReg_of_global (by decide))
  calc t.sources
      = { ({ t with regs := s.regs, rill := s.rill, hostTx := s.hostTx, queues := s.queues, intc := s.intc } : State).sources with
          regs := [(regHome Reg.globalLicstat, t.getReg Reg.globalLicstat)] } := rfl
    _ = s.sources := by rw [h.rest, hlic]; rfl

/-! ### The update of a run -/

/-- The state of a run's step. -/
def State.runSt (s : State) (r : JetRun) : Option Nat := (s.stepSt r.pt r.step).map (·.st)

/-- The update of a run. -/
def State.runUpd (s : State) (r : JetRun) : Option Upd := (s.stepSt r.pt r.step).bind (·.upd r.layerId)

/-- An update whose failure is of a rank at least (R220). -/
def Upd.raise (rank : Nat) (u : Upd) : Upd := { u with fail := max u.fail rank }

/-- What a failing event of a rank does to a run's update: the apply pass of a committed step cannot fail it (R195, R220). -/
def State.raised (s : State) (r : JetRun) (rank : Nat) : Upd → Upd := if s.runSt r = some 6 then id else Upd.raise rank

/-- From one canonical state to the other, the update of a run changes as given; the step's state and all that operands are read from stand. -/
structure UpdChanges (r : JetRun) (f : Upd → Upd) (s t : State) : Prop where
  canon : t.Canonical
  sources : t.sources = s.sources
  runSt : t.runSt r = s.runSt r
  runUpd : t.runUpd r = (s.runUpd r).map f

section
variable {s t w : State} {r : JetRun} {f g : Upd → Upd}

theorem UpdChanges.refl (hc : s.Canonical) : UpdChanges r id s s := ⟨hc, rfl, rfl, by rw [Option.map_id, id]⟩

theorem UpdChanges.trans (a : UpdChanges r f s t) (b : UpdChanges r g t w) : UpdChanges r (g ∘ f) s w where
  canon := b.canon
  sources := b.sources.trans a.sources
  runSt := b.runSt.trans a.runSt
  runUpd := by rw [b.runUpd, a.runUpd, Option.map_map]

theorem UpdChanges.raised (a : UpdChanges r f s t) (rank : Nat) : t.raised r rank = s.raised r rank := by
  rw [State.raised, a.runSt, State.raised]

/-- A state that differs in its registers, and in what posting changes, alone. -/
theorem UpdChanges.of_parts (hcanon : t.Canonical) (hsources : t.sources = s.sources) (hparts : t.comp.parts = s.comp.parts) :
    UpdChanges r id s t := by
  have hstep : t.stepSt r.pt r.step = s.stepSt r.pt r.step := by rw [State.stepSt, State.part, hparts]; rfl
  exact ⟨hcanon, hsources, by rw [State.runSt, hstep]; rfl, by rw [State.runUpd, hstep, Option.map_id]; rfl⟩

theorem UpdChanges.setReg (hc : s.Canonical) {off : Nat} (v : Word) (h : regHome off ≠ regHome Reg.globalLicstat) :
    UpdChanges r id s (s.setReg off v) :=
  .of_parts (s.canonical_setReg off v hc) (s.setReg_sources off v hc h) rfl

theorem Posts.updChanges (h : Posts s t) (hc : s.Canonical) : UpdChanges r id s t :=
  .of_parts (h.canon hc) (h.sources hc) (by rw [h.comp])

theorem UpdChanges.modUpd (hc : s.Canonical) (hid : ∀ u, u.layerId = r.layerId → (f u).layerId = r.layerId) :
    UpdChanges r f s (s.modUpd r.pt r.step r.layerId f) where
  canon := hc
  sources := s.modUpd_sources _ _ _ f
  runSt := by
    rw [State.runSt, s.modUpd_eq, s.stepSt_modStep_same r.pt r.step (f := fun x => x.mapUpd r.layerId f) fun _ => rfl, Option.map_map]
    rfl
  runUpd := s.upd_modUpd r.pt r.step hid

theorem UpdChanges.modStep_lostTag (hc : s.Canonical) (tag : Nat) :
    UpdChanges r id s (s.modStep r.pt r.step fun x => { x with lostTag := tag }) := by
  have hstep := s.stepSt_modStep_same r.pt r.step (f := fun x => { x with lostTag := tag }) fun _ => rfl
  refine ⟨hc, s.modStep_sources _ _ fun _ => rfl, ?_, ?_⟩
  · rw [State.runSt, hstep, Option.map_map]; rfl
  · rw [State.runUpd, hstep, Option.map_id, State.runUpd]
    cases s.stepSt r.pt r.step <;> rfl

end

/-! ### Failing lanes -/

/-- GLOBAL_LICSTAT lies below the registers of every other block. -/
theorem regHome_ne_licstat {o : Nat} (h : 0x100000 ≤ o) : regHome o ≠ regHome Reg.globalLicstat := by
  have hlic : regHome Reg.globalLicstat = 0x10 := rfl
  rw [hlic]
  unfold regHome
  split <;> omega

theorem regHome_jetErrinfo_ne (die : Die) (arr : ArrayIx) : regHome (Reg.jetErrinfo die arr) ≠ regHome Reg.globalLicstat :=
  regHome_ne_licstat (by unfold Reg.jetErrinfo; omega)

theorem regHome_jetErrstat_ne (die : Die) (arr : ArrayIx) : regHome (Reg.jetErrstat die arr) ≠ regHome Reg.globalLicstat :=
  regHome_ne_licstat (by unfold Reg.jetErrstat; omega)

section
variable {s : State} (die : Die) (arr : ArrayIx) (b : List Byte) (r : JetRun)

theorem State.jetError_changes (hc : s.Canonical) (cause pc lane : Nat) : UpdChanges r id s (s.jetError (arrIx die arr) cause pc lane) := by
  unfold State.jetError
  rw [arrIx_div, arrIx_mod]
  dsimp only
  split
  · have hinfo := UpdChanges.setReg (r := r) hc (wd (pc + at_ 8 lane + at_ 16 (cause + 1))) (regHome_jetErrinfo_ne die arr)
    exact hinfo.trans (.setReg hinfo.canon _ (regHome_jetErrstat_ne die arr))
  · exact .setReg hc _ (regHome_jetErrstat_ne die arr)

theorem State.updFail_changes (hc : s.Canonical) (rank : Nat) : UpdChanges r (s.raised r rank) s (s.updFail r rank) := by
  have hst : (s.stepSt r.pt r.step).any (fun x => x.st == 6) = true ↔ s.runSt r = some 6 := by
    unfold State.runSt
    cases s.stepSt r.pt r.step <;> simp
  unfold State.updFail State.raised
  by_cases h : s.runSt r = some 6
  · rw [if_pos (hst.mpr h), if_pos h]
    exact .refl hc
  · rw [if_neg (mt hst.mp h), if_neg h]
    exact .modUpd hc fun _ hu => hu

theorem State.noteLost_changes (hc : s.Canonical) (n : Nat) : UpdChanges r id s (s.noteLost b r n) := by
  unfold State.noteLost
  split
  · exact .refl hc
  · dsimp only
    split
    · exact .refl hc
    · exact .modStep_lostTag hc _

theorem Upd.raise_raise (rank : Nat) : Upd.raise rank ∘ Upd.raise rank = Upd.raise rank := by
  funext u
  simp [Upd.raise]

theorem State.raised_raised (s : State) (rank : Nat) : s.raised r rank ∘ s.raised r rank = s.raised r rank := by
  unfold State.raised
  split
  · rfl
  · exact Upd.raise_raise rank

/-- What failing lanes do to a run's update: nothing where there is none. -/
def State.raisedBy {α : Type} (s : State) (r : JetRun) (rank : Nat) (lanes : List α) : Upd → Upd :=
  if lanes = [] then id else s.raised r rank

/-- Lanes that each raise an update's failure to one rank raise it as one does. -/
theorem State.forEach_changes {α : Type} {r : JetRun} {rank : Nat} (f : α → State → State)
    (hf : ∀ x t, t.Canonical → UpdChanges r (t.raised r rank) t (f x t)) :
    ∀ (l : List α) {s : State}, s.Canonical → UpdChanges r (s.raisedBy r rank l) s (forEach l f s) := by
  intro l
  induction l with
  | nil => exact fun hc => .refl hc
  | cons x l ih =>
    intro s hc
    have hx := hf x s hc
    have hboth := hx.trans (ih hx.canon)
    have hraised : (f x s).raisedBy r rank l ∘ s.raised r rank = s.raised r rank := by
      unfold State.raisedBy
      split
      · rfl
      · rw [hx.raised, s.raised_raised]
    rwa [hraised] at hboth

/-- One lane fails: the unit's error, then the update's failure. -/
def State.failLane (s : State) (ji : Nat) (r : JetRun) (cause rank lane : Nat) : State := (s.jetError ji cause r.pc lane).updFail r rank

/-- Lanes fail one after another. -/
def State.failLanes (s : State) (ji : Nat) (r : JetRun) (cause rank : Nat) (lanes : List Nat) : State :=
  forEach lanes (fun l s => s.failLane ji r cause rank l) s

theorem State.failLane_changes (hc : s.Canonical) (cause rank lane : Nat) :
    UpdChanges r (s.raised r rank) s (s.failLane (arrIx die arr) r cause rank lane) := by
  have herr := s.jetError_changes die arr r hc cause r.pc lane
  have hboth := herr.trans (State.updFail_changes r herr.canon rank)
  rwa [herr.raised] at hboth

theorem State.failLanes_changes (hc : s.Canonical) (cause rank : Nat) (lanes : List Nat) :
    UpdChanges r (s.raisedBy r rank lanes) s (s.failLanes (arrIx die arr) r cause rank lanes) :=
  State.forEach_changes _ (fun l t ht => t.failLane_changes die arr r ht cause rank l) lanes hc

theorem State.posts_overflowEvent (s : State) (pt step tag : Nat) : Posts s (s.overflowEvent pt step tag) := s.posts_ptEvent _ _ _

theorem State.numericLanes_nil (u : Upd) : s.numericLanes (arrIx die arr) b r u [] = s := rfl

/-- A numeric failure: its lanes fail, and the host hears of it once for an update (R211, R231). -/
theorem State.numericLanes_eq (s : State) (ji : Nat) (u : Upd) (lanes : List Nat) :
    s.numericLanes ji b r u lanes =
      if lanes.isEmpty ∨ u.fail = 4 ∨ (s.stepSt r.pt r.step).any (fun x => x.st == 6) then s.failLanes ji r 2 4 lanes
      else (s.failLanes ji r 2 4 lanes).overflowEvent r.pt r.step (bedTensor b (progW b r.prog)).tag := rfl

theorem State.numericLanes_changes (hc : s.Canonical) (u : Upd) (lanes : List Nat) :
    UpdChanges r (s.raisedBy r 4 lanes) s (s.numericLanes (arrIx die arr) b r u lanes) := by
  have hlanes := s.failLanes_changes die arr r hc 2 4 lanes
  rw [State.numericLanes_eq]
  split
  · exact hlanes
  · exact hlanes.trans ((State.posts_overflowEvent _ _ _ _).updChanges hlanes.canon)

theorem State.poisonLanes_changes (hc : s.Canonical) (lanes : List (Nat × Nat)) :
    UpdChanges r (s.raisedBy r 2 lanes) s (s.poisonLanes (arrIx die arr) b r lanes) := by
  refine State.forEach_changes _ (fun l t ht => ?_) lanes hc
  have hfail := t.failLane_changes die arr r ht 3 2 l.1
  exact hfail.trans (State.noteLost_changes b r hfail.canon l.2)

end

end Sys2Proof.Machine
end

section
/-! PROOFS. The arithmetic instructions of an update program in a state of canonical form (R211, R218 to R220, R229). -/
namespace Sys2Proof.Machine

/-! ### A numeric failure (R211, R220) -/

/-- Where the registers lie that posting counts in. -/
theorem PostReg.place {o : Nat} (h : PostReg o) : o = 0x10001C ∨ o = 0x100914 ∨ 0x3800314 ≤ o := by
  obtain rfl | ⟨q, rfl⟩ := h
  · exact .inl (by decide)
  · cases q with
    | none => exact .inr (.inl (by decide))
    | some pt =>
      have hlost : evLostReg (some pt) = 0x3800314 + 0x40000 * pt := rfl
      have hhome : regHome (evLostReg (some pt)) = evLostReg (some pt) := by rw [hlost]; exact if_neg (by omega)
      omega

theorem not_postReg_jetErrstat (die : Die) (arr : ArrayIx) : ¬ PostReg (regHome (Reg.jetErrstat die arr)) := by
  have hoff : Reg.jetErrstat die arr = 0x1101008 + 0x400000 * die.val + 0x10000 * arr.val := rfl
  have hhome : regHome (Reg.jetErrstat die arr) = Reg.jetErrstat die arr := by rw [hoff]; exact if_neg (by omega)
  intro h
  have := h.place
  omega

theorem bit_eq_testBit (w n : Nat) : bit w n = w.testBit n := by
  rw [bit, Nat.testBit_eq_decide_div_mod_eq, Nat.shiftRight_eq_div_pow]
  exact beq_eq_decide _ _

theorem bit_or_two (w : Word) : bit (w ||| wd (2 ^ 2)).toNat 2 = true := by
  rw [bit_eq_testBit, BitVec.testBit_toNat]
  simp [wd]

section
variable {s : State} (die : Die) (arr : ArrayIx) (b : List Byte) (r : JetRun)

theorem State.jetError_errstat (hc : s.Canonical) (pc lane : Nat) :
    bit ((s.jetError (arrIx die arr) 2 pc lane).reg (Reg.jetErrstat die arr)) 2 = true := by
  unfold State.jetError
  rw [arrIx_div, arrIx_mod]
  dsimp only
  rw [State.reg, State.orReg, State.getReg_setReg_of_canonical]
  · exact bit_or_two _
  · split
    · exact s.canonical_put _ _ hc
    · exact hc

theorem State.updFail_regs (rank : Nat) : (s.updFail r rank).regs = s.regs := by
  unfold State.updFail
  split <;> rfl

/-- Each failing lane marks OVERFLOW, the last one too. -/
theorem State.failLanes_errstat (hc : s.Canonical) (rank : Nat) {lanes : List Nat} (h : lanes ≠ []) :
    bit ((s.failLanes (arrIx die arr) r 2 rank lanes).reg (Reg.jetErrstat die arr)) 2 = true := by
  obtain ⟨init, last, rfl⟩ := (List.eq_nil_or_concat lanes).resolve_left h
  have hinit : (s.failLanes (arrIx die arr) r 2 rank init).Canonical := (s.failLanes_changes die arr r hc 2 rank init).canon
  have hlast : s.failLanes (arrIx die arr) r 2 rank (init.concat last) =
      (s.failLanes (arrIx die arr) r 2 rank init).failLane (arrIx die arr) r 2 rank last := by
    simp [State.failLanes, forEach]
  rw [hlast, State.failLane, State.reg, State.getReg, State.updFail_regs]
  exact State.jetError_errstat die arr hinit r.pc last

theorem State.numericLanes_errstat (hc : s.Canonical) (u : Upd) {lanes : List Nat} (h : lanes ≠ []) :
    bit ((s.numericLanes (arrIx die arr) b r u lanes).reg (Reg.jetErrstat die arr)) 2 = true := by
  have herr := s.failLanes_errstat die arr r hc 4 h
  rw [State.numericLanes_eq]
  split
  · exact herr
  · rwa [State.reg, (State.posts_overflowEvent _ _ _ _).regs (s.failLanes_changes die arr r hc 2 4 lanes).canon _ (not_postReg_jetErrstat die arr)]

/-- A numeric failure leaves an update whose step can still fail at rank 4 at least (R195, R220). -/
theorem State.numericLanes_failOf (hc : s.Canonical) {u : Upd} (hu : s.runUpd r = some u) (hst : s.runSt r ≠ some 6) {lanes : List Nat}
    (h : lanes ≠ []) : failOf (s.numericLanes (arrIx die arr) b r u lanes) r = max u.fail 4 := by
  have hupd : (s.numericLanes (arrIx die arr) b r u lanes).runUpd r = some (u.raise 4) := by
    rw [(s.numericLanes_changes die arr b r hc u lanes).runUpd, hu, State.raisedBy, if_neg h, State.raised, if_neg hst]
    rfl
  exact congrArg (fun o : Option Upd => (o.map (·.fail)).getD 0) hupd

end

/-! ### Lanes and their results (R211, R212, R229) -/

theorem UpdChanges.lanes {r : JetRun} {f : Upd → Upd} {s t : State} (h : UpdChanges r f s t) : t.lanes = s.lanes := by
  rw [← t.lanes_sources, h.sources, s.lanes_sources]

theorem UpdChanges.laneVal {r : JetRun} {f : Upd → Upd} {s t : State} (h : UpdChanges r f s t) : t.laneVal = s.laneVal := by
  rw [← t.laneVal_sources, h.sources, s.laneVal_sources]

/-- A lane of a vector stands at its place, and is the only one there. -/
theorem State.mem_lanes {s : State} {b : List Byte} {r : JetRun} {x : Nat × Nat} (h : x ∈ s.lanes b r) :
    x.1 < 256 ∧ x.2 = 256 * r.vecs.headD 0 + x.1 := by
  obtain ⟨hx, -⟩ := List.mem_filter.mp h
  obtain ⟨j, hj, rfl⟩ := List.mem_map.mp hx
  exact ⟨List.mem_range.mp hj, rfl⟩

theorem State.lanes_ext {s : State} {b : List Byte} {r : JetRun} {x y : Nat × Nat} (hx : x ∈ s.lanes b r) (hy : y ∈ s.lanes b r)
    (h : y.1 = x.1) : y = x :=
  Prod.ext h (by rw [(State.mem_lanes hx).2, (State.mem_lanes hy).2, h])

section
variable (s : State) (die : Die) (arr : ArrayIx) (b : List Byte) (r : JetRun) (u : Upd) (codes : List Nat) (f : List JVal → Option JVal)

/-- The result of a lane, or none where it or an operand is beyond binary32. -/
def State.laneRes (x : Nat × Nat) : Option JVal :=
  let vs := codes.map fun k => s.laneVal b r u k x.2 x.1
  if vs.all Option.isSome then f (vs.map fun v => v.getD {}) else none

/-- Lanes of a numeric failure. -/
def State.failedLanes : List Nat := ((s.lanes b r).filter fun x => (s.laneRes b r u codes f x).isNone).map (·.1)

/-- Active lanes whose residue comparison mismatches. -/
def State.hitLanes (hits : List (Fin 256)) : List Nat := (hits.map (·.val)).filter fun h => (s.lanes b r).any fun x => x.1 == h

/-- The vector that an instruction writes: results, and poison where a comparison mismatches. -/
def State.laneOut (hs : List Nat) : List JVal :=
  hs.foldl (fun o h => setNth o h { poison := true }) ((List.range 256).map fun j =>
    ((((s.lanes b r).map fun x => (x.1, s.laneRes b r u codes f x)).find? fun x => x.1 == j).bind (·.2)).getD {})

/-- A run with a vector register written. -/
def JetRun.write (r : JetRun) (d : Nat) (out : List JVal) : JetRun := { r with regs := vmod r.regs d fun _ => out }

theorem nth_foldl_setNth {α : Type} (v d : α) (j : Nat) : ∀ (hs : List Nat) (out : List α), j < out.length →
    nth (hs.foldl (fun o h => setNth o h v) out) j d = if j ∈ hs then v else nth out j d
  | [], out, _ => rfl
  | h :: hs, out, hj => by
    have hlen : j < (setNth out h v).length := by rwa [setNth_eq_set, List.length_set]
    rw [List.foldl_cons, nth_foldl_setNth v d j hs _ hlen]
    by_cases hmem : j ∈ hs
    · simp [hmem]
    · by_cases hjh : h = j
      · subst hjh
        simp [nth, setNth_eq_set, hmem, hj]
      · simp [nth, setNth_eq_set, hmem, hjh, Ne.symm hjh]

theorem nth_map_range {α : Type} (g : Nat → α) (d : α) {n j : Nat} (h : j < n) : nth ((List.range n).map g) j d = g j := by
  simp [nth, h]

theorem State.nth_laneOut (hs : List Nat) {x : Nat × Nat} (hx : x ∈ s.lanes b r) :
    nth (s.laneOut b r u codes f hs) x.1 {} = if x.1 ∈ hs then { poison := true } else (s.laneRes b r u codes f x).getD {} := by
  have hfind : (s.lanes b r).find? (fun y => y.1 == x.1) = some x := by
    obtain ⟨y, hy⟩ := Option.isSome_iff_exists.mp (List.find?_isSome (p := fun y : Nat × Nat => y.1 == x.1) |>.mpr ⟨x, hx, beq_self_eq_true x.1⟩)
    have hyx : y.1 = x.1 := eq_of_beq (List.find?_some (p := fun y : Nat × Nat => y.1 == x.1) hy)
    rw [hy, State.lanes_ext hx (List.mem_of_find?_eq_some hy) hyx]
  have hres : ((s.lanes b r).map fun y => (y.1, s.laneRes b r u codes f y)).find? (fun y => y.1 == x.1) =
      some (x.1, s.laneRes b r u codes f x) := by
    have hplace : ((fun y : Nat × Option JVal => y.1 == x.1) ∘ fun y => (y.1, s.laneRes b r u codes f y)) = fun y => y.1 == x.1 := rfl
    rw [List.find?_map, hplace, hfind, Option.map_some]
  have hlt := (State.mem_lanes hx).1
  rw [State.laneOut, nth_foldl_setNth _ _ _ _ _ (by rwa [List.length_map, List.length_range]), nth_map_range _ _ hlt, hres, Option.bind_some]

variable {s b r u}

/-- An arithmetic instruction on a unit that is at it. -/
theorem State.jetArith_eq (hc : s.Canonical) {word : Nat} (hhead : s.jetHead die arr word = some (r, u, b)) (hits : List (Fin 256)) :
    s.jetArith die arr word codes f hits =
      let s0 := s.numericLanes (arrIx die arr) b r u (s.failedLanes b r u codes f)
      let hs := s.hitLanes b r hits
      let r' := r.write (jDst word) (s.laneOut b r u codes f hs)
      if hs.isEmpty then s0.jetAdvance die arr b r' else s0.jetHits die arr b r' hs := by
  have hlanes : (s.numericLanes (arrIx die arr) b r u (s.failedLanes b r u codes f)).lanes = s.lanes :=
    (s.numericLanes_changes die arr b r hc u _).lanes
  have hbad : (((s.lanes b r).map fun x => (x.1, s.laneRes b r u codes f x)).filter fun x => x.2.isNone).map (·.1) =
      s.failedLanes b r u codes f := by
    rw [State.failedLanes, List.filter_map, List.map_map]
    rfl
  have hmodel : s.jetArith die arr word codes f hits =
      let s0 := s.numericLanes (arrIx die arr) b r u
        ((((s.lanes b r).map fun x => (x.1, s.laneRes b r u codes f x)).filter fun x => x.2.isNone).map (·.1))
      let hs := (hits.map (·.val)).filter fun h => (s0.lanes b r).any fun x => x.1 == h
      let r' := r.write (jDst word) (s.laneOut b r u codes f hs)
      if hs.isEmpty then s0.jetAdvance die arr b r' else s0.jetHits die arr b r' hs := by
    unfold State.jetArith
    rw [hhead]
    rfl
  rw [hmodel, hbad]
  dsimp only
  rw [hlanes]
  rfl
end

/-! ### The nine rows (Table 08-1) -/

section
variable {s : State} {die : Die} {arr : ArrayIx}

theorem regHome_jetRsqrtz_ne (die : Die) (arr : ArrayIx) : regHome (Reg.jetRsqrtz die arr) ≠ regHome Reg.globalLicstat :=
  regHome_ne_licstat (by unfold Reg.jetRsqrtz; omega)

/-- Lanes that a row counts: those whose first operand passes its test. -/
def State.countedLanes (s : State) (b : List Byte) (r : JetRun) (u : Upd) (codes : List Nat) (counts : JVal → Bool) : Nat :=
  ((s.lanes b r).filter fun x => (((codes.map fun k => s.laneVal b r u k x.2 x.1).headD none).map counts).getD false).length

/-- Lanes are counted in JET_RSQRTZ. -/
def State.rsqrtCounted (s : State) (die arr n : Nat) : State := if n = 0 then s else s.bump (Reg.jetRsqrtz die arr) n

theorem State.rsqrtCounted_changes (hc : s.Canonical) (n : Nat) (r : JetRun) : UpdChanges r id s (s.rsqrtCounted die arr n) := by
  unfold State.rsqrtCounted
  split
  · exact .refl hc
  · exact .setReg hc _ (regHome_jetRsqrtz_ne die arr)

theorem State.rsqrtCounted_jetHead (n word : Nat) : (s.rsqrtCounted die arr n).jetHead die arr word = s.jetHead die arr word := by
  unfold State.rsqrtCounted
  split <;> rfl

/-- A row that counts lanes and then runs as an arithmetic instruction completes as JetCompletes says. -/
theorem jetCompletes_of_jetArith (hc : s.Canonical) {c : List (Fin 256) → Instr} {word : Nat} {dst : Fin 8} {codes : List Nat}
    {f : List JVal → Option JVal} {counts : JVal → Bool} (hdst : jDst word = dst.val)
    (hexec : ∀ hits r u b, s.diesStopped = false → s.jetHead die arr word = some (r, u, b) →
      exec (c hits) s = .next ((s.rsqrtCounted die arr (s.countedLanes b r u codes counts)).jetArith die arr word codes f hits)) :
    JetCompletes s c die arr word dst codes f counts := by
  intro r u b hits hstop hhead vs res bad z hs
  have hcount : UpdChanges r id s (s.rsqrtCounted die arr z) := s.rsqrtCounted_changes hc z r
  have hres : (s.rsqrtCounted die arr z).laneRes b r u codes f = res := by
    unfold State.laneRes
    rw [hcount.laneVal]
  have hbad : (s.rsqrtCounted die arr z).failedLanes b r u codes f = bad := by
    rw [State.failedLanes, hcount.lanes, hres]
  have hhits : (s.rsqrtCounted die arr z).hitLanes b r hits = hs := by
    rw [State.hitLanes, hcount.lanes]
  have hrun := State.jetArith_eq die arr codes f hcount.canon ((State.rsqrtCounted_jetHead z word).trans hhead) hits
  dsimp only at hrun
  rw [hbad, hhits, hdst] at hrun
  generalize hout : (s.rsqrtCounted die arr z).laneOut b r u codes f hs = out at hrun
  have hcanon : ((s.rsqrtCounted die arr z).numericLanes (arrIx die arr) b r u bad).Canonical :=
    (State.numericLanes_changes die arr b r hcount.canon u bad).canon
  refine ⟨(s.rsqrtCounted die arr z).numericLanes (arrIx die arr) b r u bad, _, r.write dst out,
    (hexec hits r u b hstop hhead).trans (congrArg _ hrun), rfl, fun h => ?_, rfl, fun x hx => ?_, fun d hd => ?_, fun h => ?_, fun h => ?_⟩
  · rw [h, State.numericLanes_nil]
    rfl
  · have hlane : x ∈ (s.rsqrtCounted die arr z).lanes b r := by rwa [hcount.lanes]
    rw [← hres, ← (s.rsqrtCounted die arr z).nth_laneOut b r u codes f hs hlane, hout]
    exact congrArg (nth · x.1 {}) (vget_vmod_same r.regs dst fun _ => out)
  · exact vget_vmod_ne r.regs dst d _ (by have := Fin.val_ne_of_ne hd; omega)
  · rw [h]
    exact State.jetAdvance_goesOn _ die arr b _ hcanon
  · rw [if_neg (by simpa using h)]

theorem State.countedLanes_none (b : List Byte) (r : JetRun) (u : Upd) (codes : List Nat) : s.countedLanes b r u codes (fun _ => false) = 0 := by
  have hnone : ∀ o : Option JVal, (o.map fun _ => false).getD false = false := fun o => by cases o <;> rfl
  simp [State.countedLanes, hnone]

/-- A row that counts nothing. -/
theorem jetCompletes_of_jetArith_uncounted (hc : s.Canonical) {c : List (Fin 256) → Instr} {word : Nat} {dst : Fin 8} {codes : List Nat}
    {f : List JVal → Option JVal} (hdst : jDst word = dst.val)
    (hexec : ∀ hits, exec (c hits) s = s.clocked (.next (s.jetArith die arr word codes f hits))) :
    JetCompletes s c die arr word dst codes f fun _ => false := by
  refine jetCompletes_of_jetArith hc hdst fun hits r u b hstop _ => ?_
  rw [hexec, State.clocked, hstop, State.countedLanes_none]
  rfl

/-- The destination of a general row (Table 08-6). -/
theorem jDst_jWord (op : Nat) (dst : Fin 8) (a b c imm : BitVec 6) :
    jDst (jWord op dst a.toNat b.toNat c.toNat imm.toNat) = dst.val := by
  have := dst.isLt
  have := a.isLt
  have := b.isLt
  have := c.isLt
  have := imm.isLt
  simp only [jDst, jWord, field, at_, Nat.shiftLeft_eq, Nat.shiftRight_eq_div_pow]
  omega

end

section
variable {s : State} (hc : s.Canonical) (die : Die) (arr : ArrayIx) (dst : Fin 8) (a b c : JOp) (imm : BitVec 6)
include hc

theorem add_completes : JetCompletes s (.add die arr dst a b) die arr (jWord 1 dst a.toNat b.toNat 0 0) dst [a.toNat, b.toNat]
    (fun v => lift2 jAdd (nth v 0 {}) (nth v 1 {})) (fun _ => false) :=
  jetCompletes_of_jetArith_uncounted hc (jDst_jWord 1 dst a b 0 0) fun _ => rfl

theorem sub_completes : JetCompletes s (.sub die arr dst a b) die arr (jWord 2 dst a.toNat b.toNat 0 0) dst [a.toNat, b.toNat]
    (fun v => lift2 jSub (nth v 0 {}) (nth v 1 {})) (fun _ => false) :=
  jetCompletes_of_jetArith_uncounted hc (jDst_jWord 2 dst a b 0 0) fun _ => rfl

theorem mul_completes : JetCompletes s (.mul die arr dst a b) die arr (jWord 3 dst a.toNat b.toNat 0 0) dst [a.toNat, b.toNat]
    (fun v => lift2 jMul (nth v 0 {}) (nth v 1 {})) (fun _ => false) :=
  jetCompletes_of_jetArith_uncounted hc (jDst_jWord 3 dst a b 0 0) fun _ => rfl

theorem max_completes : JetCompletes s (.max die arr dst a b) die arr (jWord 4 dst a.toNat b.toNat 0 0) dst [a.toNat, b.toNat]
    (fun v => lift2 jMax (nth v 0 {}) (nth v 1 {})) (fun _ => false) :=
  jetCompletes_of_jetArith_uncounted hc (jDst_jWord 4 dst a b 0 0) fun _ => rfl

theorem abs_completes : JetCompletes s (.abs die arr dst a) die arr (jWord 5 dst a.toNat 0 0 0) dst [a.toNat]
    (fun v => lift1 jAbs (nth v 0 {})) (fun _ => false) :=
  jetCompletes_of_jetArith_uncounted hc (jDst_jWord 5 dst a 0 0 0) fun _ => rfl

theorem sign_completes : JetCompletes s (.sign die arr dst a) die arr (jWord 6 dst a.toNat 0 0 0) dst [a.toNat]
    (fun v => lift1 jSign (nth v 0 {})) (fun _ => false) :=
  jetCompletes_of_jetArith_uncounted hc (jDst_jWord 6 dst a 0 0 0) fun _ => rfl

theorem select_completes : JetCompletes s (.select die arr dst a b c) die arr (jWord 8 dst a.toNat b.toNat c.toNat 0) dst
    [a.toNat, b.toNat, c.toNat] (fun v => jSelect (nth v 0 {}) (nth v 1 {}) (nth v 2 {})) (fun _ => false) :=
  jetCompletes_of_jetArith_uncounted hc (jDst_jWord 8 dst a b c 0) fun _ => rfl

theorem scale_completes : JetCompletes s (.scale die arr dst a imm) die arr (jWord 9 dst a.toNat 0 0 imm.toNat) dst [a.toNat]
    (fun v => lift1 (jScale imm.toInt) (nth v 0 {})) (fun _ => false) :=
  jetCompletes_of_jetArith_uncounted hc (jDst_jWord 9 dst a 0 0 imm) fun _ => rfl

/-- RSQRT counts the lanes whose operand is not above zero (Table 08-1). -/
theorem rsqrt_completes : JetCompletes s (.rsqrt die arr dst a) die arr (jWord 7 dst a.toNat 0 0 0) dst [a.toNat]
    (fun v => lift1 jRsqrt (nth v 0 {})) (fun v => !v.poison && (v.isZero || v.neg)) := by
  refine jetCompletes_of_jetArith hc (jDst_jWord 7 dst a 0 0 0) fun hits r u b hstop hhead => ?_
  have hcount : s.countedLanes b r u [a.toNat] (fun v => !v.poison && (v.isZero || v.neg)) =
      ((s.lanes b r).filter fun x => match s.laneVal b r u a.toNat x.2 x.1 with
        | some v => !v.poison && (v.isZero || v.neg)
        | none => false).length := by
    unfold State.countedLanes
    congr 2
    funext x
    cases h : s.laneVal b r u a.toNat x.2 x.1 <;> simp [h]
  calc exec (.rsqrt die arr dst a hits) s = execRsqrt die arr dst a hits s := rfl
    _ = _ := by
      unfold execRsqrt State.clocked
      rw [hstop, hcount]
      simp only [hhead]
      rfl

end

end Sys2Proof.Machine
end

section
/-! PROOFS. NOP and LAYER_REDUCE of an update program in a state of canonical form (R211, R220, R223). -/
namespace Sys2Proof.Machine

/-! ### What failing lanes leave of an update -/

section
variable {α : Type} (s : State) (r : JetRun) (rank : Nat) (lanes : List α) (u : Upd)

/-- Failing lanes change the failure of an update alone. -/
theorem State.raisedBy_eq : s.raisedBy r rank lanes u = { u with fail := (s.raisedBy r rank lanes u).fail } := by
  unfold State.raisedBy State.raised
  split
  · rfl
  · split <;> rfl

theorem State.raisedBy_stats : (s.raisedBy r rank lanes u).stats = u.stats := by rw [State.raisedBy_eq]

theorem State.raisedBy_stored : (s.raisedBy r rank lanes u).stored = u.stored := by rw [State.raisedBy_eq]

theorem State.le_raisedBy_fail : u.fail ≤ (s.raisedBy r rank lanes u).fail := by
  unfold State.raisedBy State.raised
  split
  · exact le_rfl
  · split
    · exact le_rfl
    · exact le_max_left _ _

variable {s r lanes}

theorem State.rank_le_raisedBy_fail (hst : s.runSt r ≠ some 6) (h : lanes ≠ []) : rank ≤ (s.raisedBy r rank lanes u).fail := by
  rw [State.raisedBy, if_neg h, State.raised, if_neg hst]
  exact le_max_right _ _

end

theorem State.raisedBy_map {α β : Type} (s : State) (r : JetRun) (rank : Nat) (f : α → β) (lanes : List α) :
    s.raisedBy r rank (lanes.map f) = s.raisedBy r rank lanes := by
  simp [State.raisedBy]

theorem UpdChanges.raisedBy {α : Type} {r : JetRun} {f : Upd → Upd} {s t : State} (h : UpdChanges r f s t) (rank : Nat) (lanes : List α) :
    t.raisedBy r rank lanes = s.raisedBy r rank lanes := by
  rw [State.raisedBy, h.raised, State.raisedBy]

theorem State.runUpd_of_jetHead {s : State} {die arr word : Nat} {r : JetRun} {u : Upd} {b : List Byte}
    (h : s.jetHead die arr word = some (r, u, b)) : s.runUpd r = some u := by
  unfold State.jetHead at h
  split at h
  · exact absurd h (by simp)
  · split at h
    · next hupd =>
      split at h
      · cases h; exact hupd
      · exact absurd h (by simp)
    · exact absurd h (by simp)

section
variable {s : State} {die : Die} {arr : ArrayIx} {r : JetRun} {u : Upd} {b : List Byte} (hc : s.Canonical) (hstop : s.diesStopped = false)
include hc hstop

/-! ### NOP (R211) -/

theorem nop_goesOn (hhead : s.jetHead die arr 0 = some (r, u, b)) : ∃ t, exec (.nop die arr) s = .next t ∧ JetGoesOn s t die arr b r := by
  refine ⟨s.jetAdvance die arr b r, ?_, s.jetAdvance_goesOn die arr b r hc⟩
  calc exec (.nop die arr) s = execNop die arr s := rfl
    _ = _ := by
      unfold execNop State.clocked
      rw [hstop, hhead]
      rfl

end

/-! ### LAYER_REDUCE (R223) -/

/-- A lane's operand in a statistic: poison counts and adds nothing, a value beyond binary32 does not count. -/
def StatAcc.enterLane (kind : Nat) (e : Int) (acc : StatAcc) (v : Option JVal) : StatAcc :=
  match v with
  | some x => if x.poison then { acc with n := acc.n + 1 } else acc.enter kind e x
  | none => acc

theorem StatAcc.enterLane_slot (kind : Nat) (e : Int) (acc : StatAcc) (v : Option JVal) : (acc.enterLane kind e v).slot = acc.slot := by
  unfold StatAcc.enterLane
  split
  · split
    · rfl
    · unfold StatAcc.enter
      dsimp only
      split <;> rfl
  · rfl

theorem StatAcc.enterLane_n (kind : Nat) (e : Int) (acc : StatAcc) (v : Option JVal) :
    (acc.enterLane kind e v).n = acc.n + if v.isSome = true then 1 else 0 := by
  unfold StatAcc.enterLane
  split
  · split
    · rfl
    · unfold StatAcc.enter
      dsimp only
      split <;> rfl
  · rfl

theorem StatAcc.foldl_enterLane (kind : Nat) (e : Int) : ∀ (l : List (Option JVal)) (acc : StatAcc),
    (l.foldl (StatAcc.enterLane kind e) acc).slot = acc.slot ∧
      (l.foldl (StatAcc.enterLane kind e) acc).n = acc.n + l.countP Option.isSome
  | [], _ => ⟨rfl, rfl⟩
  | v :: l, acc => by
    obtain ⟨hslot, hn⟩ := StatAcc.foldl_enterLane kind e l (acc.enterLane kind e v)
    refine ⟨hslot.trans (acc.enterLane_slot kind e v), ?_⟩
    rw [List.foldl_cons, hn, StatAcc.enterLane_n, List.countP_cons, Nat.add_right_comm, Nat.add_assoc]

/-- The statistic of a slot as an update has it. -/
def Upd.stat (u : Upd) (slot : Nat) : StatAcc := (u.stats.find? fun t => t.slot == slot).getD { slot := slot }

theorem Upd.stat_slot (u : Upd) (slot : Nat) : (u.stat slot).slot = slot := by
  unfold Upd.stat
  cases h : u.stats.find? (fun t => t.slot == slot) with
  | none => rfl
  | some acc => exact eq_of_beq (List.find?_some (p := fun t : StatAcc => t.slot == slot) h)

theorem Upd.stat_n (u : Upd) (slot : Nat) : (u.stat slot).n = ((u.stats.find? fun t => t.slot == slot).map (·.n)).getD 0 := by
  unfold Upd.stat
  cases u.stats.find? fun t => t.slot == slot <;> rfl

/-- An update with the statistic of a slot in place of the one it had. -/
def Upd.withStat (slot : Nat) (acc : StatAcc) (u : Upd) : Upd := { u with stats := acc :: u.stats.filter fun t => t.slot != slot }

theorem Upd.mem_withStat (slot : Nat) (acc : StatAcc) (u : Upd) : acc ∈ (u.withStat slot acc).stats := List.mem_cons_self

/-- Whether an element of the weight is frozen. -/
def State.laneFrozen (s : State) (b : List Byte) (r : JetRun) (x : Nat × Nat) : Bool :=
  (s.part r.pt).frozen b (progW b r.prog) (unRow (s.view r.pt b (progW b r.prog) r.step).used x.2)

/-- Active lanes whose element is not frozen. -/
def State.liveLanes (s : State) (b : List Byte) (r : JetRun) : List (Nat × Nat) := (s.lanes b r).filter fun x => !s.laneFrozen b r x

/-- Lanes, of a list, whose value of an operand code is poisoned, and those whose value is beyond binary32. -/
def poisonedOf (val : Nat × Nat → Option JVal) (l : List (Nat × Nat)) : List (Nat × Nat) := l.filter fun x => ((val x).getD {}).poison
def beyondOf (val : Nat × Nat → Option JVal) (l : List (Nat × Nat)) : List (Nat × Nat) := l.filter fun x => (val x).isNone

/-- A word of LAYER_REDUCE (Table 08-6). -/
def reduceWord (tslot : Fin 4) (a : JOp) (rkind : Fin 3) (divn : Bool) (elsb : BitVec 8) : Nat :=
  at_ 27 0x0A + at_ 24 tslot.val + at_ 18 a.toNat + at_ 16 rkind.val + at_ 15 (b2n divn) + at_ 7 elsb.toNat

/-- The statistic that LAYER_REDUCE leaves. -/
def State.reducedStat (s : State) (b : List Byte) (r : JetRun) (u : Upd) (tslot : Fin 4) (a : JOp) (rkind : Fin 3) (elsb : BitVec 8) : StatAcc :=
  ((s.liveLanes b r).map fun x => s.laneVal b r u a.toNat x.2 x.1).foldl
    (StatAcc.enterLane rkind (elsb.toInt + ((u.trunc.find? fun t => t.1 == tslot.val).map (·.2)).getD 0)) (u.stat tslot)

theorem State.reducedStat_slot (s : State) (b : List Byte) (r : JetRun) (u : Upd) (tslot : Fin 4) (a : JOp) (rkind : Fin 3) (elsb : BitVec 8) :
    (s.reducedStat b r u tslot a rkind elsb).slot = tslot.val :=
  (StatAcc.foldl_enterLane _ _ _ _).1.trans (u.stat_slot tslot)

theorem State.reducedStat_n (s : State) (b : List Byte) (r : JetRun) (u : Upd) (tslot : Fin 4) (a : JOp) (rkind : Fin 3) (elsb : BitVec 8) :
    (s.reducedStat b r u tslot a rkind elsb).n = ((u.stats.find? fun z => z.slot == tslot.val).map (·.n)).getD 0 +
      ((s.liveLanes b r).filter fun x => (s.laneVal b r u a.toNat x.2 x.1).isSome).length := by
  rw [State.reducedStat, (StatAcc.foldl_enterLane _ _ _ _).2, u.stat_n, List.countP_map, List.countP_eq_length_filter]
  rfl

/-- What LAYER_REDUCE leaves before the unit goes on: the statistic, and the failures of its lanes. -/
def State.reduced (s : State) (ji : Nat) (b : List Byte) (r : JetRun) (u : Upd) (tslot : Fin 4) (a : JOp) (acc : StatAcc) : State :=
  ((s.modUpd r.pt r.step r.layerId (Upd.withStat tslot acc)).poisonLanes ji b r
    ((poisonedOf (fun x => s.laneVal b r u a.toNat x.2 x.1) (s.liveLanes b r)).map fun x => (x.1, 256 * r.vecs.headD 0 + x.1))).numericLanes
      ji b r u ((beyondOf (fun x => s.laneVal b r u a.toNat x.2 x.1) (s.liveLanes b r)).map (·.1))

section
variable {s : State} {die : Die} {arr : ArrayIx} {r : JetRun} {u : Upd} {b : List Byte} {tslot : Fin 4} {a : JOp} {rkind : Fin 3} {divn : Bool}
  {elsb : BitVec 8} (hstop : s.diesStopped = false) (hhead : s.jetHead die arr (reduceWord tslot a rkind divn elsb) = some (r, u, b))
include hstop hhead

theorem exec_layerReduce_idle (h : r.pass ≠ 1 ∨ (u.tvals.any fun t => t.1 == tslot.val) = true) :
    exec (.layerReduce die arr tslot a rkind divn elsb []) s = .next (s.jetAdvance die arr b r) := by
  calc exec (.layerReduce die arr tslot a rkind divn elsb []) s = execLayerReduce die arr tslot a rkind divn elsb [] s := rfl
    _ = _ := by
      unfold reduceWord at hhead
      unfold execLayerReduce State.clocked
      simp only [hstop, hhead, if_pos h]
      rfl

/-- LAYER_REDUCE outside the statistics pass, or with its T slot filled, moves the unit on (R223). -/
theorem layerReduce_goesOn (hc : s.Canonical) (h : r.pass ≠ 1 ∨ (u.tvals.any fun t => t.1 == tslot.val) = true) :
    ∃ t, exec (.layerReduce die arr tslot a rkind divn elsb []) s = .next t ∧ JetGoesOn s t die arr b r :=
  ⟨_, exec_layerReduce_idle hstop hhead h, s.jetAdvance_goesOn die arr b r hc⟩

theorem exec_layerReduce_statistics (hpass : r.pass = 1) (hslot : (u.tvals.any fun t => t.1 == tslot.val) = false) :
    exec (.layerReduce die arr tslot a rkind divn elsb []) s =
      .next ((s.reduced (arrIx die arr) b r u tslot a (s.reducedStat b r u tslot a rkind elsb)).jetAdvance die arr b r) := by
  have hpoison : ((((s.liveLanes b r).map fun x => (x.1, s.laneVal b r u a.toNat x.2 x.1)).filter fun v => (v.2.getD {}).poison).map
        fun v => (v.1, 256 * r.vecs.headD 0 + v.1)) =
      (poisonedOf (fun x => s.laneVal b r u a.toNat x.2 x.1) (s.liveLanes b r)).map fun x => (x.1, 256 * r.vecs.headD 0 + x.1) := by
    rw [List.filter_map, List.map_map]
    rfl
  have hbeyond : ((((s.liveLanes b r).map fun x => (x.1, s.laneVal b r u a.toNat x.2 x.1)).filter fun v => v.2.isNone).map (·.1)) =
      (beyondOf (fun x => s.laneVal b r u a.toNat x.2 x.1) (s.liveLanes b r)).map (·.1) := by
    rw [List.filter_map, List.map_map]
    rfl
  have hstat : s.reducedStat b r u tslot a rkind elsb =
      ((s.liveLanes b r).map fun x => (x.1, s.laneVal b r u a.toNat x.2 x.1)).foldl
        (fun acc v => acc.enterLane rkind (elsb.toInt + ((u.trunc.find? fun t => t.1 == tslot.val).map (·.2)).getD 0) v.2) (u.stat tslot) := by
    rw [State.reducedStat, List.foldl_map, List.foldl_map]
  have hidle : ¬(r.pass ≠ 1 ∨ (u.tvals.any fun t => t.1 == tslot.val) = true) := by simp [hpass, hslot]
  calc exec (.layerReduce die arr tslot a rkind divn elsb []) s = execLayerReduce die arr tslot a rkind divn elsb [] s := rfl
    _ = _ := by
      unfold reduceWord at hhead
      unfold execLayerReduce State.clocked State.reduced
      rw [← hpoison, ← hbeyond, hstat]
      simp only [hstop, hhead, if_neg hidle]
      rfl

end

theorem poisonedOf_ne_nil {val : Nat × Nat → Option JVal} {l : List (Nat × Nat)} (h : ∃ x ∈ l, ((val x).getD {}).poison = true) :
    poisonedOf val l ≠ [] := by
  obtain ⟨x, hx, hp⟩ := h
  exact List.ne_nil_of_mem (List.mem_filter.mpr ⟨hx, hp⟩)

theorem beyondOf_ne_nil {val : Nat × Nat → Option JVal} {l : List (Nat × Nat)} (h : ∃ x ∈ l, val x = none) : beyondOf val l ≠ [] := by
  obtain ⟨x, hx, hn⟩ := h
  exact List.ne_nil_of_mem (List.mem_filter.mpr ⟨hx, by rw [hn]; rfl⟩)

/-- Lanes whose values are all there and not poisoned do not fail. -/
theorem failing_nil {val : Nat × Nat → Option JVal} {l : List (Nat × Nat)} (h : ∀ x ∈ l, ∃ v, val x = some v ∧ v.poison = false) :
    poisonedOf val l = [] ∧ beyondOf val l = [] := by
  constructor <;> refine List.filter_eq_nil_iff.mpr fun x hx => ?_ <;> obtain ⟨v, hv, hp⟩ := h x hx <;> simp [hv, hp]

/-- What LAYER_REDUCE does to the update of its run. -/
def State.reduceEffect (s : State) (b : List Byte) (r : JetRun) (u : Upd) (tslot : Fin 4) (a : JOp) (acc : StatAcc) : Upd → Upd :=
  s.raisedBy r 4 (beyondOf (fun x => s.laneVal b r u a.toNat x.2 x.1) (s.liveLanes b r)) ∘
    s.raisedBy r 2 (poisonedOf (fun x => s.laneVal b r u a.toNat x.2 x.1) (s.liveLanes b r)) ∘ Upd.withStat tslot acc

theorem State.reduced_changes {s : State} (hc : s.Canonical) (die : Die) (arr : ArrayIx) (b : List Byte) (r : JetRun) (u : Upd) (tslot : Fin 4)
    (a : JOp) (acc : StatAcc) :
    UpdChanges r (s.reduceEffect b r u tslot a acc) s (s.reduced (arrIx die arr) b r u tslot a acc) := by
  have hstat := UpdChanges.modUpd (r := r) (f := Upd.withStat tslot acc) hc fun _ hu => hu
  have hpoison := hstat.trans (State.poisonLanes_changes die arr b r hstat.canon
    ((poisonedOf (fun x => s.laneVal b r u a.toNat x.2 x.1) (s.liveLanes b r)).map fun x => (x.1, 256 * r.vecs.headD 0 + x.1)))
  have hnumeric := hpoison.trans (State.numericLanes_changes die arr b r hpoison.canon u
    ((beyondOf (fun x => s.laneVal b r u a.toNat x.2 x.1) (s.liveLanes b r)).map (·.1)))
  rw [hpoison.raisedBy, hstat.raisedBy, State.raisedBy_map, State.raisedBy_map] at hnumeric
  exact hnumeric

/-- LAYER_REDUCE in the statistics pass, its T slot empty: every active lane that is not frozen and has its operand counts; a lane that fails raises
the update's failure; where none does, the update alone changes (R220, R223). -/
theorem layerReduce_counts {s : State} (hc : s.Canonical) {die : Die} {arr : ArrayIx} {b : List Byte} {r : JetRun} {u : Upd} {tslot : Fin 4}
    {a : JOp} {rkind : Fin 3} {divn : Bool} {elsb : BitVec 8} (hstop : s.diesStopped = false)
    (hhead : s.jetHead die arr (reduceWord tslot a rkind divn elsb) = some (r, u, b)) (hpass : r.pass = 1)
    (hslot : (u.tvals.any fun t => t.1 == tslot.val) = false) :
    let val := fun (x : Nat × Nat) => s.laneVal b r u a.toNat x.2 x.1
    let on := s.liveLanes b r
    ∃ s0 t u' acc, exec (.layerReduce die arr tslot a rkind divn elsb []) s = .next t ∧ JetGoesOn s0 t die arr b r ∧
      s0.runUpd r = some u' ∧ acc ∈ u'.stats ∧ acc.slot = tslot.val ∧
      acc.n = ((u.stats.find? fun z => z.slot == tslot.val).map (·.n)).getD 0 + (on.filter fun x => (val x).isSome).length ∧
      (s.runSt r ≠ some 6 → (∃ x ∈ on, ((val x).getD {}).poison = true) → 2 ≤ u'.fail) ∧
      (s.runSt r ≠ some 6 → (∃ x ∈ on, val x = none) → 4 ≤ u'.fail) ∧
      ((∀ x ∈ on, ∃ v, val x = some v ∧ v.poison = false) → u'.fail = u.fail ∧
        { s0 with comp := { s0.comp with parts := s.comp.parts } } = s) := by
  intro val on
  have hexec := exec_layerReduce_statistics hstop hhead hpass hslot
  have haccSlot := s.reducedStat_slot b r u tslot a rkind elsb
  have haccN := s.reducedStat_n b r u tslot a rkind elsb
  generalize s.reducedStat b r u tslot a rkind elsb = acc at hexec haccSlot haccN
  have hchanges := State.reduced_changes hc die arr b r u tslot a acc
  have hupd : (s.reduced (arrIx die arr) b r u tslot a acc).runUpd r =
      some (s.raisedBy r 4 (beyondOf val on) (s.raisedBy r 2 (poisonedOf val on) (u.withStat tslot acc))) := by
    rw [hchanges.runUpd, State.runUpd_of_jetHead hhead, Option.map_some, State.reduceEffect, Function.comp_apply, Function.comp_apply]
  refine ⟨s.reduced (arrIx die arr) b r u tslot a acc, _, _, acc, hexec, State.jetAdvance_goesOn _ die arr b r hchanges.canon, hupd, ?_,
    haccSlot, haccN, ?_, ?_, ?_⟩
  · rw [State.raisedBy_stats, State.raisedBy_stats]
    exact Upd.mem_withStat tslot acc u
  · intro hst hx
    have hlanes : poisonedOf val on ≠ [] := poisonedOf_ne_nil (val := val) hx
    calc 2 ≤ (s.raisedBy r 2 (poisonedOf val on) (u.withStat tslot acc)).fail := State.rank_le_raisedBy_fail 2 _ hst hlanes
      _ ≤ _ := s.le_raisedBy_fail r 4 _ _
  · intro hst hx
    have hlanes : beyondOf val on ≠ [] := beyondOf_ne_nil (val := val) hx
    exact State.rank_le_raisedBy_fail 4 _ hst hlanes
  · intro hgood
    obtain ⟨hpoison, hbeyond⟩ := failing_nil hgood
    refine ⟨by rw [hpoison, hbeyond]; rfl, ?_⟩
    unfold State.reduced
    rw [hpoison, hbeyond]
    rfl

end Sys2Proof.Machine
end

section
/-! PROOFS. STORE of an update program in a state of canonical form (R220, R221, R225, R226). -/
namespace Sys2Proof.Machine

/-! ### STORE, stage by stage (R225, R226) -/

/-- Lanes with their elements and their values of an operand code. -/
def State.laneVals (s : State) (b : List Byte) (r : JetRun) (u : Upd) (code : Nat) (l : List (Nat × Nat)) : List (Nat × Nat × Option JVal) :=
  l.map fun x => (x.1, x.2, s.laneVal b r u code x.2 x.1)

/-- The failures of values: those beyond binary32 first, then the poisoned ones (R220, R225). -/
def State.valuesFail (s : State) (ji : Nat) (b : List Byte) (r : JetRun) (u : Upd) (vs : List (Nat × Nat × Option JVal)) : State :=
  (s.numericLanes ji b r u ((vs.filter fun p => p.2.2.isNone).map (·.1))).poisonLanes ji b r
    ((vs.filter fun p => (p.2.2.getD {}).poison).map fun p => (p.1, p.2.1))

/-- Lanes that would store to a frozen element fail under FROZEN_STRICT, and are counted in an apply pass without it (R226). -/
def State.frozenFail (s : State) (die arr : Nat) (b : List Byte) (r : JetRun) (frz : List (Nat × Nat × Option JVal)) : State :=
  if jobStrict b then forEach frz (fun p s => s.failLane (arrIx die arr) r 1 3 p.1) s
  else if r.pass = 3 ∧ !frz.isEmpty then s.bump (Reg.jetFrozenst die arr) frz.length else s

/-- An update that keeps further values for version t + 1 (R225). -/
def Upd.keep (target round : Nat) (vs : List (Nat × Nat × Option JVal)) (u : Upd) : Upd :=
  { u with stored := u.stored ++ vs.filterMap fun p => p.2.2.map fun v => (target, p.2.1, v, round) }

/-- A word of STORE (Table 08-6). -/
def storeWord (target : Fin 3) (a pred : JOp) (round : BitVec 2) : Nat :=
  at_ 27 0x0B + at_ 24 target.val + at_ 18 a.toNat + at_ 12 pred.toNat + at_ 10 round.toNat

/-- Whether a predicate lets its lane store. -/
def storesOn (v : Option JVal) : Bool :=
  match v with
  | some v => !v.poison && !v.isZero
  | none => false

/-- Active lanes whose predicate is a nonzero value. -/
def State.onLanes (s : State) (b : List Byte) (r : JetRun) (u : Upd) (pred : JOp) : List (Nat × Nat) :=
  (s.lanes b r).filter fun x => storesOn (s.laneVal b r u pred.toNat x.2 x.1)

/-- Whether a pass keeps values of its own (R221). -/
def State.passStores (s : State) (b : List Byte) (r : JetRun) : Prop := r.pass ≠ 1 ∧ ¬(r.pass = 3 ∧ (s.part r.pt).ring b (progW b r.prog) = 1)


section
variable (s : State) (die : Die) (arr : ArrayIx) (b : List Byte) (r : JetRun) (u : Upd) (target : Fin 3) (a pred : JOp) (round : BitVec 2)

/-- The state once predicates and frozen elements have been looked at. -/
def State.storeJudged : State :=
  (s.valuesFail (arrIx die arr) b r u (s.laneVals b r u pred.toNat (s.lanes b r))).frozenFail die arr b r
    (s.laneVals b r u pred.toNat ((s.onLanes b r u pred).filter (s.laneFrozen b r)))

/-- The values that a STORE keeps. -/
def State.liveVals : List (Nat × Nat × Option JVal) :=
  s.laneVals b r u a.toNat ((s.onLanes b r u pred).filter fun x => !s.laneFrozen b r x)

/-- The state once a pass that stores has kept them. -/
def State.storeKept : State :=
  let t := s.storeJudged die arr b r u pred
  (t.valuesFail (arrIx die arr) b r ((t.runUpd r).getD u) (s.liveVals b r u a pred)).modUpd r.pt r.step r.layerId
    (Upd.keep target round.toNat (s.liveVals b r u a pred))

variable {s die arr b r u target a pred round}

theorem State.filter_laneVals (code : Nat) (l : List (Nat × Nat)) (p : Nat × Nat × Option JVal → Bool) (q : Nat × Nat → Bool)
    (h : ∀ x ∈ l, p (x.1, x.2, s.laneVal b r u code x.2 x.1) = q x) :
    (s.laneVals b r u code l).filter p = s.laneVals b r u code (l.filter q) := by
  rw [State.laneVals, List.filter_map, State.laneVals]
  exact congrArg (List.map _) (List.filter_congr h)

/-- STORE as the model runs it, on a unit that is at it. -/
theorem exec_store_stages (hstop : s.diesStopped = false) (hhead : s.jetHead die arr (storeWord target a pred round) = some (r, u, b)) :
    exec (.store die arr target a pred round []) s =
      let ps := s.laneVals b r u pred.toNat (s.lanes b r)
      let s1 := s.valuesFail (arrIx die arr) b r u ps
      let on := ps.filter fun p => storesOn p.2.2
      let frz := on.filter fun p => (s1.part r.pt).frozen b (progW b r.prog) (unRow (s.view r.pt b (progW b r.prog) r.step).used p.2.1)
      let s2 := s1.frozenFail die arr b r frz
      let vals := (on.filter fun p => !(frz.any fun f => f.1 == p.1)).map fun p => (p.1, p.2.1, s2.laneVal b r u a.toNat p.2.1 p.1)
      let s3 := if r.pass = 1 ∨ (r.pass = 3 ∧ (s2.part r.pt).ring b (progW b r.prog) = 1) then s2 else
        (s2.valuesFail (arrIx die arr) b r ((s2.runUpd r).getD u) vals).modUpd r.pt r.step r.layerId (Upd.keep target round.toNat vals)
      .next (s3.jetAdvance die arr b r) := by
  unfold storeWord at hhead
  calc exec (.store die arr target a pred round []) s = execStore die arr target a pred round [] s := rfl
    _ = _ := by
      unfold execStore State.clocked
      rw [hstop]
      dsimp only
      rw [hhead]
      rfl

/-- What failing values do to the update of a run. -/
def State.valuesEffect (s : State) (r : JetRun) (vs : List (Nat × Nat × Option JVal)) : Upd → Upd :=
  s.raisedBy r 2 (vs.filter fun p => (p.2.2.getD {}).poison) ∘ s.raisedBy r 4 (vs.filter fun p => p.2.2.isNone)

theorem State.valuesFail_changes (hc : s.Canonical) (vs : List (Nat × Nat × Option JVal)) :
    UpdChanges r (s.valuesEffect r vs) s (s.valuesFail (arrIx die arr) b r u vs) := by
  have hnumeric := State.numericLanes_changes die arr b r hc u ((vs.filter fun p => p.2.2.isNone).map (·.1))
  have hboth := hnumeric.trans (State.poisonLanes_changes die arr b r hnumeric.canon
    ((vs.filter fun p => (p.2.2.getD {}).poison).map fun p => (p.1, p.2.1)))
  rwa [hnumeric.raisedBy, State.raisedBy_map, State.raisedBy_map] at hboth

theorem regHome_jetFrozenst_ne (die : Die) (arr : ArrayIx) : regHome (Reg.jetFrozenst die arr) ≠ regHome Reg.globalLicstat :=
  regHome_ne_licstat (by unfold Reg.jetFrozenst; omega)

/-- What stores to frozen elements do to the update of a run. -/
def State.frozenEffect (s : State) (b : List Byte) (r : JetRun) (frz : List (Nat × Nat × Option JVal)) : Upd → Upd :=
  if jobStrict b then s.raisedBy r 3 frz else id

theorem State.frozenFail_changes (hc : s.Canonical) (frz : List (Nat × Nat × Option JVal)) :
    UpdChanges r (s.frozenEffect b r frz) s (s.frozenFail die arr b r frz) := by
  unfold State.frozenEffect State.frozenFail
  split
  · exact State.forEach_changes _ (fun p t ht => t.failLane_changes die arr r ht 1 3 p.1) frz hc
  · split
    · exact .setReg hc _ (regHome_jetFrozenst_ne die arr)
    · exact .refl hc

theorem UpdChanges.frozen {f : Upd → Upd} {t : State} (h : UpdChanges r f s t) (pt : Nat) : (t.part pt).frozen = (s.part pt).frozen := by
  rw [← t.frozen_sources, h.sources, s.frozen_sources]

theorem UpdChanges.ring {f : Upd → Upd} {t : State} (h : UpdChanges r f s t) (pt : Nat) : (t.part pt).ring = (s.part pt).ring := by
  rw [← t.ring_sources, h.sources, s.ring_sources]

theorem State.mem_lanes_of_onLanes {x : Nat × Nat} (h : x ∈ s.onLanes b r u pred) : x ∈ s.lanes b r := by
  unfold State.onLanes at h
  exact List.mem_of_mem_filter h

/-- Among the lanes that would store, those of a place are frozen where the lane of the place is. -/
theorem State.any_frozen_laneVals (code : Nat) {x : Nat × Nat} (hx : x ∈ s.onLanes b r u pred) :
    ((s.laneVals b r u code ((s.onLanes b r u pred).filter (s.laneFrozen b r))).any fun f => f.1 == x.1) = s.laneFrozen b r x := by
  rw [Bool.eq_iff_iff, State.laneVals, List.any_map, List.any_eq_true]
  constructor
  · rintro ⟨y, hy, hyx⟩
    obtain ⟨hmem, hfrozen⟩ := List.mem_filter.mp hy
    have hsame : y = x := State.lanes_ext (State.mem_lanes_of_onLanes hx) (State.mem_lanes_of_onLanes hmem) (eq_of_beq hyx)
    rwa [← hsame]
  · exact fun hfrozen => ⟨x, List.mem_filter.mpr ⟨hx, hfrozen⟩, beq_self_eq_true x.1⟩

/-- STORE of a unit that is at it: what it keeps, in a pass that stores and in one that does not. -/
theorem exec_store (hc : s.Canonical) (hstop : s.diesStopped = false)
    (hhead : s.jetHead die arr (storeWord target a pred round) = some (r, u, b)) :
    ∃ s0, exec (.store die arr target a pred round []) s = .next (s0.jetAdvance die arr b r) ∧
      (s.passStores b r → s0 = s.storeKept die arr b r u target a pred round) ∧ (¬ s.passStores b r → s0 = s.storeJudged die arr b r u pred) := by
  have hpreds := s.valuesFail_changes (die := die) (arr := arr) (b := b) (r := r) (u := u) hc (s.laneVals b r u pred.toNat (s.lanes b r))
  have hon : (s.laneVals b r u pred.toNat (s.lanes b r)).filter (fun p => storesOn p.2.2) =
      s.laneVals b r u pred.toNat (s.onLanes b r u pred) := s.filter_laneVals _ _ _ _ fun _ _ => rfl
  have hfrz : (s.laneVals b r u pred.toNat (s.onLanes b r u pred)).filter (fun p => (s.part r.pt).frozen b (progW b r.prog)
        (unRow (s.view r.pt b (progW b r.prog) r.step).used p.2.1)) =
      s.laneVals b r u pred.toNat ((s.onLanes b r u pred).filter (s.laneFrozen b r)) := s.filter_laneVals _ _ _ _ fun _ _ => rfl
  have hlive : (s.laneVals b r u pred.toNat (s.onLanes b r u pred)).filter (fun p =>
        !((s.laneVals b r u pred.toNat ((s.onLanes b r u pred).filter (s.laneFrozen b r))).any fun f => f.1 == p.1)) =
      s.laneVals b r u pred.toNat ((s.onLanes b r u pred).filter fun x => !s.laneFrozen b r x) := by
    refine s.filter_laneVals _ _ _ _ fun x hx => congrArg (!·) ?_
    exact s.any_frozen_laneVals pred.toNat hx
  have hstages := exec_store_stages hstop hhead
  dsimp only at hstages
  rw [hpreds.frozen, hon, hfrz, hlive] at hstages
  have hjudged : UpdChanges r _ s (s.storeJudged die arr b r u pred) := hpreds.trans (State.frozenFail_changes hpreds.canon _)
  have hvals : (s.laneVals b r u pred.toNat ((s.onLanes b r u pred).filter fun x => !s.laneFrozen b r x)).map
        (fun p => (p.1, p.2.1, s.laneVal b r u a.toNat p.2.1 p.1)) = s.liveVals b r u a pred := by
    rw [State.laneVals, List.map_map, State.liveVals, State.laneVals]
    rfl
  rw [← State.storeJudged, hjudged.ring, hjudged.laneVal, hvals] at hstages
  by_cases h : r.pass = 1 ∨ (r.pass = 3 ∧ (s.part r.pt).ring b (progW b r.prog) = 1)
  · rw [if_pos h] at hstages
    exact ⟨_, hstages, fun hstores => absurd h (not_or.mpr hstores), fun _ => rfl⟩
  · rw [if_neg h] at hstages
    exact ⟨_, hstages, fun _ => rfl, fun hidle => absurd (not_or.mp h) hidle⟩

end

/-! ### What a STORE leaves of its update (R220, R225, R226) -/

section
variable {s : State} {b : List Byte} {r : JetRun} {u : Upd} {vs frz : List (Nat × Nat × Option JVal)}

theorem State.valuesEffect_stored : (s.valuesEffect r vs u).stored = u.stored := by
  rw [State.valuesEffect, Function.comp_apply, State.raisedBy_stored, State.raisedBy_stored]

theorem State.le_valuesEffect_fail : u.fail ≤ (s.valuesEffect r vs u).fail :=
  (s.le_raisedBy_fail r 4 _ u).trans (s.le_raisedBy_fail r 2 _ _)

theorem State.two_le_valuesEffect_fail (hst : s.runSt r ≠ some 6) (h : ∃ p ∈ vs, (p.2.2.getD {}).poison = true) :
    2 ≤ (s.valuesEffect r vs u).fail := by
  obtain ⟨p, hp, hpoison⟩ := h
  exact State.rank_le_raisedBy_fail 2 _ hst (List.ne_nil_of_mem (List.mem_filter.mpr ⟨hp, hpoison⟩))

theorem State.four_le_valuesEffect_fail (hst : s.runSt r ≠ some 6) (h : ∃ p ∈ vs, p.2.2 = none) : 4 ≤ (s.valuesEffect r vs u).fail := by
  obtain ⟨p, hp, hnone⟩ := h
  have hlanes : (vs.filter fun p => p.2.2.isNone) ≠ [] := List.ne_nil_of_mem (List.mem_filter.mpr ⟨hp, by rw [hnone]; rfl⟩)
  calc 4 ≤ (s.raisedBy r 4 (vs.filter fun p => p.2.2.isNone) u).fail := State.rank_le_raisedBy_fail 4 _ hst hlanes
    _ ≤ _ := s.le_raisedBy_fail r 2 _ _

theorem State.frozenEffect_stored : (s.frozenEffect b r frz u).stored = u.stored := by
  unfold State.frozenEffect
  split
  · exact State.raisedBy_stored _ _ _ _ _
  · rfl

theorem State.le_frozenEffect_fail : u.fail ≤ (s.frozenEffect b r frz u).fail := by
  unfold State.frozenEffect
  split
  · exact s.le_raisedBy_fail r 3 _ u
  · exact le_rfl

theorem State.three_le_frozenEffect_fail (hst : s.runSt r ≠ some 6) (hstrict : jobStrict b = true) (h : frz ≠ []) :
    3 ≤ (s.frozenEffect b r frz u).fail := by
  rw [State.frozenEffect, if_pos hstrict]
  exact State.rank_le_raisedBy_fail 3 _ hst h

/-! ### A STORE none of whose lanes fails -/

/-- Values that are all there and not poisoned. -/
def ValuesGood (vs : List (Nat × Nat × Option JVal)) : Prop := ∀ p ∈ vs, ∃ v, p.2.2 = some v ∧ v.poison = false

theorem ValuesGood.none_beyond (h : ValuesGood vs) : (vs.filter fun p => p.2.2.isNone) = [] :=
  List.filter_eq_nil_iff.mpr fun p hp => by obtain ⟨v, hv, -⟩ := h p hp; simp [hv]

theorem ValuesGood.none_poisoned (h : ValuesGood vs) : (vs.filter fun p => (p.2.2.getD {}).poison) = [] :=
  List.filter_eq_nil_iff.mpr fun p hp => by obtain ⟨v, hv, hpoison⟩ := h p hp; simp [hv, hpoison]

theorem State.valuesFail_good (h : ValuesGood vs) (die : Die) (arr : ArrayIx) : s.valuesFail (arrIx die arr) b r u vs = s := by
  rw [State.valuesFail, h.none_beyond, h.none_poisoned]
  rfl

theorem State.valuesEffect_good (h : ValuesGood vs) : s.valuesEffect r vs u = u := by
  rw [State.valuesEffect, h.none_beyond, h.none_poisoned]
  rfl

/-- Where no lane fails for a frozen element, the lanes that would store to one are counted in an apply pass without FROZEN_STRICT, and that is all. -/
theorem State.frozenFail_quiet (hc : s.Canonical) (die : Die) (arr : ArrayIx) (h : jobStrict b = false ∨ frz = []) :
    { s.frozenFail die arr b r frz with regs := s.regs } = s ∧ SameRegsBut [Reg.jetFrozenst die arr] s (s.frozenFail die arr b r frz) ∧
      (s.frozenFail die arr b r frz).reg (Reg.jetFrozenst die arr) =
        min (s.reg (Reg.jetFrozenst die arr) + if r.pass = 3 ∧ jobStrict b = false then frz.length else 0) 0xFFFFFFFF := by
  have hword : s.reg (Reg.jetFrozenst die arr) < 2 ^ 32 := (s.getReg _).isLt
  by_cases hcount : jobStrict b = false ∧ r.pass = 3 ∧ frz ≠ []
  · obtain ⟨hstrict, hpass, hfrz⟩ := hcount
    have hbump : s.frozenFail die arr b r frz = s.bump (Reg.jetFrozenst die arr) frz.length := by
      simp [State.frozenFail, hstrict, hpass, hfrz]
    rw [hbump, if_pos ⟨hpass, hstrict⟩]
    exact ⟨rfl, s.sameRegsBut_setReg _ _ hc, s.reg_bump_same _ _ hc⟩
  · have hnone : (if r.pass = 3 ∧ jobStrict b = false then frz.length else 0) = 0 := by
      split
      · next hboth =>
        have hfrz : frz = [] := by
          by_contra hne
          exact hcount ⟨hboth.2, hboth.1, hne⟩
        rw [hfrz]
        rfl
      · rfl
    have hsame : s.frozenFail die arr b r frz = s := by
      unfold State.frozenFail
      split
      · next hstrict =>
        rw [h.resolve_left (by simp [hstrict])]
        rfl
      · next hstrict =>
        refine if_neg fun hboth => hcount ⟨by simpa using hstrict, hboth.1, ?_⟩
        simpa using hboth.2
    rw [hsame, hnone]
    exact ⟨rfl, fun _ _ => rfl, by omega⟩

end

/-! ### STORE (R225, R226) -/

theorem UpdChanges.valuesEffect {r : JetRun} {f : Upd → Upd} {s t : State} (h : UpdChanges r f s t) (vs : List (Nat × Nat × Option JVal)) :
    t.valuesEffect r vs = s.valuesEffect r vs := by
  rw [State.valuesEffect, h.raisedBy, h.raisedBy, State.valuesEffect]

theorem UpdChanges.frozenEffect {r : JetRun} {f : Upd → Upd} {s t : State} (h : UpdChanges r f s t) (b : List Byte)
    (frz : List (Nat × Nat × Option JVal)) : t.frozenEffect b r frz = s.frozenEffect b r frz := by
  rw [State.frozenEffect, h.raisedBy, State.frozenEffect]

section
variable {s : State} {die : Die} {arr : ArrayIx} {b : List Byte} {r : JetRun} {u : Upd} {target : Fin 3} {a pred : JOp} {round : BitVec 2}

/-- Lanes whose store would go to a frozen element, with their predicates. -/
def State.frozenVals (s : State) (b : List Byte) (r : JetRun) (u : Upd) (pred : JOp) : List (Nat × Nat × Option JVal) :=
  s.laneVals b r u pred.toNat ((s.onLanes b r u pred).filter (s.laneFrozen b r))

/-- The update of the run once predicates and frozen elements have been looked at. -/
def State.judgedUpd (s : State) (b : List Byte) (r : JetRun) (u : Upd) (pred : JOp) : Upd :=
  s.frozenEffect b r (s.frozenVals b r u pred) (s.valuesEffect r (s.laneVals b r u pred.toNat (s.lanes b r)) u)

/-- The update once a pass that stores has kept its values. -/
def State.keptUpd (s : State) (b : List Byte) (r : JetRun) (u : Upd) (target : Fin 3) (a pred : JOp) (round : BitVec 2) : Upd :=
  (s.valuesEffect r (s.liveVals b r u a pred) (s.judgedUpd b r u pred)).keep target round.toNat (s.liveVals b r u a pred)

theorem Upd.keep_fail (target round : Nat) (vs : List (Nat × Nat × Option JVal)) (u : Upd) : (u.keep target round vs).fail = u.fail := rfl

theorem State.storeJudged_changes (hc : s.Canonical) (die : Die) (arr : ArrayIx) (b : List Byte) (r : JetRun) (u : Upd) (pred : JOp) :
    UpdChanges r (s.frozenEffect b r (s.frozenVals b r u pred) ∘ s.valuesEffect r (s.laneVals b r u pred.toNat (s.lanes b r))) s
      (s.storeJudged die arr b r u pred) := by
  have hpreds := s.valuesFail_changes (die := die) (arr := arr) (b := b) (r := r) (u := u) hc (s.laneVals b r u pred.toNat (s.lanes b r))
  have hboth := hpreds.trans (State.frozenFail_changes (die := die) (arr := arr) (b := b) hpreds.canon (s.frozenVals b r u pred))
  rwa [hpreds.frozenEffect] at hboth

theorem State.storeJudged_runUpd (hc : s.Canonical) (hupd : s.runUpd r = some u) :
    (s.storeJudged die arr b r u pred).runUpd r = some (s.judgedUpd b r u pred) := by
  rw [(s.storeJudged_changes hc die arr b r u pred).runUpd, hupd, Option.map_some, Function.comp_apply, State.judgedUpd]

theorem State.storeKept_changes (hc : s.Canonical) (hupd : s.runUpd r = some u) :
    (s.storeKept die arr b r u target a pred round).Canonical ∧
      (s.storeKept die arr b r u target a pred round).runUpd r = some (s.keptUpd b r u target a pred round) := by
  have hjudged := s.storeJudged_changes hc die arr b r u pred
  have hvals := hjudged.trans (State.valuesFail_changes (die := die) (arr := arr) (b := b)
    (u := ((s.storeJudged die arr b r u pred).runUpd r).getD u) hjudged.canon (s.liveVals b r u a pred))
  have hkept := hvals.trans (.modUpd (f := Upd.keep target round.toNat (s.liveVals b r u a pred)) hvals.canon fun _ hu => hu)
  refine ⟨hkept.canon, hkept.runUpd.trans ?_⟩
  rw [hupd, Option.map_some, hjudged.valuesEffect, State.keptUpd, State.judgedUpd]
  simp only [Function.comp_apply]

/-- A value of a lane is among the values of the lanes. -/
theorem State.mem_laneVals {code : Nat} {l : List (Nat × Nat)} {x : Nat × Nat} (h : x ∈ l) :
    (x.1, x.2, s.laneVal b r u code x.2 x.1) ∈ s.laneVals b r u code l := by
  unfold State.laneVals
  exact List.mem_map.mpr ⟨x, h, rfl⟩

theorem State.judgedUpd_stored : (s.judgedUpd b r u pred).stored = u.stored := by
  rw [State.judgedUpd, State.frozenEffect_stored, State.valuesEffect_stored]

/-- The failures that the predicates and the frozen elements of a STORE raise (R220, R225, R226). -/
theorem State.judgedUpd_fail (hst : s.runSt r ≠ some 6) :
    ((∃ x ∈ s.lanes b r, ((s.laneVal b r u pred.toNat x.2 x.1).getD {}).poison = true) → 2 ≤ (s.judgedUpd b r u pred).fail) ∧
    ((∃ x ∈ s.lanes b r, s.laneVal b r u pred.toNat x.2 x.1 = none) → 4 ≤ (s.judgedUpd b r u pred).fail) ∧
    (jobStrict b = true → (∃ x ∈ s.onLanes b r u pred, s.laneFrozen b r x = true) → 3 ≤ (s.judgedUpd b r u pred).fail) := by
  refine ⟨?_, ?_, ?_⟩
  · rintro ⟨x, hx, hpoison⟩
    exact (State.two_le_valuesEffect_fail hst ⟨_, State.mem_laneVals hx, hpoison⟩).trans State.le_frozenEffect_fail
  · rintro ⟨x, hx, hnone⟩
    exact (State.four_le_valuesEffect_fail hst ⟨_, State.mem_laneVals hx, hnone⟩).trans State.le_frozenEffect_fail
  · rintro hstrict ⟨x, hx, hfrozen⟩
    exact State.three_le_frozenEffect_fail hst hstrict (List.ne_nil_of_mem (State.mem_laneVals (List.mem_filter.mpr ⟨hx, hfrozen⟩)))

theorem State.keptUpd_stored : (s.keptUpd b r u target a pred round).stored = u.stored ++
    ((s.onLanes b r u pred).filter fun x => !s.laneFrozen b r x).filterMap fun x =>
      (s.laneVal b r u a.toNat x.2 x.1).map fun v => (target.val, x.2, v, round.toNat) := by
  have hvals : (s.valuesEffect r (s.liveVals b r u a pred) (s.judgedUpd b r u pred)).stored = u.stored := by
    rw [State.valuesEffect_stored, State.judgedUpd_stored]
  rw [State.keptUpd, Upd.keep, hvals, State.liveVals, State.laneVals, List.filterMap_map]
  rfl

theorem State.judgedUpd_fail_le_keptUpd : (s.judgedUpd b r u pred).fail ≤ (s.keptUpd b r u target a pred round).fail := by
  rw [State.keptUpd, Upd.keep_fail]
  exact State.le_valuesEffect_fail

/-- A poisoned value that a STORE would keep fails its update (R220, R225). -/
theorem State.two_le_keptUpd_fail (hst : s.runSt r ≠ some 6) (h : ∃ x ∈ s.onLanes b r u pred, s.laneFrozen b r x = false ∧
    ((s.laneVal b r u a.toNat x.2 x.1).getD {}).poison = true) : 2 ≤ (s.keptUpd b r u target a pred round).fail := by
  obtain ⟨x, hx, hlive, hpoison⟩ := h
  have hmem : x ∈ (s.onLanes b r u pred).filter fun x => !s.laneFrozen b r x := List.mem_filter.mpr ⟨hx, by rw [hlive]; rfl⟩
  rw [State.keptUpd, Upd.keep_fail]
  exact State.two_le_valuesEffect_fail hst ⟨_, State.mem_laneVals hmem, hpoison⟩

/-- A STORE none of whose lanes fails: the failure of its update, and what it leaves of the state (R226). -/
structure StoreQuiet (s : State) (die : Die) (arr : ArrayIx) (b : List Byte) (r : JetRun) (u : Upd) (pred : JOp) (s0 : State) (u' : Upd) : Prop where
  fail : u'.fail = u.fail
  rest : { s0 with comp := { s0.comp with parts := s.comp.parts }, regs := s.regs } = s
  regs : SameRegsBut [Reg.jetFrozenst die arr] s s0
  frozenst : s0.reg (Reg.jetFrozenst die arr) =
    min (s.reg (Reg.jetFrozenst die arr) + if r.pass = 3 ∧ jobStrict b = false then ((s.onLanes b r u pred).filter (s.laneFrozen b r)).length else 0)
      0xFFFFFFFF

theorem State.valuesGood_laneVals {code : Nat} {l : List (Nat × Nat)}
    (h : ∀ x ∈ l, ∃ v, s.laneVal b r u code x.2 x.1 = some v ∧ v.poison = false) : ValuesGood (s.laneVals b r u code l) := by
  intro p hp
  unfold State.laneVals at hp
  obtain ⟨x, hx, rfl⟩ := List.mem_map.mp hp
  exact h x hx

theorem State.frozenVals_length : (s.frozenVals b r u pred).length = ((s.onLanes b r u pred).filter (s.laneFrozen b r)).length := by
  rw [State.frozenVals, State.laneVals, List.length_map]

theorem State.frozenVals_nil (h : ∀ x ∈ s.onLanes b r u pred, s.laneFrozen b r x = false) : s.frozenVals b r u pred = [] := by
  have hnone : (s.onLanes b r u pred).filter (s.laneFrozen b r) = [] := List.filter_eq_nil_iff.mpr fun x hx => by simp [h x hx]
  rw [State.frozenVals, hnone]
  rfl

section
variable (hc : s.Canonical) (hpreds : ∀ x ∈ s.lanes b r, ∃ v, s.laneVal b r u pred.toNat x.2 x.1 = some v ∧ v.poison = false)
  (hfrozen : jobStrict b = false ∨ ∀ x ∈ s.onLanes b r u pred, s.laneFrozen b r x = false)
include hc hpreds hfrozen

theorem State.storeJudged_quiet : StoreQuiet s die arr b r u pred (s.storeJudged die arr b r u pred) (s.judgedUpd b r u pred) := by
  have hgood := State.valuesGood_laneVals hpreds
  have hfrz : jobStrict b = false ∨ s.frozenVals b r u pred = [] := hfrozen.imp_right State.frozenVals_nil
  have hstate : s.storeJudged die arr b r u pred = s.frozenFail die arr b r (s.frozenVals b r u pred) := by
    rw [State.storeJudged, State.valuesFail_good hgood, State.frozenVals]
  obtain ⟨hrest, hregs, hcount⟩ := s.frozenFail_quiet (r := r) hc die arr hfrz
  refine ⟨?_, ?_, hstate ▸ hregs, ?_⟩
  · rw [State.judgedUpd, State.valuesEffect_good hgood, State.frozenEffect]
    rcases hfrz with hstrict | hnone
    · simp [hstrict]
    · rw [hnone, State.raisedBy, if_pos rfl]
      split <;> rfl
  · rw [hstate]
    exact congrArg (fun t : State => { t with comp := { t.comp with parts := s.comp.parts } }) hrest
  · rw [hstate, hcount, State.frozenVals_length]

theorem State.storeKept_quiet (hvals : ∀ x ∈ s.lanes b r, ∃ v, s.laneVal b r u a.toNat x.2 x.1 = some v ∧ v.poison = false) :
    StoreQuiet s die arr b r u pred (s.storeKept die arr b r u target a pred round) (s.keptUpd b r u target a pred round) := by
  obtain ⟨hfail, hrest, hregs, hcount⟩ := State.storeJudged_quiet (die := die) (arr := arr) hc hpreds hfrozen
  have hgood : ValuesGood (s.liveVals b r u a pred) :=
    State.valuesGood_laneVals fun x hx => hvals x (State.mem_lanes_of_onLanes (List.mem_of_mem_filter hx))
  have hstate : s.storeKept die arr b r u target a pred round =
      (s.storeJudged die arr b r u pred).modUpd r.pt r.step r.layerId (Upd.keep target round.toNat (s.liveVals b r u a pred)) := by
    rw [State.storeKept, State.valuesFail_good hgood]
  refine ⟨?_, ?_, ?_, ?_⟩
  · rw [State.keptUpd, Upd.keep_fail, State.valuesEffect_good hgood, hfail]
  · rw [hstate]
    exact hrest
  · rw [hstate]
    exact hregs
  · rw [hstate]
    exact hcount

end

/-- STORE in a state of canonical form: what it keeps, which failures it raises, and what it leaves where no lane fails. -/
theorem store_keeps (hc : s.Canonical) (hstop : s.diesStopped = false)
    (hhead : s.jetHead die arr (storeWord target a pred round) = some (r, u, b)) :
    let val := fun (x : Nat × Nat) => s.laneVal b r u a.toNat x.2 x.1
    let pv := fun (x : Nat × Nat) => s.laneVal b r u pred.toNat x.2 x.1
    let on := s.onLanes b r u pred
    ∃ s0 t u', exec (.store die arr target a pred round []) s = .next t ∧ JetGoesOn s0 t die arr b r ∧ s0.runUpd r = some u' ∧
      (s.passStores b r → u'.stored = u.stored ++ (on.filter fun x => !s.laneFrozen b r x).filterMap fun x =>
        (val x).map fun v => (target.val, x.2, v, round.toNat)) ∧
      (¬ s.passStores b r → u'.stored = u.stored) ∧
      (s.runSt r ≠ some 6 → (∃ x ∈ s.lanes b r, ((pv x).getD {}).poison = true) → 2 ≤ u'.fail) ∧
      (s.runSt r ≠ some 6 → (∃ x ∈ s.lanes b r, pv x = none) → 4 ≤ u'.fail) ∧
      (s.runSt r ≠ some 6 → s.passStores b r → (∃ x ∈ on, s.laneFrozen b r x = false ∧ ((val x).getD {}).poison = true) → 2 ≤ u'.fail) ∧
      (s.runSt r ≠ some 6 → jobStrict b = true → (∃ x ∈ on, s.laneFrozen b r x = true) → 3 ≤ u'.fail) ∧
      ((∀ x ∈ s.lanes b r, ∃ v w, val x = some v ∧ v.poison = false ∧ pv x = some w ∧ w.poison = false) →
        jobStrict b = false ∨ (∀ x ∈ on, s.laneFrozen b r x = false) → StoreQuiet s die arr b r u pred s0 u') := by
  intro val pv on
  obtain ⟨s0, hexec, hkept, hjudged⟩ := exec_store hc hstop hhead
  have hupd := State.runUpd_of_jetHead hhead
  by_cases hstores : s.passStores b r
  · obtain ⟨hcanon, hrun⟩ := State.storeKept_changes (die := die) (arr := arr) (target := target) (a := a) (pred := pred) (round := round) hc hupd
    rw [← hkept hstores] at hcanon hrun
    refine ⟨s0, _, _, hexec, s0.jetAdvance_goesOn die arr b r hcanon, hrun, fun _ => State.keptUpd_stored, fun h => absurd hstores h, ?_, ?_, ?_, ?_, ?_⟩
    · exact fun hst hx => ((State.judgedUpd_fail hst).1 hx).trans State.judgedUpd_fail_le_keptUpd
    · exact fun hst hx => ((State.judgedUpd_fail hst).2.1 hx).trans State.judgedUpd_fail_le_keptUpd
    · exact fun hst _ hx => State.two_le_keptUpd_fail hst hx
    · exact fun hst hstrict hx => ((State.judgedUpd_fail hst).2.2 hstrict hx).trans State.judgedUpd_fail_le_keptUpd
    · intro hgood hfrozen
      rw [hkept hstores]
      refine State.storeKept_quiet hc (fun x hx => ?_) hfrozen fun x hx => ?_
      · obtain ⟨v, w, -, -, hw, hpoison⟩ := hgood x hx
        exact ⟨w, hw, hpoison⟩
      · obtain ⟨v, w, hv, hpoison, -, -⟩ := hgood x hx
        exact ⟨v, hv, hpoison⟩
  · have hchanges := s.storeJudged_changes hc die arr b r u pred
    have hrun := State.storeJudged_runUpd (die := die) (arr := arr) (b := b) (pred := pred) hc hupd
    rw [← hjudged hstores] at hchanges hrun
    refine ⟨s0, _, _, hexec, s0.jetAdvance_goesOn die arr b r hchanges.canon, hrun, fun h => absurd h hstores, fun _ => State.judgedUpd_stored, ?_, ?_,
      fun _ h => absurd h hstores, ?_, ?_⟩
    · exact fun hst hx => (State.judgedUpd_fail hst).1 hx
    · exact fun hst hx => (State.judgedUpd_fail hst).2.1 hx
    · exact fun hst hstrict hx => (State.judgedUpd_fail hst).2.2 hstrict hx
    · intro hgood hfrozen
      rw [hjudged hstores]
      refine State.storeJudged_quiet hc (fun x hx => ?_) hfrozen
      obtain ⟨v, w, -, -, hw, hpoison⟩ := hgood x hx
      exact ⟨w, hw, hpoison⟩

end

end Sys2Proof.Machine
end

section
/-! PROOFS. A Jet unit on a register file that is not in canonical form (R209, R220). -/
namespace Sys2Proof.Machine

/-- A BED of one update program of one word. -/
def oneWordBed (word : Nat) : List Byte :=
  packLE [(6, 0), (2, 1)] ++ List.replicate 56 0#8 ++ packLE [(2, 0x0208), (2, 192), (4, 1), (8, 80)] ++
    packLE [(4, 1)] ++ List.replicate 60 0#8 ++ packLE [(4, word)] ++ List.replicate 124 0#8

/-- The run of the first of two vectors of an apply pass, at the program's only word. -/
def firstOfTwo : JetRun := { pt := 0, step := 1, prog := 0, layerId := 5, pass := 3, vecs := [0, 1], pc := 0 }

/-- The update that the run belongs to. -/
def appliedUpd : Upd := { layerId := 5, prog := 0, pass := 3 }

/-- Array 0's Jet unit at that word. The register file lists JET_VECS, whose low word is about to wrap, before JET_ERRSTAT, whose offset is lower:
it is not in canonical form, and JET_ERRSTAT reads zero. -/
def unsortedRegs (word : Nat) : State :=
  { (State.reset.modPart 0 fun p => { p with
      bed := some (oneWordBed word), steps := [{ num := 1, st := 3, upds := [appliedUpd] }] }).modJet 0 fun j =>
        { j with run := some firstOfTwo } with
    regs := [(Reg.jetVecsLo 0 0, 0xFFFFFFFF#32), (Reg.jetErrstat 0 0, 1#32)] }

/-- A register after an outcome. -/
def regAfter (o : Host.Outcome State Fault Refusal) (off : Nat) : Option Word :=
  match o with
  | .next t => some (t.getReg off)
  | .fault _ | .refused _ => none

/-- Where the vector's end shows JET_ERRSTAT, the registers are not those that JetGoesOn leaves. -/
theorem not_jetGoesOn_unsortedRegs {word : Nat} {t : State} {regs : Vector (List JVal) 8}
    (hlast : ((passPcs (progWords (recOf (oneWordBed word) 0x0208 0)) 3 (jobStrict (oneWordBed word))).find? fun q => decide (0 < q)) = none)
    (ht : t.getReg (Reg.jetErrstat 0 0) = 1#32) :
    ¬ JetGoesOn (unsortedRegs word) t 0 0 (oneWordBed word) { firstOfTwo with regs := regs } := by
  rintro ⟨-, hvector, -⟩
  obtain ⟨-, -, hframe⟩ := hvector hlast 0 1 [] rfl
  have hkept : t.getReg (Reg.jetErrstat 0 0) = 0#32 := hframe (Reg.jetErrstat 0 0) (by decide)
  rw [ht] at hkept
  exact absurd hkept (by decide)

/-- ABS of +0.0 into V0. -/
def absWord : Nat := jWord 5 0 0x20 0 0 0

theorem unsortedRegs_abs :
    (unsortedRegs absWord).jetHead 0 0 absWord = some (firstOfTwo, appliedUpd, oneWordBed absWord) ∧
    regAfter (exec (.abs 0 0 0 0x20#6 []) (unsortedRegs absWord)) (Reg.jetErrstat 0 0) = some 1#32 := by decide +kernel

theorem unsortedRegs_nop :
    (unsortedRegs 0).jetHead 0 0 0 = some (firstOfTwo, appliedUpd, oneWordBed 0) ∧
    regAfter (exec (.nop 0 0) (unsortedRegs 0)) (Reg.jetErrstat 0 0) = some 1#32 := by decide +kernel

/-- Refutes O21: JetGoesOn asks for the frame of the register file in every state, where the model gives it in a state of canonical form. The low
word of JET_VECS wraps to its reset value, its entry leaves the list, and JET_ERRSTAT, listed behind it out of order, is seen. In a state of canonical
form all that O21 says holds: `jetCompletes_of_jetArith` with the nine rows `add_completes` to `rsqrt_completes`, `State.numericLanes_errstat` and
`State.numericLanes_failOf`. -/
theorem not_jetArithmetic : ¬ Obligations.JetArithmetic := by
  rintro ⟨hrows, -⟩
  obtain ⟨-, -, -, -, habs, -⟩ := hrows (unsortedRegs absWord) 0 0 0 0x20#6 0 0 0
  obtain ⟨hhead, hreg⟩ := unsortedRegs_abs
  obtain ⟨s0, t, r', hexec, -, hs0, hr', -, -, hgoes, -⟩ := habs firstOfTwo appliedUpd (oneWordBed absWord) [] rfl hhead
  have hsame : s0 = unsortedRegs absWord := (hs0 (by decide +kernel)).trans (if_pos (by decide +kernel))
  have ht : t.getReg (Reg.jetErrstat 0 0) = 1#32 := by rw [hexec] at hreg; exact Option.some.inj hreg
  have hgo := hgoes rfl
  rw [hsame, hr'] at hgo
  exact not_jetGoesOn_unsortedRegs (by decide +kernel) ht hgo

/-- Refutes O22: a NOP at the end of a vector counts it as an arithmetic row does, on the register file of `not_jetArithmetic`. In a state of canonical
form all that O22 says holds: `nop_goesOn`, `layerReduce_goesOn`, `layerReduce_counts` and `store_keeps`. -/
theorem not_jetReduceStore : ¬ Obligations.JetReduceStore := by
  intro h
  obtain ⟨hhead, hreg⟩ := unsortedRegs_nop
  obtain ⟨hnop, -⟩ := h (unsortedRegs 0) 0 0 firstOfTwo appliedUpd (oneWordBed 0) rfl
  obtain ⟨t, hexec, hgo⟩ := hnop hhead
  have ht : t.getReg (Reg.jetErrstat 0 0) = 1#32 := by rw [hexec] at hreg; exact Option.some.inj hreg
  exact not_jetGoesOn_unsortedRegs (by decide +kernel) ht hgo

end Sys2Proof.Machine
end

section
/-! PROOFS. What the Weir's operations leave of the pledges and of the numbering (R237, R245 to R251). -/
namespace Sys2Proof.Machine

/-! ### Pledges -/

/-- What the Weir stands by until a descriptor completes: its partition, its admission number, the descriptor and its promise (R237, R248). -/
structure Pledge where
  pt : Nat
  admno : Nat
  desc : List Byte
  promise : Nat

/-- The pledge of an admitted descriptor. -/
def Adm.pledge (a : Adm) : Pledge := ⟨a.pt, a.admno, a.desc, a.promise⟩

/-- Pledges of the admitted, incomplete descriptors. -/
def State.pledges (s : State) : List Pledge := s.comp.weir.adms.map Adm.pledge

theorem State.mem_pledges {s : State} {p : Pledge} : p ∈ s.pledges ↔ ∃ a ∈ s.comp.weir.adms, a.pledge = p := List.mem_map

/-- The Weir's numbering stands, no pledge is new, and all but the gone ones stand. -/
structure PledgesKept (gone : Pledge → Prop) (s t : State) : Prop where
  numbers : t.comp.weir.nextAdm = s.comp.weir.nextAdm
  old : ∀ p ∈ t.pledges, p ∈ s.pledges
  kept : ∀ p ∈ s.pledges, ¬ gone p → p ∈ t.pledges

section
variable {gone : Pledge → Prop} {s t u : State}

/-- The same numbering and the same pledges. -/
theorem PledgesKept.of_eq (hnumbers : t.comp.weir.nextAdm = s.comp.weir.nextAdm) (hpledges : t.pledges = s.pledges) : PledgesKept gone s t :=
  ⟨hnumbers, fun _ hp => hpledges ▸ hp, fun _ hp _ => hpledges ▸ hp⟩

theorem PledgesKept.of_comp (h : t.comp = s.comp) : PledgesKept gone s t :=
  .of_eq (congrArg (fun c : Comp => c.weir.nextAdm) h) (congrArg (fun c : Comp => c.weir.adms.map Adm.pledge) h)

theorem PledgesKept.refl (s : State) : PledgesKept gone s s := .of_comp rfl

theorem PledgesKept.trans (a : PledgesKept gone s t) (b : PledgesKept gone t u) : PledgesKept gone s u where
  numbers := b.numbers.trans a.numbers
  old p hp := a.old p (b.old p hp)
  kept p hp hg := b.kept p (a.kept p hp hg) hg

theorem PledgesKept.ite {c : Prop} [Decidable c] (h : PledgesKept gone s t) : PledgesKept gone s (if c then t else s) := by
  split
  · exact h
  · exact .refl s

theorem PledgesKept.forEach {α : Type} (l : List α) (f : α → State → State) (s : State) (h : ∀ x s, PledgesKept gone s (f x s)) :
    PledgesKept gone s (forEach l f s) :=
  forEach_keeps (P := PledgesKept gone s) f l s (.refl s) fun x _ t ht => ht.trans (h x t)

theorem PledgesKept.nextNumber_eq (h : PledgesKept gone s t) (pt : Nat) : nextNumber t pt = nextNumber s pt := by
  rw [nextNumber, nextNumber, h.numbers]

/-! ### Charges and completion (R246 to R251) -/

theorem State.pledgesKept_modAdm (s : State) (pt admno : Nat) {f : Adm → Adm} (hf : ∀ a, (f a).pledge = a.pledge) :
    PledgesKept gone s (s.modAdm pt admno f) := by
  refine .of_eq rfl ?_
  show List.map _ (List.map _ _) = _
  rw [List.map_map]
  refine List.map_congr_left fun a _ => ?_
  show (if _ then f a else a).pledge = a.pledge
  split
  · exact hf a
  · rfl

theorem State.pledgesKept_chargeAdm (s : State) (pt admno cause detail : Nat) : PledgesKept gone s (s.chargeAdm pt admno cause detail) :=
  s.pledgesKept_modAdm pt admno fun a => by split <;> rfl

theorem State.pledgesKept_chargeWaiting (s : State) (x : Adm) : PledgesKept gone s (s.chargeWaiting x) :=
  .forEach _ _ s fun _ t => t.pledgesKept_chargeAdm _ _ _ _

theorem State.pledgesKept_modWeir (s : State) {f : Weir → Weir} (hnumbers : (f s.comp.weir).nextAdm = s.comp.weir.nextAdm)
    (hold : ∀ a ∈ (f s.comp.weir).adms, a ∈ s.comp.weir.adms)
    (hkept : ∀ a ∈ s.comp.weir.adms, ¬ gone a.pledge → a ∈ (f s.comp.weir).adms) : PledgesKept gone s (s.modWeir f) where
  numbers := hnumbers
  old p hp := by
    obtain ⟨a, ha, rfl⟩ := State.mem_pledges.mp hp
    exact List.mem_map_of_mem (hold a ha)
  kept p hp hg := by
    obtain ⟨a, ha, rfl⟩ := State.mem_pledges.mp hp
    exact List.mem_map_of_mem (hkept a ha hg)

/-- The pledges that go are those under the number that completes. -/
theorem State.pledgesKept_completeOne (s : State) {pt admno : Nat} (status : Nat) (hgone : ∀ p : Pledge, p.pt = pt → p.admno = admno → gone p) :
    PledgesKept gone s (s.completeOne pt admno status) := by
  unfold State.completeOne
  split
  · exact .refl s
  · dsimp only
    refine (((PledgesKept.ite (s.pledgesKept_chargeWaiting _)).trans (State.pledgesKept_modWeir _ rfl ?old ?kept)).trans (.ite ?late)).trans <|
      (PledgesKept.of_comp (State.posts_weirEntry _ _ _ _ _).comp).trans <| (PledgesKept.ite (.of_comp (State.posts_fire _ _).comp)).trans <|
      (PledgesKept.ite (.of_comp (State.posts_fire _ _).comp)).trans (.of_comp (State.posts_pumpFetches _ _).comp)
    case old => exact fun _ ha => (List.mem_filter.mp ha).1
    case kept =>
      refine fun a ha hg => List.mem_filter.mpr ⟨ha, ?_⟩
      simp only [Bool.not_eq_true', Bool.and_eq_false_imp, beq_iff_eq, beq_eq_false_iff_ne]
      exact fun hpt hno => hg (hgone a.pledge hpt hno)
    case late =>
      exact ((PledgesKept.of_comp (State.bump_comp _ _ _)).trans (.ite (.of_comp (State.reports_record _ _).comp))).trans
        (.of_comp (State.posts_ptEvent _ _ _ _).comp)

/-- The pledges that go are those under the numbers of FENCE descriptors. -/
theorem State.pledgesKept_settleFences (k : Nat) (s : State) {pt : Nat}
    (hgone : ∀ q ∈ s.pledges, q.pt = pt → dOp q.desc = 0x0A → ∀ p : Pledge, p.pt = pt → p.admno = q.admno → gone p) :
    PledgesKept gone s (s.settleFences k pt) := by
  induction k generalizing s with
  | zero => exact .refl s
  | succ k ih =>
    unfold State.settleFences
    split
    · exact .refl s
    · next a ha =>
      obtain ⟨hmem, hpt⟩ := List.mem_filter.mp (List.mem_of_find?_eq_some ha)
      have hop := List.find?_some ha
      simp only [Bool.and_eq_true, beq_iff_eq] at hop hpt
      have hone := s.pledgesKept_completeOne 0 (hgone a.pledge (List.mem_map_of_mem hmem) hpt hop.1.1)
      exact hone.trans (ih _ fun q hq => hgone q (hone.old q hq))

/-- The numbering stands, whichever pledges go. -/
theorem State.pledgesKept_complete (s : State) (pt admno status : Nat) (hgone : ∀ p, gone p) :
    PledgesKept gone s (s.complete pt admno status) := by
  unfold State.complete
  split
  · exact .refl s
  · split
    · exact s.pledgesKept_modAdm _ _ fun _ => rfl
    · exact (s.pledgesKept_completeOne _ fun p _ _ => hgone p).trans (State.pledgesKept_settleFences _ _ fun _ _ _ _ p _ _ => hgone p)

/-! ### Heads that are taken and refused (R236, R245) -/

theorem State.pledgesKept_takeHead (s : State) (pt sq : Nat) : PledgesKept gone s (s.takeHead pt sq) := .of_eq rfl rfl

theorem State.besideWeir_takeHead (s : State) (pt sq : Nat) : BesideWeir s (s.takeHead pt sq) := s.besideWeir_modWeir _

theorem State.besideWeir_put (s : State) (off v : Nat) : BesideWeir s (s.put off v) := ⟨rfl, rfl, rfl, rfl, s.canonical_put off v⟩

theorem State.besideWeir_refuse (s : State) (pt sq : Nat) (d : List Byte) (code quote : Nat) : BesideWeir s (s.refuse pt sq d code quote) :=
  ((s.besideWeir_bump _ _).trans (State.besideWeir_put _ _ _)).trans <|
    (State.posts_weirEntry _ _ _ _ _).besideWeir.trans (State.posts_pumpFetches _ _).besideWeir

/-- What refusing a head keeps, refusing the heads of no opcode keeps. -/
theorem State.skipUndefined_keeps {P : State → Prop} (hP : ∀ s pt sq d code, P s → P ((s.takeHead pt sq).refuse pt sq d code 0)) (k : Nat)
    {s : State} (h : P s) : P (State.skipUndefined k s) := by
  induction k generalizing s with
  | zero => exact h
  | succ k ih =>
    unfold State.skipUndefined
    split
    · exact h
    · split
      · exact h
      · split
        · exact h
        · exact ih (hP _ _ _ _ _ h)

theorem State.besideWeir_skipUndefined (k : Nat) (s : State) : BesideWeir s (s.skipUndefined k) :=
  State.skipUndefined_keeps (P := BesideWeir s)
    (fun u _ _ _ _ h => h.trans ((u.besideWeir_takeHead _ _).trans (State.besideWeir_refuse _ _ _ _ _ _))) k (.refl s)

theorem State.pledgesKept_skipUndefined (k : Nat) (s : State) : PledgesKept gone s (s.skipUndefined k) :=
  State.skipUndefined_keeps (P := PledgesKept gone s)
    (fun u _ _ _ _ h => h.trans ((u.pledgesKept_takeHead _ _).trans (.of_comp (State.refuse_comp _ _ _ _ _ _)))) k (.refl s)

/-! ### Admission (R237, R243) -/

theorem State.pledgesKept_chargeSeed (s : State) (a : Adm) : PledgesKept gone s (s.chargeSeed a) := by
  unfold State.chargeSeed
  split
  · exact .refl s
  · split
    · dsimp only
      split
      · exact .ite (s.pledgesKept_chargeAdm _ _ _ _)
      · exact .refl s
    · exact .refl s

/-- The Weir with a descriptor under the partition's next number. -/
def State.enrol (s : State) (a : Adm) (resv : List Resv) : State :=
  s.modWeir fun w =>
    { w with
      adms := w.adms ++ [{ a with admno := nextNumber s a.pt }]
      resv := (w.resv.filter fun r => decide (s.quantum ≤ r.to_)) ++ resv.map fun r => { r with admno := nextNumber s a.pt }
      nextAdm := (a.pt, (nextNumber s a.pt + 1) % 2 ^ 32) :: w.nextAdm.filter fun x => x.1 != a.pt }

theorem State.enrol_pledges (s : State) (a : Adm) (resv : List Resv) :
    (s.enrol a resv).pledges = s.pledges ++ [⟨a.pt, nextNumber s a.pt, a.desc, a.promise⟩] := by
  show List.map _ (_ ++ _) = _
  rw [List.map_append]
  rfl

theorem State.enrol_nextNumber (s : State) (a : Adm) (resv : List Resv) :
    nextNumber (s.enrol a resv) a.pt = (nextNumber s a.pt + 1) % 2 ^ 32 := by
  show ((List.find? _ (_ :: _)).map _).getD 1 = _
  rw [List.find?_cons_of_pos (p := fun x : Nat × Nat => x.1 == a.pt) (beq_self_eq_true a.pt)]
  rfl

/-- Beside the enrolment, admission counts, posts an entry and charges SEED_LATE. -/
theorem State.pledgesKept_admitOne (s : State) (a : Adm) (resv : List Resv) : PledgesKept gone (s.enrol a resv) (s.admitOne a resv) := by
  unfold State.admitOne
  extract_lets n a1 now s1 s2 s3 s4
  refine PledgesKept.trans (t := s4) (.of_comp ?_) (s4.pledgesKept_chargeSeed a1)
  unfold s4
  split
  · exact (State.posts_weirEntry _ _ _ _ _).comp
  · rfl

end

end Sys2Proof.Machine
end

section
/-! PROOFS. What a decision on the head of a queue does, and the ten commands that decide one (R236 to R245). -/
namespace Sys2Proof.Machine

/-! ### Whether a decision is made (R236) -/

section
variable {s : State} {pt : Pt} {sq : QueueIx} {op : Nat} {d : List Byte} {v : State → List Byte → Verdict} {after : List Byte → State → Nat → State}

theorem State.decideHead_turn (hturn : s.turn = some (pt.val, sq.val)) (hhead : s.headOf pt sq = some d) (hop : dOp d = op) :
    s.decideHead pt sq op v after =
      let u := (s.takeHead pt sq).settleVerdict pt sq d (v (s.takeHead pt sq) d) (after d)
      u.skipUndefined u.comp.weir.heads.length := by
  simp only [State.decideHead, hturn, hhead, hop, ne_eq, not_true_eq_false, or_self, if_false]

theorem State.decideHead_otherOp (hhead : s.headOf pt sq = some d) (hop : dOp d ≠ op) : s.decideHead pt sq op v after = s := by
  unfold State.decideHead
  rw [hhead]
  split
  · next h => exact if_pos (.inr (.inr (Option.some.inj h ▸ hop)))
  · rfl

theorem State.decideHead_otherTurn (hturn : s.turn ≠ some (pt.val, sq.val)) : s.decideHead pt sq op v after = s := by
  unfold State.decideHead
  split
  · next p q _ hpq _ =>
    refine if_pos ?_
    by_contra hsame
    simp only [ne_eq, not_or, not_not] at hsame
    exact hturn (by rw [hpq, hsame.1, hsame.2.1])
  · rfl

/-! ### A refusal, where no other head waits (R237, R245) -/

theorem State.headOf_only (h : s.comp.weir.heads = [(pt.val, sq.val, d)]) : s.headOf pt sq = some d := by simp [State.headOf, h]

theorem State.takeHead_only (h : s.comp.weir.heads = [(pt.val, sq.val, d)]) : (s.takeHead pt sq).comp.weir.heads = [] := by
  show s.comp.weir.heads.eraseIdx _ = []
  simp [h, List.findIdx?_cons]

theorem State.refuse_heads_only (h : s.comp.weir.heads = [(pt.val, sq.val, d)]) (c : Nat) :
    ((s.takeHead pt sq).refuse pt sq d c 0).comp.weir.heads = [] := by rw [State.refuse_comp, State.takeHead_only h]

theorem State.settleVerdict_refuse (s : State) (pt sq : Nat) (d : List Byte) (c : Nat) (after : State → Nat → State) :
    s.settleVerdict pt sq d (.refuse c) after = s.refuse pt sq d c 0 := rfl

theorem State.decideHead_refused {c : Nat} (hturn : s.turn = some (pt.val, sq.val)) (honly : s.comp.weir.heads = [(pt.val, sq.val, d)])
    (hop : dOp d = op) (hv : v (s.takeHead pt sq) d = .refuse c) :
    s.decideHead pt sq op v after = (s.takeHead pt sq).refuse pt sq d c 0 := by
  simp only [State.decideHead_turn hturn (State.headOf_only honly) hop, hv, State.settleVerdict_refuse, State.refuse_heads_only honly,
    List.length_nil, State.skipUndefined]

/-- A refused head leaves its queue with the job state, the admitted descriptors, their numbering, the calendar and memory as they were. -/
theorem State.refuse_frame (pt sq : Nat) (d : List Byte) (c : Nat) :
    let t := (s.takeHead pt sq).refuse pt sq d c 0
    t.comp.weir.nextAdm = s.comp.weir.nextAdm ∧ t.comp.weir.adms = s.comp.weir.adms ∧ t.comp.weir.resv = s.comp.weir.resv ∧
      t.comp.parts = s.comp.parts ∧ SameMemory s t := by
  have hcomp := (s.takeHead pt sq).refuse_comp pt sq d c 0
  have hmem := (s.takeHead pt sq).besideWeir_refuse pt sq d c 0
  refine ⟨?_, ?_, ?_, ?_, fun a => congrArg (Memory.read · a) hmem.mem, hmem.poison⟩ <;> rw [hcomp] <;> rfl

end

/-! ### The commands (Table 09-2) -/

/-- The command decides the head of a queue, when its opcode is the one given, by these checks and with this effect of the opcode. -/
def Decides (c : Instr) (pt : Pt) (sq : QueueIx) (op : Nat) (v : State → List Byte → Verdict) (after : List Byte → State → Nat → State) : Prop :=
  ∀ s, exec c s = .next (s.decideHead pt sq op v after)

/-- A STEP in flight: it is the partition's last step (R244). -/
def State.stepInFlight (pt : Nat) (d : List Byte) (s : State) (_ : Nat) : State :=
  (s.put64 (Reg.weirPtStepLo pt) (dStep d)).modPart pt fun p =>
    { p with
      steps := p.steps ++ [{ num := dStep d }]
      rerun := none
      lastStep := some (dStep d)
      first := if p.first.isNone then some (dStep d) else p.first }

/-- A SCALAR_SET offers its record to the partition and completes (R215, R216). -/
def State.scalarTaken (pt : Nat) (hostRecord d : List Byte) (s : State) (n : Nat) : State :=
  let rec_ := if (dAddr d 0x20).2 = 2 then slice hostRecord 0 64 else s.readSpace pt (dAddr d 0x20).2 (dAddr d 0x20).1 64
  let taken := (s.part pt).takeSet rec_
  let s := s.modPart pt fun _ => taken.2
  (if taken.1 = 0 then s.endScalarWait pt (u48 rec_ 0) else s).complete pt n taken.1

/-- A SNAPSHOT for a peer opens its flow (R313). -/
def State.snapshotFlow (pt : Nat) (_ : List Byte) (s : State) (n : Nat) : State :=
  match s.adm pt n with
  | some a => if bit (u32 a.src 4) 0 then (s.openFlow pt (s.peerOf pt (u64 a.src 0x10 / 2 ^ 48)) 1 n).2 else s
  | none => s

/-- What the other opcodes do at admission: nothing more. -/
def State.noMore (_ : List Byte) (s : State) (_ : Nat) : State := s

section
variable (pt : Pt) (sq : QueueIx)

theorem decides_step : Decides (.step pt sq) pt sq 1 (fun s d => s.stepVerdict pt sq d) (State.stepInFlight pt) := fun _ => rfl
theorem decides_seed : Decides (.seed pt sq) pt sq 2 (fun s d => s.seedVerdict pt sq d) State.noMore := fun _ => rfl
theorem decides_copy : Decides (.copy pt sq) pt sq 3 (fun s d => s.moveVerdict pt sq d) State.noMore := fun _ => rfl
theorem decides_gather : Decides (.gather pt sq) pt sq 4 (fun s d => s.moveVerdict pt sq d) State.noMore := fun _ => rfl
theorem decides_scatter : Decides (.scatter pt sq) pt sq 5 (fun s d => s.moveVerdict pt sq d) State.noMore := fun _ => rfl
theorem decides_scalarSet (host : List Byte) :
    Decides (.scalarSet pt sq host) pt sq 6 (fun s d => s.scalarVerdict pt sq d) (State.scalarTaken pt host) := fun _ => rfl
theorem decides_snapshot : Decides (.snapshot pt sq) pt sq 7 (fun s d => s.snapVerdict pt sq d) (State.snapshotFlow pt) := fun _ => rfl
theorem decides_dmaIn : Decides (.dmaIn pt sq) pt sq 8 (fun s d => s.dmaVerdict pt sq d) State.noMore := fun _ => rfl
theorem decides_dmaOut : Decides (.dmaOut pt sq) pt sq 9 (fun s d => s.dmaVerdict pt sq d) State.noMore := fun _ => rfl
theorem decides_fence : Decides (.fence pt sq) pt sq 0x0A (fun s d => s.fenceVerdict pt sq d) State.noMore := fun _ => rfl

end

section
variable {c : Instr} {s : State} {pt : Pt} {sq : QueueIx} {op : Nat} {d : List Byte} {v : State → List Byte → Verdict}
  {after : List Byte → State → Nat → State}

theorem Decides.refused (hc : Decides c pt sq op v after) (hturn : s.turn = some (pt.val, sq.val))
    (honly : s.comp.weir.heads = [(pt.val, sq.val, d)]) {code : Nat} (hop : dOp d = op) (hv : v (s.takeHead pt sq) d = .refuse code) :
    exec c s = .next ((s.takeHead pt sq).refuse pt sq d code 0) := by
  rw [hc s, State.decideHead_refused hturn honly hop hv]

theorem Decides.otherOp (hc : Decides c pt sq op v after) (hhead : s.headOf pt sq = some d) (hop : dOp d ≠ op) : exec c s = .next s := by
  rw [hc s, State.decideHead_otherOp hhead hop]

theorem Decides.otherTurn (hc : Decides c pt sq op v after) (hturn : s.turn ≠ some (pt.val, sq.val)) : exec c s = .next s := by
  rw [hc s, State.decideHead_otherTurn hturn]

end

/-- Settles O31: each of the ten commands decides one head (`Decides`); a refusal then leaves no head, so nothing more is skipped, and a
refusal changes nothing that the Weir admits by. -/
theorem descriptorsRefused : Obligations.DescriptorsRefused := by
  unfold Obligations.DescriptorsRefused
  refine ⟨fun s pt sq d c host hturn honly => ?_, fun s pt sq host hturn => ?_⟩
  · have hhead := State.headOf_only honly
    exact ⟨(decides_step pt sq).refused hturn honly, (decides_seed pt sq).refused hturn honly, (decides_copy pt sq).refused hturn honly,
      (decides_gather pt sq).refused hturn honly, (decides_scatter pt sq).refused hturn honly,
      (decides_scalarSet pt sq host).refused hturn honly, (decides_snapshot pt sq).refused hturn honly,
      (decides_dmaIn pt sq).refused hturn honly, (decides_dmaOut pt sq).refused hturn honly, (decides_fence pt sq).refused hturn honly,
      (decides_step pt sq).otherOp hhead, (decides_seed pt sq).otherOp hhead, (decides_copy pt sq).otherOp hhead,
      (decides_gather pt sq).otherOp hhead, (decides_scatter pt sq).otherOp hhead, (decides_scalarSet pt sq host).otherOp hhead,
      (decides_snapshot pt sq).otherOp hhead, (decides_dmaIn pt sq).otherOp hhead, (decides_dmaOut pt sq).otherOp hhead,
      (decides_fence pt sq).otherOp hhead, State.refuse_heads_only honly c, State.refuse_frame pt sq d c⟩
  · exact ⟨(decides_step pt sq).otherTurn hturn, (decides_seed pt sq).otherTurn hturn, (decides_copy pt sq).otherTurn hturn,
      (decides_gather pt sq).otherTurn hturn, (decides_scatter pt sq).otherTurn hturn, (decides_scalarSet pt sq host).otherTurn hturn,
      (decides_snapshot pt sq).otherTurn hturn, (decides_dmaIn pt sq).otherTurn hturn, (decides_dmaOut pt sq).otherTurn hturn,
      (decides_fence pt sq).otherTurn hturn⟩

end Sys2Proof.Machine
end

section
/-! PROOFS. A descriptor that is granted is admitted (R236, R237, R239, R244). -/
namespace Sys2Proof.Machine

/-! ### A pledge is entered, and the decision ends -/

/-- A state with a pledge under the number that the partition's next one had in s: every other pledge of the partition has another number. -/
structure PledgeEntered (p : Pledge) (s t : State) : Prop where
  number : p.admno = nextNumber s p.pt
  counted : nextNumber t p.pt = (nextNumber s p.pt + 1) % 2 ^ 32
  stands : p ∈ t.pledges
  alone : ∀ q ∈ t.pledges, q.pt = p.pt → q.admno = p.admno → q = p

theorem PledgeEntered.trans {p : Pledge} {s t u : State} (h : PledgeEntered p s t) (hkept : PledgesKept (fun _ => False) t u) :
    PledgeEntered p s u where
  number := h.number
  counted := (hkept.nextNumber_eq _).trans h.counted
  stands := hkept.kept p h.stands id
  alone q hq := h.alone q (hkept.old q hq)

/-- An enrolled descriptor is pledged under the partition's next number, where no descriptor of the partition holds that number. -/
theorem State.pledgeEntered_enrol (s : State) (a : Adm) (resv : List Resv)
    (hfree : ∀ x ∈ s.comp.weir.adms, x.pt = a.pt → x.admno ≠ nextNumber s a.pt) :
    PledgeEntered ⟨a.pt, nextNumber s a.pt, a.desc, a.promise⟩ s (s.enrol a resv) where
  number := rfl
  counted := s.enrol_nextNumber a resv
  stands := by simp [State.enrol_pledges]
  alone q hq hpt hno := by
    rw [State.enrol_pledges, List.mem_append, List.mem_singleton] at hq
    refine hq.resolve_left fun hold => ?_
    obtain ⟨x, hx, rfl⟩ := State.mem_pledges.mp hold
    exact hfree x hx hpt hno

/-- The end of a decision: fences that hold complete, fetches follow, and heads of no opcode are refused. -/
def State.decisionEnds (s : State) (pt : Nat) : State :=
  let t := (s.settleFences (s.admsOf pt).length pt).pumpFetches pt
  t.skipUndefined t.comp.weir.heads.length

theorem State.besideWeir_decisionEnds (s : State) (pt : Nat) : BesideWeir s (s.decisionEnds pt) :=
  (s.besideWeir_settleFences _ pt).trans ((State.posts_pumpFetches _ pt).besideWeir.trans (State.besideWeir_skipUndefined _ _))

theorem State.pledgesKept_decisionEnds (s : State) {pt : Nat} {gone : Pledge → Prop}
    (hgone : ∀ q ∈ s.pledges, q.pt = pt → dOp q.desc = 0x0A → ∀ p : Pledge, p.pt = pt → p.admno = q.admno → gone p) :
    PledgesKept gone s (s.decisionEnds pt) :=
  (s.pledgesKept_settleFences _ hgone).trans <|
    (PledgesKept.of_comp (State.posts_pumpFetches _ pt).comp).trans (State.pledgesKept_skipUndefined _ _)

/-! ### The grant of the calendar (R239, R245) -/

/-- The descriptor with its promise and its planned quanta, as the calendar placed its stages (R239). -/
def Adm.placed (a : Adm) (st : List Stage) (pl : Placing) (first : Nat) : Adm :=
  { a with promise := 225 * ((pl.span first).2 + 1), startQ := (pl.span first).1, seedQ := pl.seedQ st, storeQ := pl.storeQ st }

/-- A granted descriptor is admitted as the calendar placed its stages, and the profile of a STEP is kept (R237, R239, R240). -/
def State.enter (s : State) (pt : Nat) (a : Adm) (st : List Stage) (pl : Placing) (first : Nat) : State :=
  let t := s.admitOne (a.placed st pl first) pl.resv
  if dOp a.desc = 1 then t.keepProfile pt st else t

section
variable {s : State} {pt : Pt} {sq : QueueIx} {a : Adm} {st : List Stage} {pl : Placing} {first : Nat}

theorem State.pledgeEntered_enter (hfree : ∀ x ∈ s.comp.weir.adms, x.pt = a.pt → x.admno ≠ nextNumber s a.pt) (pt : Nat) :
    PledgeEntered ⟨a.pt, nextNumber s a.pt, a.desc, 225 * ((pl.span first).2 + 1)⟩ s (s.enter pt a st pl first) := by
  have hkeep (t : State) : PledgesKept (fun _ => False) t (t.keepProfile pt st) := .of_eq rfl rfl
  refine (s.pledgeEntered_enrol (a.placed st pl first) pl.resv hfree).trans ((s.pledgesKept_admitOne _ _).trans ?_)
  exact .ite (hkeep _)

theorem State.settleVerdict_grant (hroom : dOp a.desc = 6 ∨ ((s.admsOf pt).length < 4096 ∧ s.comp.weir.adms.length < 16384))
    (hfirst : first = if st.isEmpty then s.firstQuantum a - 1 else s.firstQuantum a) (hplace : s.placeStages pt 0 first st = some pl)
    (hbound : dOp a.desc = 7 → a.count = 0 ∨ (pl.span first).2 ≤ a.count)
    (hdeadline : dOp a.desc = 6 ∨ dDeadline a.desc = 0 ∨ 225 * ((pl.span first).2 + 1) ≤ dDeadline a.desc)
    (after : State → Nat → State) :
    s.settleVerdict pt sq a.desc (.grant a st) after =
      let t := after (s.enter pt a st pl first) (nextNumber s pt)
      (t.settleFences (t.admsOf pt).length pt).pumpFetches pt := by
  have hroom : ¬((!decide (dOp a.desc = 6)) = true ∧ (4096 ≤ (s.admsOf pt).length ∨ 16384 ≤ s.comp.weir.adms.length)) := by
    simp only [Bool.not_eq_true', decide_eq_false_iff_not]
    omega
  have hbound : ¬(dOp a.desc = 7 ∧ a.count ≠ 0 ∧ a.count < (pl.span first).2) := by omega
  have hdeadline : ¬((!decide (dOp a.desc = 6)) = true ∧ dDeadline a.desc ≠ 0 ∧ dDeadline a.desc < 225 * ((pl.span first).2 + 1)) := by
    simp only [Bool.not_eq_true', decide_eq_false_iff_not]
    omega
  simp only [State.settleVerdict, if_neg hroom, ← hfirst, hplace, if_neg hbound, if_neg hdeadline, State.enter, Adm.placed, nextNumber]

end

/-- A granted descriptor is entered, then its opcode does what it does, and the decision ends. -/
theorem State.decideHead_granted {s : State} {pt : Pt} {sq : QueueIx} {op : Nat} {d : List Byte} {v : State → List Byte → Verdict} {a : Adm}
    {promise : Nat} (hgrant : WeirGrants s pt sq op d (fun s => v s d) a promise) (after : List Byte → State → Nat → State) :
    ∃ u : State, PledgeEntered ⟨pt, nextNumber s pt, d, promise⟩ s u ∧
      s.decideHead pt sq op v after = (after d u (nextNumber s pt)).decisionEnds pt := by
  obtain ⟨hturn, hhead, rfl, hfree, st, pl, first, hv, rfl, hpt, hroom, hfirst, hplace, rfl, hbound, hdeadline⟩ := hgrant
  have hnumber : nextNumber (s.takeHead pt sq) pt = nextNumber s pt := rfl
  refine ⟨(s.takeHead pt sq).enter pt a st pl first, ?_, ?_⟩
  · have hentered := (s.takeHead pt sq).pledgeEntered_enter (st := st) (pl := pl) (first := first)
      (fun x hx hxpt => hpt ▸ hfree x hx (hxpt.trans hpt)) pt
    rw [hpt, hnumber] at hentered
    exact ⟨rfl, hnumber ▸ hentered.counted, hentered.stands, hentered.alone⟩
  · have hsettle := State.settleVerdict_grant (s := s.takeHead pt sq) (sq := sq) hroom hfirst hplace hbound hdeadline
    simp only [State.decideHead_turn hturn hhead rfl, hv, hsettle, hnumber, State.decisionEnds]

/-! ### What the opcodes do besides (R215, R244, R313) -/

section
variable {gone : Pledge → Prop}

theorem State.pledgesKept_stepInFlight (pt : Nat) (d : List Byte) (s : State) (n : Nat) : PledgesKept gone s (State.stepInFlight pt d s n) :=
  .of_eq rfl rfl

theorem State.part_stepInFlight (pt : Nat) (d : List Byte) (s : State) (n : Nat) :
    ((State.stepInFlight pt d s n).part pt).lastStep = some (dStep d) ∧
      ∃ x ∈ ((State.stepInFlight pt d s n).part pt).steps, x.num = dStep d ∧ x.st = 0 := by
  rw [State.stepInFlight, State.part_modPart_same]
  exact ⟨rfl, _, List.mem_append_right _ List.mem_cons_self, rfl, rfl⟩

theorem State.pledgesKept_scalarTaken (pt : Nat) (hostRecord d : List Byte) (s : State) (n : Nat) (hgone : ∀ p, gone p) :
    PledgesKept gone s (State.scalarTaken pt hostRecord d s n) := by
  unfold State.scalarTaken
  extract_lets rec_ taken s1
  have hset : PledgesKept gone s s1 := .of_eq rfl rfl
  refine hset.trans (.trans ?_ (State.pledgesKept_complete _ _ _ _ hgone))
  exact .ite (.of_eq rfl rfl)

theorem State.pledgesKept_snapshotFlow (pt : Nat) (d : List Byte) (s : State) (n : Nat) : PledgesKept gone s (State.snapshotFlow pt d s n) := by
  unfold State.snapshotFlow
  split
  · refine .ite ?_
    unfold State.openFlow
    split
    · exact .refl s
    · exact .of_eq rfl rfl
  · exact .refl s

end

/-! ### The commands -/

/-- A granted descriptor is admitted by the command of its opcode, with the partition as the opcode left it; it stays admitted unless it may
complete at once. -/
theorem Decides.admits {c : Instr} {s : State} {pt : Pt} {sq : QueueIx} {op : Nat} {d : List Byte} {v : State → List Byte → Verdict}
    {after : List Byte → State → Nat → State} {a : Adm} {promise : Nat} (hc : Decides c pt sq op v after)
    (hgrant : WeirGrants s pt sq op d (fun s => v s d) a promise) (stays : Bool) (hfence : stays = true → op ≠ 0x0A)
    (hafter : ∀ u n, PledgesKept (fun p => stays = true → p ≠ ⟨pt, nextNumber s pt, d, promise⟩) u (after d u n)) :
    ∃ t, exec c s = .next t ∧ Admitted s t pt d promise stays ∧ ∃ u : State, t.part pt = (after d u (nextNumber s pt)).part pt := by
  obtain ⟨u, hentered, hdecided⟩ := State.decideHead_granted hgrant after
  have hop : dOp d = op := hgrant.2.2.1
  have hkept := (hafter u (nextNumber s pt)).trans <| State.pledgesKept_decisionEnds _ (pt := pt) fun q hq hqpt hqop p _ hno hstays hp => by
    have hq : q = ⟨pt, nextNumber s pt, d, promise⟩ := hentered.alone q ((hafter _ _).old q hq) hqpt (by rw [← hno, hp])
    exact hfence hstays (hop.symm.trans (by rw [← hqop, hq]))
  refine ⟨_, (hc s).trans (congrArg _ hdecided), ⟨(hkept.nextNumber_eq pt).trans hentered.counted, fun hstays => ?_⟩, u,
    (State.besideWeir_decisionEnds _ pt).part pt⟩
  obtain ⟨x, hx, hpledge⟩ := State.mem_pledges.mp (hkept.kept _ hentered.stands fun hg => hg hstays rfl)
  obtain ⟨hpt, hno, hdesc, hpromise⟩ := Pledge.mk.inj hpledge
  exact ⟨x, hx, hpt, hno, hdesc, hpromise⟩

/-- The opcodes that do nothing more at admission. -/
theorem Decides.admits_noMore {c : Instr} {s : State} {pt : Pt} {sq : QueueIx} {op : Nat} {d : List Byte} {v : State → List Byte → Verdict}
    {a : Adm} {promise : Nat} (hc : Decides c pt sq op v State.noMore) (stays : Bool) (hfence : stays = true → op ≠ 0x0A)
    (hgrant : WeirGrants s pt sq op d (fun s => v s d) a promise) : ∃ t, exec c s = .next t ∧ Admitted s t pt d promise stays := by
  obtain ⟨t, ht, hadmitted, -⟩ := hc.admits hgrant stays hfence fun u _ => .refl u
  exact ⟨t, ht, hadmitted⟩

/-- Settles O30: the pledge of a granted descriptor is entered under the partition's next number, which no other descriptor of the partition
holds, so that only a FENCE or a SCALAR_SET can complete under it before the decision ends. -/
theorem descriptorsAdmitted : Obligations.DescriptorsAdmitted := by
  unfold Obligations.DescriptorsAdmitted
  intro s pt sq d a promise
  refine ⟨fun hgrant => ?step, (decides_seed pt sq).admits_noMore true (by decide), (decides_copy pt sq).admits_noMore true (by decide),
    (decides_gather pt sq).admits_noMore true (by decide), (decides_scatter pt sq).admits_noMore true (by decide),
    fun host hgrant => ?scalarSet, fun hgrant => ?snapshot, (decides_dmaIn pt sq).admits_noMore true (by decide),
    (decides_dmaOut pt sq).admits_noMore true (by decide), (decides_fence pt sq).admits_noMore false (by decide)⟩
  case step =>
    obtain ⟨t, ht, hadmitted, u, hpart⟩ :=
      (decides_step pt sq).admits hgrant true (by decide) fun u n => State.pledgesKept_stepInFlight pt d u n
    exact ⟨t, ht, hadmitted, hpart ▸ State.part_stepInFlight pt d u _⟩
  case scalarSet =>
    obtain ⟨t, ht, hadmitted, -⟩ := (decides_scalarSet pt sq host).admits hgrant false (by decide) fun u n =>
      State.pledgesKept_scalarTaken pt host d u n (by simp)
    exact ⟨t, ht, hadmitted⟩
  case snapshot =>
    obtain ⟨t, ht, hadmitted, -⟩ := (decides_snapshot pt sq).admits hgrant true (by decide) fun u n => State.pledgesKept_snapshotFlow pt d u n
    exact ⟨t, ht, hadmitted⟩

end Sys2Proof.Machine
end

section
/-! PROOFS. Promises that run out, and host transfers that start (R234, R240, R248, R326). -/
namespace Sys2Proof.Machine

/-! ### An admitted descriptor that is changed -/

theorem State.adm_number {s : State} {pt admno : Nat} {a : Adm} (h : s.adm pt admno = some a) : a.pt = pt ∧ a.admno = admno := by
  simpa using List.find?_some h

/-- What a change of a descriptor that keeps its number leaves of any. -/
theorem State.adm_modAdm (s : State) (pt admno : Nat) {f : Adm → Adm} (hf : ∀ a, (f a).pledge = a.pledge) (pt' admno' : Nat) :
    (s.modAdm pt admno f).adm pt' admno' =
      (s.adm pt' admno').map fun a => if a.pt == pt && a.admno == admno then f a else a := by
  show List.find? _ (List.map _ _) = _
  rw [List.find?_map]
  congr 1
  refine congrArg (List.find? · _) (funext fun a => ?_)
  have hpt : (f a).pt = a.pt := congrArg Pledge.pt (hf a)
  have hno : (f a).admno = a.admno := congrArg Pledge.admno (hf a)
  show _ = (a.pt == pt' && a.admno == admno')
  simp only [Function.comp_apply]
  split <;> simp [hpt, hno]

theorem State.adm_modAdm_same {s : State} {pt admno : Nat} {a : Adm} (h : s.adm pt admno = some a) {f : Adm → Adm}
    (hf : ∀ a, (f a).pledge = a.pledge) : (s.modAdm pt admno f).adm pt admno = some (f a) := by
  obtain ⟨hpt, hno⟩ := State.adm_number h
  rw [s.adm_modAdm pt admno hf, h]
  simp [hpt, hno]

/-! ### A promise runs out (R248) -/

/-- A state that differs from s in the Weir alone, with a descriptor of these promise and OVERDUE marks. -/
structure Awaits (s : State) (pt admno promise : Nat) (overdue : Bool) (t : State) : Prop where
  rest : { t with comp := { t.comp with weir := s.comp.weir } } = s
  stands : ∃ a, t.adm pt admno = some a ∧ a.promise = promise ∧ a.overdue = overdue

section
variable {s t : State} {pt admno promise : Nat} {overdue : Bool}

theorem Awaits.chargeAdm (h : Awaits s pt admno promise overdue t) (pt' admno' cause detail : Nat) :
    Awaits s pt admno promise overdue (t.chargeAdm pt' admno' cause detail) where
  rest := h.rest
  stands := by
    obtain ⟨a, ha, hpromise, hoverdue⟩ := h.stands
    refine ⟨_, (t.adm_modAdm pt' admno' (fun a => by split <;> rfl) pt admno).trans (congrArg _ ha), ?_⟩
    dsimp only
    split
    · split <;> exact ⟨hpromise, hoverdue⟩
    · exact ⟨hpromise, hoverdue⟩

theorem Awaits.chargeIf {c : Prop} [Decidable c] {pt' admno' cause detail : Nat} (h : Awaits s pt admno promise overdue t) :
    Awaits s pt admno promise overdue (if c then t.chargeAdm pt' admno' cause detail else t) := by
  split
  · exact h.chargeAdm _ _ _ _
  · exact h

theorem Awaits.chargeWaiting (h : Awaits s pt admno promise overdue t) (x : Adm) : Awaits s pt admno promise overdue (t.chargeWaiting x) :=
  forEach_keeps (P := Awaits s pt admno promise overdue) _ _ t h fun _ _ _ hu => hu.chargeAdm _ _ _ _

theorem Awaits.markOverdue (h : Awaits s pt admno promise overdue t) :
    Awaits s pt admno promise true (t.modAdm pt admno fun a => { a with overdue := true }) where
  rest := h.rest
  stands := by
    obtain ⟨a, ha, hpromise, -⟩ := h.stands
    exact ⟨_, State.adm_modAdm_same ha fun _ => rfl, hpromise, rfl⟩

end

/-- PROMISE_EXPIRE past the promise of a descriptor that is not yet overdue. -/
theorem exec_promiseExpire_overdue {s : State} {pt : Pt} {admno : Word} {a : Adm} (ha : s.adm pt admno.toNat = some a)
    (hoverdue : a.overdue = false) (hlate : a.promise < s.time) :
    ∃ t, exec (.promiseExpire pt admno) s = .next t ∧ Awaits s pt admno.toNat a.promise true t := by
  have hawaits : Awaits s pt admno.toNat a.promise false s := ⟨rfl, a, ha, rfl, hoverdue⟩
  have hexpires : ¬(a.overdue = true ∨ s.time ≤ a.promise) := by simp [hoverdue, hlate]
  simp only [exec, execPromiseExpire, ha, if_neg hexpires]
  refine ⟨_, rfl, Awaits.chargeWaiting (Awaits.markOverdue (overdue := false) ?_) a⟩
  exact Awaits.chargeIf (Awaits.chargeIf hawaits)

/-! ### A host transfer starts (R234, R240) -/

/-- A descriptor is changed and messages go to the host: the descriptor stands changed, memory and what outlives power as they were. -/
theorem State.adm_of_posts {s t : State} {pt admno : Nat} {a : Adm} (ha : s.adm pt admno = some a) {f : Adm → Adm}
    (hposts : Posts (s.modAdm pt admno f) t) (hf : ∀ a, (f a).pledge = a.pledge) :
    t.adm pt admno = some (f a) ∧ SameMemory s t ∧ t.nv = s.nv := by
  refine ⟨?_, ⟨fun x => congrArg (Memory.read · x) hposts.mem, hposts.poison⟩, hposts.nv⟩
  rw [State.adm, hposts.comp]
  exact State.adm_modAdm_same ha hf

section
variable {s : State} {pt : Pt} {admno : Word} {a : Adm}

/-- A descriptor whose host transfer has started, with its bytes still to move. -/
def Adm.startedWith (left : Nat) (a : Adm) : Adm := { a with started := true, left := left }

theorem exec_hostDmaStageStart_dma (ha : s.adm pt admno.toNat = some a) (hready : s.opReady a = true) (hop : dOp a.desc = 8 ∨ dOp a.desc = 9) :
    ∃ s1 : State, exec (.hostDmaStageStart pt admno) s = .next s1.endStopped ∧
      Posts (s.modAdm pt admno.toNat (Adm.startedWith (u32 a.desc 0x18))) s1 := by
  have hno := (State.adm_number ha).2
  obtain hop | hop := hop
  · simp only [exec, execHostDmaStageStart, ha, hready, hop, hno, Bool.not_true, Bool.false_eq_true, if_false, if_true]
    exact ⟨_, rfl, State.posts_memRdAll _ _ _ _ _⟩
  · simp only [exec, execHostDmaStageStart, ha, hready, hop, hno, Bool.not_true, Bool.false_eq_true, Nat.reduceEqDiff, if_false, if_true]
    exact ⟨_, rfl, State.posts_memWrAll _ _ _ _ _ _⟩

/-- Bytes of the two ranges that a SEED fetches, as they stand when it starts: data and scale plane (R186). -/
def State.seedBytes (s : State) (a : Adm) : Nat :=
  let sp := seedSpans (s.seedView (s.holdScales a)) (dMb a.desc)
  (sp.1.2 - sp.1.1).toNat + (sp.2.2 - sp.2.1).toNat

/-- A seed whose fetch has started: it holds the scales of its step and room for its bytes, all of them still to come. -/
def Adm.fetching (held : List (Int × Nat × Nat)) (left : Nat) (a : Adm) : Adm :=
  { a with started := true, held := held, left := left, out := List.replicate left 0#8 }

theorem exec_hostDmaStageStart_seed (ha : s.adm pt admno.toNat = some a) (hready : s.opReady a = true) (hop : dOp a.desc = 2)
    (hspace : (dAddr a.desc 0x20).2 = 2) :
    ∃ s1 : State, exec (.hostDmaStageStart pt admno) s = .next s1.endStopped ∧
      Posts (s.modAdm pt admno.toNat (Adm.fetching (s.holdScales a).held (s.seedBytes a))) s1 := by
  have hno := (State.adm_number ha).2
  simp only [exec, execHostDmaStageStart, ha, hready, hop, hspace, hno, Bool.not_true, Bool.false_eq_true, Nat.reduceEqDiff, and_self,
    if_false, if_true]
  exact ⟨_, rfl, (State.posts_memRdAll _ _ _ _ _).trans (State.posts_memRdAll _ _ _ _ _)⟩

end

/-- Settles O32: an expired promise changes one mark beside charges, and a transfer that starts marks its descriptor and sends messages. -/
theorem promiseAndDma : Obligations.PromiseAndDma := by
  unfold Obligations.PromiseAndDma
  intro s pt admno a ha
  refine ⟨fun hoverdue hlate => ?expires, fun hready hop => ?transfer, fun hready hop hspace => ?seed⟩
  case expires =>
    obtain ⟨t, ht, hrest, x, hx, hpromise, hmark⟩ := exec_promiseExpire_overdue ha hoverdue hlate
    exact ⟨t, ht, by rw [hx, Option.map_some, hmark], by rw [hx, Option.map_some, hpromise], hrest⟩
  case transfer =>
    obtain ⟨s1, hs1, hposts⟩ := exec_hostDmaStageStart_dma ha hready hop
    obtain ⟨hadm, hmem, hnv⟩ := State.adm_of_posts ha hposts fun _ => rfl
    exact ⟨s1, hs1, congrArg (Option.map _) hadm, hmem, hnv⟩
  case seed =>
    obtain ⟨s1, hs1, hposts⟩ := exec_hostDmaStageStart_seed ha hready hop hspace
    obtain ⟨hadm, hmem, hnv⟩ := State.adm_of_posts ha hposts fun _ => rfl
    refine ⟨s1, hs1, (congrArg (Option.map _) hadm).trans ?_, hmem, hnv⟩
    simp [Adm.fetching, State.seedBytes, sumN]

end Sys2Proof.Machine
end

section
/-! PROOFS. The instructions of a Cascade program, in every running step and in one (R259, R260). -/
namespace Sys2Proof.Machine

/-! ### An entry of a list, changed or opened -/

/-- The first entry that a change hits is found as changed. -/
theorem find?_mapHits {α : Type} {p : α → Bool} {f : α → α} (hf : ∀ a, p a = true → p (f a) = true) :
    ∀ l : List α, (l.map fun a => if p a then f a else a).find? p = (l.find? p).map f
  | [] => rfl
  | a :: l => by
    by_cases ha : p a = true
    · simp [ha, hf a ha]
    · simp [ha, find?_mapHits hf l]

/-- A change that opens the entry where none is hit. -/
theorem find?_changeOrOpen {α : Type} {p : α → Bool} {f : α → α} {d : α} (hf : ∀ a, p a = true → p (f a) = true) (hd : p d = true) (l : List α) :
    (if l.any p then l.map (fun a => if p a then f a else a) else l ++ [f d]).find? p = some (f ((l.find? p).getD d)) := by
  split
  · next h =>
    obtain ⟨a, ha⟩ := Option.isSome_iff_exists.mp (List.find?_isSome.mpr (List.any_eq_true.mp h))
    rw [find?_mapHits hf, ha]
    rfl
  · next h =>
    have hnone : l.find? p = none := List.find?_eq_none.mpr fun a ha hpa => h (List.any_eq_true.mpr ⟨a, ha, hpa⟩)
    rw [List.find?_append, hnone, List.find?_singleton, if_pos (hf d hd)]
    rfl

/-! ### The run of an instruction (R259) -/

/-- Whether a run is that of an instruction in its step. -/
def CascCtx.owns (k : CascCtx) (r : CascRun) : Bool := r.pt == k.pt && r.step == k.step && r.record == k.record && r.mb == k.mb

/-- The run of an instruction of which nothing has come and that has not started. -/
def CascCtx.opened (k : CascCtx) : CascRun := { pt := k.pt, record := k.record, layer := k.layer, slot := k.slot, step := k.step, mb := k.mb }

theorem CascCtx.owns_opened (k : CascCtx) : k.owns k.opened = true := by simp [CascCtx.owns, CascCtx.opened]

theorem State.modRun_runs (s : State) (k : CascCtx) (f : CascRun → CascRun) : (s.modRun k f).comp.casc.runs =
    if s.comp.casc.runs.any k.owns then s.comp.casc.runs.map (fun r => if k.owns r then f r else r) else s.comp.casc.runs ++ [f k.opened] :=
  apply_ite Cascade.runs _ _ _

theorem State.crun_modRun (s : State) {k : CascCtx} {f : CascRun → CascRun} (hf : ∀ r, k.owns r = true → k.owns (f r) = true) :
    (s.modRun k f).crun k = f (s.crun k) := by
  have hfound := find?_changeOrOpen hf k.owns_opened s.comp.casc.runs
  rw [← s.modRun_runs k f] at hfound
  exact congrArg (fun r : Option CascRun => r.getD k.opened) hfound

/-- A change of a run changes the runs alone. -/
theorem State.modRun_rest (s : State) (k : CascCtx) (f : CascRun → CascRun) :
    { s.modRun k f with comp := { (s.modRun k f).comp with casc := { (s.modRun k f).comp.casc with runs := s.comp.casc.runs } } } = s := by
  unfold State.modRun State.modCasc State.modComp
  dsimp only
  split <;> rfl

/-! ### The start of an instruction in one step (R260) -/

/-- The run of an instruction that starts: it is on, in the phase that its opcode and its sums ask for. -/
def CascRun.started (s : State) (k : CascCtx) (r : CascRun) : CascRun :=
  { r with
    on := true, since := s.time, slot := k.slot, layer := k.layer
    phase := if k.c.opc = 2 then 3 else if (k.c.opc = 1 ∨ k.c.opc = 3) ∧ s.cascAnchored k then 1 else 0 }

theorem State.runStep_on {s : State} {k : CascCtx} (first : Nat) (h : (s.crun k).on = true) : s.runStep k first = s.pump k := if_pos h

theorem State.runStep_waits {s : State} {k : CascCtx} {first : Nat} (h : (s.crun k).on = false) (hw : s.whenOk k first = false) :
    s.runStep k first = s := by simp [State.runStep, h, hw]

theorem State.runStep_starts {s : State} {k : CascCtx} {first : Nat} (h : (s.crun k).on = false) (hw : s.whenOk k first = true) :
    s.runStep k first = (s.modRun k (CascRun.started s k)).pump k := by
  rw [State.runStep, if_neg (by simp [h]), if_pos hw]
  rfl

/-! ### An instruction in every running step (R259) -/

/-- An instruction in every running step of its partition, in their order. -/
def State.runSteps (s : State) (pt : Nat) (b : List Byte) (record mb : Nat) (layer : Option Nat) (slot first : Nat) : State :=
  forEach ((s.active pt).filter fun x => decide (1 ≤ x.st ∧ x.st ≤ 4)) (fun x s =>
    s.runStep (s.cascCtx pt b x.num record mb layer slot) first) s

theorem State.runInstr_eq {s : State} {pt record mb first slot : Nat} {b : List Byte} {layer : Option Nat} (hbed : (s.part pt).bed = some b)
    (hprog : ((programs b).find? fun p => (progRecs b 64 p.1).contains record) = some (first, layer))
    (hgroup : s.groupAt pt (bedCasc b record).group = some slot) (hmb : (bedCasc b record).permb = true → mb < jobMbs b) (opc : Nat) :
    s.runInstr pt record mb opc = if (bedCasc b record).opc = opc then
      s.runSteps pt b record (if (bedCasc b record).permb then mb else 0xFFFF) layer slot first else s := by
  have hin : ¬((bedCasc b record).permb ∧ jobMbs b ≤ if (bedCasc b record).permb then mb else 0xFFFF) := by
    rintro ⟨hp, hle⟩
    rw [if_pos hp] at hle
    exact absurd (hmb hp) (Nat.not_lt.mpr hle)
  simp only [State.runInstr, hbed, hprog, hgroup, hin, or_false]
  by_cases hopc : (bedCasc b record).opc = opc
  · rw [if_neg (not_not.mpr hopc), if_pos hopc]
    rfl
  · rw [if_pos hopc, if_neg hopc]

/-- Settles O33: the four commands run one function of the opcode; in one step the run is found as the start leaves it. -/
theorem cascadeInstructions : Obligations.CascadeInstructions := by
  unfold Obligations.CascadeInstructions
  refine ⟨fun s pt record mb b first slot layer => ⟨rfl, fun hbed hprog hgroup hmb => ?commands⟩,
    fun s k first => ⟨State.runStep_on first, State.runStep_waits, fun hoff hwhen => ?starts⟩⟩
  case commands =>
    have hrun := State.runInstr_eq hbed hprog hgroup hmb
    exact ⟨congrArg _ (hrun 1), congrArg _ (hrun 2), congrArg _ (hrun 3), congrArg _ (hrun 4)⟩
  case starts =>
    have hrun : (s.modRun k (CascRun.started s k)).crun k = CascRun.started s k (s.crun k) := s.crun_modRun fun _ h => h
    refine ⟨s.modRun k (CascRun.started s k), State.runStep_starts hoff hwhen, ?_, ?_, ?_, ?_, s.modRun_rest k _⟩ <;> rw [hrun] <;> rfl

end Sys2Proof.Machine
end

section
/-! PROOFS. What the packets that a partition originates change: egress, and what it counts (R294, R301, R302, R304). -/
namespace Sys2Proof.Machine

/-! ### The registers that egress counts in (R302, R304) -/

/-- Homes of the registers that egress counts in. -/
def EgressReg (o : Nat) : Prop :=
  o = regHome Reg.fabricSrcfilt ∨ o = regHome Reg.fabricNoroute ∨
    ∃ p : Port, o = regHome (Reg.fabricPortDrop p) ∨ o = regHome (Reg.fabricPortEcnmark p)

theorem regReset_fabricPort : ∀ p : Port, regReset (regHome (Reg.fabricPortDrop p)) = 0#32 ∧ regReset (regHome (Reg.fabricPortEcnmark p)) = 0#32 := by
  decide

theorem EgressReg.reset {o : Nat} (h : EgressReg o) : regReset o = 0#32 := by
  rcases h with rfl | rfl | ⟨p, rfl | rfl⟩
  · decide
  · decide
  · exact (regReset_fabricPort p).1
  · exact (regReset_fabricPort p).2

/-! ### What egress leaves alone -/

/-- What a packet on its way out can change: the ports' queues and measures, the charges of the Weir, the frames that have left, and the registers of
EgressReg. A count of one never stores a reset value, so the other registers read as before on any register file. -/
structure Emits (s t : State) : Prop extends BesideJobs s t where
  casc : t.comp.casc = s.comp.casc
  flows : t.comp.fab.tx = s.comp.fab.tx
  time : t.time = s.time
  rates : ∀ p, t.portRate p = s.portRate p
  regs : ∀ o, ¬ EgressReg (regHome o) → t.getReg o = s.getReg o

theorem Emits.refl (s : State) : Emits s s := ⟨.refl s, rfl, rfl, rfl, fun _ => rfl, fun _ _ => rfl⟩

theorem Emits.trans {s t u : State} (a : Emits s t) (b : Emits t u) : Emits s u :=
  ⟨a.toBesideJobs.trans b.toBesideJobs, b.casc.trans a.casc, b.flows.trans a.flows, b.time.trans a.time, fun p => (b.rates p).trans (a.rates p),
    fun o ho => (b.regs o ho).trans (a.regs o ho)⟩

theorem Emits.ite {c : Prop} [Decidable c] {s t : State} (h : Emits s t) : Emits s (if c then t else s) := by
  split
  · exact h
  · exact .refl s

theorem Emits.bump (s : State) {off : Nat} (h : EgressReg (regHome off)) : Emits s (s.bump off 1) := by
  refine ⟨s.besideJobs_bump off 1, rfl, rfl, rfl, fun _ => rfl, fun o ho => ?_⟩
  have hother : regHome o ≠ regHome off := fun e => ho (e ▸ h)
  refine Sparse.get_set_ne_of_ne_dflt hother ?_ s.regs
  rw [h.reset]
  exact satAdd_ne_zero _ Nat.one_ne_zero

theorem State.portRate_modPort (s : State) (p : Nat) {f : PortSt → PortSt} (hf : ∀ x, (f x).halves = x.halves) (q : Nat) :
    (s.modPort p f).portRate q = s.portRate q := by
  have hhalves : ((s.modPort p f).port q).halves = (s.port q).halves :=
    vget_vmod_keeps (P := fun x : PortSt => x.halves = (s.port q).halves) _ q p (fun x hx => (hf x).trans hx) rfl
  have hhalf : (s.modPort p f).half q = s.half q := funext fun h => congrArg (vget · h) hhalves
  exact congrArg (fun g : Nat → HalfSt => (s.halfIxs q).foldl (fun n h => n + (g h).rate) 0) hhalf

theorem State.emits_modPort (s : State) (p : Nat) {f : PortSt → PortSt} (hf : ∀ x, (f x).halves = x.halves) : Emits s (s.modPort p f) :=
  ⟨s.besideJobs_modPort p f, rfl, rfl, rfl, s.portRate_modPort p hf, fun _ _ => rfl⟩

theorem State.emits_contend (s : State) (p : Nat) : Emits s (s.contend p) := ⟨s.besideJobs_chargePort p _ _, rfl, rfl, rfl, fun _ => rfl, fun _ _ => rfl⟩

/-! ### A frame on its way out (R301, R302) -/

theorem State.emits_rollPort (s : State) (p : Nat) : Emits s (s.rollPort p) := by
  unfold State.rollPort
  extract_lets x cap contended
  split
  · exact .refl s
  · have hcontended : Emits s contended := .ite (s.emits_contend p)
    exact hcontended.trans (contended.emits_modPort p fun _ => rfl)

theorem State.emits_serve (k : Nat) (s : State) (p : Nat) : Emits s (s.serve k p) := by
  induction k generalizing s with
  | zero => exact .refl s
  | succ k ih =>
    unfold State.serve
    extract_lets x
    split
    · exact .refl s
    · split
      · exact .refl s
      · next m _ =>
        refine .trans ?_ (ih _)
        have hstart : Emits s (s.modPort p (·.start m)) := s.emits_modPort p fun _ => rfl
        exact hstart.trans ⟨⟨⟨rfl, fun h => h⟩, rfl, rfl, rfl, rfl⟩, rfl, rfl, rfl, fun _ => rfl, fun _ _ => rfl⟩

theorem State.emits_emit (s : State) {p : Nat} (hp : p < 24) (m : PortMsg) : Emits s (s.emit p m) := by
  unfold State.emit
  extract_lets q all mk marked rolled joined paused
  have hmarked : Emits s marked := .ite (.bump s (.inr (.inr ⟨⟨p, hp⟩, .inr rfl⟩)))
  have hjoined : Emits s joined := (hmarked.trans (marked.emits_rollPort p)).trans (rolled.emits_modPort p fun _ => rfl)
  have hpaused : Emits joined paused := .ite (joined.emits_contend p)
  split
  · exact .bump s (.inr (.inr ⟨⟨p, hp⟩, .inl rfl⟩))
  · exact (hjoined.trans hpaused).trans ((paused.emits_rollPort p).trans (State.emits_serve _ _ p))

/-! ### A packet that a partition originates (R296, R300, R304) -/

theorem mem_of_pickPort {s : State} {ports : List Nat} {src dst : BitVec 128} {label : BitVec 20} {p : Nat}
    (h : s.pickPort ports src dst label = some p) : p ∈ ports := by
  unfold State.pickPort at h
  dsimp only at h
  split at h
  · exact absurd h nofun
  · next hup =>
    have hlen := Nat.mod_lt (Config.portPick dst src label) (List.length_pos_iff.mpr (mt List.isEmpty_iff.mpr hup))
    have hmem := List.getElem_mem hlen
    rw [nth, List.getElem?_eq_getElem hlen, Option.getD_some, Option.some.injEq] at h
    exact List.mem_of_mem_filter (h ▸ hmem)

theorem State.ownRoute_lt {s : State} {pt : Nat} {src dst : BitVec 128} {label : BitVec 20} {p : Nat}
    (h : s.ownRoute pt src dst label = some p) : p < 24 := by
  have hown : ∀ q ∈ s.ownPorts pt, q < 24 := by
    intro q hq
    unfold State.ownPorts at hq
    split at hq
    · exact List.mem_range.mp (List.mem_of_mem_filter hq)
    · exact absurd hq List.not_mem_nil
  unfold State.ownRoute at h
  dsimp only at h
  have hmem := mem_of_pickPort h
  split at hmem
  · exact hown p hmem
  · exact hown p (List.mem_of_mem_filter (List.mem_of_mem_filter hmem))

theorem State.emits_originate (s : State) (pt : Nat) (k : Packet) : Emits s (s.originate pt k) := by
  unfold State.originate
  split
  · exact .refl s
  split
  · exact .bump s (.inl rfl)
  split
  · next hroute => exact s.emits_emit (State.ownRoute_lt hroute) _
  · exact .bump s (.inr (.inl rfl))

theorem State.emits_originateAll {α : Type} (l : List α) (pt : Nat) (k : α → Packet) (s : State) :
    Emits s (forEach l (fun x s => s.originate pt (k x)) s) :=
  forEach_keeps (P := Emits s) _ l s (.refl s) fun _ _ t h => h.trans (t.emits_originate pt _)

theorem Emits.txFlow {s t : State} (h : Emits s t) (fid : Nat) : t.txFlow fid = s.txFlow fid := congrArg (List.find? _) h.flows

end Sys2Proof.Machine
end

section
/-! PROOFS. The sending side of a flow: acknowledgements, refusals, timeouts and the pacing rate (R309 to R313). -/
namespace Sys2Proof.Machine

/-! ### A flow as a command leaves it (R309 to R311) -/

/-- A sending flow is found as changed, where the change keeps its number. -/
theorem State.txFlow_modTx {s : State} {fid : Nat} {g : TxFlow} {f : TxFlow → TxFlow} (hg : s.txFlow fid = some g) (hf : ∀ x, (f x).fid = x.fid) :
    (s.modTx fid f).txFlow fid = some (f g) :=
  (find?_mapHits (p := fun x : TxFlow => x.fid == fid) (fun x hx => by rwa [hf x]) s.comp.fab.tx).trans (congrArg (Option.map f) hg)

theorem State.fid_of_txFlow {s : State} {fid : Nat} {f : TxFlow} (h : s.txFlow fid = some f) : f.fid = fid := by
  simpa using List.find?_some h

/-- Whether a PSN lies before another, modulo 2^32 (R307). -/
def psnBefore (x y : Nat) : Bool := newer y x

/-- The PSN up to which a flow is acknowledged once an ACK up to a has come (R309). -/
def TxFlow.ackedTo (f : TxFlow) (a : Nat) : Nat := if psnBefore f.acked a then a else f.acked

/-- Packets of the messages that are not acknowledged wholly (R309). -/
def TxFlow.unreleased (f : TxFlow) (acked : Nat) : List Packet :=
  let openMsgs := (f.unacked.filter fun x => !psnBefore x.psn.toNat acked).map (·.word4)
  f.unacked.filter fun x => openMsgs.contains x.word4

/-- A flow after an ACK: what it releases, and, where it makes progress, the timeout from the start (R309). -/
def TxFlow.acknowledge (acked : Nat) (rest : List Packet) (progress : Bool) (now : Nat) (f : TxFlow) : TxFlow :=
  { f with
    acked := acked, unacked := rest, since := if progress then now else f.since
    backoff := if progress then 1 else f.backoff, expiries := if progress then 0 else f.expiries }

/-- A flow whose pacing rate is halved, not below 1/64 of the port's (R310). -/
def TxFlow.slow (cap now : Nat) (f : TxFlow) : TxFlow :=
  { f with rate := max (f.rate / 2) (cap / 64), halvedAt := some now, raisedAt := now }

/-- Whether the pacing rate may be halved again (R310). -/
def TxFlow.maySlow (f : TxFlow) (now : Nat) : Bool := match f.halvedAt with | none => true | some t => decide (t + 2250 ≤ now)

/-- A flow after an ACK and its ECE. -/
def TxFlow.afterAck (f : TxFlow) (s : State) (k : Packet) : TxFlow :=
  let g := f.acknowledge (f.ackedTo k.word4.toNat) (f.unreleased (f.ackedTo k.word4.toNat)) (psnBefore f.acked k.word4.toNat) s.time
  if k.ece ∧ f.maySlow s.time then g.slow (1000 * s.portRate f.port) s.time else g

theorem TxFlow.mem_unreleased_of_open {f : TxFlow} {y : Packet} (hy : y ∈ f.unacked) {acked : Nat} (h : psnBefore y.psn.toNat acked = false) :
    y ∈ f.unreleased acked :=
  List.mem_filter.mpr ⟨hy, List.contains_iff_mem.mpr (List.mem_map_of_mem (List.mem_filter.mpr ⟨hy, by rw [h]; rfl⟩))⟩

theorem TxFlow.not_mem_unreleased {f : TxFlow} {y : Packet} {acked : Nat}
    (h : ∀ z ∈ f.unacked, z.word4 = y.word4 → psnBefore z.psn.toNat acked = true) : y ∉ f.unreleased acked := by
  intro hy
  obtain ⟨z, hz, hword⟩ := List.mem_map.mp (List.contains_iff_mem.mp (List.mem_filter.mp hy).2)
  obtain ⟨hz, hopen⟩ := List.mem_filter.mp hz
  rw [h z hz hword] at hopen
  exact absurd hopen (by decide)

section
variable {acked now cap : Nat} {rest : List Packet} {progress : Bool} {f : TxFlow}

@[simp] theorem TxFlow.pt_acknowledge : (f.acknowledge acked rest progress now).pt = f.pt := rfl

@[simp] theorem TxFlow.acked_acknowledge : (f.acknowledge acked rest progress now).acked = acked := rfl

@[simp] theorem TxFlow.unacked_acknowledge : (f.acknowledge acked rest progress now).unacked = rest := rfl

@[simp] theorem TxFlow.rate_acknowledge : (f.acknowledge acked rest progress now).rate = f.rate := rfl

@[simp] theorem TxFlow.pt_slow : (f.slow cap now).pt = f.pt := rfl

@[simp] theorem TxFlow.acked_slow : (f.slow cap now).acked = f.acked := rfl

@[simp] theorem TxFlow.unacked_slow : (f.slow cap now).unacked = f.unacked := rfl

@[simp] theorem TxFlow.rate_slow : (f.slow cap now).rate = max (f.rate / 2) (cap / 64) := rfl

@[simp] theorem TxFlow.halvedAt_slow : (f.slow cap now).halvedAt = some now := rfl

/-- The timeout of a flow: since when it counts, how far it is stretched, and how often it has passed (R309). -/
def TxFlow.timeout (f : TxFlow) : Nat × Nat × Nat := (f.since, f.backoff, f.expiries)

@[simp] theorem TxFlow.timeout_slow : (f.slow cap now).timeout = f.timeout := rfl

theorem TxFlow.timeout_progress : (f.acknowledge acked rest true now).timeout = (now, 1, 0) := rfl

theorem TxFlow.timeout_standstill : (f.acknowledge acked rest false now).timeout = f.timeout := rfl

end

section
variable {f : TxFlow} {s : State} {k : Packet}

theorem TxFlow.afterAck_slow (h : k.ece ∧ f.maySlow s.time) : f.afterAck s k = (f.acknowledge (f.ackedTo k.word4.toNat)
    (f.unreleased (f.ackedTo k.word4.toNat)) (psnBefore f.acked k.word4.toNat) s.time).slow (1000 * s.portRate f.port) s.time := if_pos h

theorem TxFlow.afterAck_paced (h : ¬(k.ece ∧ f.maySlow s.time)) : f.afterAck s k = f.acknowledge (f.ackedTo k.word4.toNat)
    (f.unreleased (f.ackedTo k.word4.toNat)) (psnBefore f.acked k.word4.toNat) s.time := if_neg h

theorem TxFlow.pt_afterAck : (f.afterAck s k).pt = f.pt := by
  by_cases h : k.ece ∧ f.maySlow s.time
  · rw [TxFlow.afterAck_slow h, TxFlow.pt_slow, TxFlow.pt_acknowledge]
  · rw [TxFlow.afterAck_paced h, TxFlow.pt_acknowledge]

theorem TxFlow.acked_afterAck : (f.afterAck s k).acked = f.ackedTo k.word4.toNat := by
  by_cases h : k.ece ∧ f.maySlow s.time
  · rw [TxFlow.afterAck_slow h, TxFlow.acked_slow, TxFlow.acked_acknowledge]
  · rw [TxFlow.afterAck_paced h, TxFlow.acked_acknowledge]

theorem TxFlow.unacked_afterAck : (f.afterAck s k).unacked = f.unreleased (f.ackedTo k.word4.toNat) := by
  by_cases h : k.ece ∧ f.maySlow s.time
  · rw [TxFlow.afterAck_slow h, TxFlow.unacked_slow, TxFlow.unacked_acknowledge]
  · rw [TxFlow.afterAck_paced h, TxFlow.unacked_acknowledge]

theorem TxFlow.timeout_afterAck :
    (f.afterAck s k).timeout = if psnBefore f.acked k.word4.toNat = true then (s.time, 1, 0) else f.timeout := by
  have hack : (f.acknowledge (f.ackedTo k.word4.toNat) (f.unreleased (f.ackedTo k.word4.toNat)) (psnBefore f.acked k.word4.toNat) s.time).timeout =
      if psnBefore f.acked k.word4.toNat = true then (s.time, 1, 0) else f.timeout := by
    split
    · next h => rw [h, TxFlow.timeout_progress]
    · next h => rw [Bool.eq_false_of_not_eq_true h, TxFlow.timeout_standstill]
  by_cases h : k.ece ∧ f.maySlow s.time
  · rw [TxFlow.afterAck_slow h, TxFlow.timeout_slow, hack]
  · rw [TxFlow.afterAck_paced h, hack]

end

theorem TxFlow.maySlow_iff (f : TxFlow) (now : Nat) : f.maySlow now = true ↔ ∀ u, f.halvedAt = some u → u + 2250 ≤ now := by
  unfold TxFlow.maySlow
  split <;> simp_all

section
variable {s : State} {port : Port} {k : Packet} {f : TxFlow}

/-! ### ACK (R309, R310) -/

/-- ACK changes the flow, sends again what the receiver lacks, and then looks whether a snapshot or a remote condition is served. -/
theorem exec_ack (hack : s.ackFlow port k 1 = .ok f) (hflow : s.txFlow f.fid = some f) :
    ∃ s1 : State, exec (.ack port k) s = .next ((s1.flowIdle (f.afterAck s k)).settleRemote f.pt) ∧
      s1.txFlow f.fid = some (f.afterAck s k) ∧ SameMemory s s1 := by
  change ∃ s1, execAck port k s = _ ∧ _
  unfold execAck
  rw [hack]
  dsimp -zeta only
  extract_lets a before progress acked openMsgs rest sack got top holes s1 s2 cap slow s3
  have hsent : Emits s1 s2 := State.emits_originateAll holes f.pt _ s1
  let g := f.acknowledge acked rest progress s.time
  have hg : s2.txFlow f.fid = some g := (hsent.txFlow _).trans (State.txFlow_modTx hflow fun _ => rfl)
  have hcap : cap = 1000 * s.portRate f.port := congrArg (1000 * ·) (hsent.rates f.port)
  have htime : s2.time = s.time := hsent.time
  have hslow : slow = f.maySlow s.time := htime ▸ rfl
  have hmem : SameMemory s s3 := by
    unfold s3
    split <;> exact hsent.sameMemory
  have hfound : s3.txFlow f.fid = some (f.afterAck s k) := by
    have hafter : f.afterAck s k = if k.ece ∧ slow then g.slow cap s2.time else g := by
      rw [hslow, hcap, htime]
      rfl
    rw [hafter]
    unfold s3
    split
    · exact State.txFlow_modTx hg fun _ => rfl
    · exact hg
  refine ⟨s3, ?_, hfound, hmem⟩
  split
  · next hsome =>
    cases hsome.symm.trans hfound
    rw [TxFlow.pt_afterAck]
  · next hnone => cases hnone.symm.trans hfound
/-! ### NACK (R311, R313) -/

/-- Packets numbered from 0, the first with OPEN, to be sent again (R311). -/
def renumbered (l : List Packet) : List Packet := l.zipIdx.map fun x => { x.1 with psn := wd x.2, isOpen := x.2 == 0, retx := true }

/-- A flow that is opened anew with what it has not acknowledged (R311). -/
def TxFlow.reopen (now : Nat) (l : List Packet) (f : TxFlow) : TxFlow :=
  { f with unacked := renumbered l, next := (renumbered l).length, acked := 0, since := now, backoff := 1, expiries := 0 }

theorem renumbered_heads (l : List Packet) :
    (renumbered l).map (fun y => (y.psn, y.isOpen, y.retx)) = (List.range l.length).map fun i => (wd i, i == 0, true) := by
  rw [renumbered, List.map_map, List.range_eq_range', ← List.zipIdx_map_snd, List.map_map]
  rfl

theorem renumbered_payloads (l : List Packet) : (renumbered l).map (·.payload) = l.map (·.payload) := by
  conv_rhs => rw [← List.zipIdx_map_fst 0 l, List.map_map]
  rw [renumbered, List.map_map]
  rfl

theorem exec_nack_noFlow (hnack : s.ackFlow port k 2 = .ok f) (hflow : s.txFlow f.fid = some f) (hcode : k.nackCode = 3) :
    ∃ t, exec (.nack port k) s = .next t ∧ t.txFlow f.fid = some (f.reopen s.time f.unacked) ∧ SameMemory s t := by
  obtain ⟨t, hsent, hexec⟩ : ∃ t, Emits (s.modTx f.fid (TxFlow.reopen s.time f.unacked)) t ∧ exec (.nack port k) s = .next t := by
    change ∃ t, _ ∧ execNack port k s = _
    unfold execNack
    rw [hnack]
    dsimp only
    rw [if_pos hcode]
    exact ⟨_, State.emits_originateAll (renumbered f.unacked) f.pt id _, rfl⟩
  exact ⟨t, hexec, (hsent.txFlow _).trans (State.txFlow_modTx hflow fun _ => rfl), hsent.sameMemory⟩

theorem exec_nack_fails (hnack : s.ackFlow port k 2 = .ok f) (hcode : k.nackCode ≠ 3) :
    exec (.nack port k) s = .next (s.flowFails f (if k.nackCode = 1 then 2 else 4)) := by
  change execNack port k s = _
  unfold execNack
  rw [hnack]
  exact congrArg Host.Outcome.next (if_neg hcode)

theorem State.flowFails_snapshot (why : Nat) (h : f.user ≠ 0) :
    s.flowFails f why = (s.closeFlows fun x => x.fid == f.fid).complete f.pt f.key 0x0D := if_neg h

theorem State.flowFails_cascade (why : Nat) (h : f.user = 0) :
    s.flowFails f why = (s.closeFlows fun x => x.fid == f.fid).memberLost f.key (addrPos f.dst) why := if_pos h

/-! ### Timeouts and the pacing rate (R309, R310) -/

/-- Packets that are not acknowledged, oldest first. -/
def TxFlow.pend (f : TxFlow) : List Packet := f.unacked.filter fun y => decide ((y.psn.toNat + 2 ^ 32 - f.acked) % 2 ^ 32 < 2 ^ 31)

/-- A flow after a timeout: one more in a row, and twice the wait, up to 64 times (R309). -/
def TxFlow.expire (now : Nat) (f : TxFlow) : TxFlow := { f with expiries := f.expiries + 1, backoff := min 64 (2 * f.backoff), since := now }

/-- A flow whose pacing rate is raised, up to the port's (R310). -/
def TxFlow.raiseRate (cap now : Nat) (f : TxFlow) : TxFlow := { f with rate := min cap (f.rate + cap / 16), raisedAt := now }

variable {fid : Word}

theorem exec_rtoExpire_early (hflow : s.txFlow fid.toNat = some f) (h : f.pend = [] ∨ s.time < f.since + s.reg Reg.fabricQwtRto * f.backoff) :
    exec (.rtoExpire fid) s = .next s := by
  change execRtoExpire fid s = _
  unfold execRtoExpire
  rw [hflow]
  change Host.Outcome.next (match f.pend with | [] => _ | x :: _ => _) = _
  split
  · rfl
  · next hpend =>
    exact congrArg Host.Outcome.next (if_pos (h.resolve_left (by simp [hpend])))

theorem exec_rtoExpire_due (hflow : s.txFlow fid.toNat = some f) {x : Packet} {rest : List Packet} (hpend : f.pend = x :: rest)
    (hdue : f.since + s.reg Reg.fabricQwtRto * f.backoff ≤ s.time) :
    exec (.rtoExpire fid) s = .next (if s.reg Reg.fabricQwtRetry ≤ f.expiries + 1 then s.flowFails f 4
      else (s.modTx f.fid (TxFlow.expire s.time)).originate f.pt { x with retx := true }) := by
  change execRtoExpire fid s = _
  unfold execRtoExpire
  rw [hflow]
  change Host.Outcome.next (match f.pend with | [] => _ | x :: _ => _) = _
  rw [hpend]
  exact congrArg Host.Outcome.next (if_neg (Nat.not_lt.mpr hdue))

theorem exec_pacingRaise (hflow : s.txFlow fid.toNat = some f) :
    exec (.pacingRaise fid) s = .next (if s.time < f.raisedAt + 4500 then s
      else s.modTx f.fid (TxFlow.raiseRate (1000 * s.portRate f.port) s.time)) := by
  change execPacingRaise fid s = _
  unfold execPacingRaise
  rw [hflow]
  rfl

end

/-- Settles O41: each command by its equation; the packets sent again leave the flows as they are. -/
theorem flowSender : Obligations.FlowSender := by
  unfold Obligations.FlowSender
  intro s port k f fid
  refine ⟨fun hack hflow => ?ack, fun hnack hflow => ⟨fun hcode => ?reopens, fun hcode huser => ?snapshotEnds, fun hcode huser => ?partnerLost⟩,
    fun hflow => ⟨exec_rtoExpire_early hflow, fun x rest hpend hdue => ⟨fun hfew => ?sendsAgain, fun hmany => ?fails⟩⟩,
    fun hflow hdue => ?raises, fun hflow hearly => ?waits⟩
  case ack =>
    obtain ⟨s1, hexec, hfound, hmem⟩ := exec_ack hack hflow
    extract_lets before acked cap
    have hbefore : before = psnBefore := rfl
    have hacked : acked = f.ackedTo k.word4.toNat := rfl
    have htimeout : (f.afterAck s k).timeout = _ := TxFlow.timeout_afterAck
    refine ⟨s1, f.afterAck s k, hexec, hfound, TxFlow.acked_afterAck.trans hacked.symm, ?_, ?_, ?_, ?_, ?_, ?_, hmem⟩
    · rw [TxFlow.unacked_afterAck, hbefore, hacked]
      exact fun y _ h => TxFlow.not_mem_unreleased h
    · rw [TxFlow.unacked_afterAck, hbefore, hacked]
      exact fun y hy h => TxFlow.mem_unreleased_of_open hy h
    · rw [hbefore]
      intro h
      rw [if_pos h] at htimeout
      simpa [TxFlow.timeout] using htimeout
    · rw [hbefore]
      intro h
      rw [if_neg (ne_true_of_eq_false h)] at htimeout
      simpa [TxFlow.timeout] using htimeout
    · rintro h
      have hpaced : ¬(k.ece ∧ f.maySlow s.time) := by
        rintro ⟨hece, hfree⟩
        rcases h with hno | ⟨u, hu, hlt⟩
        · exact absurd hece (ne_true_of_eq_false hno)
        · exact absurd ((f.maySlow_iff s.time).mp hfree u hu) (Nat.not_le.mpr hlt)
      rw [TxFlow.afterAck_paced hpaced, TxFlow.rate_acknowledge]
    · intro hece hfree
      rw [TxFlow.afterAck_slow ⟨hece, (f.maySlow_iff s.time).mpr hfree⟩, TxFlow.rate_slow, TxFlow.rate_acknowledge, TxFlow.halvedAt_slow]
      exact ⟨rfl, rfl⟩
  case reopens =>
    obtain ⟨t, hexec, hfound, hmem⟩ := exec_nack_noFlow hnack hflow hcode
    exact ⟨t, _, hexec, hfound, rfl, by simp [TxFlow.reopen, renumbered], renumbered_heads _, renumbered_payloads _, hmem⟩
  case snapshotEnds => rw [exec_nack_fails hnack hcode, State.flowFails_snapshot _ huser]
  case partnerLost => rw [exec_nack_fails hnack hcode, State.flowFails_cascade _ huser]
  case sendsAgain =>
    refine ⟨s.modTx f.fid (TxFlow.expire s.time), ?_, ?_, rfl⟩
    · rw [exec_rtoExpire_due hflow hpend hdue, if_neg (Nat.not_le.mpr hfew)]
    · exact (congrArg (fun n => (s.modTx n _).txFlow fid.toNat) (State.fid_of_txFlow hflow)).trans (State.txFlow_modTx hflow fun _ => rfl)
  case fails =>
    rw [exec_rtoExpire_due hflow hpend hdue, if_pos hmany]
    split
    · next huser => rw [State.flowFails_cascade _ huser]
    · next huser => rw [State.flowFails_snapshot _ huser]
  case raises =>
    refine ⟨s.modTx f.fid (TxFlow.raiseRate (1000 * s.portRate f.port) s.time), ?_, ?_, rfl⟩
    · rw [exec_pacingRaise hflow, if_neg (Nat.not_lt.mpr hdue)]
    · exact (congrArg (fun n => (s.modTx n _).txFlow fid.toNat) (State.fid_of_txFlow hflow)).trans (State.txFlow_modTx hflow fun _ => rfl)
  case waits => rw [exec_pacingRaise hflow, if_pos hearly]

end Sys2Proof.Machine
end

section
/-! PROOFS. What messages and chunks on their way to the members of a group change, and what they leave alone (R275, R279 to R281). -/
namespace Sys2Proof.Machine

/-! ### Messages (R307, R308) -/

/-- What tells a sending flow from the others. -/
def TxFlow.route (f : TxFlow) : Nat × Nat × BitVec 128 × Nat × Nat × Nat := (f.fid, f.pt, f.dst, f.user, f.key, f.port)

/-- What chunks and messages to members can change: what egress changes, the flows' numbers and packets, the bytes moved, and the chunks that have
been sent. -/
structure Dispatches (s t : State) : Prop extends BesideJobs s t where
  groups : t.comp.casc.groups = s.comp.casc.groups
  inbox : t.comp.casc.inbox = s.comp.casc.inbox
  runs : t.comp.casc.runs = s.comp.casc.runs
  rounds : t.comp.casc.rounds = s.comp.casc.rounds
  revs : t.comp.casc.revs = s.comp.casc.revs
  flows : t.comp.fab.tx.map TxFlow.route = s.comp.fab.tx.map TxFlow.route
  regs : ∀ o, ¬ EgressReg (regHome o) → t.getReg o = s.getReg o

/-- A message changes no chunk that has been sent. -/
structure Messages (s t : State) : Prop extends Dispatches s t where
  sent : t.comp.casc.sent = s.comp.casc.sent

theorem Dispatches.refl (s : State) : Dispatches s s := ⟨.refl s, rfl, rfl, rfl, rfl, rfl, rfl, fun _ _ => rfl⟩

theorem Dispatches.trans {s t u : State} (a : Dispatches s t) (b : Dispatches t u) : Dispatches s u :=
  ⟨a.toBesideJobs.trans b.toBesideJobs, b.groups.trans a.groups, b.inbox.trans a.inbox, b.runs.trans a.runs, b.rounds.trans a.rounds,
    b.revs.trans a.revs, b.flows.trans a.flows, fun o ho => (b.regs o ho).trans (a.regs o ho)⟩

theorem Dispatches.forEach {α : Type} (l : List α) (f : α → State → State) (s : State) (h : ∀ x s, Dispatches s (f x s)) :
    Dispatches s (forEach l f s) :=
  forEach_keeps (P := Dispatches s) f l s (.refl s) fun x _ t ht => ht.trans (h x t)

theorem Messages.refl (s : State) : Messages s s := ⟨.refl s, rfl⟩

theorem Messages.trans {s t u : State} (a : Messages s t) (b : Messages t u) : Messages s u :=
  ⟨a.toDispatches.trans b.toDispatches, b.sent.trans a.sent⟩

theorem Messages.forEach {α : Type} (l : List α) (f : α → State → State) (s : State) (h : ∀ x s, Messages s (f x s)) :
    Messages s (forEach l f s) :=
  forEach_keeps (P := Messages s) f l s (.refl s) fun x _ t ht => ht.trans (h x t)

theorem Emits.messages {s t : State} (h : Emits s t) : Messages s t :=
  ⟨⟨h.toBesideJobs, congrArg Cascade.groups h.casc, congrArg Cascade.inbox h.casc, congrArg Cascade.runs h.casc, congrArg Cascade.rounds h.casc,
    congrArg Cascade.revs h.casc, congrArg (List.map TxFlow.route) h.flows, h.regs⟩, congrArg Cascade.sent h.casc⟩

theorem State.messages_modTx (s : State) (fid : Nat) {f : TxFlow → TxFlow} (hf : ∀ x, (f x).route = x.route) : Messages s (s.modTx fid f) := by
  refine ⟨⟨s.besideJobs_modFab _, rfl, rfl, rfl, rfl, rfl, ?_, fun _ _ => rfl⟩, rfl⟩
  change (s.comp.fab.tx.map fun x => if x.fid == fid then f x else x).map TxFlow.route = _
  rw [List.map_map]
  refine List.map_congr_left fun x _ => ?_
  rw [Function.comp_apply]
  split
  · exact hf x
  · rfl

theorem State.messages_sendMsg (s : State) (fid cls : Nat) (prov : Option Nat) (bytes : List Byte) : Messages s (s.sendMsg fid cls prov bytes) := by
  unfold State.sendMsg
  split
  · exact .refl s
  · extract_lets segs n k ks numbered
    have hnumbered : Messages s numbered := s.messages_modTx fid fun _ => rfl
    exact hnumbered.trans (numbered.emits_originateAll ks _ id).messages

theorem State.messages_cascMsg (s : State) (slot rank : Nat) (prov : Option Nat) (bytes : List Byte) : Messages s (s.cascMsg slot rank prov bytes) := by
  unfold State.cascMsg
  extract_lets a
  split
  · exact s.messages_sendMsg _ _ _ _
  · exact .refl s

theorem State.messages_cascAll (s : State) (slot : Nat) (bytes : List Byte) : Messages s (s.cascAll slot bytes) :=
  .forEach _ _ s fun _ t => t.messages_cascMsg _ _ _ _

/-! ### Chunks (R280, R281) -/

theorem State.dispatches_sent (s : State) (f : Cascade → List SentChunk) : Dispatches s (s.modCasc fun c => { c with sent := f c }) :=
  ⟨s.besideJobs_modCasc _, rfl, rfl, rfl, rfl, rfl, rfl, fun _ _ => rfl⟩

theorem State.messages_moveBytes (s : State) (unit pt n : Nat) : Messages s (s.moveBytes unit pt n) :=
  ⟨⟨⟨⟨rfl, fun h => h⟩, rfl, rfl, rfl, rfl⟩, rfl, rfl, rfl, rfl, rfl, rfl, fun _ _ => rfl⟩, rfl⟩

theorem State.messages_moveChunk (s : State) (slot : Nat) (seq : Option Nat) (c : Chunk) : Messages s (s.moveChunk slot seq c) := by
  unfold State.moveChunk
  extract_lets g sequenced
  have hsequenced : Messages s sequenced := by
    unfold sequenced
    split
    · exact s.messages_moveBytes _ _ _
    · exact .refl s
  split
  · exact hsequenced.trans (State.messages_moveBytes _ _ _ _)
  · exact hsequenced

theorem State.dispatches_sendChunk (s : State) (slot rank : Nat) (seq : Option Nat) (c : Chunk) : Dispatches s (s.sendChunk slot rank seq c) := by
  unfold State.sendChunk
  extract_lets g old run on c' put
  have hput : ∀ (t : State) (c : Chunk) (n : Nat), Dispatches t (put t c n) := fun t c n => by
    unfold put
    extract_lets cleared wait e listed
    have hlisted : Dispatches t listed := (t.dispatches_sent _).trans (cleared.dispatches_sent _)
    split
    · exact hlisted
    · exact hlisted.trans ((listed.messages_moveChunk _ _ _).trans (State.messages_cascMsg _ _ _ _ _)).toDispatches
  clear_value old
  cases old with
  | none => exact hput s c' 0
  | some o =>
    dsimp only
    split
    · exact .refl s
    · split
      · exact hput s c' _
      · have hretracted : Dispatches s (if o.gone then s else s.cascMsg slot rank none (o.chunk.ctl 2 g.epoch)) := by
          split
          · exact .refl s
          · exact (s.messages_cascMsg _ _ _ _).toDispatches
        exact hretracted.trans (hput _ _ _)

theorem State.dispatches_retractSent (s : State) (slot : Nat) (p : SentChunk → Bool) : Dispatches s (s.retractSent slot p) := by
  unfold State.retractSent
  extract_lets g l told
  have htold : Dispatches s told := .forEach l _ s fun _ t => (t.messages_cascMsg _ _ _ _).toDispatches
  exact htold.trans (told.dispatches_sent _)

/-! ### Rounds (R275) -/

theorem State.dispatches_pumpRound (s : State) (slot round ident step : Nat) : Dispatches s (s.pumpRound slot round ident step) := by
  unfold State.pumpRound
  extract_lets g careful
  refine .forEach _ _ s fun m t => ?_
  split
  · exact .refl t
  · split
    · exact t.dispatches_sendChunk _ _ _ _
    · split
      · exact .refl t
      · exact t.dispatches_retractSent _ _

/-- Whether a round is that of a slot, a number, an identity and a step. -/
def RoundAcc.isFor (slot round ident step : Nat) (r : RoundAcc) : Bool := r.slot == slot && r.round == round && r.ident == ident && r.step == step

theorem RoundAcc.isFor_iff {slot round ident step : Nat} {r : RoundAcc} :
    r.isFor slot round ident step = true ↔ r.slot = slot ∧ r.round = round ∧ r.ident = ident ∧ r.step = step := by
  simp [RoundAcc.isFor, and_assoc]

theorem State.modRound_rounds (s : State) (slot round ident step : Nat) (f : RoundAcc → RoundAcc) :
    (s.modRound slot round ident step f).comp.casc.rounds = if s.comp.casc.rounds.any (RoundAcc.isFor slot round ident step) then
      s.comp.casc.rounds.map (fun r => if r.isFor slot round ident step then f r else r)
    else s.comp.casc.rounds ++ [f { slot := slot, round := round, ident := ident, step := step }] :=
  apply_ite Cascade.rounds _ _ _

/-- A change of a round changes the rounds alone. -/
theorem State.modRound_rest (s : State) (slot round ident step : Nat) (f : RoundAcc → RoundAcc) :
    { s.modRound slot round ident step f with
      comp := { (s.modRound slot round ident step f).comp with
        casc := { (s.modRound slot round ident step f).comp.casc with rounds := s.comp.casc.rounds } } } = s := by
  unfold State.modRound State.modCasc State.modComp
  dsimp only
  split <;> rfl

/-- A round is found as changed, where the change keeps what names it. -/
theorem State.round_modRound (s : State) (slot round ident step : Nat) {f : RoundAcc → RoundAcc}
    (hf : ∀ r, RoundAcc.isFor slot round ident step r = true → RoundAcc.isFor slot round ident step (f r) = true) :
    (s.modRound slot round ident step f).round slot round ident step =
      some (f ((s.round slot round ident step).getD { slot := slot, round := round, ident := ident, step := step })) := by
  have hopened : RoundAcc.isFor slot round ident step { slot := slot, round := round, ident := ident, step := step } = true := by
    simp [RoundAcc.isFor]
  have hfound := find?_changeOrOpen hf hopened s.comp.casc.rounds
  rw [← s.modRound_rounds] at hfound
  exact hfound

/-- What carrying a round through its groups can change: what chunks change, and this member's own entries of the rounds. -/
structure Drives (s t : State) : Prop extends BesideJobs s t where
  groups : t.comp.casc.groups = s.comp.casc.groups
  inbox : t.comp.casc.inbox = s.comp.casc.inbox
  revs : t.comp.casc.revs = s.comp.casc.revs
  regs : ∀ o, ¬ EgressReg (regHome o) → t.getReg o = s.getReg o
  lists : ∀ a ∈ s.comp.casc.rounds, ∃ a' ∈ t.comp.casc.rounds,
    a'.slot = a.slot ∧ a'.round = a.round ∧ a'.ident = a.ident ∧ a'.step = a.step ∧ a'.recv = a.recv

theorem Drives.trans {s t u : State} (a : Drives s t) (b : Drives t u) : Drives s u := by
  refine ⟨a.toBesideJobs.trans b.toBesideJobs, b.groups.trans a.groups, b.inbox.trans a.inbox, b.revs.trans a.revs,
    fun o ho => (b.regs o ho).trans (a.regs o ho), fun x hx => ?_⟩
  obtain ⟨y, hy, hyslot, hyround, hyident, hystep, hyrecv⟩ := a.lists x hx
  obtain ⟨z, hz, hzslot, hzround, hzident, hzstep, hzrecv⟩ := b.lists y hy
  exact ⟨z, hz, hzslot.trans hyslot, hzround.trans hyround, hzident.trans hyident, hzstep.trans hystep, hzrecv.trans hyrecv⟩

theorem Dispatches.drives {s t : State} (h : Dispatches s t) : Drives s t :=
  ⟨h.toBesideJobs, h.groups, h.inbox, h.revs, h.regs, fun a ha => ⟨a, h.rounds ▸ ha, rfl, rfl, rfl, rfl, rfl⟩⟩

theorem Drives.refl (s : State) : Drives s s := (Dispatches.refl s).drives

/-- The fields of a state that a change of a round keeps. -/
theorem State.modRound_kept (s : State) (slot round ident step : Nat) (f : RoundAcc → RoundAcc) :
    let t := s.modRound slot round ident step f
    BesideJobs s t ∧ t.comp.casc.groups = s.comp.casc.groups ∧ t.comp.casc.inbox = s.comp.casc.inbox ∧ t.comp.casc.revs = s.comp.casc.revs ∧
      t.comp.fab = s.comp.fab ∧ t.regs = s.regs :=
  have h := s.modRound_rest slot round ident step f
  ⟨by unfold State.modRound; exact s.besideJobs_modCasc _, (congrArg (·.comp.casc.groups) h :), (congrArg (·.comp.casc.inbox) h :),
    (congrArg (·.comp.casc.revs) h :), (congrArg (·.comp.fab) h :), (congrArg State.regs h :)⟩

/-- Own entries that a member enters a round with. -/
def RoundAcc.enter (es : Option (List (List Byte))) (now : Nat) (a : RoundAcc) : RoundAcc :=
  { a with own := es, since := if a.own.isNone then now else a.since }

theorem State.drives_modRound_enter (s : State) (slot round ident step : Nat) (es : Option (List (List Byte))) (now : Nat) :
    Drives s (s.modRound slot round ident step (RoundAcc.enter es now)) := by
  obtain ⟨hbeside, hgroups, hinbox, hrevs, -, hregs⟩ := s.modRound_kept slot round ident step (RoundAcc.enter es now)
  refine ⟨hbeside, hgroups, hinbox, hrevs, fun o _ => by rw [State.getReg, hregs]; rfl, fun a ha => ?_⟩
  rw [s.modRound_rounds]
  split
  · refine ⟨_, List.mem_map_of_mem ha, ?_⟩
    split <;> exact ⟨rfl, rfl, rfl, rfl, rfl⟩
  · exact ⟨a, List.mem_append_left _ ha, rfl, rfl, rfl, rfl, rfl⟩

theorem State.drives_driveFrom (round ident step : Nat) (l : List Nat) (es : Option (List (List Byte))) (s : State) :
    Drives s (State.driveFrom round ident step l es s) := by
  induction l generalizing es s with
  | nil => exact .refl s
  | cons slot rest ih =>
    unfold State.driveFrom
    extract_lets entered pumped g
    have hentered : Drives s entered := by
      unfold entered
      split
      · exact .refl s
      · exact s.drives_modRound_enter slot round ident step es s.time
    exact (hentered.trans (entered.dispatches_pumpRound slot round ident step).drives).trans (ih _ _)

theorem State.drives_driveRound (s : State) (pt round ident step : Nat) : Drives s (s.driveRound pt round ident step) :=
  State.drives_driveFrom _ _ _ _ _ s

end Sys2Proof.Machine
end

section
/-! PROOFS. Arriving chunks (R257, R264, R266, R275, R279, R281, R282). -/
namespace Sys2Proof.Machine

/-! ### The message at the front of the inbox (R257) -/

theorem State.takeMsg_front {s : State} {m : Nat × Nat × List Byte} {rest : List (Nat × Nat × List Byte)} {p : List Byte → Bool}
    (hin : s.comp.casc.inbox = m :: rest) (hp : p m.2.2 = true) :
    s.takeMsg p = (some m, { s with comp := { s.comp with casc := { s.comp.casc with inbox := rest } } }) := by
  unfold State.takeMsg
  rw [hin]
  exact if_pos hp

theorem State.msgFrom_member {s : State} {pos pt gid epoch slot rank : Nat} (hslot : s.slotOfGid pt gid = some slot)
    (hepoch : (s.group slot).epoch ≤ epoch) (hrank : (s.group slot).members.findIdx? (· == pos) = some rank) :
    s.msgFrom pos pt gid epoch = (some (slot, rank), s) := by
  unfold State.msgFrom
  rw [hslot]
  dsimp only
  rw [if_neg (Nat.not_lt.mpr hepoch), hrank]

/-! ### Revisions (R281) -/

theorem State.oldRev_of_revs {s t : State} (h : t.comp.casc.revs = s.comp.casc.revs) (pt pos : Nat) (key : Chunk) (v : Nat) :
    t.oldRev pt pos key v = s.oldRev pt pos key v := congrArg (List.any · _) h

theorem State.oldRev_noteRev (s : State) (pt pos : Nat) (key : Chunk) (rev v : Nat) :
    (s.noteRev pt pos key rev).oldRev pt pos key v = decide (v < rev) := by
  have hrest : (s.comp.casc.revs.filter fun y => !(y.1 == pt && y.2.1 == pos && y.2.2.1 == key)).any
      (fun x => x.1 == pt && x.2.1 == pos && x.2.2.1 == key && decide (v < x.2.2.2)) = false := by
    refine List.any_eq_false.mpr fun x hx => ?_
    have hother := (List.mem_filter.mp hx).2
    rw [Bool.not_eq_true'] at hother
    rw [hother]
    exact Bool.false_ne_true
  change (_ || List.any _ _) = _
  rw [hrest]
  simp

/-! ### A chunk that is used (R266, R279, R282) -/

/-- The state once a sound chunk has been noted and confirmed (R279, R281). -/
def State.confirmChunk (s : State) (slot rank pos pt : Nat) (key c : Chunk) : State :=
  (s.noteRev pt pos key c.rev).cascMsg slot rank none (c.ctl 1 (s.group slot).epoch)

theorem State.confirmChunk_messages (s : State) (slot rank pos pt : Nat) (key c : Chunk) :
    Messages (s.noteRev pt pos key c.rev) (s.confirmChunk slot rank pos pt key c) := State.messages_cascMsg _ _ _ _ _

theorem State.confirmChunk_oldRev (s : State) (slot rank pos pt : Nat) (key c : Chunk) (v : Nat) :
    (s.confirmChunk slot rank pos pt key c).oldRev pt pos key v = decide (v < c.rev) :=
  (State.oldRev_of_revs (s.confirmChunk_messages slot rank pos pt key c).revs pt pos key v).trans (s.oldRev_noteRev pt pos key c.rev v)

/-- A chunk stands with its run in place of what the member sent of it before. -/
def CascRun.take (rank : Nat) (c : Chunk) (r : CascRun) : CascRun :=
  { r with recv := (rank, c) :: r.recv.filter fun x => !(x.1 == rank && x.2.same c) }

section
variable {s s0 : State} {kind slot rank pos pt : Nat} {c : Chunk} {rest : List (Nat × Nat × List Byte)}

theorem State.recvChunk_eq (harr : ChunkArrives s s0 kind slot rank pos pt c rest) (ops : Nat → Bool) (hit : Bool)
    (also : CascCtx → Chunk → State → State) :
    s.recvChunk kind ops hit also =
      if hit || !s0.chunkOk (s0.ctxOf pt slot c.step c.mb c.tag ops) c then s0.chunkBad slot rank pos pt c
      else (s0.ctxOf pt slot c.step c.mb c.tag ops).elim (s0.confirmChunk slot rank pos pt c.key c) fun k =>
        (also k c (((s0.confirmChunk slot rank pos pt c.key c).modRun k (CascRun.take rank c)).peerLate pt k.record c.step c.gid rank)).pump k := by
  obtain ⟨hs0, bytes, hin, hkind, hc, hslot, hepoch, hrank, hnew⟩ := harr
  unfold State.recvChunk
  rw [State.takeMsg_front hin hkind, ← hs0]
  dsimp only
  rw [← hc, State.msgFrom_member hslot hepoch hrank]
  dsimp only
  rw [hnew, if_neg Bool.false_ne_true]
  cases s0.ctxOf pt slot c.step c.mb c.tag ops <;> rfl

theorem chunkUsed_of_recvChunk (harr : ChunkArrives s s0 kind slot rank pos pt c rest) (ops : Nat → Bool) (also : CascCtx → Chunk → State → State) :
    ChunkUsed s0 (fun hit s => .next (s.recvChunk kind ops hit also)) s slot rank pos pt c (s0.ctxOf pt slot c.step c.mb c.tag ops) also := by
  refine ⟨fun hit hbad => ?recalled, fun hok => ⟨s0.confirmChunk slot rank pos pt c.key c, rfl, s0.confirmChunk_oldRev slot rank pos pt c.key c, ?_, ?_, ?_,
    fun hnone => ?kept, fun k hk => ⟨(s0.confirmChunk slot rank pos pt c.key c).modRun k (CascRun.take rank c), ?used, ?_, State.modRun_rest _ k _⟩⟩⟩
  case recalled =>
    have hc : (hit || !s0.chunkOk (s0.ctxOf pt slot c.step c.mb c.tag ops) c) = true := by
      rcases hbad with h | h <;> rw [h]
      · rfl
      · exact Bool.or_true _
    exact congrArg Host.Outcome.next ((State.recvChunk_eq harr ops hit also).trans (if_pos hc))
  case kept =>
    dsimp only
    rw [State.recvChunk_eq harr, hok, hnone]
    rfl
  case used =>
    dsimp only
    rw [State.recvChunk_eq harr, hok, hk]
    rfl
  · exact (s0.confirmChunk_messages slot rank pos pt c.key c).inbox
  · exact (s0.confirmChunk_messages slot rank pos pt c.key c).sameMemory
  · exact (s0.confirmChunk_messages slot rank pos pt c.key c).parts
  · exact congrArg CascRun.recv (State.crun_modRun (f := CascRun.take rank c) _ fun _ h => h)

end

/-! ### A list of a scalar round (R275) -/

/-- A list received for a stage, in place of one of its revision. -/
def RoundAcc.take (stage rev : Nat) (es : List (List Byte)) (a : RoundAcc) : RoundAcc :=
  { a with recv := (a.recv.filter fun r => !(r.1 == stage && r.2.1 == rev)) ++ [(stage, rev, es)] }

/-- Entries of a SCALAR chunk. -/
def Chunk.entries (c : Chunk) : List (List Byte) := (List.range (u8 c.payload 1)).map fun i => slice c.payload (8 + 32 * i) 32

/-- What names a SCALAR chunk for the revisions seen (entry 50). -/
def Chunk.roundKey (c : Chunk) : Chunk := { c.key with first := roundHead (u8 c.payload 0) (u16 c.payload 2) }

/-- The state once a list stands in its round. -/
def State.takeList (s : State) (slot rank pos pt : Nat) (c : Chunk) : State :=
  (s.confirmChunk slot rank pos pt c.roundKey c).modRound slot (u8 c.payload 0) (u16 c.payload 2) c.step
    (RoundAcc.take c.stage c.rev c.entries)

/-- A round goes on with the lists received: a formation round by itself, any other through the groups of its partition. -/
def State.continueRound (s : State) (slot pt round ident step : Nat) : State :=
  if round = 0 then s.pumpRound slot 0 ident step else s.driveRound pt round ident step

theorem State.drives_continueRound (s : State) (slot pt round ident step : Nat) : Drives s (s.continueRound slot pt round ident step) := by
  unfold State.continueRound
  split
  · exact (s.dispatches_pumpRound _ _ _ _).drives
  · exact s.drives_driveRound _ _ _ _

theorem State.mem_rounds_take (s : State) (slot round ident step stage rev : Nat) (es : List (List Byte)) :
    ∃ a ∈ (s.modRound slot round ident step (RoundAcc.take stage rev es)).comp.casc.rounds,
      a.slot = slot ∧ a.round = round ∧ a.ident = ident ∧ a.step = step ∧ (stage, rev, es) ∈ a.recv := by
  have hkeeps : ∀ r : RoundAcc, r.isFor slot round ident step = true → (r.take stage rev es).isFor slot round ident step = true := fun _ h => h
  have hfound := s.round_modRound slot round ident step hkeeps
  obtain ⟨hslot, hround, hident, hstep⟩ := RoundAcc.isFor_iff.mp (List.find?_some hfound)
  exact ⟨_, List.mem_of_find?_eq_some hfound, hslot, hround, hident, hstep, List.mem_append_right _ (List.mem_singleton.mpr rfl)⟩

section
variable {s s0 : State} {slot rank pos pt : Nat} {c : Chunk} {rest : List (Nat × Nat × List Byte)} {bytes : List Byte}

theorem exec_scalar (hs0 : s0 = { s with comp := { s.comp with casc := { s.comp.casc with inbox := rest } } })
    (hin : s.comp.casc.inbox = (pos, pt, bytes) :: rest) (hkind : isChunk 5 bytes = true) (hc : c = chunkOf bytes)
    (hslot : s0.slotOfGid pt c.gid = some slot)
    (hmember : u8 c.payload 0 ≠ 0 → (s0.group slot).epoch ≤ c.epoch ∧ (s0.group slot).members.findIdx? (· == pos) = some rank)
    (hform : u8 c.payload 0 = 0 → rank = ((s0.group slot).members.findIdx? (· == pos)).getD 0) (hnew : s0.oldRev pt pos c.roundKey c.rev = false)
    (hit : Bool) :
    exec (.scalar hit) s = .next (if hit || !s0.chunkOk none c then s0.chunkBad slot rank pos pt c
      else (s0.takeList slot rank pos pt c).continueRound slot pt (u8 c.payload 0) (u16 c.payload 2) c.step) := by
  have hfrom : (if u8 c.payload 0 = 0 then ((s0.slotOfGid pt c.gid).map fun i => (i, ((s0.group i).members.findIdx? (· == pos)).getD 0), s0)
      else s0.msgFrom pos pt c.gid c.epoch) = (some (slot, rank), s0) := by
    by_cases h : u8 c.payload 0 = 0
    · rw [if_pos h, hslot, hform h]
      rfl
    · rw [if_neg h, State.msgFrom_member hslot (hmember h).1 (hmember h).2]
  change execScalar hit s = _
  unfold execScalar
  rw [State.takeMsg_front hin hkind, ← hs0]
  dsimp only
  rw [← hc, hfrom]
  dsimp only
  rw [show s0.oldRev pt pos { c.key with first := roundHead (u8 c.payload 0) (u16 c.payload 2) } c.rev = false from hnew, if_neg Bool.false_ne_true]
  rfl

end

/-- Settles O34: each kind by the equation of its command; a message to a member changes neither runs, rounds nor revisions. -/
theorem chunksReceived : Obligations.ChunksReceived := by
  unfold Obligations.ChunksReceived
  intro s s0 slot rank pos pt c rest
  refine ⟨fun h => chunkUsed_of_recvChunk h _ _, fun h => chunkUsed_of_recvChunk h _ _, fun h => chunkUsed_of_recvChunk h _ _,
    fun h => chunkUsed_of_recvChunk h _ _, fun h => chunkUsed_of_recvChunk h _ _, ?scalar⟩
  intro bytes hs0 hin hkind hc hslot round ident key hmember hform hnew
  have hexec := exec_scalar hs0 hin hkind hc hslot hmember hform hnew
  refine ⟨fun hit hbad => ?recalled, fun hok => ?kept⟩
  case recalled =>
    rw [hexec, if_pos]
    rcases hbad with h | h <;> rw [h]
    · rfl
    · exact Bool.or_true _
  case kept =>
    have hmsg := s0.confirmChunk_messages slot rank pos pt c.roundKey c
    obtain ⟨hbeside, hgroups, hinbox, hrevs, -, -⟩ :=
      (s0.confirmChunk slot rank pos pt c.roundKey c).modRound_kept slot round ident c.step (RoundAcc.take c.stage c.rev c.entries)
    have hdrive := (s0.takeList slot rank pos pt c).drives_continueRound slot pt round ident c.step
    have hall := ((s0.besideJobs_modCasc _).trans (hmsg.toBesideJobs.trans hbeside)).trans hdrive.toBesideJobs
    subst hs0
    refine ⟨_, by rw [hexec, hok]; rfl, ?_, hall.sameMemory, hall.parts, fun v => ?_, ?_⟩
    · exact hdrive.inbox.trans (hinbox.trans hmsg.inbox)
    · exact (State.oldRev_of_revs (hdrive.revs.trans hrevs) pt pos key v).trans (State.confirmChunk_oldRev _ slot rank pos pt c.roundKey c v)
    · obtain ⟨a, ha, haslot, haround, haident, hastep, hlist⟩ :=
        (State.confirmChunk _ slot rank pos pt c.roundKey c).mem_rounds_take slot round ident c.step c.stage c.rev c.entries
      obtain ⟨a', ha', hslot', hround', hident', hstep', hrecv'⟩ := hdrive.lists a ha
      exact ⟨a', ha', hslot'.trans haslot, hround'.trans haround, hident'.trans haident, hstep'.trans hastep, hrecv' ▸ hlist⟩

end Sys2Proof.Machine
end

section
/-! PROOFS. What undoing a step leaves alone, and a group that abandons (R202, R257, R258, R281, R282). -/
namespace Sys2Proof.Machine

/-! ### The counts of RETRACT (R281) -/

/-- Homes of the registers that count RETRACT messages. -/
def RetractHome (o : Nat) : Prop := 0x2001000 ≤ o ∧ o < 0x2005000 ∧ o % 64 = 24

theorem retractHome_of_slot {slot : Nat} (h : slot < 256) : RetractHome (regHome (Reg.cascadeGrpRetract slot)) := by
  have hoff : Reg.cascadeGrpRetract slot = 0x2001018 + 0x40 * slot := rfl
  have hhome : regHome (Reg.cascadeGrpRetract slot) = Reg.cascadeGrpRetract slot := by rw [hoff]; exact if_neg (by omega)
  rw [hhome, hoff]
  exact ⟨by omega, by omega, by omega⟩

/-- The one home of an offset lies as far from a multiple of 64 as the offset. -/
theorem regHome_mod_64 (o : Nat) : regHome o % 64 = o % 64 := by
  unfold regHome
  split <;> omega

theorem RetractHome.ne_regHome {o off : Nat} (h : RetractHome o) (hoff : off % 64 ≠ 24) : o ≠ regHome off := by
  rintro rfl
  exact hoff (regHome_mod_64 off ▸ h.2.2)

theorem RetractHome.not_egressReg {o : Nat} (h : RetractHome o) : ¬ EgressReg o := by
  rintro (rfl | rfl | ⟨p, rfl | rfl⟩)
  · exact h.ne_regHome (by decide) rfl
  · exact h.ne_regHome (by decide) rfl
  · refine h.ne_regHome ?_ rfl
    change (0x2401038 + 0x100 * p.val) % 64 ≠ 24
    omega
  · refine h.ne_regHome ?_ rfl
    change (0x2401034 + 0x100 * p.val) % 64 ≠ 24
    omega

theorem RetractHome.not_reportReg {o : Nat} (h : RetractHome o) : ¬ ReportReg o := by
  obtain ⟨hlo, hhi, hmod⟩ := h
  rintro (hpost | rfl | rfl | ⟨v, rfl⟩)
  · have := hpost.place
    omega
  · exact absurd hhi (by decide)
  · exact absurd hhi (by decide)
  · have hoff : Reg.faultLost v = 0x2800010 + 0x4 * v := rfl
    have hhome : regHome (Reg.faultLost v) = Reg.faultLost v := by rw [hoff]; exact if_neg (by omega)
    omega

/-! ### What an instruction that goes on leaves alone -/

/-- The messages that wait, the canonical form and the counts of RETRACT are kept. -/
structure InboxKept (s t : State) : Prop where
  inbox : t.comp.casc.inbox = s.comp.casc.inbox
  canon : s.Canonical → t.Canonical
  retracts : s.Canonical → ∀ o, RetractHome (regHome o) → t.getReg o = s.getReg o

theorem InboxKept.refl (s : State) : InboxKept s s := ⟨rfl, fun h => h, fun _ _ _ => rfl⟩

theorem InboxKept.trans {s t u : State} (a : InboxKept s t) (b : InboxKept t u) : InboxKept s u :=
  ⟨b.inbox.trans a.inbox, fun h => b.canon (a.canon h), fun h o ho => (b.retracts (a.canon h) o ho).trans (a.retracts h o ho)⟩

theorem InboxKept.ite {c : Prop} [Decidable c] {s t u : State} (ht : InboxKept s t) (hu : InboxKept s u) : InboxKept s (if c then t else u) := by
  split
  · exact ht
  · exact hu

theorem InboxKept.forEach {α : Type} (l : List α) (f : α → State → State) (s : State) (h : ∀ x s, InboxKept s (f x s)) :
    InboxKept s (forEach l f s) :=
  forEach_keeps (P := InboxKept s) f l s (.refl s) fun x _ t ht => ht.trans (h x t)

/-- What undoing work leaves alone besides: memory and its poison marks, and the groups. -/
structure GroupsKept (s t : State) : Prop extends InboxKept s t where
  groups : t.comp.casc.groups = s.comp.casc.groups
  mem : t.mem = s.mem
  poison : t.poison = s.poison

theorem GroupsKept.refl (s : State) : GroupsKept s s := ⟨.refl s, rfl, rfl, rfl⟩

theorem GroupsKept.trans {s t u : State} (a : GroupsKept s t) (b : GroupsKept t u) : GroupsKept s u :=
  ⟨a.toInboxKept.trans b.toInboxKept, b.groups.trans a.groups, b.mem.trans a.mem, b.poison.trans a.poison⟩

theorem GroupsKept.ite {c : Prop} [Decidable c] {s t u : State} (ht : GroupsKept s t) (hu : GroupsKept s u) : GroupsKept s (if c then t else u) := by
  split
  · exact ht
  · exact hu

theorem GroupsKept.sameMemory {s t : State} (h : GroupsKept s t) : SameMemory s t := ⟨fun _ => by rw [h.mem], h.poison⟩

theorem GroupsKept.group {s t : State} (h : GroupsKept s t) (i : Nat) : t.group i = s.group i := congrArg (vget · i) h.groups

theorem Dispatches.groupsKept {s t : State} (h : Dispatches s t) : GroupsKept s t :=
  ⟨⟨h.inbox, h.canon, fun _ o ho => h.regs o ho.not_egressReg⟩, h.groups, h.mem, h.poison⟩

theorem Reports.groupsKept {s t : State} (h : Reports s t) : GroupsKept s t :=
  ⟨⟨congrArg (·.casc.inbox) h.comp, h.canon, fun hc o ho => h.regs hc o ho.not_reportReg⟩, congrArg (·.casc.groups) h.comp, h.mem, h.poison⟩

/-- A count outside the registers of RETRACT. -/
theorem State.groupsKept_bump (s : State) {off : Nat} (n : Nat) (h : off % 64 ≠ 24) : GroupsKept s (s.bump off n) :=
  ⟨⟨rfl, s.canonical_bump off n, fun hc o ho => s.getReg_bump_ne off o n hc (ho.ne_regHome h)⟩, rfl, rfl, rfl⟩

theorem State.groupsKept_modPart (s : State) (pt : Nat) (f : Part → Part) : GroupsKept s (s.modPart pt f) :=
  ⟨⟨rfl, fun h => h, fun _ _ _ => rfl⟩, rfl, rfl, rfl⟩

theorem State.groupsKept_modStep (s : State) (pt n : Nat) (f : StepSt → StepSt) : GroupsKept s (s.modStep pt n f) := s.groupsKept_modPart _ _

theorem State.groupsKept_modWeir (s : State) (f : Weir → Weir) : GroupsKept s (s.modWeir f) := ⟨⟨rfl, fun h => h, fun _ _ _ => rfl⟩, rfl, rfl, rfl⟩

theorem State.groupsKept_chargeStep (s : State) (pt n cause detail : Nat) : GroupsKept s (s.chargeStep pt n cause detail) := s.groupsKept_modWeir _

theorem State.groupsKept_forgetJets (s : State) (p : Nat → Nat → Nat → Bool) : GroupsKept s (s.forgetJets p) :=
  ⟨⟨rfl, fun h => h, fun _ _ _ => rfl⟩, rfl, rfl, rfl⟩

theorem State.groupsKept_arrays (s : State) (f : State → Vector ArraySt 72) : GroupsKept s { s with arrays := f s } :=
  ⟨⟨rfl, fun h => h, fun _ _ _ => rfl⟩, rfl, rfl, rfl⟩

theorem State.groupsKept_modCasc (s : State) {f : Cascade → Cascade} (hgroups : ∀ c, (f c).groups = c.groups)
    (hinbox : ∀ c, (f c).inbox = c.inbox) : GroupsKept s (s.modCasc f) :=
  ⟨⟨hinbox _, fun h => h, fun _ _ _ => rfl⟩, hgroups _, rfl, rfl⟩

theorem State.groupsKept_stepRec (s : State) (pt n : Nat) (r : Rec) : GroupsKept s (s.stepRec pt n r) := (s.reports_record _).groupsKept

/-! ### A step is undone and abandoned (R202, R257, R258) -/

theorem State.groupsKept_undoFrom (s : State) (pt n : Nat) : GroupsKept s (s.undoFrom pt n) := by
  unfold State.undoFrom
  extract_lets p later counted undone mine drop dropped forgotten
  have hcounted : GroupsKept s counted := by
    refine .ite (.refl s) (s.groupsKept_bump later ?_)
    change (0x1001010 + 0x400000 * 0 + 0x40 * pt) % 64 ≠ 24
    omega
  have hundone : GroupsKept s undone := hcounted.trans (counted.groupsKept_modPart _ _)
  have hdropped : GroupsKept s dropped := hundone.trans (undone.groupsKept_arrays fun _ => _)
  exact (hdropped.trans (dropped.groupsKept_forgetJets _)).trans (forgotten.groupsKept_modCasc (fun _ => rfl) fun _ => rfl)

/-- A group after it has abandoned a step: the next epoch, and whether a member was lost (R257, R258). -/
def Group.abandon (lost : Bool) (g : Group) : Group := { g with epoch := (g.epoch + 1) % 2 ^ 32, lost := g.lost || lost }

theorem State.abandonStep_again {s : State} {slot : Nat} (h : (s.group slot).st = 3) (n cause by_ : Nat) (lost : Option (Nat × Nat)) :
    s.abandonStep slot n cause by_ lost = s := if_pos h

theorem State.abandonStep_eq {s : State} {slot : Nat} (h : (s.group slot).st ≠ 3) (n cause by_ : Nat) (lost : Option (Nat × Nat)) :
    ∃ t, GroupsKept s t ∧ s.abandonStep slot n cause by_ lost = (t.modGroup slot (Group.abandon (cause == 1))).setGroupSt slot 3 := by
  unfold State.abandonStep
  extract_lets g told lossRec abandonRec recorded charged undone careful cleared moved
  refine ⟨cleared, ?_, if_neg h⟩
  have htold : GroupsKept s told := (s.messages_cascAll _ _).groupsKept
  have hcharged : GroupsKept s charged := (htold.trans (told.groupsKept_stepRec _ _ _)).trans (recorded.groupsKept_chargeStep _ _ _ _)
  have hcareful : GroupsKept s careful := (hcharged.trans (charged.groupsKept_undoFrom _ _)).trans (undone.groupsKept_modStep _ _ _)
  exact hcareful.trans (careful.groupsKept_modCasc (fun _ => rfl) fun _ => rfl)

/-- A group whose state is set keeps everything else, but for the time of the change. -/
theorem State.setGroupSt_group (s : State) (i st : Nat) : ∃ n, (s.setGroupSt i st).group i = { s.group i with st := st, since := n } := by
  unfold State.setGroupSt
  dsimp only
  split
  · next h => exact ⟨(s.group i).since, by rw [← h]⟩
  · refine ⟨s.time, ?_⟩
    rw [((State.posts_fire _ _).trans (State.posts_fire _ _)).besideWeir.group i, State.group_modGroup_same]

/-- A change of a group and its state leaves memory, the inbox and the registers that posting does not count in. -/
theorem State.inboxKept_setGroupSt (s : State) (i st : Nat) (f : Group → Group) : InboxKept s ((s.modGroup i f).setGroupSt i st) := by
  have hmod : ∀ (t : State) (g : Group → Group), InboxKept t (t.modGroup i g) := fun t g => ⟨rfl, fun h => h, fun _ _ _ => rfl⟩
  refine (hmod s f).trans ?_
  unfold State.setGroupSt
  dsimp only
  split
  · exact .refl _
  · exact (hmod _ _).trans ((State.posts_fire _ _).trans (State.posts_fire _ _)).reports.groupsKept.toInboxKept

theorem State.inboxKept_abandonStep (s : State) (slot n cause by_ : Nat) (lost : Option (Nat × Nat)) :
    InboxKept s (s.abandonStep slot n cause by_ lost) := by
  by_cases h : (s.group slot).st = 3
  · rw [State.abandonStep_again h]
    exact .refl s
  · obtain ⟨t, hkept, heq⟩ := State.abandonStep_eq h n cause by_ lost
    exact heq ▸ hkept.toInboxKept.trans (t.inboxKept_setGroupSt slot 3 _)

/-- A group that abandons a step waits at the boundary under the next epoch; memory is as before. -/
theorem State.abandonStep_group {s : State} {slot : Nat} (h : (s.group slot).st ≠ 3) (n cause by_ : Nat) (lost : Option (Nat × Nat)) :
    let t := s.abandonStep slot n cause by_ lost
    (t.group slot).st = 3 ∧ (t.group slot).epoch = ((s.group slot).epoch + 1) % 2 ^ 32 ∧ (t.group slot).lost = ((s.group slot).lost || cause == 1) ∧
      SameMemory s t := by
  obtain ⟨t, hkept, heq⟩ := State.abandonStep_eq h n cause by_ lost
  obtain ⟨now, hgroup⟩ := (t.modGroup slot (Group.abandon (cause == 1))).setGroupSt_group slot 3
  have hset : BesideJobs t _ := (t.besideJobs_modGroup slot (Group.abandon (cause == 1))).trans (State.besideJobs_setGroupSt _ slot 3)
  intro u
  have hu : u = (t.modGroup slot (Group.abandon (cause == 1))).setGroupSt slot 3 := heq
  rw [hu, hgroup, State.group_modGroup_same, hkept.group slot]
  exact ⟨rfl, rfl, rfl, fun a => (hset.sameMemory.1 a).trans (hkept.sameMemory.1 a), hset.poison.trans hkept.poison⟩

end Sys2Proof.Machine
end

section
/-! PROOFS. Groups form, are refused and time out (R255 to R258, R276). -/
namespace Sys2Proof.Machine

/-! ### What a member enters a formation round with (Table 10-2) -/

/-- Flows that are not a group's own, by what tells them apart. -/
theorem State.othersFlows_eq (s : State) (slot : Nat) : (s.comp.fab.tx.filter fun f => !(f.user == 0 && f.key == slot)).length =
    ((s.comp.fab.tx.map TxFlow.route).filter fun r => !(r.2.2.2.1 == 0 && r.2.2.2.2.1 == slot)).length := by
  rw [List.filter_map, List.length_map]
  rfl

/-- A list of own entries rests on the job, the groups, the sending flows and two registers alone. -/
theorem State.formList_congr {s t : State} (hparts : t.comp.parts = s.comp.parts) (hgroups : t.comp.casc.groups = s.comp.casc.groups)
    (hflows : t.comp.fab.tx.map TxFlow.route = s.comp.fab.tx.map TxFlow.route) (hnum : t.reg Reg.globalNumrev = s.reg Reg.globalNumrev)
    (hlic : t.reg Reg.globalLicstat = s.reg Reg.globalLicstat) (slot : Nat) (b : List Byte) (cands : List Nat) :
    t.formList slot b cands = s.formList slot b cands := by
  have hpart : ∀ pt, t.part pt = s.part pt := fun pt => congrArg (vget · pt) hparts
  have hgroup : ∀ i, t.group i = s.group i := fun i => congrArg (vget · i) hgroups
  have htotal : t.inrTotal = s.inrTotal := by rw [State.inrTotal, State.inrTotal, hlic]
  have hclaimed : t.inrClaimed = s.inrClaimed := by rw [State.inrClaimed, State.inrClaimed, hgroups]
  have hclaim : t.claim slot b = s.claim slot b := by rw [State.claim, State.claim, hgroup, hlic, htotal, hclaimed]
  simp only [State.formList, State.othersFlows_eq, hgroup, hpart, hclaim, hflows, hnum]

/-- The verdict on a completed round rests on the job, the groups and a register alone. -/
theorem State.formCode_congr {s t : State} (hparts : t.comp.parts = s.comp.parts) (hgroups : t.comp.casc.groups = s.comp.casc.groups)
    (hregs : t.regs = s.regs) (slot : Nat) (es : List (List Byte)) : t.formCode slot es = s.formCode slot es := by
  have hpart : ∀ pt, t.part pt = s.part pt := fun pt => congrArg (vget · pt) hparts
  have hgroup : ∀ i, t.group i = s.group i := fun i => congrArg (vget · i) hgroups
  have hnum : t.reg Reg.globalNumrev = s.reg Reg.globalNumrev := congrArg (fun r => (Sparse.get regReset r _).toNat) hregs
  simp only [State.formCode, hgroup, hpart, hnum]

theorem State.formCode_of_numerics {s : State} {slot : Nat} {es : List (List Byte)}
    (h : entryVal (nth es 1 []) ≠ (field (s.reg Reg.globalNumrev) 7 0 : Int) ∨ -entryVal (nth es 2 []) ≠ (field (s.reg Reg.globalNumrev) 7 0 : Int)) :
    s.formCode slot es = some 1 := if_pos h

theorem not_egressReg_of_global {o : Nat} (h : o < 0x100000) : ¬ EgressReg (regHome o) := by
  have hhome : regHome o = o := if_neg (by omega)
  rw [hhome]
  rintro (hr | hr | ⟨p, hr | hr⟩)
  · have : regHome Reg.fabricSrcfilt = 0x2400040 := by decide
    omega
  · have : regHome Reg.fabricNoroute = 0x2400044 := by decide
    omega
  · have hoff : Reg.fabricPortDrop p = 0x2401038 + 0x100 * p.val := rfl
    have : regHome (Reg.fabricPortDrop p) = Reg.fabricPortDrop p := by rw [hoff]; exact if_neg (by omega)
    omega
  · have hoff : Reg.fabricPortEcnmark p = 0x2401034 + 0x100 * p.val := rfl
    have : regHome (Reg.fabricPortEcnmark p) = Reg.fabricPortEcnmark p := by rw [hoff]; exact if_neg (by omega)
    omega

theorem Dispatches.formList {s t : State} (h : Dispatches s t) (slot : Nat) (b : List Byte) (cands : List Nat) :
    t.formList slot b cands = s.formList slot b cands :=
  State.formList_congr h.parts h.groups h.flows (congrArg BitVec.toNat (h.regs _ (not_egressReg_of_global (by decide))))
    (congrArg BitVec.toNat (h.regs _ (not_egressReg_of_global (by decide)))) slot b cands

theorem State.formList_modRound (s : State) (i round ident n : Nat) (f : RoundAcc → RoundAcc) (slot : Nat) (b : List Byte) (cands : List Nat) :
    (s.modRound i round ident n f).formList slot b cands = s.formList slot b cands := by
  obtain ⟨hbeside, hgroups, -, -, hfab, hregs⟩ := s.modRound_kept i round ident n f
  have hreg : ∀ o, (s.modRound i round ident n f).reg o = s.reg o := fun o => congrArg (fun r => (Sparse.get regReset r (regHome o)).toNat) hregs
  exact State.formList_congr hbeside.parts hgroups (congrArg (fun x : Fabric => x.tx.map TxFlow.route) hfab) (hreg _) (hreg _) slot b cands

/-! ### A member joins a formation round (R255, R256) -/

/-- A group with other candidates as its members. -/
def Group.meet (cands : List Nat) (rank : Nat) (g : Group) : Group := { g with members := cands, rank := rank }

theorem State.openFlow_kept (s : State) (pt : Nat) (dst : BitVec 128) (user key : Nat) :
    BesideJobs s (s.openFlow pt dst user key).2 ∧ (s.openFlow pt dst user key).2.comp.casc = s.comp.casc := by
  unfold State.openFlow
  split
  · exact ⟨.refl s, rfl⟩
  · dsimp only
    exact ⟨s.besideJobs_modFab _, rfl⟩

/-- A completed round is left: the rounds and what was sent of them change alone. -/
theorem State.leaveGroup_kept (s : State) (slot round ident n : Nat) : BesideJobs s (s.leaveGroup slot round ident n) ∧
    (s.leaveGroup slot round ident n).comp.casc.groups = s.comp.casc.groups ∧ (s.leaveGroup slot round ident n).regs = s.regs := by
  unfold State.leaveGroup
  extract_lets g left
  obtain ⟨hbeside, hgroups, -, -, -, hregs⟩ := s.modRound_kept slot round ident n fun a =>
    { a with own := none, recv := ((a.recv.map (·.1)).eraseDups).foldl (fun l k => dropFirst k l) a.recv }
  exact ⟨hbeside.trans (left.besideJobs_modCasc _), hgroups, hregs⟩

/-- The state once a member has taken the candidates that it sees for its partners. -/
def State.meet (s : State) (slot : Nat) (cands : List Nat) : State :=
  let g := s.group slot
  if g.members = cands then s
  else
    let s := if g.members.isEmpty then s else (s.leaveGroup slot 0 0 0).modRound slot 0 0 0 fun a => { a with recv := [] }
    let s := (s.closeFlows fun f => f.user == 0 && f.key == slot).modGroup slot (Group.meet cands ((cands.findIdx? (· == s.myPos)).getD 0))
    forEach ((List.range cands.length).filter fun i => nth cands i 0 != s.myPos) (fun i s =>
      (s.openFlow g.pt (s.memberAddr slot i) 0 slot).2) s

theorem State.enterForm_eq (s : State) (slot : Nat) (b : List Byte) (cands : List Nat) : s.enterForm slot b cands =
    ((s.meet slot cands).modRound slot 0 0 0
      (RoundAcc.enter (some ((s.meet slot cands).formList slot b cands)) (s.meet slot cands).time)).pumpRound slot 0 0 0 := rfl

theorem State.meet_kept (s : State) (slot : Nat) (cands : List Nat) : BesideJobs s (s.meet slot cands) ∧
    ((s.meet slot cands).group slot).members = cands ∧ ((s.meet slot cands).group slot).st = (s.group slot).st ∧
      ((s.meet slot cands).group slot).epoch = (s.group slot).epoch := by
  unfold State.meet
  extract_lets g left met
  split
  · next h => exact ⟨.refl s, h, rfl, rfl⟩
  · have hleft : BesideJobs s left ∧ left.comp.casc.groups = s.comp.casc.groups := by
      unfold left
      split
      · exact ⟨.refl s, rfl⟩
      · obtain ⟨hbeside, hgroups, -⟩ := s.leaveGroup_kept slot 0 0 0
        obtain ⟨hround, hsame, -⟩ := (s.leaveGroup slot 0 0 0).modRound_kept slot 0 0 0 fun a => { a with recv := [] }
        exact ⟨hbeside.trans hround, hsame.trans hgroups⟩
    have hmet : BesideJobs s met := (hleft.1.trans (left.besideJobs_modFab _)).trans (State.besideJobs_modGroup _ _ _)
    have hgroup : met.group slot = (s.group slot).meet cands ((cands.findIdx? (· == left.myPos)).getD 0) := by
      refine (State.group_modGroup_same _ _ _).trans (congrArg (Group.meet _ _) ?_)
      exact congrArg (vget · slot) hleft.2
    have hopened := forEach_keeps (P := fun u : State => BesideJobs met u ∧ u.comp.casc = met.comp.casc) (fun i u =>
      (u.openFlow g.pt (u.memberAddr slot i) 0 slot).2) ((List.range cands.length).filter fun i => nth cands i 0 != met.myPos) met ⟨.refl met, rfl⟩
      fun i _ u hu => ⟨hu.1.trans (u.openFlow_kept _ _ _ _).1, (u.openFlow_kept _ _ _ _).2.trans hu.2⟩
    have hsame := (congrArg (fun c : Cascade => vget c.groups slot) hopened.2).trans hgroup
    exact ⟨hmet.trans hopened.1, congrArg Group.members hsame, (congrArg Group.st hsame :), (congrArg Group.epoch hsame :)⟩

/-- A member that joins a formation round takes its candidates for members and enters its own entries. -/
theorem State.enterForm_kept (s : State) (slot : Nat) (b : List Byte) (cands : List Nat) :
    let t := s.enterForm slot b cands
    BesideJobs s t ∧ (t.group slot).members = cands ∧ (t.group slot).st = (s.group slot).st ∧ (t.group slot).epoch = (s.group slot).epoch ∧
      (t.round slot 0 0 0).bind (·.own) = some (t.formList slot b cands) := by
  intro t
  obtain ⟨hbeside, hmembers, hst, hepoch⟩ := s.meet_kept slot cands
  have ht : t = _ := s.enterForm_eq slot b cands
  generalize hown : (s.meet slot cands).formList slot b cands = own at ht
  generalize s.meet slot cands = met at *
  have henter := met.drives_modRound_enter slot 0 0 0 (some own) met.time
  have hlist := met.formList_modRound slot 0 0 0 (RoundAcc.enter (some own) met.time) slot b cands
  have hfound := met.round_modRound slot 0 0 0 (f := RoundAcc.enter (some own) met.time) fun _ h => h
  generalize met.modRound slot 0 0 0 (RoundAcc.enter (some own) met.time) = entered at *
  have hpump := entered.dispatches_pumpRound slot 0 0 0
  rw [← ht] at hpump
  have hgroup : t.group slot = met.group slot := (congrArg (vget · slot) (hpump.groups.trans henter.groups) :)
  have hround : t.round slot 0 0 0 = entered.round slot 0 0 0 := congrArg (List.find? _) hpump.rounds
  refine ⟨(hbeside.trans henter.toBesideJobs).trans hpump.toBesideJobs, ?_, ?_, ?_, ?_⟩
  · rw [hgroup, hmembers]
  · rw [hgroup, hst]
  · rw [hgroup, hepoch]
  · rw [hround, hfound, hpump.formList, hlist, hown]
    rfl

/-! ### What a completed round decides (R256, R257) -/

section
variable {s : State} {slot : Nat} {b : List Byte} {es : List (List Byte)}

theorem State.judgeForm_repeats (h : entryVal (nth es 0 []) ≠ ((s.group slot).members.length : Int) ∨
    s.formCode slot es = none ∧ -entryVal (nth es 8 []) ≠ entryVal (nth es 7 [])) : s.judgeForm slot b es = s := by
  unfold State.judgeForm
  dsimp only
  by_cases hcount : entryVal (nth es 0 []) ≠ ((s.group slot).members.length : Int)
  · exact if_pos hcount
  · obtain ⟨hcode, hbehind⟩ := h.resolve_left hcount
    rw [if_neg hcount, hcode]
    exact if_pos hbehind

theorem State.judgeForm_refuses {c : Nat} (hcount : entryVal (nth es 0 []) = ((s.group slot).members.length : Int))
    (hcode : s.formCode slot es = some c) : s.judgeForm slot b es = s.refuseGroup slot c := by
  unfold State.judgeForm
  dsimp only
  rw [if_neg (not_not.mpr hcount), hcode]

theorem State.judgeForm_forms (hcount : entryVal (nth es 0 []) = ((s.group slot).members.length : Int))
    (hcode : s.formCode slot es = none) (hlevel : -entryVal (nth es 8 []) = entryVal (nth es 7 [])) :
    s.judgeForm slot b es = s.formGroup slot b (-entryVal (nth es 3 [])).toNat (((entryVal (nth es 10 [])).toNat + 1) % 2 ^ 32)
      (entryVal (nth es 9 []) != 0) := by
  unfold State.judgeForm
  dsimp only
  rw [if_neg (not_not.mpr hcount), hcode]
  exact if_neg (not_not.mpr hlevel)

end

theorem not_postReg_grpRefuse {slot : Nat} (h : slot < 256) : ¬ PostReg (regHome (Reg.cascadeGrpRefuse slot)) := by
  have hoff : Reg.cascadeGrpRefuse slot = 0x2001014 + 0x40 * slot := rfl
  have hhome : regHome (Reg.cascadeGrpRefuse slot) = Reg.cascadeGrpRefuse slot := by rw [hoff]; exact if_neg (by omega)
  intro hpost
  have := hpost.place
  omega

theorem State.reg_setGroupSt {s : State} (h : s.Canonical) (i st : Nat) {o : Nat} (ho : ¬ PostReg (regHome o)) :
    (s.setGroupSt i st).Canonical ∧ (s.setGroupSt i st).reg o = s.reg o := by
  have hmod : ∀ f, (s.modGroup i f).Canonical := fun _ => h
  refine ⟨(s.besideJobs_setGroupSt i st).canon h, ?_⟩
  unfold State.setGroupSt
  dsimp only
  split
  · rfl
  · rw [State.reg, State.reg, ((State.posts_fire _ _).trans (State.posts_fire _ _)).regs (hmod _) o ho]
    rfl

/-- A refused group shows the code. -/
theorem State.refuseGroup_refuses {s : State} {slot c : Nat} (hslot : slot < 256) (hcan : s.Canonical) (hc : c < 2 ^ 32) :
    ((s.refuseGroup slot c).group slot).st = 4 ∧ (s.refuseGroup slot c).reg (Reg.cascadeGrpRefuse slot) = c := by
  unfold State.refuseGroup
  extract_lets g refused
  have hput : (s.put (Reg.cascadeGrpRefuse slot) c).reg (Reg.cascadeGrpRefuse slot) = c :=
    (s.reg_put_same (Reg.cascadeGrpRefuse slot) c hcan).trans (Nat.mod_eq_of_lt hc)
  obtain ⟨hrefused, hreg⟩ := State.reg_setGroupSt (s.canonical_put (Reg.cascadeGrpRefuse slot) c hcan) slot 4 (not_postReg_grpRefuse hslot)
  have hposts := refused.posts_ptEvent g.pt 7 (packLE [(4, g.gid), (4, c)])
  refine ⟨?_, ?_⟩
  · rw [hposts.besideWeir.group]
    exact State.setGroupSt_st _ _ _
  · exact (congrArg BitVec.toNat (hposts.regs hrefused _ (not_postReg_grpRefuse hslot))).trans (hreg.trans hput)

/-- A formed group: the epoch that the round agreed, the members as they were, and none of them lost. -/
theorem State.formGroup_forms (s : State) (slot : Nat) (b : List Byte) (proto epoch : Nat) (claimFail : Bool) :
    let t := s.formGroup slot b proto epoch claimFail
    (t.group slot).st = 2 ∧ (t.group slot).epoch = epoch ∧ (t.group slot).members = (s.group slot).members ∧ (t.group slot).lost = false ∧
      BesideJobs s t := by
  unfold State.formGroup
  extract_lets g want fails inr taken cleared counted formed told t
  have hcounted : BesideJobs s counted := (((s.besideJobs_modGroup _ _).trans (taken.besideJobs_modCasc _)).trans (cleared.besideJobs_bump _ _)).trans
    (State.besideJobs_put _ _ _)
  have htaken : taken.group slot = _ := s.group_modGroup_same slot _
  have hgroup : counted.group slot = taken.group slot := rfl
  obtain ⟨now, hformed⟩ := counted.setGroupSt_group slot 2
  have htold : Posts formed told := formed.posts_ptEvent _ _ _
  have hposts : Posts formed (if fails then told.ptEvent g.pt 9 (leBytes 4 g.gid) else told) := by
    split
    · exact htold.trans (told.posts_ptEvent _ _ _)
    · exact htold
  rw [show t.group slot = _ from (hposts.besideWeir.group slot).trans hformed, hgroup, htaken]
  exact ⟨rfl, rfl, rfl, rfl, (hcounted.trans (counted.besideJobs_setGroupSt slot 2)).trans hposts.besideJobs⟩

/-! ### The commands of a group that forms (R255, R258) -/

section
variable {s : State} {slot : Fin 256} {b : List Byte}

/-- What a group needs to take part in a formation round (R255). -/
def State.mayForm (s : State) (slot : Nat) (b : List Byte) : Prop :=
  (s.group slot).st = 1 ∧ s.posLocked = true ∧ ((s.part (s.group slot).pt).steps.any fun x => decide (1 ≤ x.st ∧ x.st ≤ 4)) = false ∧
    (bedGroup b (s.group slot).record).minMembers ≤ (s.candidates slot).length

theorem exec_groupFormation_stays (hbed : (s.part (s.group slot).pt).bed = some b) (h : ¬ s.mayForm slot b) : exec (.groupFormation slot) s = .next s := by
  change execGroupFormation slot s = _
  unfold execGroupFormation
  dsimp only
  rw [hbed]
  refine congrArg Host.Outcome.next (if_pos ?_)
  unfold State.mayForm at h
  by_contra hno
  simp only [not_or, not_lt, Bool.not_eq_true, Bool.not_eq_false', not_not] at hno
  exact h ⟨hno.1, hno.2.1, hno.2.2.1, hno.2.2.2⟩

theorem exec_groupFormation (hbed : (s.part (s.group slot).pt).bed = some b) (h : s.mayForm slot b) :
    exec (.groupFormation slot) s = .next (
      let t := s.enterForm slot b (s.candidates slot)
      ((t.round slot 0 0 0).bind fun a => a.result (s.candidates slot).length (t.group slot).rank).elim t fun es =>
        (t.leaveGroup slot 0 0 0).judgeForm slot b es) := by
  obtain ⟨hst, hlocked, hidle, hcands⟩ := h
  have hready : ¬((s.group slot).st ≠ 1 ∨ (!s.posLocked) = true ∨
      ((s.part (s.group slot).pt).steps.any fun x => decide (1 ≤ x.st ∧ x.st ≤ 4)) = true ∨
        (s.candidates slot).length < (bedGroup b (s.group slot).record).minMembers) := by
    rw [hlocked, hidle]
    simp [hst, hcands]
  change execGroupFormation slot s = _
  unfold execGroupFormation
  dsimp only
  rw [hbed]
  refine congrArg Host.Outcome.next ((if_neg hready).trans ?_)
  generalize s.enterForm slot b (s.candidates slot) = t
  cases (t.round slot 0 0 0).bind fun a => a.result (s.candidates slot).length (t.group slot).rank <;> rfl

theorem exec_groupWaiting_due (hst : (s.group slot).st = 1) (htold : (s.group slot).told = false)
    (hdue : (s.group slot).since + s.reg Reg.cascadeTimeout ≤ s.time) :
    exec (.groupWaiting slot) s =
      .next ((s.modGroup slot fun g => { g with told := true }).ptEvent (s.group slot).pt 8 (leBytes 4 (s.group slot).gid)) :=
  congrArg Host.Outcome.next (if_pos ⟨hst, by rw [htold]; rfl, hdue⟩)

theorem exec_groupWaiting_stays
    (h : (s.group slot).st ≠ 1 ∨ (s.group slot).told = true ∨ s.time < (s.group slot).since + s.reg Reg.cascadeTimeout) :
    exec (.groupWaiting slot) s = .next s := by
  refine congrArg Host.Outcome.next (if_neg ?_)
  rintro ⟨hst, htold, hdue⟩
  rcases h with h | h | h
  · exact h hst
  · rw [h] at htold
    exact absurd htold (by decide)
  · exact absurd hdue (Nat.not_le.mpr h)

variable {position : Word} {rank : Nat}

theorem exec_peerTimeout (hrank : (s.group slot).members.findIdx? (· == position.toNat) = some rank) :
    exec (.peerTimeout slot position) s =
      .next (if (s.group slot).st = 2 ∧ position.toNat ≠ s.myPos ∧ s.peerStuck slot rank then s.memberLost slot position.toNat 3 else s) := by
  change execPeerTimeout slot position s = _
  unfold execPeerTimeout
  dsimp only
  rw [hrank]

end

/-- A lost member abandons the oldest running step. -/
theorem State.memberLost_running {s : State} {slot : Nat} (hst : (s.group slot).st = 2) {x : StepSt}
    (hx : ((s.part (s.group slot).pt).steps.find? fun x => decide (1 ≤ x.st ∧ x.st ≤ 5)) = some x) (pos why : Nat) :
    s.memberLost slot pos why = s.abandonStep slot x.num 1 (nth (s.group slot).members (s.group slot).rank 0) (some (pos, why)) := by
  unfold State.memberLost
  dsimp only
  rw [if_neg (not_not.mpr hst), hx]

/-- With no running step the group forms anew. -/
theorem State.memberLost_idle {s : State} {slot : Nat} (hst : (s.group slot).st = 2)
    (hnone : ((s.part (s.group slot).pt).steps.find? fun x => decide (1 ≤ x.st ∧ x.st ≤ 5)) = none) (pos why : Nat) :
    ((s.memberLost slot pos why).group slot).st = 1 ∧ SameMemory s (s.memberLost slot pos why) := by
  unfold State.memberLost
  dsimp only
  rw [if_neg (not_not.mpr hst), hnone]
  refine ⟨State.setGroupSt_st _ _ _, ?_⟩
  exact (((s.reports_record _).besideWeir.besideJobs.trans (State.besideJobs_modGroup _ _ _)).trans (State.besideJobs_setGroupSt _ _ _)).sameMemory

/-- Settles O36: the round is entered, and, once complete, judged, with what the messages leave alone. -/
theorem groupForms : Obligations.GroupForms := by
  unfold Obligations.GroupForms
  refine ⟨fun s slot b hbed => ⟨exec_groupFormation_stays hbed, fun hready => ?_⟩, fun s slot position rank =>
    ⟨fun hst htold hdue => ⟨_, exec_groupWaiting_due hst htold hdue, ?told, ?forms, ?same, ?nv⟩, exec_groupWaiting_stays,
      fun hrank => ⟨fun hnot => ?moves, fun hst hother hstuck => ?lost⟩⟩⟩
  · have hexec := exec_groupFormation hbed hready
    generalize s.candidates slot = cands at *
    dsimp only at hexec
    obtain ⟨hbeside, hmembers, hst, hepoch, hown⟩ := s.enterForm_kept slot b cands
    have hst1 := hst.trans hready.1
    generalize s.enterForm slot b cands = s1 at *
    refine ⟨s1, hmembers, hst1, hepoch, hown, hbeside.sameMemory, hbeside.parts, fun hnone => by rw [hexec, hnone]; rfl, fun es hes => ?_⟩
    obtain ⟨hleft, hgroups, hregs⟩ := s1.leaveGroup_kept slot 0 0 0
    have hcode := State.formCode_congr hleft.parts hgroups hregs slot es
    have hgroup : (s1.leaveGroup slot 0 0 0).group slot = s1.group slot := congrArg (vget · slot) hgroups
    have hall := hbeside.trans hleft
    have hjudged : exec (.groupFormation slot) s = .next ((s1.leaveGroup slot 0 0 0).judgeForm slot b es) := by rw [hexec, hes]; rfl
    generalize s1.leaveGroup slot 0 0 0 = left at *
    refine ⟨fun hagain => ?repeats, fun c hcount hc hcan hlt => ?refuses, State.formCode_of_numerics, fun hcount hc hlevel => ?formed⟩
    case repeats =>
      refine ⟨left, ?_, by rw [hgroup, hst1], by rw [hgroup, hmembers]⟩
      rw [hjudged, State.judgeForm_repeats]
      rwa [hgroup, hmembers, hcode]
    case refuses =>
      dsimp only at hcount
      refine ⟨left.refuseGroup slot c, ?_, State.refuseGroup_refuses slot.isLt (hall.canon hcan) hlt⟩
      rw [hjudged, State.judgeForm_refuses (by rw [hgroup, hmembers, hcount]) (hcode.trans hc)]
    case formed =>
      dsimp only at hcount
      obtain ⟨hformed, hnext, hsame, hlost, hrest⟩ := left.formGroup_forms slot b (-entryVal (nth es 3 [])).toNat
        (((entryVal (nth es 10 [])).toNat + 1) % 2 ^ 32) (entryVal (nth es 9 []) != 0)
      refine ⟨_, ?_, hformed, hnext, by rw [hsame, hgroup, hmembers], hlost, (hall.trans hrest).sameMemory, (hall.trans hrest).nv⟩
      rw [hjudged, State.judgeForm_forms (by rw [hgroup, hmembers, hcount]) (hcode.trans hc) hlevel]
  case told =>
    rw [(State.posts_ptEvent _ _ _ _).besideWeir.group, State.group_modGroup_same]
  case forms =>
    rw [(State.posts_ptEvent _ _ _ _).besideWeir.group, State.group_modGroup_same]
    exact hst
  case same => exact ((s.besideJobs_modGroup _ _).trans (State.posts_ptEvent _ _ _ _).besideJobs).sameMemory
  case nv => exact ((s.besideJobs_modGroup _ _).trans (State.posts_ptEvent _ _ _ _).besideJobs).nv
  case moves =>
    rw [exec_peerTimeout hrank, if_neg]
    rintro ⟨-, -, hstuck⟩
    exact absurd hstuck (ne_true_of_eq_false hnot)
  case lost =>
    have hexec : exec (.peerTimeout slot position) s = .next (s.memberLost slot position.toNat 3) := by
      rw [exec_peerTimeout hrank, if_pos ⟨hst, hother, hstuck⟩]
    refine ⟨_, hexec, ?_⟩
    cases hfind : (s.part (s.group slot).pt).steps.find? fun x => decide (1 ≤ x.st ∧ x.st ≤ 5) with
    | some x =>
      obtain ⟨habandoned, hnext, hlost, hmem⟩ := State.abandonStep_group (s := s) (slot := slot) (by rw [hst]; decide) x.num 1
        (nth (s.group slot).members (s.group slot).rank 0) (some (position.toNat, 3))
      rw [State.memberLost_running hst hfind]
      refine ⟨hmem, fun _ => ⟨habandoned, by rw [hlost]; exact Bool.or_true _, hnext⟩, fun hidle => ?_⟩
      exact absurd (by simpa using List.find?_some hfind) (hidle x (List.mem_of_find?_eq_some hfind))
    | none =>
      obtain ⟨hforming, hmem⟩ := State.memberLost_idle hst hfind position.toNat 3
      refine ⟨hmem, ?_, fun _ => hforming⟩
      rintro ⟨x, hx, hrunning⟩
      exact absurd (decide_eq_true hrunning) (List.find?_eq_none.mp hfind x hx)

end Sys2Proof.Machine
end

section
/-! PROOFS. What a Cascade instruction that goes on, and the undoing of a chunk, leave alone: the messages that wait and the counts of RETRACT
(R200, R268 to R281). -/
namespace Sys2Proof.Machine

/-! ### Stores (R147, R214, R343, R344) -/

theorem State.inboxKept_writeMem (s : State) (a : Nat) (bs : List Byte) : InboxKept s (s.writeMem a bs) :=
  ⟨rfl, fun ⟨hmem, hregs, hpoison⟩ => ⟨Memory.writeBytes_wf hmem, hregs, hpoison.filter _⟩, fun _ _ _ => rfl⟩

theorem State.inboxKept_writeSpace (s : State) (pt space a : Nat) (bs : List Byte) : InboxKept s (s.writeSpace pt space a bs) := by
  have heach : InboxKept s (forEach bs.zipIdx (fun b s => match s.phys pt space (a + b.2) with | some k => s.writeMem k [b.1] | none => s) s) := by
    refine .forEach _ _ s fun b t => ?_
    split
    · exact t.inboxKept_writeMem _ _
    · exact .refl t
  unfold State.writeSpace
  split
  · exact .ite (s.inboxKept_writeMem _ _) heach
  · exact heach

theorem State.inboxKept_storeElem (s : State) (w : View) (ix : List Nat) (code : Nat) : InboxKept s (s.storeElem w ix code) :=
  s.inboxKept_writeSpace _ _ _ _

theorem State.inboxKept_storeFine (s : State) (w : View) (ix : List Nat) (k : Nat) : InboxKept s (s.storeFine w ix k) :=
  .ite (.refl s) (s.inboxKept_writeSpace _ _ _ _)

theorem State.inboxKept_writeSigns (s : State) (pt : Nat) (b : List Byte) (t n : Nat) (x : Exact) : InboxKept s (s.writeSigns pt b t n x) :=
  .forEach _ _ s fun _ u => .ite (u.inboxKept_writeSpace _ _ _ _) (.refl u)

theorem State.inboxKept_reencode (s : State) (keys : List Nat) : InboxKept s (s.reencode keys) :=
  ⟨rfl, fun ⟨hmem, hregs, hpoison⟩ => ⟨hmem, hregs, hpoison.filter _⟩, fun _ _ _ => rfl⟩

theorem State.inboxKept_reencodeElems (s : State) (w : View) (ixs : List (List Nat)) : InboxKept s (s.reencodeElems w ixs) :=
  .ite (.refl s) (s.inboxKept_reencode _)

theorem State.inboxKept_reencodeSigns (s : State) (pt : Nat) (b : List Byte) (t total done : Nat) :
    InboxKept s (s.reencodeSigns pt b t total done) := .ite (.refl s) (s.inboxKept_reencode _)

theorem State.inboxKept_modStep (s : State) (pt n : Nat) (f : StepSt → StepSt) : InboxKept s (s.modStep pt n f) :=
  (s.groupsKept_modStep pt n f).toInboxKept

theorem State.inboxKept_noteScale (s : State) (pt : Nat) (b : List Byte) (t n ver : Nat) (c : Int) (rung : Nat) :
    InboxKept s (s.noteScale pt b t n ver c rung) := s.inboxKept_modStep _ _ _

theorem State.inboxKept_roundBlocks (s : State) (pt : Nat) (b : List Byte) (n t : Nat) (v : View) (ixs : List (List Nat)) :
    InboxKept s (s.roundBlocks pt b n t v ixs) := by
  unfold State.roundBlocks
  extract_lets T mode seed fine mbOf firsts rounded done encoded
  have hrounded : InboxKept s rounded := by
    refine .forEach firsts _ s fun blk u => ?_
    split
    · exact .refl u
    · extract_lets keys vals bits k stored fined signed fit xs
      split
      · exact .refl u
      · have hstored : InboxKept u stored := .forEach _ _ u fun _ w => w.inboxKept_storeElem _ _ _
        have hfined : InboxKept stored fined := by
          unfold fined
          split
          · exact stored.inboxKept_storeFine _ _ _
          · exact .refl stored
        have hsigned : InboxKept fined signed := .ite (.forEach _ _ fined fun _ w => w.inboxKept_writeSigns _ _ _ _ _) (.refl fined)
        exact ((hstored.trans hfined).trans hsigned).trans (.forEach _ _ signed fun _ w => w.inboxKept_modStep _ _ _)
  split
  · exact hrounded
  · have hencoded : InboxKept s encoded := hrounded.trans (rounded.inboxKept_reencodeElems _ _)
    exact .ite (hencoded.trans (encoded.inboxKept_reencodeSigns _ _ _ _ _)) hencoded

/-! ### Work done again (R200, R203, R207) -/

theorem State.inboxKept_reround (s : State) (pt : Nat) (b : List Byte) (n t : Nat) : InboxKept s (s.reround pt b n t) := by
  unfold State.reround
  split
  · exact .refl s
  · exact ((s.inboxKept_modStep _ _ _).trans (State.inboxKept_noteScale _ _ _ _ _ _ _ _)).trans (State.inboxKept_roundBlocks _ _ _ _ _ _ _)

theorem State.inboxKept_dropUpdates (s : State) (pt : Nat) (b : List Byte) (n : Nat) (ids : List Nat) :
    InboxKept s (s.dropUpdates pt b n ids).1 :=
  ((s.groupsKept_modStep _ _ _).trans (State.groupsKept_forgetJets _ _)).toInboxKept

theorem State.inboxKept_modCasc (s : State) {f : Cascade → Cascade} (h : ∀ c, (f c).inbox = c.inbox) : InboxKept s (s.modCasc f) :=
  ⟨h _, fun hc => hc, fun _ _ _ => rfl⟩

theorem State.inboxKept_dropWork (s : State) (pt : Nat) (b : List Byte) (n : Nat) (ts ws : List Nat) : InboxKept s (s.dropWork pt b n ts ws).1 := by
  unfold State.dropWork
  split
  · exact .refl s
  · split
    extract_lets run hit touched redo lost outs
    have hdropped := s.inboxKept_dropUpdates pt b n redo
    split
    next t vs ht =>
    rw [ht] at hdropped
    extract_lets undone discarded restarted
    have hundone : InboxKept t undone := t.inboxKept_modStep _ _ _
    have hdiscarded : InboxKept undone discarded := (undone.groupsKept_arrays fun _ => discarded.arrays).toInboxKept
    have hrestarted : InboxKept discarded restarted := discarded.inboxKept_modCasc fun _ => rfl
    exact hdropped.trans ((hundone.trans hdiscarded).trans hrestarted)

theorem State.inboxKept_dropLater (pt : Nat) (b : List Byte) (ts : List Nat) (l ws : List Nat) (s : State) :
    InboxKept s (State.dropLater pt b ts l ws s) := by
  induction l generalizing ws s with
  | nil => exact .refl s
  | cons n rest ih =>
    have hdropped := s.inboxKept_dropWork pt b n ts ws
    unfold State.dropLater
    split
    next t hit vs lost ht =>
    rw [ht] at hdropped
    refine hdropped.trans (.trans (.ite (t.groupsKept_bump 1 ?_).toInboxKept (.refl t)) (ih _ _))
    change (0x1001010 + 0x400000 * 0 + 0x40 * pt) % 64 ≠ 24
    omega

theorem State.inboxKept_redo (s : State) (pt : Nat) (b : List Byte) (n : Nat) (ts : List Nat) : InboxKept s (s.redo pt b n ts).1 := by
  have hdropped := s.inboxKept_dropWork pt b n ts []
  exact (hdropped.trans (State.inboxKept_modStep _ _ _ _)).trans (.forEach _ _ _ fun _ u => u.inboxKept_reround _ _ _ _)

theorem State.inboxKept_redoFrom (s : State) (pt : Nat) (b : List Byte) (n : Nat) (ts : List Nat) : InboxKept s (s.redoFrom pt b n ts) :=
  (s.inboxKept_redo pt b n ts).trans (State.inboxKept_dropLater _ _ _ _ _ _)

theorem State.inboxKept_failReplay (s : State) (pt n : Nat) (uid : Option Nat) : InboxKept s (s.failReplay pt n uid) := by
  unfold State.failReplay
  split
  · exact .refl s
  · exact .ite (.refl s) (((s.groupsKept_undoFrom _ _).trans (State.groupsKept_modStep _ _ _ _)).trans
      (State.groupsKept_chargeStep _ _ _ _ _)).toInboxKept

/-! ### Reductions (R268 to R271, R276) -/

theorem State.inboxKept_modRun (s : State) (k : CascCtx) (f : CascRun → CascRun) : InboxKept s (s.modRun k f) := by
  have hrest := s.modRun_rest k f
  refine ⟨(congrArg (·.comp.casc.inbox) hrest :), fun h => ?_, fun _ o _ => (congrArg (·.getReg o) hrest :)⟩
  rw [← hrest] at h
  exact h

theorem State.inboxKept_sendChunk (s : State) (slot rank : Nat) (seq : Option Nat) (c : Chunk) : InboxKept s (s.sendChunk slot rank seq c) :=
  (s.dispatches_sendChunk slot rank seq c).groupsKept.toInboxKept

theorem State.inboxKept_retractSent (s : State) (slot : Nat) (p : SentChunk → Bool) : InboxKept s (s.retractSent slot p) :=
  (s.dispatches_retractSent slot p).groupsKept.toInboxKept

theorem State.inboxKept_clearDefs (s : State) (k : CascCtx) (ixs : List Nat) : InboxKept s (s.clearDefs k ixs) :=
  (s.inboxKept_modRun k _).trans (.ite (.refl _) (State.inboxKept_modStep _ _ _ _))

theorem State.inboxKept_applyDefs (s : State) (k : CascCtx) (ds : List (Nat × Nat)) : InboxKept s (s.applyDefs k ds) :=
  ((s.inboxKept_clearDefs k _).trans (State.inboxKept_modRun _ k _)).trans (.ite (.refl _) (State.inboxKept_modStep _ _ _ _))

theorem State.inboxKept_dropVals (s : State) (k : CascCtx) (ixs : List Nat) : InboxKept s (s.dropVals k ixs) :=
  .ite ((s.inboxKept_modStep _ _ _).trans (State.inboxKept_redoFrom _ _ _ _ _)) (.refl s)

theorem State.inboxKept_logPoison (s : State) (die arr n : Nat) : InboxKept s (s.logPoison die arr n) := by
  refine .ite (.refl s) (s.groupsKept_bump n ?_).toInboxKept
  change (0x1100044 + 0x400000 * die + 0x10000 * arr) % 64 ≠ 24
  omega

theorem State.inboxKept_acceptSum (s : State) (k : CascCtx) (es : List RedElem) (rep : Bool) : InboxKept s (s.acceptSum k es rep) :=
  ((s.inboxKept_logPoison _ _ _).trans (State.inboxKept_modStep _ _ _ _)).trans
    ((State.inboxKept_noteScale _ _ _ _ _ _ _ _).trans (State.inboxKept_roundBlocks _ _ _ _ _ _ _))

theorem State.inboxKept_ownerActs (s : State) (k : CascCtx) (d : ChunkDesc) (es : List RedElem) (rep : Bool) :
    InboxKept s (s.ownerActs k d es rep) := by
  unfold State.ownerActs
  split
  · exact .ite (.refl s) (s.inboxKept_acceptSum _ _ _)
  · extract_lets crest ok bad r same withdrawn accepted top counted src told charged pay sent
    have hwithdrawn : InboxKept s withdrawn := .ite (.refl s) ((s.inboxKept_clearDefs _ _).trans (State.inboxKept_dropVals _ _ _))
    have haccepted : InboxKept s accepted := hwithdrawn.trans (.ite (.refl _) (withdrawn.inboxKept_acceptSum _ _ _))
    have hcounted : InboxKept accepted counted := by
      refine (accepted.groupsKept_bump 1 ?_).toInboxKept
      change (0x2001020 + 0x40 * k.slot) % 64 ≠ 24
      omega
    have hcharged : InboxKept counted charged :=
      ((counted.groupsKept_stepRec _ _ _).trans (told.groupsKept_chargeStep _ _ _ _)).toInboxKept
    have hsent : InboxKept charged sent := .forEach _ _ charged fun _ u => u.inboxKept_sendChunk _ _ _ _
    refine .ite haccepted (.ite (haccepted.trans (accepted.inboxKept_retractSent _ _)) ?_)
    exact haccepted.trans ((hcounted.trans hcharged).trans (hsent.trans (sent.inboxKept_applyDefs _ _)))

/-- A fold that carries a state along leaves alone what each of its steps does. -/
theorem InboxKept.foldl {α β : Type} {f : State × β → α → State × β} (h : ∀ a x, InboxKept a.1 (f a x).1) (l : List α) (a : State × β) :
    InboxKept a.1 (l.foldl f a).1 := by
  induction l generalizing a with
  | nil => exact .refl a.1
  | cons x l ih => exact (h a x).trans (ih (f a x))

theorem State.inboxKept_sumItem (s : State) (k : CascCtx) (d : ChunkDesc) (rep : Bool) (i : Nat) (it : List (Nat × Nat) × Option (Nat × Nat)) :
    InboxKept s (s.sumItem k d rep i it).1 := by
  unfold State.sumItem
  extract_lets r kind ins own placed parts
  split
  · exact .refl s
  · have hplaced : InboxKept s placed := .ite (s.inboxKept_modRun k _) (.refl s)
    split
    · exact hplaced
    · split
      · exact hplaced.trans (placed.inboxKept_ownerActs _ _ _ _)
      · exact hplaced.trans (placed.inboxKept_sendChunk _ _ _ _)

theorem State.inboxKept_sumChunk (s : State) (k : CascCtx) (d : ChunkDesc) (rep : Bool) : InboxKept s (s.sumChunk k d rep).1 :=
  InboxKept.foldl (f := fun a (it : (List (Nat × Nat) × Option (Nat × Nat)) × Nat) =>
    ((a.1.sumItem k d rep it.2 it.1).1, a.2 && (a.1.sumItem k d rep it.2 it.1).2)) (fun a _ => a.1.inboxKept_sumItem _ _ _ _ _) _ (s, true)

theorem State.inboxKept_pumpSums (s : State) (k : CascCtx) : InboxKept s (s.pumpSums k).1 := by
  refine InboxKept.foldl (fun a d => ?_) k.chunks (s, true)
  have hfirst := a.1.inboxKept_sumChunk k d false
  extract_lets y r z
  split
  · exact hfirst
  · split
    · exact hfirst
    · split
      · exact hfirst.trans (.ite (y.1.inboxKept_failReplay _ _ _) (y.1.inboxKept_abandonStep _ _ _ _ _))
      · exact hfirst.trans (y.1.inboxKept_sumChunk k d true)

/-! ### Anchors and gathers (R269, R271, R272) -/

theorem State.inboxKept_noteAnchors (s : State) (k : CascCtx) (d : ChunkDesc) (ms : List (Option Int)) : InboxKept s (s.noteAnchors k d ms) :=
  s.inboxKept_modRun k _

theorem State.inboxKept_gatherSends (s : State) (k : CascCtx) (d : ChunkDesc) (kind : Nat) (pay : List Byte) :
    InboxKept s (s.gatherSends k d kind pay) := .forEach _ _ s fun _ u => u.inboxKept_sendChunk _ _ _ _

theorem State.inboxKept_anchorChunk (s : State) (k : CascCtx) (d : ChunkDesc) : InboxKept s (s.anchorChunk k d) := by
  unfold State.anchorChunk
  extract_lets agreed
  have hagreed : InboxKept s agreed := by
    refine forEach_keeps (P := InboxKept s) (fun it u => _) _ s (.refl s) fun it _ u hu => hu.trans ?_
    dsimp only
    split
    · exact .refl u
    · split
      · exact .refl u
      · split
        · exact u.inboxKept_sendChunk _ _ _ _
        · exact (u.inboxKept_noteAnchors _ _ _).trans (State.inboxKept_gatherSends _ _ _ _ _)
  split
  · exact hagreed
  · split
    · exact hagreed.trans ((agreed.inboxKept_noteAnchors _ _ _).trans (State.inboxKept_gatherSends _ _ _ _ _))
    · exact hagreed

theorem State.inboxKept_pumpAnchors (s : State) (k : CascCtx) : InboxKept s (s.pumpAnchors k) := by
  have hall : InboxKept s (forEach k.chunks (fun d s => s.anchorChunk k d) s) := .forEach _ _ s fun d u => u.inboxKept_anchorChunk k d
  exact .ite (hall.trans (State.inboxKept_modRun _ k _)) hall

theorem State.inboxKept_markDone (s : State) (k : CascCtx) (v : View) (ts : List (List Nat)) : InboxKept s (s.markDone k v ts) :=
  s.inboxKept_modStep _ _ _

theorem State.inboxKept_gatherWrite (s : State) (k : CascCtx) (d : ChunkDesc) (pay : List Byte) : InboxKept s (s.gatherWrite k d pay) := by
  unfold State.gatherWrite
  extract_lets v ts n fines qs stored fined scaled
  have hstored : InboxKept s stored := .forEach _ _ s fun _ u => u.inboxKept_storeElem _ _ _
  have hfined : InboxKept stored fined := .ite (.refl _) (.forEach _ _ stored fun _ u => u.inboxKept_storeFine _ _ _)
  have hscaled : InboxKept fined scaled := fined.inboxKept_noteScale _ _ _ _ _ _ _
  exact .ite (.refl s) ((hstored.trans hfined).trans (hscaled.trans
    ((scaled.inboxKept_reencodeElems _ _).trans (State.inboxKept_markDone _ _ _ _))))

theorem State.inboxKept_pumpGather (s : State) (k : CascCtx) : InboxKept s (s.pumpGather k).1 := by
  refine InboxKept.foldl (fun a d => ?_) k.chunks (s, true)
  extract_lets u v pay
  clear_value pay
  cases pay with
  | none => exact .refl a.1
  | some p => exact .trans (.ite (.refl a.1) (u.inboxKept_gatherWrite _ _ _)) (State.inboxKept_gatherSends _ _ _ _ _)

/-! ### All-to-all (R278) -/

theorem State.inboxKept_a2aSend (s : State) (k : CascCtx) (v : View) (r : Nat) : InboxKept s (s.a2aSend k v r) := by
  unfold State.a2aSend
  split
  extract_lets p counted
  have hcounted : InboxKept s counted := s.inboxKept_sendChunk _ _ _ _
  exact hcounted.trans (.forEach _ _ counted fun _ u => u.inboxKept_sendChunk _ _ _ _)

theorem State.inboxKept_a2aPut (s : State) (v : View) (blocks : List Nat) (n : Nat) (bytes : List Byte) :
    InboxKept s (s.a2aPut v blocks n bytes) := by
  refine .forEach _ _ s fun x u => ?_
  split
  · exact .ite ((u.inboxKept_storeElem _ _ _).trans (State.inboxKept_storeFine _ _ _ _)) (.refl u)
  · exact .refl u

theorem State.inboxKept_pumpA2A (s : State) (k : CascCtx) : InboxKept s (s.pumpA2A k).1 := by
  unfold State.pumpA2A
  extract_lets v others sent d blocks lim
  have hsent : InboxKept s sent := .forEach _ _ s fun r u => u.inboxKept_a2aSend k v r
  split
  · exact hsent
  · extract_lets all put ents listed drop counted told scaled
    have hput : InboxKept s put := hsent.trans (.forEach _ _ sent fun _ u => u.inboxKept_a2aPut _ _ _ _)
    have hlisted : InboxKept s listed := hput.trans (.forEach _ _ put fun _ u => u.inboxKept_writeSpace _ _ _ _)
    have hcounted : InboxKept listed counted := by
      refine .ite (.refl _) (listed.groupsKept_bump drop ?_).toInboxKept
      change (0x2001024 + 0x40 * k.slot) % 64 ≠ 24
      omega
    have htold : InboxKept counted told :=
      .ite (.refl _) ((counted.posts_ptEvent _ _ _).reports.groupsKept.toInboxKept.trans (State.inboxKept_modStep _ _ _ _))
    exact (hlisted.trans hcounted).trans (htold.trans
      ((told.inboxKept_noteScale _ _ _ _ _ _ _).trans (scaled.inboxKept_markDone _ _ _)))

/-! ### An instruction that goes on, and a chunk that is undone (R260, R281) -/

theorem State.inboxKept_pump (s : State) (k : CascCtx) : InboxKept s (s.pump k) := by
  have hdone : ∀ (u : State) (y : State × Bool), InboxKept u y.1 →
      InboxKept u (if y.2 then y.1.modRun k fun r => { r with phase := 4 } else y.1) := fun u y h => .ite (h.trans (y.1.inboxKept_modRun k _)) h
  unfold State.pump
  extract_lets r exchanged gathered anchored summed t finished regathered
  refine .ite (.refl s) (.ite (.ite (.refl s) (hdone s _ (s.inboxKept_pumpA2A k))) (.ite (hdone s _ (s.inboxKept_pumpGather k)) ?_))
  have hanchored : InboxKept s anchored := .ite (s.inboxKept_pumpAnchors k) (.refl s)
  have hsummed : InboxKept s t := hanchored.trans (anchored.inboxKept_pumpSums k)
  refine .ite hanchored (.ite hsummed (.ite (hsummed.trans (t.inboxKept_modRun k _)) ?_))
  have hfinished : InboxKept s finished := hsummed.trans (t.inboxKept_modRun k _)
  exact hfinished.trans (hdone finished _ (finished.inboxKept_pumpGather k))

theorem State.inboxKept_undoChunk (s : State) (k : CascCtx) (rank : Nat) (c : Chunk) : InboxKept s (s.undoChunk k rank c) := by
  unfold State.undoChunk
  extract_lets removed retracted ixs unanchored cleared used dropped charged
  have hretracted : InboxKept s retracted := (s.inboxKept_modRun k _).trans (removed.inboxKept_retractSent _ _)
  have hunanchored : InboxKept retracted unanchored := .ite (retracted.inboxKept_modRun k _) (.refl _)
  have hcleared : InboxKept unanchored cleared := .ite (unanchored.inboxKept_clearDefs _ _) (.refl _)
  have hall : InboxKept s cleared := (hretracted.trans hunanchored).trans hcleared
  have hcharged : InboxKept cleared charged := (cleared.inboxKept_modStep _ _ _).trans (dropped.groupsKept_chargeStep _ _ _ _).toInboxKept
  exact .ite hall ((hall.trans hcharged).trans (charged.inboxKept_redoFrom _ _ _ _))

end Sys2Proof.Machine
end

section
/-! PROOFS. Arriving control messages (R258, R279 to R282, R367). -/
namespace Sys2Proof.Machine

section
variable {s s0 : State} {typ slot rank pos pt : Nat} {l : List Byte} {rest : List (Nat × Nat × List Byte)}

theorem State.takeCtl_front (h : CtlArrives s s0 typ slot rank pos pt l rest) : s.takeCtl typ = (some (slot, rank, pos, pt, l), s0) := by
  obtain ⟨hs0, hin, htyp, hslot, hepoch, hrank⟩ := h
  unfold State.takeCtl
  rw [State.takeMsg_front hin htyp, ← hs0]
  dsimp only
  rw [State.msgFrom_member hslot hepoch hrank]
  rfl

theorem CtlArrives.slot_lt (h : CtlArrives s s0 typ slot rank pos pt l rest) : slot < 256 := by
  obtain ⟨-, -, -, hslot, -⟩ := h
  exact List.mem_range.mp (List.mem_of_find?_eq_some hslot)

/-- What a message that leaves the inbox leaves alone. -/
theorem CtlArrives.kept (h : CtlArrives s s0 typ slot rank pos pt l rest) : s0.comp.casc.inbox = rest ∧ s0.comp.casc.runs = s.comp.casc.runs ∧
    s0.comp.casc.rounds = s.comp.casc.rounds ∧ s0.comp.casc.sent = s.comp.casc.sent ∧ s0.group slot = s.group slot ∧ s0.regs = s.regs ∧
      SameMemory s s0 ∧ (s.Canonical → s0.Canonical) := by
  obtain ⟨rfl, -⟩ := h
  exact ⟨rfl, rfl, rfl, rfl, rfl, rfl, ⟨fun _ => rfl, rfl⟩, fun hc => hc⟩

/-! ### CONFIRM (R279) -/

/-- The chunk that a control message about one of its revisions names. -/
def SentChunk.named (pt rank : Nat) (l : List Byte) (x : SentChunk) : Bool := x.pt == pt && x.dst == rank && ctlNames l x.chunk && x.chunk.rev == u8 l 0x14

theorem SentChunk.named_iff {x : SentChunk} :
    x.named pt rank l = true ↔ x.pt = pt ∧ x.dst = rank ∧ ctlNames l x.chunk = true ∧ x.chunk.rev = u8 l 0x14 := by
  simp [SentChunk.named, and_assoc]

theorem exec_confirm (h : CtlArrives s s0 1 slot rank pos pt l rest) : exec .confirm s = .next (s0.modCasc fun c =>
    { c with sent := c.sent.map fun x => if x.named pt rank l && !x.gone then { x with confirmed := true } else x }) := by
  change execConfirm s = _
  unfold execConfirm
  rw [State.takeCtl_front h]
  rfl

/-! ### RETRACT (R281) -/

theorem Drives.inboxKept {s t : State} (h : Drives s t) : InboxKept s t := ⟨h.inbox, h.canon, fun _ o ho => h.regs o ho.not_egressReg⟩

theorem State.inboxKept_modRound (s : State) (slot round ident n : Nat) (f : RoundAcc → RoundAcc) : InboxKept s (s.modRound slot round ident n f) := by
  obtain ⟨hbeside, -, hinbox, -, -, hregs⟩ := s.modRound_kept slot round ident n f
  exact ⟨hinbox, hbeside.canon, fun _ o _ => congrArg (fun r => Sparse.get regReset r (regHome o)) hregs⟩

/-- Chunks that a RETRACT names, with the runs that hold them. -/
def State.retracted (s : State) (pt slot rank : Nat) (l : List Byte) : List (CascRun × Chunk) :=
  (s.comp.casc.runs.filter fun r => r.pt == pt && r.slot == slot && r.step == u48 l 8).flatMap fun r =>
    (r.recv.filter fun x => x.1 == rank && ctlNames l x.2 && x.2.rev == u8 l 0x14).map fun x => (r, x.2)

/-- Rounds that hold a list that a RETRACT names. -/
def State.retractedLists (s : State) (slot : Nat) (l : List Byte) : List RoundAcc :=
  s.comp.casc.rounds.filter fun a =>
    a.slot == slot && a.step == u48 l 8 && roundHead a.round a.ident == u48 l 0x18 && a.recv.any fun r => r.1 == u8 l 0x15 && r.2.1 == u8 l 0x14

/-- The work that used the retracted chunks is undone, and their runs go on. -/
def State.undoRetracted (s : State) (pt slot rank : Nat) (b : List Byte) (hits : List (CascRun × Chunk)) : State :=
  forEach hits (fun h s =>
    let k := s.cascCtx pt b h.1.step h.1.record h.1.mb h.1.layer slot
    (s.undoChunk k rank h.2).pump k) s

/-- Retracted lists leave their rounds, which go on. -/
def State.dropLists (s : State) (pt slot : Nat) (l : List Byte) (lists : List RoundAcc) : State :=
  forEach lists (fun a s =>
    (s.modRound slot a.round a.ident a.step fun a =>
      { a with recv := a.recv.filter fun r => !(r.1 == u8 l 0x15 && r.2.1 == u8 l 0x14) }).continueRound slot pt a.round a.ident a.step) s

theorem exec_retract (h : CtlArrives s s0 2 slot rank pos pt l rest) : exec .retract s = .next (
    let u := s0.bump (Reg.cascadeGrpRetract slot) 1
    (u.part pt).bed.elim u fun b =>
      let v := u.undoRetracted pt slot rank b (u.retracted pt slot rank l)
      v.dropLists pt slot l (v.retractedLists slot l)) := by
  change execRetract s = _
  unfold execRetract
  rw [State.takeCtl_front h]
  dsimp only
  split
  · next hbed => rw [hbed]; rfl
  · next b hbed => rw [hbed]; rfl

theorem State.inboxKept_undoRetracted (s : State) (pt slot rank : Nat) (b : List Byte) (hits : List (CascRun × Chunk)) :
    InboxKept s (s.undoRetracted pt slot rank b hits) :=
  .forEach _ _ s fun _ u => (u.inboxKept_undoChunk _ _ _).trans (State.inboxKept_pump _ _)

theorem State.inboxKept_dropLists (s : State) (pt slot : Nat) (l : List Byte) (lists : List RoundAcc) : InboxKept s (s.dropLists pt slot l lists) :=
  .forEach _ _ s fun _ u => (u.inboxKept_modRound _ _ _ _ _).trans (State.drives_continueRound _ _ _ _ _ _).inboxKept

/-- RETRACT leaves the messages behind it, and its count is the last word on its register. -/
theorem exec_retract_kept (h : CtlArrives s s0 2 slot rank pos pt l rest) :
    ∃ t, exec .retract s = .next t ∧ InboxKept (s0.bump (Reg.cascadeGrpRetract slot) 1) t := by
  refine ⟨_, exec_retract h, ?_⟩
  extract_lets u
  cases (u.part pt).bed with
  | none => exact .refl u
  | some b => exact (u.inboxKept_undoRetracted pt slot rank b _).trans (State.inboxKept_dropLists _ _ _ _ _)

/-- Where nothing received is named a RETRACT is counted, and no more. -/
theorem exec_retract_unknown (h : CtlArrives s s0 2 slot rank pos pt l rest)
    (hchunks : ∀ r ∈ s.comp.casc.runs, r.pt = pt → r.slot = slot → r.step = u48 l 8 →
      ∀ x ∈ r.recv, ¬(x.1 = rank ∧ ctlNames l x.2 = true ∧ x.2.rev = u8 l 0x14))
    (hlists : ∀ a ∈ s.comp.casc.rounds, a.slot = slot → a.step = u48 l 8 → roundHead a.round a.ident = u48 l 0x18 →
      ∀ r ∈ a.recv, ¬(r.1 = u8 l 0x15 ∧ r.2.1 = u8 l 0x14)) :
    exec .retract s = .next (s0.bump (Reg.cascadeGrpRetract slot) 1) := by
  rw [exec_retract h]
  obtain ⟨-, hruns, hrounds, -⟩ := h.kept
  extract_lets u
  have hhits : u.retracted pt slot rank l = [] := by
    refine List.flatMap_eq_nil_iff.mpr fun r hr => ?_
    obtain ⟨hmem, hrun⟩ := List.mem_filter.mp hr
    simp only [Bool.and_eq_true, beq_iff_eq] at hrun
    obtain ⟨⟨hpt, hslot⟩, hstep⟩ := hrun
    refine List.map_eq_nil_iff.mpr (List.filter_eq_nil_iff.mpr fun x hx hnamed => ?_)
    simp only [Bool.and_eq_true, beq_iff_eq, and_assoc] at hnamed
    exact hchunks r (hruns ▸ hmem) hpt hslot hstep x hx hnamed
  have hgone : u.retractedLists slot l = [] := by
    refine List.filter_eq_nil_iff.mpr fun a ha hnamed => ?_
    simp only [Bool.and_eq_true, beq_iff_eq, List.any_eq_true] at hnamed
    obtain ⟨⟨⟨hslot, hstep⟩, hhead⟩, r, hr, hlist⟩ := hnamed
    exact hlists a (hrounds ▸ ha) hslot hstep hhead r hr hlist
  cases (u.part pt).bed with
  | none => rfl
  | some b =>
    have hundone : u.undoRetracted pt slot rank b (u.retracted pt slot rank l) = u := by rw [hhits]; rfl
    change Host.Outcome.next ((u.undoRetracted pt slot rank b (u.retracted pt slot rank l)).dropLists pt slot l
      ((u.undoRetracted pt slot rank b (u.retracted pt slot rank l)).retractedLists slot l)) = _
    rw [hundone, hgone]
    rfl

/-! ### RECALL (R282) -/

/-- The chunks that a recalled one stands for: itself, and the same bits sent to other members, where they stand. -/
def SentChunk.recalledWith (pt : Nat) (x y : SentChunk) : Bool :=
  y.pt == pt && !y.gone && !y.held && (y == x ||
    (y.chunk.kind == x.chunk.kind && y.chunk.tag == x.chunk.tag && y.chunk.gid == x.chunk.gid && y.chunk.step == x.chunk.step &&
      y.chunk.mb == x.chunk.mb && y.chunk.first == x.chunk.first && y.chunk.count == x.chunk.count && y.chunk.payload == x.chunk.payload))

/-- The next revision of a chunk under an epoch. -/
def Chunk.revise (epoch : Nat) (c : Chunk) : Chunk := { c with rev := (c.rev + 1) % 256, epoch := epoch }

/-- A chunk that has been sent again after a recall. -/
def SentChunk.resend (epoch : Nat) (y : SentChunk) : SentChunk := { y with chunk := y.chunk.revise epoch, confirmed := false, recalls := y.recalls + 1 }

/-- The messages of a recall: a chunk is retracted and sent anew. -/
def State.resendAll (s : State) (slot epoch : Nat) (l : List SentChunk) : State :=
  forEach l (fun y s =>
    (s.cascMsg slot y.dst none (y.chunk.ctl 2 epoch)).cascMsg slot y.dst
      (if (y.chunk.revise epoch).prov then some (y.chunk.revise epoch).step else none) (y.chunk.revise epoch).bytes) s

theorem State.messages_resendAll (s : State) (slot epoch : Nat) (l : List SentChunk) : Messages s (s.resendAll slot epoch l) :=
  .forEach _ _ s fun _ u => (u.messages_cascMsg _ _ _ _).trans (State.messages_cascMsg _ _ _ _ _)

variable {x : SentChunk}

theorem exec_recall (h : CtlArrives s s0 3 slot rank pos pt l rest) (hx : s0.comp.casc.sent.find? (SentChunk.named pt rank l) = some x) :
    exec .recall s = .next (if 2 ≤ x.recalls then s0.abandonStep slot x.chunk.step 2 s0.myPos none
      else
        let all := s0.comp.casc.sent.filter (x.recalledWith pt)
        (s0.resendAll slot (s0.group slot).epoch all).modCasc fun c =>
          { c with sent := c.sent.map fun y => if all.contains y then y.resend (s0.group slot).epoch else y }) := by
  change execRecall s = _
  unfold execRecall
  rw [State.takeCtl_front h]
  dsimp only
  rw [show (s0.comp.casc.sent.find? fun x => x.pt == pt && x.dst == rank && ctlNames l x.chunk && x.chunk.rev == u8 l 0x14) = some x from hx]
  rfl

/-! ### ABANDON (R258, R282) -/

theorem exec_abandon (h : CtlArrives s s0 4 slot rank pos pt l rest) :
    exec .abandon s = .next (s0.abandonStep slot (u48 l 8) (u16 l 0x16) (u32 l 0x10) none) := by
  change execAbandon s = _
  unfold execAbandon
  rw [State.takeCtl_front h]

end

/-! ### SUSPECT (R367) -/

/-- A suspect window of one more notice. -/
def SuspectWin.again (w : SuspectWin) : SuspectWin := { w with count := w.count + 1 }

/-- Suspect windows after a notice about a port: the open one counts, or one opens. -/
def noticed (port now pos kind : Nat) (l : List SuspectWin) : List SuspectWin :=
  if l.any (fun w => w.port == port) then l.map fun w => if w.port == port then w.again else w else l ++ [⟨port, now, 1, pos, kind⟩]

theorem exec_suspect {s s0 : State} {pos pt : Nat} {l : List Byte} {rest : List (Nat × Nat × List Byte)}
    (hs0 : s0 = { s with comp := { s.comp with casc := { s.comp.casc with inbox := rest } } })
    (hin : s.comp.casc.inbox = (pos, pt, l) :: rest) (htyp : isCtl 5 l = true) :
    exec .suspect s = .next ((s0.bump Reg.faultNoticeIn 1).modFault fun f =>
      { f with suspects :=
          noticed (((s0.comp.fab.tx.find? fun f => f.pt == pt && addrPos f.dst == pos).map (·.port)).getD 0) s0.time pos (u16 l 0x16) f.suspects }) := by
  change execSuspect s = _
  unfold execSuspect
  rw [State.takeMsg_front hin htyp, ← hs0]
  refine congrArg Host.Outcome.next ?_
  dsimp -zeta only
  extract_lets u port
  by_cases hopen : u.fault.suspects.any (fun w => w.port == port) = true
  · rw [if_pos hopen]
    exact congrArg (fun w => u.modFault fun f => { f with suspects := w }) (if_pos hopen).symm
  · rw [if_neg hopen]
    exact congrArg (fun w => u.modFault fun f => { f with suspects := w }) (if_neg hopen).symm

/-- Settles O35: each message by its equation; for RETRACT, what undoing and going on leave alone. -/
theorem controlMessages : Obligations.ControlMessages := by
  unfold Obligations.ControlMessages
  intro s s0 slot rank pos pt l rest hcan
  refine ⟨fun h => ?confirm, fun h => ⟨?counts, fun hchunks hlists => ?unknown⟩, fun h x hx => ⟨fun hfew hgone hheld => ?again, fun hmany hst => ?third⟩,
    fun h => ⟨fun hst => ?abandons, fun hst => ?abandoned⟩, fun hin htyp => ?suspect⟩
  case confirm =>
    refine ⟨_, exec_confirm h, ?_⟩
    obtain ⟨rfl, -⟩ := h
    refine ⟨rfl, rfl, fun x hx hpt hdst hnames hrev hgone => List.mem_map.mpr ⟨x, hx, ?_⟩, fun x hx hother => List.mem_map.mpr ⟨x, hx, ?_⟩⟩
    · rw [if_pos]
      rw [SentChunk.named_iff.mpr ⟨hpt, hdst, hnames, hrev⟩, hgone]
      rfl
    · rw [if_neg]
      intro hnamed
      obtain ⟨hnamed, hgone⟩ := Bool.and_eq_true_iff.mp hnamed
      obtain ⟨hpt, hdst, hnames, hrev⟩ := SentChunk.named_iff.mp hnamed
      exact hother ⟨hpt, hdst, hnames, hrev, (Bool.not_eq_true' _).mp hgone⟩
  case counts =>
    obtain ⟨t, hexec, hkept⟩ := exec_retract_kept h
    obtain ⟨hinbox, -, -, -, -, hregs, -, hcan0⟩ := h.kept
    have hcount := hkept.retracts (State.canonical_bump _ _ (hcan0 hcan)) _ (retractHome_of_slot h.slot_lt)
    have hreg : s0.reg (Reg.cascadeGrpRetract slot) = s.reg (Reg.cascadeGrpRetract slot) :=
      congrArg (fun r => (Sparse.get regReset r (regHome _)).toNat) hregs
    exact ⟨t, hexec, hkept.inbox.trans hinbox, hreg ▸ (congrArg BitVec.toNat hcount).trans (State.reg_bump_same _ 1 (hcan0 hcan))⟩
  case unknown =>
    refine ⟨_, exec_retract_unknown h hchunks hlists, ?_⟩
    obtain ⟨rfl, -⟩ := h
    exact ⟨s.sameRegsBut_setReg _ _ hcan, rfl⟩
  case again =>
    obtain ⟨hinbox, -, -, hsent, hgroup, -⟩ := h.kept
    have hexec := exec_recall h (hsent ▸ hx)
    rw [if_neg (Nat.not_le.mpr hfew), hgroup] at hexec
    refine ⟨_, hexec, ?_⟩
    obtain ⟨hpt, hdst, -⟩ := SentChunk.named_iff.mp (List.find?_some hx)
    have hmem : x ∈ s0.comp.casc.sent := hsent ▸ List.mem_of_find?_eq_some hx
    extract_lets all
    have hmsg := s0.messages_resendAll slot (s.group slot).epoch all
    have hall : x ∈ all := List.mem_filter.mpr ⟨hmem, by simp [SentChunk.recalledWith, hpt, hgone, hheld]⟩
    refine ⟨hmsg.inbox.trans hinbox, x.resend (s.group slot).epoch, List.mem_map.mpr ⟨x, hmsg.sent ▸ hmem, ?_⟩, rfl, hdst, rfl, rfl⟩
    exact if_pos (List.contains_iff_mem.mpr hall)
  case third =>
    obtain ⟨-, -, -, hsent, hgroup, -⟩ := h.kept
    have hexec := exec_recall h (hsent ▸ hx)
    rw [if_pos hmany] at hexec
    rw [← hgroup] at hst ⊢
    obtain ⟨habandoned, hepoch, -, -⟩ := State.abandonStep_group hst x.chunk.step 2 s0.myPos none
    exact ⟨_, hexec, habandoned, hepoch⟩
  case abandons =>
    obtain ⟨-, -, -, -, hgroup, -, hmem0, -⟩ := h.kept
    rw [← hgroup] at hst ⊢
    obtain ⟨habandoned, hepoch, -, hmem⟩ := State.abandonStep_group hst (u48 l 8) (u16 l 0x16) (u32 l 0x10) none
    exact ⟨_, exec_abandon h, habandoned, hepoch, fun a => (hmem.1 a).trans (hmem0.1 a), hmem.2.trans hmem0.2⟩
  case abandoned =>
    obtain ⟨-, -, -, -, hgroup, -⟩ := h.kept
    rw [exec_abandon h, State.abandonStep_again (by rw [hgroup, hst])]
  case suspect =>
    intro port
    refine ⟨_, exec_suspect rfl hin htyp, rfl, State.reg_bump_same _ 1 hcan, fun hnone => ?opens, fun v hv hport => ?counts⟩
    case opens =>
      refine if_neg fun hopen => ?_
      obtain ⟨v, hv, hport⟩ := List.any_eq_true.mp hopen
      exact hnone v hv (beq_iff_eq.mp hport)
    case counts =>
      have hopen : s.fault.suspects.any (fun w => w.port == port) = true := List.any_eq_true.mpr ⟨v, hv, beq_iff_eq.mpr hport⟩
      have hall : noticed port s.time pos (u16 l 0x16) s.fault.suspects =
          s.fault.suspects.map fun w => if w.port == port then w.again else w := if_pos hopen
      change v.again ∈ noticed port s.time pos (u16 l 0x16) s.fault.suspects
      rw [hall]
      exact List.mem_map.mpr ⟨v, hv, if_pos (beq_iff_eq.mpr hport)⟩

end Sys2Proof.Machine
end
